-- ==== Sys2Proof/Word.lean ====
section
/-! DEFINITION. The word types of the Brynlis B2 and their plainest arithmetic (00_scope R2, R9, R10). -/

namespace Sys2Proof

/-- A byte of memory. -/
abbrev Byte := BitVec 8
/-- A 16-bit halfword of code (R41). -/
abbrev Half := BitVec 16
/-- A 64-bit register value. -/
abbrev Word := BitVec 64
/-- A `g` register number of a chain, 7 bits (R50). -/
abbrev GReg := BitVec 7

end Sys2Proof
end

