-- ==== Sys2Proof/Config.lean ====
section
/-! DEFINITION. What an implementation fixes, and the free values: constants without a body, so that no proof can lean on
what they are (notes/assumptions/8.md, notes/assumptions/22.md). -/

namespace Sys2Proof.Config

/-- A free choice where the spec allows either course (22_link R455: a write to a failed module performed or not; 06_memory R157: bytes beyond
DONE written or not). It is applied to a counter of the state, so that each use is its own. -/
opaque freeBool : Nat → Bool

/-- The DUR field of a translated booking template whose duration does not fit its 12 bits (14_package R284, 15_calendar R306), from the
duration: the spec states none. -/
opaque overlongDuration : Nat → BitVec 12

/-- The digest of the vendor key, fused at manufacture (24_bringup R481). -/
opaque vendorKey : BitVec 256

/-- The public modulus of a module's identity key, made at manufacture (24_bringup R483). -/
opaque identityModulus : Nat

/-- The private exponent of that key (24_bringup R483). -/
opaque identityExponent : Nat

/-- The fabric timeout, 2^22 cycles (01_machine R29). -/
def fabricTimeout : Nat := 4194304

/-- Cores of a module (01_machine R16). -/
def coresPerModule : Nat := 8192

/-- Cores of a die (01_machine R16). -/
def coresPerDie : Nat := 1024

/-- Clusters of a module (01_machine R16). -/
def clustersPerModule : Nat := 512

/-- Register-file entries of a core (04_context R74). -/
def rfEntries : Nat := 2048

/-- Bytes of a scratchpad: 576 KiB (01_machine R23). -/
def scratchBytes : Nat := 0x90000

/-- Bytes of a core's populated DRAM slice: 192 MiB (01_machine R24). -/
def sliceBytes : Nat := 0xC000000

/-- The tensor record area of a slice starts here (21_tensor R425). -/
def recordArea : Nat := 0xBC00000

/-- The memory key of DRAM physical address 0: scratch keys are 41-bit global addresses, DRAM keys lie above them
(notes/assumptions/13.md). -/
def dramKey : Nat := 2 ^ 49

end Sys2Proof.Config
end

