-- ==== Sys2Proof/Syntax.lean ====
section
/-! DEFINITION. The instructions: one constructor for each row of spec/opcode_table.json. The first part holds the
forms of the opcode map (02_formats R58, R59) with their operands as the decoder reads them; the second part holds the
part's other steps, which the same table lists as rows without an encoding. -/

namespace Sys2Proof

/-- Rounding modes of R47 (field RND). -/
inductive Rnd where
  | rne | rtz | rup | rdn | rna
deriving DecidableEq, Repr

/-- Integer types of R112. -/
inductive ITy where
  | s64 | s32 | s16 | s8 | z64 | z32 | z16 | z8
deriving DecidableEq, Repr

/-- Conditions of CMP, CMPI and VCMP (R125, R375). -/
inductive Cond where
  | eq | ne | lt | ge | le | gt
deriving DecidableEq, Repr

/-- Tests of SEL, and of BR variants 0 to 5 (R126, R131). -/
inductive Test where
  | nz | z | neg | nneg | pos | npos
deriving DecidableEq, Repr

/-- The variants of BR (R131). -/
inductive BrTest where
  | test (t : Test) | full | empty
deriving DecidableEq, Repr

/-- Kinds of shift of SHI (R122). -/
inductive ShKind where
  | shl | shr | sar | rot
deriving DecidableEq, Repr

/-- Kinds of LD and LDP (R148): a value of an integer type, or a whole sector. -/
inductive LdKind where
  | val (t : ITy) | sec
deriving DecidableEq, Repr

/-- Kinds of ST and STP (R148). -/
inductive StKind where
  | b64 | b32 | b16 | b8 | sec
deriving DecidableEq, Repr

/-- Pointer modes of LDP and STP (R148). -/
inductive PMode where
  | keep | inc | dec
deriving DecidableEq, Repr

/-- Operations of ATOM (R151). -/
inductive AtomOp where
  | add | and | or | xor | min | max | swap | cas
deriving DecidableEq, Repr

/-- Types of ATOM (R151). -/
inductive AtomTy where
  | s64 | s32 | z64 | z32
deriving DecidableEq, Repr

/-- Element types of the vector forms (R361). -/
inductive ETy where
  | f32 | f16 | bf16 | e4m3 | e5m2 | e2m1 | s8 | s16 | s32 | s64 | z8 | z16 | z32 | z64
deriving DecidableEq, Repr

/-- Target formats of VQNT and VDQNT (R378). -/
inductive QFmt where
  | e4m3 | e5m2 | e2m1 | s8
deriving DecidableEq, Repr

/-- Operations of VRED and VSCAN (R380, R381). -/
inductive RedOp where
  | add | min | max
deriving DecidableEq, Repr

/-- Functions of VSFU (R385). -/
inductive SfuFn where
  | rcp | rsqrt | sqrt | exp2 | log2 | sinpi | cospi | tanh | sigm
deriving DecidableEq, Repr

/-- Operations of VMSK (R386). -/
inductive MskOp where
  | and | or | xor | andn | not
deriving DecidableEq, Repr

/-- Scopes of TLBINV (R181, M). -/
inductive TlbScope where
  | addr | all | every
deriving DecidableEq, Repr

/-- Levels of ENQ (R232, M). -/
inductive EnqLevel where
  | core | clu | die
deriving DecidableEq, Repr

/-- What TASKID reads (R240, M). -/
inductive TaskIdSel where
  | tid | info | join
deriving DecidableEq, Repr

/-- The memory operand `[sgB + gC + imm]` (R42); the displacement is sign-extended to 36 bits, the widest it can be (R51). -/
structure MemOp where
  sg : BitVec 3
  idx : GReg
  disp : BitVec 36
deriving DecidableEq, Repr

/-- What every page-1 chain carries besides its operands: S, X, and the mask and type of M (R361, R362). -/
structure VHdr where
  sw : Bool
  rnd : Rnd
  nsat : Bool
  ty : ETy
  mask : BitVec 2
deriving DecidableEq, Repr

/-- The source of VBCAST (R382): a lane of a row, or a register. -/
inductive BcSrc where
  | lane (c : BitVec 3) (k : BitVec 8)
  | reg (b : GReg)
deriving DecidableEq, Repr

/-- The variants of VMOVM (R387). -/
inductive MovmOp where
  | put (m : BitVec 2) (b : GReg)
  | get (a : GReg) (m : BitVec 2)
  | cnt (a : GReg) (m : BitVec 2)
deriving DecidableEq, Repr

/-! ### What the steps without an encoding carry -/

/-- The fault names of R12. -/
inductive Cause where
  | undefinedInstruction | illegalChain | registerWindow | privileged | segmentBounds | segmentRights | misaligned
  | pageDenied | reservedValue | loopLimit | calendarViolation | overrun | poisoned | remoteFailure | engineCommand
  | gangMember | handleInvalid | breakpoint
deriving DecidableEq, Repr

/-- What an access does at its bank (R149, R151, R152, R163 to R165, R235, R239). `regs` are the registers that the
result writes, in order. -/
inductive AccOp where
  | load (k : LdKind) (regs : List Nat)
  | store (bs : List (BitVec 8))
  | atom (op : AtomOp) (ty : AtomTy) (reg : Nat) (x y : Word)
  | mwait (reg : Nat) (x : Word)
  | join (reg : Nat)
  | depnew (reg : Nat)
  | deppub (reg : Nat) (n : Nat)
  | signal (reg : Nat)
  | stepLoad (reg : Nat) (last : Bool)          -- a read step of LDMB or BLKCP (R163, R164)
  | stepCrc (reg : Nat) (crc : Nat) (last : Bool)  -- a step of CRCB (R165)
  | stepStore (v : Nat) (last : Bool)           -- a write step of STMB or BLKCP
  | probe (reg : Nat)             -- PGPROBE (R180)
  | enq (reg : Nat) (level : EnqLevel)          -- the record of ENQ (R238)
  | fork (reg : Nat) (entry : BitVec 768)       -- the join word and the push of FORK (R234)
  | ckptHead                                    -- the header of a live-range table (R258)
  | ckptBody (n : Nat)                          -- and its entries (R259)
  | vrow (w : Bool)                             -- a row or an element of a vector form, read or written (R371)
  | hnew (reg q0 q2 q3 : Nat)                   -- a home record made by HNEW, its quadwords without the generation (R436)
  | hindir (a b h : Nat) (send : Option Nat)    -- the indirection step of HCOPY, or of the HSEND that owes a status (R437, R440)
  | hbind (reg cell h0 h n : Nat)               -- HBIND of h0, after n reads, at the record of h (R439)
  | haddr (reg m h0 h n base len : Nat) (virt : Bool)  -- HADDR of h0, after n reads, at the record of h (R441)
  | tret (h r : Nat)                            -- a return of r scruples under h (R432)
  | bitmap (mc : Bool) (reg w : Nat)            -- the bitmap of MCW, or of RSLOT, with its operand word (R462, R466)
  | redw (reg : Nat)                            -- a wait for a reduction slot (R468)
  | call (digest : BitVec 256) (bs : List (BitVec 8))  -- the frame that CALLD writes once its lookup hits (R276)
  | frame                                       -- the frame that RET reads (R277)
  | retTo (v : Nat)                             -- and its lookup, with the bytes of the frame
deriving DecidableEq, Repr

/-- One piece of an access: a key of memory (scratch address, or 2^49 + DRAM physical address) and its bytes, at a byte
offset of the access, with the TAG of the leaf it was reached through, 0 for none (R412). -/
structure Piece where
  key : Nat
  len : Nat
  off : Nat
  leaf : Nat := 0
deriving DecidableEq, Repr

/-- An access on its way (R143 to R146, R449): who asked, what, where, and the identity and grant group it carries. -/
structure Acc where
  txn : Nat
  core : Nat
  slot : Nat
  op : AccOp
  relaxed : Bool
  virt : Bool
  addr : Nat                      -- scratch global address, or the 72-bit virtual address
  size : Nat
  pieces : List Piece             -- empty until translated
  seg : Nat                       -- segment number and offset of the chain's operand (R237)
  off : Nat
  tenant : Nat
  svc : Bool
  otag : Nat
  gset : Nat
  prin : Nat
  group : Nat                     -- group of the grant word carried (R418)
  sent : Nat                      -- the cycle in which it leaves the port
  gword : BitVec 64 := 0          -- the grant word carried: that group's bits of the requester's set as it left (R418)
deriving DecidableEq, Repr

/-- What an access answers: its value, given or to be made from what its banks found in its pieces (R140), with the addresses and tags of the denied sectors that the requester still reports
(R142, R418); a monitor armed, or a timed wake (R152); the tag of a sector whose grant the request did not carry (R418); a
fault; a remote failure with its cause of R455 and the target core. -/
inductive AccRes where
  | data (v : Nat) (denied : List (Nat × Nat))
  | pieces
  | armed
  | timed (denied : List (Nat × Nat))
  | tag (t : Nat)
  | fail (c : Cause) (sub : Nat) (frb : Nat)
  | remote (cause : Nat) (core : Nat)
deriving DecidableEq, Repr

/-- A register message (R87 to R89, R463): `txn` names the status it owes; `mc` marks a multicast copy; `handle` the
half that an HSEND sends (R440). -/
structure Msg where
  txn : Nat
  core : Nat
  slot : Nat
  reg : Nat
  val : Word
  tenant : Nat
  sender : Nat
  senderSlot : Nat
  svc : Bool
  mc : Bool
  handle : Bool
deriving DecidableEq, Repr

/-- A place in the matrix state where an uncorrectable error stands (R389). -/
inductive EccSite where
  | latch (b : Bool) (row : Nat)
  | entry (tile row col : Nat)
  | sector (key : Nat)        -- a check of R38 fails as the sector is handed over
  | corrected (place : Nat)   -- a single-bit error is corrected: 0 DRAM, 1 scratchpad, 2 latch or accumulator, 4 a link inside the module
  | image (entry : Nat)       -- a check of R38 fails for an image on its way to an entry of the code store of the core's cluster
deriving DecidableEq, Repr

/-- Scope of a barrier channel (R196). -/
inductive BarScope where
  | core | clu
deriving DecidableEq, Repr

/-- Kinds of arrival at a barrier channel (R200). -/
inductive BarKind where
  | wait | arr | fmax | imax
deriving DecidableEq, Repr

/-- A deque entry on its way to a thief (R231, R241). -/
structure StolenEntry where
  entry : BitVec 768
  victim : Nat
deriving DecidableEq, Repr

/-- What a finished task leaves to retire (R236, R237). -/
structure RetireJob where
  core : Nat
  slot : Nat
  tenant : Nat
  joina : Nat
  succn : Nat
  slist : Nat
  paired : Bool
  half : Nat
  run : Nat
  tid : Nat
  sig : BitVec 64
  trec : BitVec 1024
deriving DecidableEq, Repr

/-- A container offered by a peer or found in the NVMe store, as its bytes (R288). -/
structure Offer where
  bytes : List (BitVec 8)
deriving DecidableEq, Repr

/-- Requests of the operator over the management path (R469). -/
inductive OperatorReq where
  | createTenant (tenant : Nat)
  | setPrincipal (tenant : Nat) (prin otag : Nat) (grants : BitVec 4096)
  | setAnchors (tenant : Nat) (signers : List (BitVec 256))
  | setPeers (tenant : Nat) (peers : List Nat)
  | setStore (tenant : Nat) (containers : List (List (BitVec 8)))
  | readMap (session : Nat)
deriving DecidableEq, Repr

/-- A launch request message (R471), as its 128 bytes. -/
abbrev LaunchMsg := BitVec 1024

/-- How a training attempt or a lane loss leaves an uplink (R451). -/
abbrev Lanes := Nat

/-- The readings a thermal or power control step acts on (R486). -/
structure ThermalReading where
  hotDie : Nat
  junctionTenthsC : Nat
  powerMilliW : Nat
deriving DecidableEq, Repr

/-- What a step without an encoding acts on; each step's meaning says which of these it takes. -/
inductive Arg where
  | none
  | nats (l : List Nat)
  | acc (a : Acc) (n : Nat)
  | accRes (a : Acc) (r : AccRes)
  | msg (m : Msg) (n : Nat)
  | ecc (core : Nat) (site : EccSite)
  | words (l : List Nat) (ws : List Word)
  | recs (l : List Nat) (rs : List (BitVec 1024 × List Nat))
  | stolen (l : List Nat) (e : Option (BitVec 768))
  | retire (j : RetireJob)
  | blob (l : List Nat) (b : List (BitVec 8))
  | blobs (a b : Option (List (BitVec 8)))
  | digest (l : List Nat) (d : Option (BitVec 256))
  | pipe (core ep : Nat) (data : List (BitVec 8)) (tags : List Nat)
  | thermal (l : List ThermalReading)
  | operator (r : OperatorReq)
  | launch (tenant : Nat) (msg : LaunchMsg)
deriving DecidableEq, Repr

/-- The instructions of the Brynlis B2: one constructor for each row of spec/opcode_table.json. A chain form carries its
operands; what a step without an encoding acts on stands beside it in the state, as an `Arg`. -/
inductive Instr where
  -- page 0: scalar (05_scalar R113 to R135); `sw` is the switch marker S (R41)
  | nop (sw : Bool)
  | mov (sw : Bool) (a b : GReg)
  | movWc (sw : Bool) (a : BitVec 4) (b : GReg)
  | movRc (sw : Bool) (a : GReg) (b : BitVec 4)
  | movRlc (sw : Bool) (a : GReg) (b : Fin 3)
  | li (sw : Bool) (a : GReg) (imm : BitVec 40)
  | lih (sw : Bool) (a : GReg) (imm : BitVec 40)
  | add (sw : Bool) (t : ITy) (a c b : GReg)
  | sub (sw : Bool) (t : ITy) (a c b : GReg)
  | addi (sw : Bool) (t : ITy) (a c : GReg) (imm : BitVec 40)
  | mul (sw : Bool) (t : ITy) (a c b : GReg)
  | mulh (sw : Bool) (t : ITy) (a c b : GReg)
  | div (sw : Bool) (t : ITy) (a c b : GReg)
  | rem (sw : Bool) (t : ITy) (a c b : GReg)
  | and (sw : Bool) (a c b : GReg)
  | or (sw : Bool) (a c b : GReg)
  | xor (sw : Bool) (a c b : GReg)
  | andn (sw : Bool) (a c b : GReg)
  | shl (sw : Bool) (a c b : GReg)
  | shr (sw : Bool) (a c b : GReg)
  | sar (sw : Bool) (a c b : GReg)
  | shi (sw : Bool) (k : ShKind) (a c : GReg) (imm : BitVec 13)
  | rot (sw : Bool) (a c b : GReg)
  | clz (sw : Bool) (a b : GReg)
  | popc (sw : Bool) (a b : GReg)
  | min (sw : Bool) (t : ITy) (a c b : GReg)
  | max (sw : Bool) (t : ITy) (a c b : GReg)
  | cmp (sw : Bool) (k : Cond) (t : ITy) (a c b : GReg)
  | cmpi (sw : Bool) (k : Cond) (t : ITy) (a c : GReg) (imm : BitVec 40)
  | sel (sw : Bool) (k : Test) (a c b : GReg)
  | ext (sw : Bool) (t : ITy) (a b : GReg)
  | bfx (sw : Bool) (sgn : Bool) (a c : GReg) (imm : BitVec 13)
  | bfi (sw : Bool) (a c : GReg) (imm : BitVec 13)
  | lea (sw : Bool) (hi : Bool) (a : GReg) (m : MemOp)
  | br (sw : Bool) (k : BrTest) (a : GReg) (imm : BitVec 40)
  | jmp (sw : Bool) (imm : BitVec 40)
  | jmpr (sw : Bool) (b : GReg)
  | calld (sw : Bool) (imm : BitVec 22)
  | ret (sw : Bool)
  | loop (sw : Bool) (lc : Fin 3) (b : GReg) (imm : BitVec 9)
  -- memory (06_memory R147 to R154)
  | ld (sw : Bool) (k : LdKind) (rx : Bool) (a : GReg) (m : MemOp)
  | st (sw : Bool) (k : StKind) (rx : Bool) (a : GReg) (m : MemOp)
  | ldp (sw : Bool) (k : LdKind) (md : PMode) (a : GReg) (p : BitVec 3)
  | stp (sw : Bool) (k : StKind) (md : PMode) (a : GReg) (p : BitVec 3)
  | atom (sw : Bool) (op : AtomOp) (t : AtomTy) (rx : Bool) (a : GReg) (m : MemOp)
  | fence (sw : Bool) (imm : BitVec 13)
  -- context (04_context)
  | send (sw : Bool) (a c b : GReg)
  | take (sw : Bool) (a b : GReg)
  | clrf (sw : Bool) (a : GReg)
  | mwait (sw : Bool) (a : GReg) (m : MemOp)
  | srr (sw : Bool) (a : GReg) (n : BitVec 7)
  | srw (sw : Bool) (n : BitVec 7) (b : GReg)
  | epush (sw : Bool) (e : BitVec 3) (b : GReg)
  | epop (sw : Bool) (a : GReg) (e : BitVec 3)
  | trap (sw : Bool) (a : GReg) (n : BitVec 13)
  | brk (sw : Bool) (n : BitVec 4)
  | yield (sw : Bool)
  | quit (sw : Bool)
  | spawn (sw : Bool) (a c b : GReg)
  -- barrier (09_barrier R200); `clu` is the scope
  | bar (sw : Bool) (clu : Bool) (a : GReg) (ch : BitVec 4)
  | barArr (sw : Bool) (clu : Bool) (ch : BitVec 4)
  | barWt (sw : Bool) (clu : Bool) (a : GReg) (ch : BitVec 4)
  | barFmax (sw : Bool) (clu : Bool) (a : GReg) (ch : BitVec 4)
  | barImax (sw : Bool) (clu : Bool) (a : GReg) (ch : BitVec 4)
  | barArm (sw : Bool) (clu : Bool) (a : GReg) (ch : BitVec 4)
  | ckpt (sw : Bool) (m : MemOp)
  | pmov (sw : Bool) (p : BitVec 3) (b : GReg)
  | pmovGet (sw : Bool) (a : GReg) (p : BitVec 3)
  -- page 1: vector (18_vector R364)
  | vadd (h : VHdr) (a c b : BitVec 3)
  | vsub (h : VHdr) (a c b : BitVec 3)
  | vmul (h : VHdr) (a c b : BitVec 3)
  | vfma (h : VHdr) (a c b : BitVec 3)
  | vfms (h : VHdr) (a c b : BitVec 3)
  | vmin (h : VHdr) (a c b : BitVec 3)
  | vmax (h : VHdr) (a c b : BitVec 3)
  | vabs (h : VHdr) (a c : BitVec 3)
  | vneg (h : VHdr) (a c : BitVec 3)
  | vand (h : VHdr) (a c b : BitVec 3)
  | vor (h : VHdr) (a c b : BitVec 3)
  | vxor (h : VHdr) (a c b : BitVec 3)
  | vnot (h : VHdr) (a c : BitVec 3)
  | vshl (h : VHdr) (a c b : BitVec 3)
  | vshr (h : VHdr) (a c b : BitVec 3)
  | vsar (h : VHdr) (a c b : BitVec 3)
  | vcmp (h : VHdr) (k : Cond) (a : BitVec 2) (c b : BitVec 3)
  | vsel (h : VHdr) (a c b : BitVec 3)
  | vcvt (h : VHdr) (tgt : ETy) (part : BitVec 3) (a c : BitVec 3)
  | vqnt (h : VHdr) (tgt : QFmt) (part : BitVec 3) (a c b : BitVec 3)
  | vdqnt (h : VHdr) (frm : QFmt) (part : BitVec 3) (a c b : BitVec 3)
  | vred (h : VHdr) (op : RedOp) (a c : BitVec 3)
  | vscan (h : VHdr) (op : RedOp) (excl : Bool) (a c : BitVec 3)
  | vbcast (h : VHdr) (a : BitVec 3) (src : BcSrc)
  | viota (h : VHdr) (a : BitVec 3)
  | vperm (h : VHdr) (a c b : BitVec 3)
  | vgath (h : VHdr) (a b : BitVec 3) (sg : BitVec 3)
  | vscat (h : VHdr) (a b : BitVec 3) (sg : BitVec 3)
  | vsfu (h : VHdr) (f : SfuFn) (a c : BitVec 3)
  | vmsk (sw : Bool) (op : MskOp) (a c b : BitVec 2)
  | vmovm (sw : Bool) (op : MovmOp)
  | vdot (h : VHdr) (a c b : BitVec 3)
  | vclamp (h : VHdr) (a c b : BitVec 3)
  | vamax (h : VHdr) (a c : BitVec 3)
  -- page 2: matrix (19_matrix R391)
  | mgath (sw : Bool) (toB : Bool) (b : GReg)
  | mald (sw : Bool) (b : GReg)
  | mbld (sw : Bool) (b : GReg)
  | mma (sw : Bool) (g z cq : Bool) (acc : BitVec 2) (ks : BitVec 4)
  | mzero (sw : Bool) (f32 cq : Bool) (acc : BitVec 2)
  | mrd (sw : Bool) (rnd : Rnd) (nsat : Bool) (acc : BitVec 2) (b : GReg)
  | mwr (sw : Bool) (acc : BitVec 2) (b : GReg)
  | mscl (sw : Bool) (toB : Bool) (b : GReg)
  | mstat (sw : Bool) (a : GReg)
  | baddq (sw : Bool) (rnd : Rnd) (acc : BitVec 2) (b : GReg)
  -- page 3: memory and system
  | segw (sw : Bool) (a : BitVec 3) (b : GReg)
  | segr (sw : Bool) (a : GReg) (b : BitVec 3)
  | segrHi (sw : Bool) (a : GReg) (b : BitVec 3)
  | pgprobe (sw : Bool) (a : GReg) (m : MemOp)
  | tlbinv (sw : Bool) (k : TlbScope) (a b : GReg)
  | codeinv (sw : Bool) (a b : GReg)
  | codeinvAll (sw : Bool) (a : GReg)
  | fbegin (sw : Bool) (imm : BitVec 31)
  | fcommit (sw : Bool)
  | fabort (sw : Bool)
  | spill (sw : Bool) (a b : GReg)
  | spillHold (sw : Bool) (a b : GReg)
  | spillRel (sw : Bool) (a b : GReg)
  | spillBase (sw : Bool) (a b : GReg)
  | spillCkpt (sw : Bool) (a b : GReg)
  | csave (sw : Bool) (a b : GReg)
  | cload (sw : Bool) (a b : GReg)
  -- page 4: tasks (11_queue R232)
  | fork (sw : Bool) (a c b : GReg)
  | join (sw : Bool) (a : GReg) (m : MemOp)
  | depnew (sw : Bool) (a : GReg) (m : MemOp)
  | deppub (sw : Bool) (a : GReg) (m : MemOp)
  | signal (sw : Bool) (rx : Bool) (a : GReg) (m : MemOp)
  | enq (sw : Bool) (l : EnqLevel) (a : GReg) (m : MemOp)
  | taskid (sw : Bool) (k : TaskIdSel) (a : GReg)
  | steal (sw : Bool) (a b : GReg)
  -- page 5: calendar, gang, tensor (R322, R334, R340, R435)
  | book (sw : Bool) (a b : GReg)
  | bkq (sw : Bool) (a b : GReg)
  | bkqWt (sw : Bool) (a b : GReg)
  | bkcan (sw : Bool) (a b : GReg)
  | bkend (sw : Bool)
  | gang (sw : Bool) (a b : GReg)
  | gangCancel (sw : Bool) (a b : GReg)
  | pipew (sw : Bool) (a : GReg) (ep : BitVec 4)
  | piper (sw : Bool) (a : GReg) (ep : BitVec 4)
  | piperDone (sw : Bool) (ep : BitVec 4)
  | hnew (sw : Bool) (a b : GReg)
  | hcopy (sw : Bool) (a b : GReg)
  | hdrop (sw : Bool) (a : GReg)
  | hdropLost (sw : Bool) (a : GReg)
  | hbind (sw : Bool) (a b : GReg)
  | hsend (sw : Bool) (a c b : GReg)
  | haddr (sw : Bool) (a c : GReg) (sg : BitVec 3)
  | haddrLen (sw : Bool) (a c : GReg)
  | haddrWt (sw : Bool) (a c : GReg)
  -- page 6: fabric (22_link)
  | mcw (sw : Bool) (a b : GReg)
  | mcsend (sw : Bool) (a c b : GReg)
  | rslot (sw : Bool) (a b : GReg)
  | redc (sw : Bool) (a c b : GReg)
  | redw (sw : Bool) (a b : GReg)
  | lnkst (sw : Bool) (a b : GReg)
  | lnkstCtl (sw : Bool) (a b : GReg)
  -- page 15: deprecated B1 forms (R162); `k` is K - 1
  | ldmb (sw : Bool) (k : BitVec 4) (a : GReg) (m : MemOp)
  | stmb (sw : Bool) (k : BitVec 4) (a : GReg) (m : MemOp)
  | blkcp (sw : Bool) (a : GReg) (m : MemOp)
  | crcb (sw : Bool) (a : GReg) (m : MemOp)
  -- steps without an encoding; what a step acts on stands in the state, as an `Arg`
  | vectorRowWrite
  | gatherElementReply
  | sfuRequestDone
  | matrixLoadExec
  | mmaGangStart
  | mmaExec
  | mrdExec
  | mwrExec
  | mzeroExec
  | msclExec
  | baddqExec
  | latchEccError
  | tlbinvComplete
  | codeinvComplete
  | fcommitDecision
  | coreImageComplete
  | mcwComplete
  | mcsendResult
  -- memory ports and messages
  | plainAccessReply
  | relaxedLoadResult
  | storeAcknowledge
  | tagRetryRequest
  | sendArrival
  | sendStatus
  | overflowDelivery
  | monitorWake
  | mwaitTimedWake
  | yieldExpiry
  | ageingPromotion
  | coreModeSet
  | fenceComplete
  | copyCommandStart
  | copyCommandComplete
  | tlbWalkComplete
  | pageWakeRetry
  | pageWakeDeny
  | fabricTimeout
  | remoteFailureReport
  -- barriers
  | barrierArmApplied
  | barrierArrivalAtNode
  | barrierRelease
  | barrierDeparture
  -- queues
  | corePeckRequest
  | corePeckArrival
  | clusterPeckRequest
  | clusterPeckArrival
  | dieQueueEnlarge
  | dispatcherStart
  | taskReady
  | grantSetLoadComplete
  | stealRequest
  | stealReply
  | stealWalkWaitExpiry
  | taskRetire
  | pairedCompare
  | cellReleaseInsert
  -- pre-emption
  | contextSpill
  | spillComplete
  | forwardProgressSpill
  | contextRestore
  | restoreComplete
  | checkpointSave
  | checkpointRestore
  | brsResume
  | brsDiscard
  -- code
  | codeMissRetry
  | codeFetchReply
  | codeInstall
  | codeNoSource
  | brsCodeSearch
  | peerContainerReply
  | residentTranslation
  | packageLoadRequest
  | packageUnloadRequest
  | packageUnloadComplete
  | graphLaunch
  -- calendar
  | bookingDecision
  | stagingBegin
  | stagingStepRetry
  | bookingStart
  | bookingSlip
  | slackGrain
  | bookingOverrun
  -- gangs and pipes
  | gangJoinAtNode
  | gangRelease
  | gangMemberFault
  | pipeEntryArrival
  | pipeFreeReport
  -- tensors
  | tensorReturn
  | deathAction
  | returnReply
  -- fabric
  | multicastCopyArrival
  | reductionContribution
  | reductionSlotTimeout
  | reductionSlotExpiry
  | redwResult
  | headerFlitRefused
  | dataFlitPoisoned
  | linkDown
  | laneLost
  | linkRetrainTimer
  | linkTrainingDone
  | linkTrainingTimeout
  | downNotice
  | upNotice
  -- background work
  | dramRefreshGrain
  | scratchpadScrubGrain
  | linkCalibrationGrain
  -- service
  | launchRequest
  | trapReply
  | eventForward
  | tenantAcknowledge
  | clusterAllocation
  | clusterClear
  | tenantDeletion
  | attestationRequest
  | nvmeReadComplete
  -- start-up and management
  | powerOnReset
  | i3cReset
  | modnum
  | moduleNumberWaitExpiry
  | bootFirmwareVerify
  | bootDramTrain
  | bootUplinkTrain
  | bootKMapLock
  | bootBrsVerify
  | bootRelease
  | thermalThrottle
  | thermalHalt
  | telemetrySample
  | remoteAccessAtBank
  | spawnArrival
  | ownUplinksDown
  | operatorRequest
  | ultraEthernetSessionOpen
deriving DecidableEq, Repr

end Sys2Proof
end

