-- ==== Sys2Proof/WellFormed.lean ====
section
/-! DEFINITION. The full form of an instruction (03_notation R66), the codes of its modifiers, and the check that an
instruction is one that a chain of at most four prefixes carries (02_formats R44, R47 to R51, R57). -/

namespace Sys2Proof

/-! ### Codes of the modifiers -/

/-- RND (R47). -/
def Rnd.code : Rnd → Nat
  | .rne => 0 | .rtz => 1 | .rup => 2 | .rdn => 3 | .rna => 4

/-- The integer type code (R112). -/
def ITy.code : ITy → Nat
  | .s64 => 0 | .s32 => 1 | .s16 => 2 | .s8 => 3 | .z64 => 4 | .z32 => 5 | .z16 => 6 | .z8 => 7

/-- The condition code (R125, R375). -/
def Cond.code : Cond → Nat
  | .eq => 0 | .ne => 1 | .lt => 2 | .ge => 3 | .le => 4 | .gt => 5

/-- The test code (R126, R131). -/
def Test.code : Test → Nat
  | .nz => 0 | .z => 1 | .neg => 2 | .nneg => 3 | .pos => 4 | .npos => 5

/-- M of BR (R131). -/
def BrTest.code : BrTest → Nat
  | .test t => t.code | .full => 6 | .empty => 7

/-- M of SHI (R122). -/
def ShKind.code : ShKind → Nat
  | .shl => 0 | .shr => 1 | .sar => 2 | .rot => 3

/-- Kind of a load (R148). -/
def LdKind.code : LdKind → Nat
  | .val t => t.code | .sec => 8

/-- Kind of a store (R148). -/
def StKind.code : StKind → Nat
  | .b64 => 0 | .b32 => 1 | .b16 => 2 | .b8 => 3 | .sec => 8

/-- Mode of LDP and STP (R148). -/
def PMode.code : PMode → Nat
  | .keep => 0 | .inc => 1 | .dec => 2

/-- Operation of ATOM (R151). -/
def AtomOp.code : AtomOp → Nat
  | .add => 0 | .and => 1 | .or => 2 | .xor => 3 | .min => 4 | .max => 5 | .swap => 6 | .cas => 7

/-- Type of ATOM (R151). -/
def AtomTy.code : AtomTy → Nat
  | .s64 => 0 | .s32 => 1 | .z64 => 2 | .z32 => 3

/-- Element type (R361). -/
def ETy.code : ETy → Nat
  | .f32 => 0 | .f16 => 1 | .bf16 => 2 | .e4m3 => 3 | .e5m2 => 4 | .e2m1 => 5
  | .s8 => 6 | .s16 => 7 | .s32 => 8 | .s64 => 9 | .z8 => 10 | .z16 => 11 | .z32 => 12 | .z64 => 13

/-- Lanes of a row (R361). -/
def ETy.lanes : ETy → Nat
  | .f32 => 32 | .f16 => 64 | .bf16 => 64 | .e4m3 => 128 | .e5m2 => 128 | .e2m1 => 256
  | .s8 => 128 | .s16 => 64 | .s32 => 32 | .s64 => 16 | .z8 => 128 | .z16 => 64 | .z32 => 32 | .z64 => 16

/-- Bits of a lane (R361). -/
def ETy.bits (t : ETy) : Nat := 1024 / t.lanes

/-- The float types F of R361. -/
def ETy.isF : ETy → Bool
  | .f32 => true | .f16 => true | .bf16 => true | _ => false

/-- The block types of R361. -/
def ETy.isBlock : ETy → Bool
  | .e4m3 => true | .e5m2 => true | .e2m1 => true | _ => false

/-- The integer types I of R361. -/
def ETy.isI (t : ETy) : Bool := !t.isF && !t.isBlock

/-- Selector code of a quantised format (R378). -/
def QFmt.code : QFmt → Nat
  | .e4m3 => 3 | .e5m2 => 4 | .e2m1 => 5 | .s8 => 6

/-- Element bits of a quantised format (R378). -/
def QFmt.bits : QFmt → Nat
  | .e2m1 => 4 | _ => 8

/-- Selector of VRED and VSCAN (R380, R381). -/
def RedOp.code : RedOp → Nat
  | .add => 0 | .min => 1 | .max => 2

/-- Selector of VSFU (R385). -/
def SfuFn.code : SfuFn → Nat
  | .rcp => 1 | .rsqrt => 2 | .sqrt => 3 | .exp2 => 4 | .log2 => 5 | .sinpi => 6 | .cospi => 7 | .tanh => 8 | .sigm => 9

/-- Selector of VMSK (R386). -/
def MskOp.code : MskOp → Nat
  | .and => 0 | .or => 1 | .xor => 2 | .andn => 3 | .not => 4

/-- M of TLBINV (R181). -/
def TlbScope.code : TlbScope → Nat
  | .addr => 0 | .all => 1 | .every => 2

/-- M of ENQ (R232). -/
def EnqLevel.code : EnqLevel → Nat
  | .core => 0 | .clu => 1 | .die => 2

/-- M of TASKID (R240). -/
def TaskIdSel.code : TaskIdSel → Nat
  | .tid => 0 | .info => 1 | .join => 2

/-- One bit. -/
def bit (b : Bool) : Nat := if b then 1 else 0

/-- M of a page-1 chain (R361, R362). -/
def VHdr.m (h : VHdr) : Nat := 16 * h.mask.toNat + h.ty.code

/-- X of a chain (R47). -/
def xCode (r : Rnd) (nsat : Bool) : Nat := 4 * r.code + 2 * bit nsat

/-- The part of VCVT names lanes that exist (R377). -/
def vcvtPartOk (src tgt : ETy) (part : Nat) : Bool :=
  decide (part * min src.lanes tgt.lanes < max src.lanes tgt.lanes)

/-- The part of VQNT and VDQNT names elements that exist (R378, R379). -/
def vqntPartOk (ty : ETy) (q : QFmt) (part : Nat) : Bool := decide (part * (ty.lanes * q.bits) < 1024)

/-! ### The full form -/

/-- The immediate of a chain: its extension, the width of its extended value, the value, whether B is its low part, and
the number of PX words where the form fixes it (R51). -/
structure ImmF where
  signed : Bool
  width : Nat
  val : Nat
  inB : Bool
  exact1 : Bool := false
deriving DecidableEq, Repr

/-- Field C of a chain (R49): absent, or a value with the default that stands without PR (none where PR is mandatory). -/
inductive CF where
  | absent
  | val (c : Nat) (default : Option Nat)
deriving DecidableEq, Repr

/-- The fields of a chain, as R66 writes them. -/
structure FullForm where
  sw : Bool
  page : Nat := 0
  op : Nat
  x : Nat := 0
  m : Nat := 0
  a : Nat := 0
  c : CF := .absent
  b : Nat := 0
  imm : Option ImmF := none
deriving DecidableEq, Repr

/-- Bits that k PX words give an immediate (R51). -/
def ImmF.bitsAt (i : ImmF) (k : Nat) : Nat := 9 * k + (if i.inB then 4 else 0)

/-- The extended value fits the immediate of k PX words (R51). -/
def ImmF.fitsAt (i : ImmF) (k : Nat) : Bool :=
  let n := i.bitsAt k
  if n = 0 then decide (i.val = 0)
  else if i.signed then decide (i.val < 2 ^ (n - 1)) || decide (2 ^ i.width - 2 ^ (n - 1) ≤ i.val)
  else decide (i.val < 2 ^ n)

/-- The fewest PX words that hold the immediate (R57). -/
def ImmF.pxCount (i : ImmF) : Nat :=
  if i.exact1 then 1
  else if i.fitsAt 0 then 0
  else if i.fitsAt 1 then 1
  else if i.fitsAt 2 then 2
  else if i.fitsAt 3 then 3
  else 4

/-- PX words of the shortest chain. -/
def FullForm.k (f : FullForm) : Nat :=
  match f.imm with
  | none => 0
  | some i => i.pxCount

/-- High bits of B that PB carries. -/
def FullForm.bHigh (f : FullForm) : Nat :=
  match f.imm with
  | some i => if i.inB then 0 else f.b / 16
  | none => f.b / 16

/-- The shortest chain needs PG, PB, PR (R57). -/
def FullForm.needPG (f : FullForm) : Bool := f.page != 0
/-- See `needPG`. -/
def FullForm.needPB (f : FullForm) : Bool := f.m != 0 || f.bHigh != 0
/-- See `needPG`. -/
def FullForm.needPR (f : FullForm) : Bool :=
  f.a / 32 != 0 ||
    match f.c with
    | .absent => false
    | .val c d => d != some c

/-- Prefixes of the shortest chain (R57). -/
def FullForm.prefixes (f : FullForm) : Nat := bit f.needPG + bit f.needPB + bit f.needPR + f.k

/-- The immediate can be encoded: its value fits the PX words it takes. -/
def FullForm.immOk (f : FullForm) : Bool :=
  match f.imm with
  | none => true
  | some i => i.fitsAt i.pxCount

/-- The memory operand as fields B, C and imm (R42). -/
def MemOp.into (m : MemOp) (f : FullForm) : FullForm :=
  { f with b := m.sg.toNat, c := .val m.idx.toNat (some 0), imm := some ⟨true, 36, m.disp.toNat, false, false⟩ }

/-- A form with A, C (default A) and B in registers. -/
def ff3 (sw : Bool) (op m : Nat) (a c b : GReg) : FullForm :=
  { sw := sw, op := op, m := m, a := a.toNat, c := .val c.toNat (some a.toNat), b := b.toNat }

/-- A form with A and B in registers and no C. -/
def ff2 (sw : Bool) (page op m : Nat) (a b : GReg) : FullForm :=
  { sw := sw, page := page, op := op, m := m, a := a.toNat, b := b.toNat }

/-- A page-1 form with A, C (default A) and B in pointers, and an optional selector. -/
def ffv (h : VHdr) (op a : Nat) (c : CF) (b sel : Nat) : FullForm :=
  { sw := h.sw, page := 1, op := op, x := xCode h.rnd h.nsat, m := h.m, a := a, c := c, b := b,
    imm := some ⟨false, 9, sel, false, false⟩ }

/-- A page-1 form of three pointers. -/
def ffv3 (h : VHdr) (op : Nat) (a c b : BitVec 3) : FullForm := ffv h op a.toNat (.val c.toNat (some a.toNat)) b.toNat 0

/-- The full form of an instruction; none for a step without an encoding. -/
def Instr.fullForm : Instr → Option FullForm
  | .nop sw => some { sw := sw, op := 0x00 }
  | .mov sw a b => some (ff2 sw 0 0x01 0 a b)
  | .movWc sw a b => some { sw := sw, op := 0x01, m := 1, a := a.toNat, b := b.toNat }
  | .movRc sw a b => some { sw := sw, op := 0x01, m := 2, a := a.toNat, b := b.toNat }
  | .movRlc sw a b => some { sw := sw, op := 0x01, m := 3, a := a.toNat, b := b.val }
  | .li sw a imm => some { sw := sw, op := 0x02, a := a.toNat, imm := some ⟨true, 40, imm.toNat, true, false⟩ }
  | .lih sw a imm => some { sw := sw, op := 0x03, a := a.toNat, imm := some ⟨false, 40, imm.toNat, true, false⟩ }
  | .add sw t a c b => some (ff3 sw 0x04 t.code a c b)
  | .sub sw t a c b => some (ff3 sw 0x05 t.code a c b)
  | .addi sw t a c imm => some { ff3 sw 0x06 t.code a c 0 with imm := some ⟨true, 40, imm.toNat, true, false⟩ }
  | .mul sw t a c b => some (ff3 sw 0x07 t.code a c b)
  | .mulh sw t a c b => some (ff3 sw 0x08 t.code a c b)
  | .div sw t a c b => some (ff3 sw 0x09 t.code a c b)
  | .rem sw t a c b => some (ff3 sw 0x0A t.code a c b)
  | .and sw a c b => some (ff3 sw 0x0B 0 a c b)
  | .or sw a c b => some (ff3 sw 0x0C 0 a c b)
  | .xor sw a c b => some (ff3 sw 0x0D 0 a c b)
  | .andn sw a c b => some (ff3 sw 0x0E 0 a c b)
  | .shl sw a c b => some (ff3 sw 0x0F 0 a c b)
  | .shr sw a c b => some (ff3 sw 0x10 0 a c b)
  | .sar sw a c b => some (ff3 sw 0x11 0 a c b)
  | .shi sw k a c imm => some { ff3 sw 0x12 k.code a c 0 with imm := some ⟨false, 13, imm.toNat, true, false⟩ }
  | .rot sw a c b => some (ff3 sw 0x13 0 a c b)
  | .clz sw a b => some (ff2 sw 0 0x14 0 a b)
  | .popc sw a b => some (ff2 sw 0 0x15 0 a b)
  | .min sw t a c b => some (ff3 sw 0x16 t.code a c b)
  | .max sw t a c b => some (ff3 sw 0x17 t.code a c b)
  | .cmp sw k t a c b => some (ff3 sw 0x18 (8 * k.code + t.code) a c b)
  | .cmpi sw k t a c imm =>
    some { ff3 sw 0x19 (8 * k.code + t.code) a c 0 with imm := some ⟨true, 40, imm.toNat, true, false⟩ }
  | .sel sw k a c b => some (ff3 sw 0x1A k.code a c b)
  | .ext sw t a b => some (ff2 sw 0 0x1B t.code a b)
  | .bfx sw sgn a c imm => some { ff3 sw 0x1C (bit sgn) a c 0 with imm := some ⟨false, 13, imm.toNat, true, false⟩ }
  | .bfi sw a c imm => some { ff3 sw 0x1D 0 a c 0 with imm := some ⟨false, 13, imm.toNat, true, false⟩ }
  | .lea sw hi a m => some (m.into { sw := sw, op := 0x1E, m := bit hi, a := a.toNat })
  | .br sw k a imm => some { sw := sw, op := 0x1F, m := k.code, a := a.toNat, imm := some ⟨true, 40, imm.toNat, true, false⟩ }
  | .jmp sw imm => some { sw := sw, op := 0x20, imm := some ⟨true, 40, imm.toNat, true, false⟩ }
  | .jmpr sw b => some { sw := sw, op := 0x21, b := b.toNat }
  | .calld sw imm => some { sw := sw, op := 0x22, imm := some ⟨false, 22, imm.toNat, true, false⟩ }
  | .ret sw => some { sw := sw, op := 0x23 }
  | .loop sw lc b imm =>
    some { sw := sw, op := 0x24, a := lc.val, b := b.toNat, imm := some ⟨false, 9, imm.toNat, false, true⟩ }
  | .ld sw k rx a m => some (m.into { sw := sw, op := 0x25, m := k.code + 16 * bit rx, a := a.toNat })
  | .st sw k rx a m => some (m.into { sw := sw, op := 0x26, m := k.code + 16 * bit rx, a := a.toNat })
  | .ldp sw k md a p => some { sw := sw, op := 0x27, m := k.code + 16 * md.code, a := a.toNat, b := p.toNat }
  | .stp sw k md a p => some { sw := sw, op := 0x28, m := k.code + 16 * md.code, a := a.toNat, b := p.toNat }
  | .atom sw op t rx a m =>
    some (m.into { sw := sw, op := 0x29, m := op.code + 8 * t.code + 32 * bit rx, a := a.toNat })
  | .fence sw imm => some { sw := sw, op := 0x2A, imm := some ⟨false, 13, imm.toNat, true, true⟩ }
  | .send sw a c b => some (ff3 sw 0x2B 0 a c b)
  | .take sw a b => some (ff2 sw 0 0x2C 0 a b)
  | .clrf sw a => some { sw := sw, op := 0x2D, a := a.toNat }
  | .mwait sw a m => some (m.into { sw := sw, op := 0x2E, a := a.toNat })
  | .srr sw a n => some (ff2 sw 0 0x2F 0 a n)
  | .srw sw n b => some (ff2 sw 0 0x30 0 n b)
  | .epush sw e b => some { sw := sw, op := 0x31, a := e.toNat, b := b.toNat }
  | .epop sw a e => some { sw := sw, op := 0x32, a := a.toNat, b := e.toNat }
  | .trap sw a n => some { sw := sw, op := 0x33, a := a.toNat, imm := some ⟨false, 13, n.toNat, true, false⟩ }
  | .brk sw n => some { sw := sw, op := 0x34, imm := some ⟨false, 4, n.toNat, true, false⟩ }
  | .yield sw => some { sw := sw, op := 0x35 }
  | .quit sw => some { sw := sw, op := 0x36 }
  | .spawn sw a c b => some { ff3 sw 0x37 0 a c b with c := .val c.toNat none }
  | .bar sw clu a ch => some { sw := sw, op := 0x38, m := 8 * bit clu, a := a.toNat, b := ch.toNat }
  | .barArr sw clu ch => some { sw := sw, op := 0x38, m := 1 + 8 * bit clu, b := ch.toNat }
  | .barWt sw clu a ch => some { sw := sw, op := 0x38, m := 2 + 8 * bit clu, a := a.toNat, b := ch.toNat }
  | .barFmax sw clu a ch => some { sw := sw, op := 0x38, m := 3 + 8 * bit clu, a := a.toNat, b := ch.toNat }
  | .barImax sw clu a ch => some { sw := sw, op := 0x38, m := 4 + 8 * bit clu, a := a.toNat, b := ch.toNat }
  | .barArm sw clu a ch => some { sw := sw, op := 0x38, m := 5 + 8 * bit clu, a := a.toNat, b := ch.toNat }
  | .ckpt sw m => some (m.into { sw := sw, op := 0x39 })
  | .pmov sw p b => some { sw := sw, op := 0x3A, a := p.toNat, b := b.toNat }
  | .pmovGet sw a p => some { sw := sw, op := 0x3A, m := 1, a := a.toNat, b := p.toNat }
  | .vadd h a c b => some (ffv3 h 0x00 a c b)
  | .vsub h a c b => some (ffv3 h 0x01 a c b)
  | .vmul h a c b => some (ffv3 h 0x02 a c b)
  | .vfma h a c b => some (ffv3 h 0x03 a c b)
  | .vfms h a c b => some (ffv3 h 0x04 a c b)
  | .vmin h a c b => some (ffv3 h 0x05 a c b)
  | .vmax h a c b => some (ffv3 h 0x06 a c b)
  | .vabs h a c => some (ffv3 h 0x07 a c 0)
  | .vneg h a c => some (ffv3 h 0x08 a c 0)
  | .vand h a c b => some (ffv3 h 0x09 a c b)
  | .vor h a c b => some (ffv3 h 0x0A a c b)
  | .vxor h a c b => some (ffv3 h 0x0B a c b)
  | .vnot h a c => some (ffv3 h 0x0C a c 0)
  | .vshl h a c b => some (ffv3 h 0x0D a c b)
  | .vshr h a c b => some (ffv3 h 0x0E a c b)
  | .vsar h a c b => some (ffv3 h 0x0F a c b)
  | .vcmp h k a c b => some (ffv h 0x10 a.toNat (.val c.toNat none) b.toNat k.code)
  | .vsel h a c b => some (ffv3 h 0x11 a c b)
  | .vcvt h tgt part a c =>
    some (ffv h 0x12 a.toNat (.val c.toNat (some a.toNat)) 0 (tgt.code + 16 * part.toNat))
  | .vqnt h tgt part a c b =>
    some (ffv h 0x13 a.toNat (.val c.toNat (some a.toNat)) b.toNat (tgt.code + 16 * part.toNat))
  | .vdqnt h frm part a c b =>
    some (ffv h 0x14 a.toNat (.val c.toNat (some a.toNat)) b.toNat (frm.code + 16 * part.toNat))
  | .vred h op a c => some (ffv h 0x15 a.toNat (.val c.toNat (some a.toNat)) 0 op.code)
  | .vscan h op excl a c => some (ffv h 0x16 a.toNat (.val c.toNat (some a.toNat)) 0 (op.code + 4 * bit excl))
  | .vbcast h a (.lane c k) => some (ffv h 0x17 a.toNat (.val c.toNat (some a.toNat)) 0 k.toNat)
  | .vbcast h a (.reg b) => some (ffv h 0x17 a.toNat .absent b.toNat 256)
  | .viota h a => some (ffv h 0x18 a.toNat .absent 0 0)
  | .vperm h a c b => some (ffv3 h 0x19 a c b)
  | .vgath h a b sg => some (ffv h 0x1A a.toNat .absent b.toNat sg.toNat)
  | .vscat h a b sg => some (ffv h 0x1B a.toNat .absent b.toNat sg.toNat)
  | .vsfu h f a c => some (ffv h 0x1C a.toNat (.val c.toNat (some a.toNat)) 0 f.code)
  | .vmsk sw op a c b =>
    some { sw := sw, page := 1, op := 0x1D, a := a.toNat, c := .val c.toNat (some a.toNat), b := b.toNat,
           imm := some ⟨false, 9, op.code, false, false⟩ }
  | .vmovm sw (.put m b) =>
    some { sw := sw, page := 1, op := 0x1E, a := m.toNat, b := b.toNat, imm := some ⟨false, 9, 0, false, false⟩ }
  | .vmovm sw (.get a m) =>
    some { sw := sw, page := 1, op := 0x1E, a := a.toNat, b := m.toNat, imm := some ⟨false, 9, 1, false, false⟩ }
  | .vmovm sw (.cnt a m) =>
    some { sw := sw, page := 1, op := 0x1E, a := a.toNat, b := m.toNat, imm := some ⟨false, 9, 2, false, false⟩ }
  | .vdot h a c b => some (ffv3 h 0x1F a c b)
  | .vclamp h a c b => some (ffv3 h 0x20 a c b)
  | .vamax h a c => some (ffv3 h 0x21 a c 0)
  | .mgath sw toB b => some { sw := sw, page := 2, op := 0x00, m := bit toB, b := b.toNat }
  | .mald sw b => some { sw := sw, page := 2, op := 0x01, b := b.toNat }
  | .mbld sw b => some { sw := sw, page := 2, op := 0x02, b := b.toNat }
  | .mma sw g z cq acc ks =>
    some { sw := sw, page := 2, op := 0x03, m := bit g + 2 * bit z + 4 * bit cq, a := acc.toNat,
           imm := some ⟨false, 4, ks.toNat, true, false⟩ }
  | .mzero sw f32 cq acc => some { sw := sw, page := 2, op := 0x04, m := bit f32 + 2 * bit cq, a := acc.toNat }
  | .mrd sw rnd nsat acc b =>
    some { sw := sw, page := 2, op := 0x05, x := xCode rnd nsat, a := acc.toNat, b := b.toNat }
  | .mwr sw acc b => some { sw := sw, page := 2, op := 0x06, a := acc.toNat, b := b.toNat }
  | .mscl sw toB b => some { sw := sw, page := 2, op := 0x07, m := bit toB, b := b.toNat }
  | .mstat sw a => some { sw := sw, page := 2, op := 0x08, a := a.toNat }
  | .baddq sw rnd acc b => some { sw := sw, page := 2, op := 0x09, x := xCode rnd false, a := acc.toNat, b := b.toNat }
  | .segw sw a b => some { sw := sw, page := 3, op := 0x00, a := a.toNat, b := b.toNat }
  | .segr sw a b => some { sw := sw, page := 3, op := 0x01, a := a.toNat, b := b.toNat }
  | .segrHi sw a b => some { sw := sw, page := 3, op := 0x01, m := 1, a := a.toNat, b := b.toNat }
  | .pgprobe sw a m => some (m.into { sw := sw, page := 3, op := 0x02, a := a.toNat })
  | .tlbinv sw k a b => some (ff2 sw 3 0x03 k.code a b)
  | .codeinv sw a b => some (ff2 sw 3 0x04 0 a b)
  | .codeinvAll sw a => some (ff2 sw 3 0x04 1 a 0)
  | .fbegin sw imm => some { sw := sw, page := 3, op := 0x05, imm := some ⟨true, 31, imm.toNat, true, false⟩ }
  | .fcommit sw => some { sw := sw, page := 3, op := 0x06 }
  | .fabort sw => some { sw := sw, page := 3, op := 0x07 }
  | .spill sw a b => some (ff2 sw 3 0x08 0 a b)
  | .spillHold sw a b => some (ff2 sw 3 0x08 1 a b)
  | .spillRel sw a b => some (ff2 sw 3 0x08 2 a b)
  | .spillBase sw a b => some (ff2 sw 3 0x08 3 a b)
  | .spillCkpt sw a b => some (ff2 sw 3 0x08 4 a b)
  | .csave sw a b => some (ff2 sw 3 0x09 0 a b)
  | .cload sw a b => some (ff2 sw 3 0x0A 0 a b)
  | .fork sw a c b => some { ff3 sw 0x00 0 a c b with page := 4, c := .val c.toNat none }
  | .join sw a m => some (m.into { sw := sw, page := 4, op := 0x01, a := a.toNat })
  | .depnew sw a m => some (m.into { sw := sw, page := 4, op := 0x02, a := a.toNat })
  | .deppub sw a m => some (m.into { sw := sw, page := 4, op := 0x03, a := a.toNat })
  | .signal sw rx a m => some (m.into { sw := sw, page := 4, op := 0x04, m := bit rx, a := a.toNat })
  | .enq sw l a m => some (m.into { sw := sw, page := 4, op := 0x05, m := l.code, a := a.toNat })
  | .taskid sw k a => some (ff2 sw 4 0x06 k.code a 0)
  | .steal sw a b => some (ff2 sw 4 0x07 0 a b)
  | .book sw a b => some (ff2 sw 5 0x00 0 a b)
  | .bkq sw a b => some (ff2 sw 5 0x01 0 a b)
  | .bkqWt sw a b => some (ff2 sw 5 0x01 1 a b)
  | .bkcan sw a b => some (ff2 sw 5 0x02 0 a b)
  | .bkend sw => some { sw := sw, page := 5, op := 0x03 }
  | .gang sw a b => some (ff2 sw 5 0x04 0 a b)
  | .gangCancel sw a b => some (ff2 sw 5 0x04 1 a b)
  | .pipew sw a ep =>
    some { sw := sw, page := 5, op := 0x05, a := a.toNat, imm := some ⟨false, 4, ep.toNat, true, false⟩ }
  | .piper sw a ep =>
    some { sw := sw, page := 5, op := 0x06, a := a.toNat, imm := some ⟨false, 4, ep.toNat, true, false⟩ }
  | .piperDone sw ep =>
    some { sw := sw, page := 5, op := 0x06, m := 1, imm := some ⟨false, 4, ep.toNat, true, false⟩ }
  | .hnew sw a b => some (ff2 sw 5 0x07 0 a b)
  | .hcopy sw a b => some (ff2 sw 5 0x08 0 a b)
  | .hdrop sw a => some (ff2 sw 5 0x09 0 a 0)
  | .hdropLost sw a => some (ff2 sw 5 0x09 1 a 0)
  | .hbind sw a b => some (ff2 sw 5 0x0A 0 a b)
  | .hsend sw a c b => some { ff3 sw 0x0B 0 a c b with page := 5 }
  | .haddr sw a c sg =>
    some { sw := sw, page := 5, op := 0x0C, a := a.toNat, c := .val c.toNat (some a.toNat), b := sg.toNat }
  | .haddrLen sw a c => some { ff3 sw 0x0C 1 a c 0 with page := 5 }
  | .haddrWt sw a c => some { ff3 sw 0x0C 2 a c 0 with page := 5 }
  | .mcw sw a b => some (ff2 sw 6 0x00 0 a b)
  | .mcsend sw a c b => some { ff3 sw 0x01 0 a c b with page := 6 }
  | .rslot sw a b => some (ff2 sw 6 0x02 0 a b)
  | .redc sw a c b => some { ff3 sw 0x03 0 a c b with page := 6 }
  | .redw sw a b => some (ff2 sw 6 0x04 0 a b)
  | .lnkst sw a b => some (ff2 sw 6 0x05 0 a b)
  | .lnkstCtl sw a b => some (ff2 sw 6 0x05 1 a b)
  | .ldmb sw k a m => some (m.into { sw := sw, page := 15, op := 0x00, m := k.toNat, a := a.toNat })
  | .stmb sw k a m => some (m.into { sw := sw, page := 15, op := 0x01, m := k.toNat, a := a.toNat })
  | .blkcp sw a m => some (m.into { sw := sw, page := 15, op := 0x02, a := a.toNat })
  | .crcb sw a m => some (m.into { sw := sw, page := 15, op := 0x03, a := a.toNat })
  | .vectorRowWrite => none
  | .gatherElementReply => none
  | .sfuRequestDone => none
  | .matrixLoadExec => none
  | .mmaGangStart => none
  | .mmaExec => none
  | .mrdExec => none
  | .mwrExec => none
  | .mzeroExec => none
  | .msclExec => none
  | .baddqExec => none
  | .latchEccError => none
  | .tlbinvComplete => none
  | .codeinvComplete => none
  | .fcommitDecision => none
  | .coreImageComplete => none
  | .mcwComplete => none
  | .mcsendResult => none
  | .plainAccessReply => none
  | .relaxedLoadResult => none
  | .storeAcknowledge => none
  | .tagRetryRequest => none
  | .sendArrival => none
  | .sendStatus => none
  | .overflowDelivery => none
  | .monitorWake => none
  | .mwaitTimedWake => none
  | .yieldExpiry => none
  | .ageingPromotion => none
  | .coreModeSet => none
  | .fenceComplete => none
  | .copyCommandStart => none
  | .copyCommandComplete => none
  | .tlbWalkComplete => none
  | .pageWakeRetry => none
  | .pageWakeDeny => none
  | .fabricTimeout => none
  | .remoteFailureReport => none
  | .barrierArmApplied => none
  | .barrierArrivalAtNode => none
  | .barrierRelease => none
  | .barrierDeparture => none
  | .corePeckRequest => none
  | .corePeckArrival => none
  | .clusterPeckRequest => none
  | .clusterPeckArrival => none
  | .dieQueueEnlarge => none
  | .dispatcherStart => none
  | .taskReady => none
  | .grantSetLoadComplete => none
  | .stealRequest => none
  | .stealReply => none
  | .stealWalkWaitExpiry => none
  | .taskRetire => none
  | .pairedCompare => none
  | .cellReleaseInsert => none
  | .contextSpill => none
  | .spillComplete => none
  | .forwardProgressSpill => none
  | .contextRestore => none
  | .restoreComplete => none
  | .checkpointSave => none
  | .checkpointRestore => none
  | .brsResume => none
  | .brsDiscard => none
  | .codeMissRetry => none
  | .codeFetchReply => none
  | .codeInstall => none
  | .codeNoSource => none
  | .brsCodeSearch => none
  | .peerContainerReply => none
  | .residentTranslation => none
  | .packageLoadRequest => none
  | .packageUnloadRequest => none
  | .packageUnloadComplete => none
  | .graphLaunch => none
  | .bookingDecision => none
  | .stagingBegin => none
  | .stagingStepRetry => none
  | .bookingStart => none
  | .bookingSlip => none
  | .slackGrain => none
  | .bookingOverrun => none
  | .gangJoinAtNode => none
  | .gangRelease => none
  | .gangMemberFault => none
  | .pipeEntryArrival => none
  | .pipeFreeReport => none
  | .tensorReturn => none
  | .deathAction => none
  | .returnReply => none
  | .multicastCopyArrival => none
  | .reductionContribution => none
  | .reductionSlotTimeout => none
  | .reductionSlotExpiry => none
  | .redwResult => none
  | .headerFlitRefused => none
  | .dataFlitPoisoned => none
  | .linkDown => none
  | .laneLost => none
  | .linkRetrainTimer => none
  | .linkTrainingDone => none
  | .linkTrainingTimeout => none
  | .downNotice => none
  | .upNotice => none
  | .dramRefreshGrain => none
  | .scratchpadScrubGrain => none
  | .linkCalibrationGrain => none
  | .launchRequest => none
  | .trapReply => none
  | .eventForward => none
  | .tenantAcknowledge => none
  | .clusterAllocation => none
  | .clusterClear => none
  | .tenantDeletion => none
  | .attestationRequest => none
  | .nvmeReadComplete => none
  | .powerOnReset => none
  | .i3cReset => none
  | .modnum => none
  | .moduleNumberWaitExpiry => none
  | .bootFirmwareVerify => none
  | .bootDramTrain => none
  | .bootUplinkTrain => none
  | .bootKMapLock => none
  | .bootBrsVerify => none
  | .bootRelease => none
  | .thermalThrottle => none
  | .thermalHalt => none
  | .telemetrySample => none
  | .remoteAccessAtBank => none
  | .spawnArrival => none
  | .ownUplinksDown => none
  | .operatorRequest => none
  | .ultraEthernetSessionOpen => none

/-! ### The check -/

/-- The type of a page-1 chain is one that its row of R364 admits. -/
inductive TypeRule where
  | fi | i | f | all | elems | upTo5
deriving DecidableEq, Repr

/-- See `TypeRule`. -/
def TypeRule.admits : TypeRule → ETy → Bool
  | .fi, t => t.isF || t.isI
  | .i, t => t.isI
  | .f, t => t.isF
  | .all, _ => true
  | .elems, t => t != .e2m1
  | .upTo5, t => t.isF || t.isBlock

/-- The header of a page-1 chain: the type is admitted, RND stands only where the chain rounds, NSAT only where it
converts to a block type (R364, R365). -/
def VHdr.ok (h : VHdr) (tr : TypeRule) (rounds converts : Bool) : Bool :=
  tr.admits h.ty && (rounds || h.rnd == .rne) && (converts || !h.nsat)

/-- VCVT rounds unless both types are integers (R364). -/
def vcvtRounds (src tgt : ETy) : Bool := !(src.isI && tgt.isI)

/-- A member of F. -/
def onF (t : ETy) : Bool := t.isF

/-- The operands are ones that the form admits (each case by the rule of its form). -/
def Instr.operandsOk : Instr → Bool
  | .bar _ clu _ ch => clu || decide (ch.toNat < 8)
  | .barArr _ clu ch => clu || decide (ch.toNat < 8)
  | .barWt _ clu _ ch => clu || decide (ch.toNat < 8)
  | .barFmax _ clu _ ch => clu || decide (ch.toNat < 8)
  | .barImax _ clu _ ch => clu || decide (ch.toNat < 8)
  | .barArm _ clu _ ch => clu || decide (ch.toNat < 8)
  | .ckpt _ m => (⟨true, 36, m.disp.toNat, false, false⟩ : ImmF).fitsAt 3
  | .vadd h _ _ _ => h.ok .fi (onF h.ty) false
  | .vsub h _ _ _ => h.ok .fi (onF h.ty) false
  | .vmul h _ _ _ => h.ok .fi (onF h.ty) false
  | .vfma h _ _ _ => h.ok .fi (onF h.ty) false
  | .vfms h _ _ _ => h.ok .fi (onF h.ty) false
  | .vmin h _ _ _ => h.ok .fi false false
  | .vmax h _ _ _ => h.ok .fi false false
  | .vabs h _ _ => h.ok .fi false false
  | .vneg h _ _ => h.ok .fi false false
  | .vand h _ _ _ => h.ok .i false false
  | .vor h _ _ _ => h.ok .i false false
  | .vxor h _ _ _ => h.ok .i false false
  | .vnot h _ _ => h.ok .i false false
  | .vshl h _ _ _ => h.ok .i false false
  | .vshr h _ _ _ => h.ok .i false false
  | .vsar h _ _ _ => h.ok .i false false
  | .vcmp h _ _ _ _ => h.ok .fi false false
  | .vsel h _ _ _ => h.ok .all false false
  | .vcvt h tgt part _ _ =>
    h.ok .all (vcvtRounds h.ty tgt) tgt.isBlock && vcvtPartOk h.ty tgt part.toNat
  | .vqnt h tgt part _ _ _ =>
    h.ok .f true (tgt != .s8) && decide (h.mask = 0) && vqntPartOk h.ty tgt part.toNat
  | .vdqnt h frm part _ _ _ => h.ok .f true false && vqntPartOk h.ty frm part.toNat
  | .vred h op _ _ => h.ok .fi (onF h.ty && op == .add) false
  | .vscan h op _ _ _ => h.ok .fi (onF h.ty && op == .add) false
  | .vbcast h _ (.lane _ k) => h.ok .all false false && decide (k.toNat < h.ty.lanes)
  | .vbcast h _ (.reg _) => h.ok .all false false
  | .viota h _ => h.ok .i false false
  | .vperm h _ _ _ => h.ok .all false false
  | .vgath h _ _ _ => h.ok .elems false false
  | .vscat h _ _ _ => h.ok .elems false false
  | .vsfu h _ _ _ => h.ok .f true false
  | .vmsk _ op _ _ b => op != .not || decide (b = 0)
  | .vdot h _ _ _ => h.ok .all (TypeRule.upTo5.admits h.ty) false
  | .vclamp h _ _ _ => h.ok .fi false false
  | .vamax h _ _ => h.ok .upTo5 false false
  | _ => true

/-- An instruction that a chain carries: its operands are admitted, its immediate can be written, and it takes at most
four prefixes (R44, R57). A step without an encoding is well formed as it stands. -/
def Instr.wf (i : Instr) : Bool :=
  match i.fullForm with
  | none => true
  | some f => i.operandsOk && f.immOk && decide (f.prefixes ≤ 4)

end Sys2Proof
end

