-- ==== Sys2Proof/Decode.lean ====
section
/-! DEFINITION. The decoder (02_formats R44 to R52, R491), the words of an instruction (R57), and the words of the opcode
table. Steps 1 to 5 of R52 are here; steps 6 and 7 depend on the context and are made at issue. -/

namespace Sys2Proof

/-! ### The scan of R46 -/

/-- The fields of a chain after the scan (R45, R46): `bl` is B[3:0] of the base word, `bh` PB[8:6], `ipx` the PX payloads. -/
structure Raw where
  sw : Bool := false
  page : Nat := 0
  op : Nat := 0
  len : Nat := 0
  x : Nat := 0
  m : Nat := 0
  ahi : Nat := 0
  alo : Nat := 0
  bh : Nat := 0
  bl : Nat := 0
  c : Nat := 0
  hasPB : Bool := false
  hasPR : Bool := false
  ipx : Nat := 0
  k : Nat := 0
deriving DecidableEq, Repr

/-- A chain that is not an instruction (R52 steps 1 to 5): the fault, the detail index of R46, and the page and OP that
FRA reports (R81). -/
structure BadChain where
  illegal : Bool
  widx : Nat
  page : Nat
  op : Nat
deriving DecidableEq, Repr

/-- Bits hi:lo of a natural number. -/
def bitsOf (v hi lo : Nat) : Nat := v / 2 ^ lo % 2 ^ (hi + 1 - lo)

/-- Rank of a prefix class: PG, PB, PR, PX (R46). -/
def prefixRank (op : Nat) : Nat := 0x3F - op

/-- The scan of R46. `ws` holds the halfwords from the entered one to CodeEnd, `n` the index of the first of them,
`last` one more than the rank of the prefix before (0 for none). -/
def scan : List Half → Nat → Nat → Raw → Except BadChain Raw
  | [], n, _, r => .error ⟨true, n, r.page, 0⟩
  | w :: ws, n, last, r =>
    let v := w.toNat
    let op := bitsOf v 14 9
    if op < 0x3C then
      .ok { r with sw := bitsOf v 15 15 = 1, op := op, len := n + 1, alo := bitsOf v 8 4, bl := bitsOf v 3 0 }
    else if n = 4 ∨ bitsOf v 15 15 = 1 then .error ⟨true, n, r.page, 0⟩
    else
      let rank := prefixRank op
      if rank + 1 < last ∨ (rank + 1 = last ∧ rank < 3) then .error ⟨true, n, r.page, 0⟩
      else if rank = 0 then
        if bitsOf v 8 5 = 0 then .error ⟨true, n, r.page, 0⟩
        else scan ws (n + 1) 1 { r with page := bitsOf v 8 5, x := bitsOf v 4 0 }
      else if rank = 1 then scan ws (n + 1) 2 { r with bh := bitsOf v 8 6, m := bitsOf v 5 0, hasPB := true }
      else if rank = 2 then scan ws (n + 1) 3 { r with ahi := bitsOf v 8 7, c := bitsOf v 6 0, hasPR := true }
      else scan ws (n + 1) 4 { r with ipx := r.ipx * 512 + bitsOf v 8 0, k := r.k + 1 }

/-! ### Fields of a form -/

/-- Kinds of field A (R50). -/
inductive AK where
  | none | g | p3 | lc | m2 | c4 | st
deriving DecidableEq, Repr

/-- Kinds of field B (R50): `ch3` is a channel at core scope. -/
inductive BK where
  | none | g | p3 | lc | m2 | c4 | ch3 | ch4 | st | imm
deriving DecidableEq, Repr

/-- Field C (R49): absent; a register, a pointer or a mask with default A; an index with default `g0`; mandatory. -/
inductive CK where
  | none | gA | pA | mA | g0 | gMand | pMand
deriving DecidableEq, Repr

/-- What one variant of a form accepts (R47 to R51, R491). -/
structure Shape where
  a : AK := .none
  b : BK := .none
  c : CK := .none
  pb : Bool := false
  pr : Bool := false
  kmin : Nat := 0
  kmax : Nat := 0
  rounds : Bool := false
  converts : Bool := false
deriving DecidableEq, Repr

/-- Field A, 7 bits. -/
def Raw.a (r : Raw) : Nat := r.ahi * 32 + r.alo
/-- Field B, 7 bits. -/
def Raw.b (r : Raw) : Nat := r.bh * 16 + r.bl

/-- A value fits the kind of field A. -/
def AK.ok : AK → Nat → Bool
  | .none, v => v == 0
  | .g, _ => true
  | .p3, v => decide (v < 8)
  | .lc, v => decide (v < 3)
  | .m2, v => decide (v < 4)
  | .c4, v => decide (v < 16)
  | .st, _ => true

/-- A value fits the kind of field B. -/
def BK.ok : BK → Nat → Bool
  | .none, v => v == 0
  | .g, _ => true
  | .p3, v => decide (v < 8)
  | .lc, v => decide (v < 3)
  | .m2, v => decide (v < 4)
  | .c4, v => decide (v < 16)
  | .ch3, v => decide (v < 8)
  | .ch4, v => decide (v < 16)
  | .st, _ => true
  | .imm, v => decide (v < 16)

/-- PR[6:0] fits field C. -/
def CK.ok : CK → Nat → Bool
  | .none, v => v == 0
  | .gA, _ => true
  | .g0, _ => true
  | .gMand, _ => true
  | .pA, v => decide (v < 8)
  | .pMand, v => decide (v < 8)
  | .mA, v => decide (v < 4)

/-- C is mandatory. -/
def CK.mand : CK → Bool
  | .gMand => true | .pMand => true | _ => false

/-- The step-4 refusals of a variant, one by one (R52 step 4, R491). -/
def Shape.refusals (s : Shape) (r : Raw) : List Bool :=
  [ r.hasPB && !s.pb, r.hasPR && !s.pr, s.c.mand && !r.hasPR, !s.a.ok r.a, !s.b.ok r.b, r.hasPR && !s.c.ok r.c,
    decide (r.k < s.kmin), decide (s.kmax < r.k), decide (r.x % 2 = 1), decide (r.x / 4 ≠ 0) && !s.rounds,
    decide (r.x / 2 % 2 = 1) && !s.converts ]

/-- The effective field C. -/
def Shape.cVal (s : Shape) (r : Raw) : Nat :=
  if r.hasPR then r.c
  else match s.c with
    | .gA => r.a
    | .pA => r.a
    | .mA => r.a
    | _ => 0

/-- The width of the immediate (R51). -/
def Shape.immBits (s : Shape) (r : Raw) : Nat := 9 * r.k + (if s.b = .imm then 4 else 0)

/-- The immediate before extension (R45). -/
def Shape.immRaw (s : Shape) (r : Raw) : Nat := if s.b = .imm then r.ipx * 16 + r.bl else r.ipx

/-- The zero-extended immediate. -/
def Shape.immZ (s : Shape) (r : Raw) (w : Nat) : BitVec w := BitVec.ofNat w (s.immRaw r)

/-- The sign-extended immediate; a zero-width one is 0 (R51). -/
def Shape.immS (s : Shape) (r : Raw) (w : Nat) : BitVec w :=
  let n := s.immBits r
  let v := s.immRaw r
  if n = 0 then 0
  else if v < 2 ^ (n - 1) then BitVec.ofNat w v
  else BitVec.ofNat w (v + (2 ^ w - 2 ^ n))

/-- The selector of a page-1 form (R363). -/
def Raw.sel (r : Raw) : Nat := if r.page = 1 then r.ipx % 512 else 0

/-- The rounding mode of X; none for a reserved value (R47). -/
def rndOf : Nat → Option Rnd
  | 0 => some .rne | 1 => some .rtz | 2 => some .rup | 3 => some .rdn | 4 => some .rna | _ => none

/-- Integer type by code (R112). -/
def ityOf : Nat → ITy
  | 0 => .s64 | 1 => .s32 | 2 => .s16 | 3 => .s8 | 4 => .z64 | 5 => .z32 | 6 => .z16 | _ => .z8

/-- Condition by code (R125). -/
def condOf : Nat → Cond
  | 0 => .eq | 1 => .ne | 2 => .lt | 3 => .ge | 4 => .le | _ => .gt

/-- Test by code (R126). -/
def testOf : Nat → Test
  | 0 => .nz | 1 => .z | 2 => .neg | 3 => .nneg | 4 => .pos | _ => .npos

/-- BR variant by code (R131). -/
def brTestOf : Nat → BrTest
  | 6 => .full | 7 => .empty | n => .test (testOf n)

/-- SHI variant by code (R122). -/
def shKindOf : Nat → ShKind
  | 0 => .shl | 1 => .shr | 2 => .sar | _ => .rot

/-- Load kind by code (R148). -/
def ldKindOf : Nat → LdKind
  | 8 => .sec | n => .val (ityOf n)

/-- Store kind by code (R148). -/
def stKindOf : Nat → StKind
  | 0 => .b64 | 1 => .b32 | 2 => .b16 | 3 => .b8 | _ => .sec

/-- Pointer mode by code (R148). -/
def pmodeOf : Nat → PMode
  | 0 => .keep | 1 => .inc | _ => .dec

/-- ATOM operation by code (R151). -/
def atomOpOf : Nat → AtomOp
  | 0 => .add | 1 => .and | 2 => .or | 3 => .xor | 4 => .min | 5 => .max | 6 => .swap | _ => .cas

/-- ATOM type by code (R151). -/
def atomTyOf : Nat → AtomTy
  | 0 => .s64 | 1 => .s32 | 2 => .z64 | _ => .z32

/-- Element type by code (R361). -/
def etyOf : Nat → Option ETy
  | 0 => some .f32 | 1 => some .f16 | 2 => some .bf16 | 3 => some .e4m3 | 4 => some .e5m2 | 5 => some .e2m1
  | 6 => some .s8 | 7 => some .s16 | 8 => some .s32 | 9 => some .s64
  | 10 => some .z8 | 11 => some .z16 | 12 => some .z32 | 13 => some .z64 | _ => none

/-- Quantised format by selector code (R378). -/
def qfmtOf : Nat → Option QFmt
  | 3 => some .e4m3 | 4 => some .e5m2 | 5 => some .e2m1 | 6 => some .s8 | _ => none

/-- Reduction by selector code (R380). -/
def redOpOf : Nat → RedOp
  | 0 => .add | 1 => .min | _ => .max

/-- Special function by selector (R385). -/
def sfuOf : Nat → Option SfuFn
  | 1 => some .rcp | 2 => some .rsqrt | 3 => some .sqrt | 4 => some .exp2 | 5 => some .log2 | 6 => some .sinpi
  | 7 => some .cospi | 8 => some .tanh | 9 => some .sigm | _ => none

/-- Mask operation by selector (R386). -/
def mskOpOf : Nat → MskOp
  | 0 => .and | 1 => .or | 2 => .xor | 3 => .andn | _ => .not

/-! ### The forms -/

/-- A form of the opcode map: the shapes of its listed variants, the shape that M and the selector name (none when they
name no listed variant), whether it has variants, and the instruction that the fields of a legal chain give. -/
structure Form where
  shapes : List Shape
  single : Bool
  pick : Nat → Nat → Option Shape
  build : Shape → Raw → Instr

/-- A form without variants (R48). -/
def Form.one (s : Shape) (build : Shape → Raw → Instr) : Form :=
  ⟨[s], true, fun m _ => if m = 0 then some s else none, build⟩

/-- A form of one variant whose page's rule makes every other M an UndefinedInstruction fault (R232, R391, R435; log 117). -/
def Form.listed (s : Shape) (build : Shape → Raw → Instr) : Form :=
  ⟨[s], false, fun m _ => if m = 0 then some s else none, build⟩

/-- A form all of whose variants have one shape. -/
def Form.many (s : Shape) (ok : Nat → Bool) (build : Shape → Raw → Instr) : Form :=
  ⟨[s], false, fun m _ => if ok m then some s else none, build⟩

/-- `g` register fields of a chain. -/
def Raw.ga (r : Raw) : GReg := BitVec.ofNat 7 r.a
/-- See `Raw.ga`. -/
def Raw.gb (r : Raw) : GReg := BitVec.ofNat 7 r.b
/-- See `Raw.ga`. -/
def Shape.gc (s : Shape) (r : Raw) : GReg := BitVec.ofNat 7 (s.cVal r)

/-- The memory operand of a chain (R42). -/
def Shape.memOp (s : Shape) (r : Raw) : MemOp := ⟨BitVec.ofNat 3 r.b, s.gc r, s.immS r 36⟩

/-- A, C default A, B: three registers, PB and PR optional. -/
def s3 : Shape := { a := .g, b := .g, c := .gA, pb := true, pr := true }
/-- A and B registers, no C. -/
def s2 : Shape := { a := .g, b := .g, pb := true, pr := true }
/-- A and an immediate of up to `k` PX words, PR optional. -/
def sAI (pb : Bool) (k : Nat) : Shape := { a := .g, b := .imm, pb := pb, pr := true, kmax := k }
/-- A, C default A, and an immediate. -/
def sACI (k : Nat) : Shape := { a := .g, b := .imm, c := .gA, pb := true, pr := true, kmax := k }
/-- A and a memory operand. -/
def sMem (pb : Bool) (k : Nat) : Shape := { a := .g, b := .p3, c := .g0, pb := pb, pr := true, kmax := k }

/-- Page 0 (R58, R78, R87 to R101, R113, R147, R186, R200, R258, R276, R277). -/
def page0 : Nat → Option Form
  | 0x00 => some (.one {} fun _ r => .nop r.sw)
  | 0x01 =>
    let v0 := s2
    let v1 : Shape := { a := .c4, b := .g, pb := true, pr := true }
    let v2 : Shape := { a := .g, b := .c4, pb := true, pr := true }
    let v3 : Shape := { a := .g, b := .lc, pb := true, pr := true }
    some ⟨[v0, v1, v2, v3], false,
      fun m _ => match m with | 0 => some v0 | 1 => some v1 | 2 => some v2 | 3 => some v3 | _ => none,
      fun _ r => match r.m with
        | 0 => .mov r.sw r.ga r.gb
        | 1 => .movWc r.sw (BitVec.ofNat 4 r.a) r.gb
        | 2 => .movRc r.sw r.ga (BitVec.ofNat 4 r.b)
        | _ => .movRlc r.sw r.ga (Fin.ofNat 3 r.b)⟩
  | 0x02 => some (.one (sAI false 4) fun s r => .li r.sw r.ga (s.immS r 40))
  | 0x03 => some (.one (sAI false 4) fun s r => .lih r.sw r.ga (s.immZ r 40))
  | 0x04 => some (.many s3 (· < 8) fun s r => .add r.sw (ityOf r.m) r.ga (s.gc r) r.gb)
  | 0x05 => some (.many s3 (· < 8) fun s r => .sub r.sw (ityOf r.m) r.ga (s.gc r) r.gb)
  | 0x06 => some (.many (sACI 4) (· < 8) fun s r => .addi r.sw (ityOf r.m) r.ga (s.gc r) (s.immS r 40))
  | 0x07 => some (.many s3 (· < 8) fun s r => .mul r.sw (ityOf r.m) r.ga (s.gc r) r.gb)
  | 0x08 => some (.many s3 (· < 8) fun s r => .mulh r.sw (ityOf r.m) r.ga (s.gc r) r.gb)
  | 0x09 => some (.many s3 (· < 8) fun s r => .div r.sw (ityOf r.m) r.ga (s.gc r) r.gb)
  | 0x0A => some (.many s3 (· < 8) fun s r => .rem r.sw (ityOf r.m) r.ga (s.gc r) r.gb)
  | 0x0B => some (.one s3 fun s r => .and r.sw r.ga (s.gc r) r.gb)
  | 0x0C => some (.one s3 fun s r => .or r.sw r.ga (s.gc r) r.gb)
  | 0x0D => some (.one s3 fun s r => .xor r.sw r.ga (s.gc r) r.gb)
  | 0x0E => some (.one s3 fun s r => .andn r.sw r.ga (s.gc r) r.gb)
  | 0x0F => some (.one s3 fun s r => .shl r.sw r.ga (s.gc r) r.gb)
  | 0x10 => some (.one s3 fun s r => .shr r.sw r.ga (s.gc r) r.gb)
  | 0x11 => some (.one s3 fun s r => .sar r.sw r.ga (s.gc r) r.gb)
  | 0x12 => some (.many (sACI 1) (· < 4) fun s r => .shi r.sw (shKindOf r.m) r.ga (s.gc r) (s.immZ r 13))
  | 0x13 => some (.one s3 fun s r => .rot r.sw r.ga (s.gc r) r.gb)
  | 0x14 => some (.one s2 fun _ r => .clz r.sw r.ga r.gb)
  | 0x15 => some (.one s2 fun _ r => .popc r.sw r.ga r.gb)
  | 0x16 => some (.many s3 (· < 8) fun s r => .min r.sw (ityOf r.m) r.ga (s.gc r) r.gb)
  | 0x17 => some (.many s3 (· < 8) fun s r => .max r.sw (ityOf r.m) r.ga (s.gc r) r.gb)
  | 0x18 => some (.many s3 (· < 48) fun s r => .cmp r.sw (condOf (r.m / 8)) (ityOf (r.m % 8)) r.ga (s.gc r) r.gb)
  | 0x19 => some (.many (sACI 4) (· < 48) fun s r =>
      .cmpi r.sw (condOf (r.m / 8)) (ityOf (r.m % 8)) r.ga (s.gc r) (s.immS r 40))
  | 0x1A => some (.many s3 (· < 6) fun s r => .sel r.sw (testOf r.m) r.ga (s.gc r) r.gb)
  | 0x1B => some (.many s2 (· < 8) fun _ r => .ext r.sw (ityOf r.m) r.ga r.gb)
  | 0x1C => some (.many (sACI 1) (· < 2) fun s r => .bfx r.sw (r.m == 1) r.ga (s.gc r) (s.immZ r 13))
  | 0x1D => some (.one (sACI 1) fun s r => .bfi r.sw r.ga (s.gc r) (s.immZ r 13))
  | 0x1E => some (.many (sMem true 4) (· < 2) fun s r => .lea r.sw (r.m == 1) r.ga (s.memOp r))
  | 0x1F => some (.many (sAI true 4) (· < 8) fun s r => .br r.sw (brTestOf r.m) r.ga (s.immS r 40))
  | 0x20 => some (.one { b := .imm, kmax := 4 } fun s r => .jmp r.sw (s.immS r 40))
  | 0x21 => some (.one { b := .g, pb := true } fun _ r => .jmpr r.sw r.gb)
  | 0x22 => some (.one { b := .imm, kmax := 2 } fun s r => .calld r.sw (s.immZ r 22))
  | 0x23 => some (.one {} fun _ r => .ret r.sw)
  | 0x24 => some (.one { a := .lc, b := .g, pb := true, kmin := 1, kmax := 1 } fun s r =>
      .loop r.sw (Fin.ofNat 3 r.a) r.gb (s.immZ r 9))
  | 0x25 => some (.many (sMem true 4) (fun m => m ≤ 8 || (16 ≤ m && m ≤ 24)) fun s r =>
      .ld r.sw (ldKindOf (r.m % 16)) (r.m / 16 == 1) r.ga (s.memOp r))
  | 0x26 => some (.many (sMem true 4) (fun m => (m % 16 < 4 || m % 16 == 8) && m < 32) fun s r =>
      .st r.sw (stKindOf (r.m % 16)) (r.m / 16 == 1) r.ga (s.memOp r))
  | 0x27 => some (.many { a := .g, b := .p3, pb := true, pr := true } (fun m => m % 16 ≤ 8 && m < 48) fun _ r =>
      .ldp r.sw (ldKindOf (r.m % 16)) (pmodeOf (r.m / 16)) r.ga (BitVec.ofNat 3 r.b))
  | 0x28 => some (.many { a := .g, b := .p3, pb := true, pr := true } (fun m => (m % 16 < 4 || m % 16 == 8) && m < 48)
      fun _ r => .stp r.sw (stKindOf (r.m % 16)) (pmodeOf (r.m / 16)) r.ga (BitVec.ofNat 3 r.b))
  | 0x29 => some (.many (sMem true 4) (fun _ => true) fun s r =>
      .atom r.sw (atomOpOf (r.m % 8)) (atomTyOf (r.m / 8 % 4)) (r.m / 32 == 1) r.ga (s.memOp r))
  | 0x2A => some (.one { b := .imm, kmin := 1, kmax := 1 } fun s r => .fence r.sw (s.immZ r 13))
  | 0x2B => some (.one s3 fun s r => .send r.sw r.ga (s.gc r) r.gb)
  | 0x2C => some (.one s2 fun _ r => .take r.sw r.ga r.gb)
  | 0x2D => some (.one { a := .g, pr := true } fun _ r => .clrf r.sw r.ga)
  | 0x2E => some (.one (sMem false 4) fun s r => .mwait r.sw r.ga (s.memOp r))
  | 0x2F => some (.one { a := .g, b := .st, pb := true, pr := true } fun _ r => .srr r.sw r.ga r.gb)
  | 0x30 => some (.one { a := .st, b := .g, pb := true, pr := true } fun _ r => .srw r.sw r.ga r.gb)
  | 0x31 => some (.one { a := .p3, b := .g, pb := true } fun _ r => .epush r.sw (BitVec.ofNat 3 r.a) r.gb)
  | 0x32 => some (.one { a := .g, b := .p3, pr := true } fun _ r => .epop r.sw r.ga (BitVec.ofNat 3 r.b))
  | 0x33 => some (.one (sAI false 1) fun s r => .trap r.sw r.ga (s.immZ r 13))
  | 0x34 => some (.one { b := .imm } fun s r => .brk r.sw (s.immZ r 4))
  | 0x35 => some (.one {} fun _ r => .yield r.sw)
  | 0x36 => some (.one {} fun _ r => .quit r.sw)
  | 0x37 => some (.one { s3 with c := .gMand } fun s r => .spawn r.sw r.ga (s.gc r) r.gb)
  | 0x38 =>
    let g3 : Shape := { a := .g, b := .ch3, pb := true, pr := true }
    let g4 : Shape := { g3 with b := .ch4 }
    let n3 : Shape := { g3 with a := .none }
    let n4 : Shape := { g4 with a := .none }
    some ⟨[g3, g4, n3, n4], false,
      fun m _ =>
        if m < 6 then some (if m = 1 then n3 else g3)
        else if 8 ≤ m ∧ m < 14 then some (if m = 9 then n4 else g4)
        else none,
      fun _ r =>
        let clu := r.m / 8 == 1
        let ch := BitVec.ofNat 4 r.b
        match r.m % 8 with
        | 0 => .bar r.sw clu r.ga ch
        | 1 => .barArr r.sw clu ch
        | 2 => .barWt r.sw clu r.ga ch
        | 3 => .barFmax r.sw clu r.ga ch
        | 4 => .barImax r.sw clu r.ga ch
        | _ => .barArm r.sw clu r.ga ch⟩
  | 0x39 => some (.one { b := .p3, c := .g0, pr := true, kmax := 3 } fun s r => .ckpt r.sw (s.memOp r))
  | 0x3A =>
    let v0 : Shape := { a := .p3, b := .g, pb := true, pr := true }
    let v1 : Shape := { a := .g, b := .p3, pb := true, pr := true }
    some ⟨[v0, v1], false, fun m _ => match m with | 0 => some v0 | 1 => some v1 | _ => none,
      fun _ r => match r.m with
        | 0 => .pmov r.sw (BitVec.ofNat 3 r.a) r.gb
        | _ => .pmovGet r.sw r.ga (BitVec.ofNat 3 r.b)⟩
  | _ => none

/-- The header of a page-1 chain whose type and rounding mode are legal. -/
def Raw.vhdr (r : Raw) : VHdr :=
  { sw := r.sw, rnd := (rndOf (r.x / 4)).getD .rne, nsat := r.x / 2 % 2 == 1, ty := (etyOf (r.m % 16)).getD .f32,
    mask := BitVec.ofNat 2 (r.m / 16) }

/-- Pointer fields of a page-1 chain. -/
def Raw.pa (r : Raw) : BitVec 3 := BitVec.ofNat 3 r.a
/-- See `Raw.pa`. -/
def Raw.pb (r : Raw) : BitVec 3 := BitVec.ofNat 3 r.b
/-- See `Raw.pa`. -/
def Shape.pc (s : Shape) (r : Raw) : BitVec 3 := BitVec.ofNat 3 (s.cVal r)

/-- The type of M, where the row of R364 admits it. -/
def admitted (tr : TypeRule) (m : Nat) : Option ETy :=
  match etyOf (m % 16) with
  | some t => if tr.admits t then some t else none
  | none => none

/-- A page-1 form without a selector: `rnd t` says whether a chain of type `t` rounds. -/
def Form.vec (s : Shape) (tr : TypeRule) (rnd : ETy → Bool) (build : Shape → Raw → Instr) : Form :=
  ⟨[{ s with rounds := false }, { s with rounds := true }].filter (fun v => !v.rounds || rnd .f32), false,
    fun m _ => (admitted tr m).map fun t => { s with rounds := rnd t }, build⟩

/-- Three pointers. -/
def v3 : Shape := { a := .p3, b := .p3, c := .pA, pb := true, pr := true }
/-- Pointers A and C, B unused. -/
def v2 : Shape := { v3 with b := .none }
/-- Never rounds. -/
def never : ETy → Bool := fun _ => false

/-- A page-1 form with a selector: `ok m sel` gives the shape of a listed variant. -/
def Form.sel (shapes : List Shape) (ok : Nat → Nat → Option Shape) (build : Shape → Raw → Instr) : Form :=
  ⟨shapes, false, ok, build⟩

/-- Page 1 (R364). A non-zero M of VMSK and VMOVM is a type that their row does not admit (R361). -/
def page1 : Nat → Option Form
  | 0x00 => some (.vec v3 .fi onF fun s r => .vadd r.vhdr r.pa (s.pc r) r.pb)
  | 0x01 => some (.vec v3 .fi onF fun s r => .vsub r.vhdr r.pa (s.pc r) r.pb)
  | 0x02 => some (.vec v3 .fi onF fun s r => .vmul r.vhdr r.pa (s.pc r) r.pb)
  | 0x03 => some (.vec v3 .fi onF fun s r => .vfma r.vhdr r.pa (s.pc r) r.pb)
  | 0x04 => some (.vec v3 .fi onF fun s r => .vfms r.vhdr r.pa (s.pc r) r.pb)
  | 0x05 => some (.vec v3 .fi never fun s r => .vmin r.vhdr r.pa (s.pc r) r.pb)
  | 0x06 => some (.vec v3 .fi never fun s r => .vmax r.vhdr r.pa (s.pc r) r.pb)
  | 0x07 => some (.vec v2 .fi never fun s r => .vabs r.vhdr r.pa (s.pc r))
  | 0x08 => some (.vec v2 .fi never fun s r => .vneg r.vhdr r.pa (s.pc r))
  | 0x09 => some (.vec v3 .i never fun s r => .vand r.vhdr r.pa (s.pc r) r.pb)
  | 0x0A => some (.vec v3 .i never fun s r => .vor r.vhdr r.pa (s.pc r) r.pb)
  | 0x0B => some (.vec v3 .i never fun s r => .vxor r.vhdr r.pa (s.pc r) r.pb)
  | 0x0C => some (.vec v2 .i never fun s r => .vnot r.vhdr r.pa (s.pc r))
  | 0x0D => some (.vec v3 .i never fun s r => .vshl r.vhdr r.pa (s.pc r) r.pb)
  | 0x0E => some (.vec v3 .i never fun s r => .vshr r.vhdr r.pa (s.pc r) r.pb)
  | 0x0F => some (.vec v3 .i never fun s r => .vsar r.vhdr r.pa (s.pc r) r.pb)
  | 0x10 =>
    let v : Shape := { a := .m2, b := .p3, c := .pMand, pb := true, pr := true, kmax := 1 }
    some (.sel [v] (fun m sel => (admitted .fi m).bind fun _ => if sel < 6 then some v else none)
      fun s r => .vcmp r.vhdr (condOf r.sel) (BitVec.ofNat 2 r.a) (s.pc r) r.pb)
  | 0x11 => some (.vec v3 .all never fun s r => .vsel r.vhdr r.pa (s.pc r) r.pb)
  | 0x12 =>
    let v := { v2 with kmax := 1 }
    some (.sel [v, { v with rounds := true }, { v with rounds := true, converts := true }]
      (fun m sel =>
        match etyOf (m % 16), etyOf (sel % 16) with
        | some t, some d =>
          if sel < 128 && vcvtPartOk t d (sel / 16) then
            some { v with rounds := vcvtRounds t d, converts := d.isBlock }
          else none
        | _, _ => none)
      fun s r => .vcvt r.vhdr ((etyOf (r.sel % 16)).getD .f32) (BitVec.ofNat 3 (r.sel / 16)) r.pa (s.pc r))
  | 0x13 =>
    let v := { v3 with kmax := 1, rounds := true }
    some (.sel [v, { v with converts := true }]
      (fun m sel =>
        match admitted .f m, qfmtOf (sel % 16) with
        | some t, some q =>
          if m < 16 && sel < 128 && vqntPartOk t q (sel / 16) then some { v with converts := q != .s8 } else none
        | _, _ => none)
      fun s r => .vqnt r.vhdr ((qfmtOf (r.sel % 16)).getD .s8) (BitVec.ofNat 3 (r.sel / 16)) r.pa (s.pc r) r.pb)
  | 0x14 =>
    let v := { v3 with kmax := 1, rounds := true }
    some (.sel [v]
      (fun m sel =>
        match admitted .f m, qfmtOf (sel % 16) with
        | some t, some q => if sel < 128 && vqntPartOk t q (sel / 16) then some v else none
        | _, _ => none)
      fun s r => .vdqnt r.vhdr ((qfmtOf (r.sel % 16)).getD .s8) (BitVec.ofNat 3 (r.sel / 16)) r.pa (s.pc r) r.pb)
  | 0x15 =>
    let v := { v2 with kmax := 1 }
    some (.sel [v, { v with rounds := true }]
      (fun m sel => (admitted .fi m).bind fun t => if sel < 3 then some { v with rounds := t.isF && sel == 0 } else none)
      fun s r => .vred r.vhdr (redOpOf r.sel) r.pa (s.pc r))
  | 0x16 =>
    let v := { v2 with kmax := 1 }
    some (.sel [v, { v with rounds := true }]
      (fun m sel => (admitted .fi m).bind fun t =>
        if sel < 7 && sel % 4 < 3 then some { v with rounds := t.isF && sel % 4 == 0 } else none)
      fun s r => .vscan r.vhdr (redOpOf (r.sel % 4)) (r.sel / 4 == 1) r.pa (s.pc r))
  | 0x17 =>
    let vl := { v2 with kmax := 1 }
    let vr : Shape := { a := .p3, b := .g, pb := true, pr := true, kmax := 1 }
    some (.sel [vl, vr]
      (fun m sel => (admitted .all m).bind fun t =>
        if sel = 256 then some vr else if sel < 256 && sel < t.lanes then some vl else none)
      fun s r => if r.sel = 256 then .vbcast r.vhdr r.pa (.reg r.gb)
        else .vbcast r.vhdr r.pa (.lane (s.pc r) (BitVec.ofNat 8 r.sel)))
  | 0x18 => some (.vec { a := .p3, pb := true, pr := true } .i never fun _ r => .viota r.vhdr r.pa)
  | 0x19 => some (.vec v3 .all never fun s r => .vperm r.vhdr r.pa (s.pc r) r.pb)
  | 0x1A =>
    let v : Shape := { a := .p3, b := .p3, pb := true, pr := true, kmax := 1 }
    some (.sel [v] (fun m sel => (admitted .elems m).bind fun _ => if sel < 8 then some v else none)
      fun _ r => .vgath r.vhdr r.pa r.pb (BitVec.ofNat 3 r.sel))
  | 0x1B =>
    let v : Shape := { a := .p3, b := .p3, pb := true, pr := true, kmax := 1 }
    some (.sel [v] (fun m sel => (admitted .elems m).bind fun _ => if sel < 8 then some v else none)
      fun _ r => .vscat r.vhdr r.pa r.pb (BitVec.ofNat 3 r.sel))
  | 0x1C =>
    let v := { v2 with kmax := 1, rounds := true }
    some (.sel [v] (fun m sel => (admitted .f m).bind fun _ => (sfuOf sel).map fun _ => v)
      fun s r => .vsfu r.vhdr ((sfuOf r.sel).getD .rcp) r.pa (s.pc r))
  | 0x1D =>
    let v : Shape := { a := .m2, b := .m2, c := .mA, pb := true, pr := true, kmax := 1 }
    let vn := { v with b := .none }
    some ⟨[v, vn], false, fun m sel => if m = 0 then (if sel < 4 then some v else if sel = 4 then some vn else none) else none,
      fun s r => .vmsk r.sw (mskOpOf r.sel) (BitVec.ofNat 2 r.a) (BitVec.ofNat 2 (s.cVal r)) (BitVec.ofNat 2 r.b)⟩
  | 0x1E =>
    let vp : Shape := { a := .m2, b := .g, pb := true, pr := true, kmax := 1 }
    let vg : Shape := { a := .g, b := .m2, pb := true, pr := true, kmax := 1 }
    some ⟨[vp, vg], false, fun m sel => if m = 0 then (if sel = 0 then some vp else if sel < 3 then some vg else none) else none,
      fun _ r => match r.sel with
        | 0 => .vmovm r.sw (.put (BitVec.ofNat 2 r.a) r.gb)
        | 1 => .vmovm r.sw (.get r.ga (BitVec.ofNat 2 r.b))
        | _ => .vmovm r.sw (.cnt r.ga (BitVec.ofNat 2 r.b))⟩
  | 0x1F => some (.vec v3 .all TypeRule.upTo5.admits fun s r => .vdot r.vhdr r.pa (s.pc r) r.pb)
  | 0x20 => some (.vec v3 .fi never fun s r => .vclamp r.vhdr r.pa (s.pc r) r.pb)
  | 0x21 => some (.vec v2 .upTo5 never fun s r => .vamax r.vhdr r.pa (s.pc r))
  | _ => none

/-- The rounding mode of a chain that rounds. -/
def Raw.rnd (r : Raw) : Rnd := (rndOf (r.x / 4)).getD .rne
/-- NSAT (R47). -/
def Raw.nsat (r : Raw) : Bool := r.x / 2 % 2 == 1
/-- Field A as a tile. -/
def Raw.acc (r : Raw) : BitVec 2 := BitVec.ofNat 2 r.a

/-- Page 2 (R391). -/
def page2 : Nat → Option Form
  | 0x00 => some (.many { b := .g, pb := true } (· < 2) fun _ r => .mgath r.sw (r.m == 1) r.gb)
  | 0x01 => some (.listed { b := .g, pb := true } fun _ r => .mald r.sw r.gb)
  | 0x02 => some (.listed { b := .g, pb := true } fun _ r => .mbld r.sw r.gb)
  | 0x03 => some (.many { a := .m2, b := .imm, pb := true } (· < 8) fun _ r =>
      .mma r.sw (r.m % 2 == 1) (r.m / 2 % 2 == 1) (r.m / 4 % 2 == 1) r.acc (BitVec.ofNat 4 r.bl))
  | 0x04 => some (.many { a := .m2, pb := true } (· < 4) fun _ r => .mzero r.sw (r.m % 2 == 1) (r.m / 2 % 2 == 1) r.acc)
  | 0x05 => some (.listed { a := .m2, b := .g, pb := true, rounds := true, converts := true } fun _ r =>
      .mrd r.sw r.rnd r.nsat r.acc r.gb)
  | 0x06 => some (.listed { a := .m2, b := .g, pb := true } fun _ r => .mwr r.sw r.acc r.gb)
  | 0x07 => some (.many { b := .g, pb := true } (· < 2) fun _ r => .mscl r.sw (r.m == 1) r.gb)
  | 0x08 => some (.one { a := .g, pr := true } fun _ r => .mstat r.sw r.ga)
  | 0x09 => some (.listed { a := .m2, b := .g, pb := true, rounds := true } fun _ r => .baddq r.sw r.rnd r.acc r.gb)
  | _ => none

/-- Page 3 (R138, R180, R181, R256, R257, R261, R279, R458, R460). -/
def page3 : Nat → Option Form
  | 0x00 => some (.one { a := .p3, b := .g, pb := true } fun _ r => .segw r.sw (BitVec.ofNat 3 r.a) r.gb)
  | 0x01 => some (.many { a := .g, b := .p3, pb := true, pr := true } (· < 2) fun _ r =>
      if r.m = 0 then .segr r.sw r.ga (BitVec.ofNat 3 r.b) else .segrHi r.sw r.ga (BitVec.ofNat 3 r.b))
  | 0x02 => some (.one (sMem false 3) fun s r => .pgprobe r.sw r.ga (s.memOp r))
  | 0x03 => some (.many s2 (· < 3) fun _ r =>
      .tlbinv r.sw (match r.m with | 0 => .addr | 1 => .all | _ => .every) r.ga r.gb)
  | 0x04 =>
    let va : Shape := { a := .g, pb := true, pr := true }
    some ⟨[s2, va], false, fun m _ => match m with | 0 => some s2 | 1 => some va | _ => none,
      fun _ r => if r.m = 0 then .codeinv r.sw r.ga r.gb else .codeinvAll r.sw r.ga⟩
  | 0x05 => some (.one { b := .imm, kmax := 3 } fun s r => .fbegin r.sw (s.immS r 31))
  | 0x06 => some (.one {} fun _ r => .fcommit r.sw)
  | 0x07 => some (.one {} fun _ r => .fabort r.sw)
  | 0x08 => some (.many s2 (· < 5) fun _ r => match r.m with
      | 0 => .spill r.sw r.ga r.gb
      | 1 => .spillHold r.sw r.ga r.gb
      | 2 => .spillRel r.sw r.ga r.gb
      | 3 => .spillBase r.sw r.ga r.gb
      | _ => .spillCkpt r.sw r.ga r.gb)
  | 0x09 => some (.one s2 fun _ r => .csave r.sw r.ga r.gb)
  | 0x0A => some (.one s2 fun _ r => .cload r.sw r.ga r.gb)
  | _ => none

/-- Page 4 (R232). -/
def page4 : Nat → Option Form
  | 0x00 => some (.listed { s3 with c := .gMand } fun s r => .fork r.sw r.ga (s.gc r) r.gb)
  | 0x01 => some (.one (sMem false 3) fun s r => .join r.sw r.ga (s.memOp r))
  | 0x02 => some (.one (sMem false 3) fun s r => .depnew r.sw r.ga (s.memOp r))
  | 0x03 => some (.one (sMem false 3) fun s r => .deppub r.sw r.ga (s.memOp r))
  | 0x04 => some (.many (sMem true 3) (· < 2) fun s r => .signal r.sw (r.m == 1) r.ga (s.memOp r))
  | 0x05 => some (.many (sMem true 3) (· < 3) fun s r =>
      .enq r.sw (match r.m with | 0 => .core | 1 => .clu | _ => .die) r.ga (s.memOp r))
  | 0x06 => some (.many { a := .g, pb := true, pr := true } (· < 3) fun _ r =>
      .taskid r.sw (match r.m with | 0 => .tid | 1 => .info | _ => .join) r.ga)
  | 0x07 => some (.listed s2 fun _ r => .steal r.sw r.ga r.gb)
  | _ => none

/-- Page 5 (R322, R334, R340, R435). -/
def page5 : Nat → Option Form
  | 0x00 => some (.one s2 fun _ r => .book r.sw r.ga r.gb)
  | 0x01 => some (.many s2 (· < 2) fun _ r => if r.m = 0 then .bkq r.sw r.ga r.gb else .bkqWt r.sw r.ga r.gb)
  | 0x02 => some (.one s2 fun _ r => .bkcan r.sw r.ga r.gb)
  | 0x03 => some (.one {} fun _ r => .bkend r.sw)
  | 0x04 => some (.many s2 (· < 2) fun _ r => if r.m = 0 then .gang r.sw r.ga r.gb else .gangCancel r.sw r.ga r.gb)
  | 0x05 => some (.one { a := .g, b := .imm, pr := true } fun _ r => .pipew r.sw r.ga (BitVec.ofNat 4 r.bl))
  | 0x06 =>
    let vt : Shape := { a := .g, b := .imm, pb := true, pr := true }
    let vd := { vt with a := .none }
    some ⟨[vt, vd], false, fun m _ => match m with | 0 => some vt | 1 => some vd | _ => none,
      fun _ r => if r.m = 0 then .piper r.sw r.ga (BitVec.ofNat 4 r.bl) else .piperDone r.sw (BitVec.ofNat 4 r.bl)⟩
  | 0x07 => some (.listed s2 fun _ r => .hnew r.sw r.ga r.gb)
  | 0x08 => some (.listed s2 fun _ r => .hcopy r.sw r.ga r.gb)
  | 0x09 => some (.many { a := .g, pb := true, pr := true } (· < 2) fun _ r =>
      if r.m = 0 then .hdrop r.sw r.ga else .hdropLost r.sw r.ga)
  | 0x0A => some (.listed s2 fun _ r => .hbind r.sw r.ga r.gb)
  | 0x0B => some (.listed s3 fun s r => .hsend r.sw r.ga (s.gc r) r.gb)
  | 0x0C =>
    let v0 : Shape := { s3 with b := .p3 }
    let v1 : Shape := { s3 with b := .none }
    some ⟨[v0, v1], false, fun m _ => match m with | 0 => some v0 | 1 => some v1 | 2 => some v1 | _ => none,
      fun s r => match r.m with
        | 0 => .haddr r.sw r.ga (s.gc r) (BitVec.ofNat 3 r.b)
        | 1 => .haddrLen r.sw r.ga (s.gc r)
        | _ => .haddrWt r.sw r.ga (s.gc r)⟩
  | _ => none

/-- Page 6 (R453, R462, R463, R465). -/
def page6 : Nat → Option Form
  | 0x00 => some (.one s2 fun _ r => .mcw r.sw r.ga r.gb)
  | 0x01 => some (.one s3 fun s r => .mcsend r.sw r.ga (s.gc r) r.gb)
  | 0x02 => some (.one s2 fun _ r => .rslot r.sw r.ga r.gb)
  | 0x03 => some (.one s3 fun s r => .redc r.sw r.ga (s.gc r) r.gb)
  | 0x04 => some (.one s2 fun _ r => .redw r.sw r.ga r.gb)
  | 0x05 => some (.many s2 (· < 2) fun _ r => if r.m = 0 then .lnkst r.sw r.ga r.gb else .lnkstCtl r.sw r.ga r.gb)
  | _ => none

/-- Page 15 (R162). -/
def page15 : Nat → Option Form
  | 0x00 => some (.many (sMem true 3) (· < 16) fun s r => .ldmb r.sw (BitVec.ofNat 4 r.m) r.ga (s.memOp r))
  | 0x01 => some (.many (sMem true 3) (· < 16) fun s r => .stmb r.sw (BitVec.ofNat 4 r.m) r.ga (s.memOp r))
  | 0x02 => some (.one (sMem false 3) fun s r => .blkcp r.sw r.ga (s.memOp r))
  | 0x03 => some (.one (sMem false 3) fun s r => .crcb r.sw r.ga (s.memOp r))
  | _ => none

/-- The opcode map (R58, R59, R60). -/
def formOf (page op : Nat) : Option Form :=
  match page with
  | 0 => page0 op
  | 1 => page1 op
  | 2 => page2 op
  | 3 => page3 op
  | 4 => page4 op
  | 5 => page5 op
  | 6 => page6 op
  | 15 => page15 op
  | _ => none

/-- A refusal that every listed variant makes (R491). -/
def Form.allRefuse (f : Form) (r : Raw) : Bool :=
  match f.shapes.map (fun s => s.refusals r) with
  | [] => false
  | l :: ls => (ls.foldl (fun acc x => List.zipWith (· && ·) acc x) l).any id

/-- Steps 2 to 5 of R52 for a scanned chain. -/
def checkForm (r : Raw) : Except BadChain (Shape × Instr) :=
  let bad (illegal : Bool) : Except BadChain (Shape × Instr) := .error ⟨illegal, r.len - 1, r.page, r.op⟩
  match formOf r.page r.op with
  | none => bad false
  | some f =>
    match f.pick r.m r.sel with
    | some s =>
      if (s.refusals r).any id then bad true
      else if s.rounds && (rndOf (r.x / 4)).isNone then bad false
      else .ok (s, f.build s r)
    | none => if (f.single && r.m != 0) || f.allRefuse r then bad true else bad false

/-- The decoded chain: its fields, the shape of its variant, and the instruction. -/
structure Chain where
  raw : Raw
  shape : Shape
  instr : Instr
deriving DecidableEq, Repr

/-- The decoder: total on any halfwords, the first of them the one that execution enters, the last CodeEnd. -/
def decodeChain (ws : List Half) : Except BadChain Chain :=
  match scan ws 0 0 {} with
  | .error e => .error e
  | .ok r =>
    match checkForm r with
    | .error e => .error e
    | .ok (s, i) => .ok ⟨r, s, i⟩

/-- The instruction and the number of its halfwords. -/
def decode (ws : List Half) : Except BadChain (Instr × Nat) :=
  match decodeChain ws with
  | .error e => .error e
  | .ok c => .ok (c.instr, c.raw.len)

/-- `g` registers that the chain names, in the order A, C, B of R52 step 7. -/
def Chain.gRegs (c : Chain) : List Nat :=
  (if c.shape.a = .g then [c.raw.a] else []) ++
  (match c.shape.c with
   | .gA => [c.shape.cVal c.raw]
   | .g0 => [c.shape.cVal c.raw]
   | .gMand => [c.shape.cVal c.raw]
   | _ => []) ++
  (if c.shape.b = .g then [c.raw.b] else [])

/-- Service-only forms (R59, R181, R257, R261, R453, R462). -/
def serviceOnly : Instr → Bool
  | .tlbinv _ _ _ _ => true
  | .spill _ _ _ => true
  | .spillHold _ _ _ => true
  | .spillRel _ _ _ => true
  | .spillBase _ _ _ => true
  | .spillCkpt _ _ _ => true
  | .csave _ _ _ => true
  | .cload _ _ _ => true
  | .mcw _ _ _ => true
  | .lnkstCtl _ _ _ => true
  | _ => false

/-! ### The words of an instruction -/

/-- A prefix word (R43). -/
def pfx (op payload : Nat) : Half := BitVec.ofNat 16 (op * 512 + payload)

/-- The PX words of an immediate, the most significant first (R45). -/
def pxWords : Nat → Nat → List Half
  | 0, _ => []
  | k + 1, v => pfx 0x3C (v / 512 ^ k % 512) :: pxWords k v

/-- The immediate's encoded bits. -/
def FullForm.immBits (f : FullForm) : Nat :=
  match f.imm with
  | none => 0
  | some i => i.val % 2 ^ i.bitsAt f.k

/-- B is the low part of the immediate. -/
def FullForm.immInB (f : FullForm) : Bool :=
  match f.imm with
  | none => false
  | some i => i.inB

/-- PR[6:0]. -/
def FullForm.cBits (f : FullForm) : Nat :=
  match f.c with
  | .absent => 0
  | .val c _ => c

/-- The shortest chain of a full form (R57). -/
def FullForm.words (f : FullForm) : List Half :=
  let pg := if f.needPG then [pfx 0x3F (f.page * 32 + f.x)] else []
  let pb := if f.needPB then [pfx 0x3E (f.bHigh * 64 + f.m)] else []
  let pr := if f.needPR then [pfx 0x3D (f.a / 32 * 128 + f.cBits)] else []
  let px := pxWords f.k (if f.immInB then f.immBits / 16 else f.immBits)
  let bl := if f.immInB then f.immBits % 16 else f.b % 16
  pg ++ pb ++ pr ++ px ++ [BitVec.ofNat 16 (bit f.sw * 32768 + f.op * 512 + f.a % 32 * 16 + bl)]

/-- The words of a well-formed instruction; none for a step without an encoding. -/
def encode (i : Instr) : Option (List Half) := i.fullForm.map FullForm.words

/-! ### The opcode table's words -/

/-- The halfwords of a table word of 16 or 32 bits, in the order they lie in memory: the table writes the first
halfword of a chain at the top (its 32-bit rows hold the prefix in bits 31:16 and the base word in bits 15:0). -/
def tableHalves (nbits w : Nat) : List Half :=
  if nbits ≤ 16 then [BitVec.ofNat 16 w]
  else if nbits ≤ 32 then [BitVec.ofNat 16 (w / 65536), BitVec.ofNat 16 w]
  else [BitVec.ofNat 16 (w / 4294967296), BitVec.ofNat 16 (w / 65536), BitVec.ofNat 16 w]

/-- The instruction that the decoder reads from a word of the opcode table. -/
def decodeTableWord (nbits w : Nat) : Option Instr :=
  match decode (tableHalves nbits w) with
  | .ok (i, _) => some i
  | .error _ => none

end Sys2Proof
end

