-- ==== Sys2Proof/Machine/State.lean ====
section
/-! DEFINITION. The state of the module as plain data, the reasons a step can stop, and the state after reset
(INVENTORY.md lists every field with the rule that names it). `Hw` holds everything but the contents of memory. -/

namespace Sys2Proof.Machine

/-- Sparse data by number: keys strictly rising where built by `SMap.set`; an absent key reads as the default given to
`SMap.get`. -/
abbrev SMap (α : Type) := List (Nat × α)

namespace SMap

/-- The value at a key. -/
def find? {α : Type} : SMap α → Nat → Option α
  | [], _ => none
  | (k, v) :: r, j => if k = j then some v else find? r j

/-- The value at a key, `d` where the key is absent. -/
def get {α : Type} (d : α) (m : SMap α) (j : Nat) : α := (find? m j).getD d

/-- Replaces or inserts the value at a key, keys rising. -/
def set {α : Type} : SMap α → Nat → α → SMap α
  | [], j, v => [(j, v)]
  | (k, w) :: r, j, v => if j < k then (j, v) :: (k, w) :: r else if j = k then (j, v) :: r else (k, w) :: set r j v

/-- Removes a key. -/
def erase {α : Type} (m : SMap α) (j : Nat) : SMap α := m.filter (fun e => e.1 != j)

end SMap

/-! ### The context (04_context) -/

/-- States of a context (R83), of a slot between choice and start (R242), and of a slot between a `QUIT`, or the discard of a Faulted
context, and the cycle from which it is Free (R86, R97). -/
inductive CtxState where
  | free | booked | starting | ready | parked | spilled | faulted
  | leaving (faulted : Bool)
deriving DecidableEq, Repr

/-- Park reasons (R84) with what the part waits for. -/
inductive Park where
  | memory
  | fence                            -- reason memory: a chain that a pending fence holds (R188)
  | commit                           -- reason memory: FCOMMIT waits for its region's operations (R460)
  | other                            -- reason memory: a wait without an access of the chain's own (R462)
  | fullBit (reg : Nat)
  | code (entry : Nat)
  | page (va : Nat)
  | barrier (clu : Bool) (ch : Nat)
  | monitor (addr : Nat)
  | pipe (ep : Nat)
  | engine (f : Nat)                 -- what it waits for: a FIFO 1 to 4, 8 the copy queue, others with their forms
deriving DecidableEq, Repr

/-- Codes of the park reasons (R84). -/
def Park.num : Park → Nat
  | .memory => 1 | .fence => 1 | .commit => 1 | .other => 1 | .fullBit _ => 2 | .code _ => 3 | .page _ => 4 | .barrier _ _ => 5 | .monitor _ => 6 | .pipe _ => 7
  | .engine _ => 8

/-- A segment register (R136): 72-bit base, 40-bit length, space and rights. -/
structure Seg where
  base : Nat
  len : Nat
  virt : Bool
  g : Bool
  xn : Bool
  w : Bool
  r : Bool
deriving DecidableEq, Repr

/-- The empty segment, the reset value (R136). -/
def Seg.none : Seg := ⟨0, 0, false, false, false, false, false⟩

/-- A scratch pointer (R75, R101). -/
structure Ptr where
  off : BitVec 20
  inc : BitVec 16
deriving DecidableEq, Repr

/-- A loop level (R133). -/
structure LoopLv where
  active : Bool
  start : Nat
  fin : Nat
  lc : BitVec 32
deriving DecidableEq, Repr

/-- A result of the context's own that is outstanding for a register (R85, R89, R107): one of fixed latency with its
value and the cycle at which it is readable, one still to come by itself, or the reply of a `TRAP` (R99). -/
inductive Pend where
  | fixed (reg cycle : Nat) (val : Word)
  | async (reg txn : Nat)
  | trap (reg txn : Nat)
deriving DecidableEq, Repr

/-- A mask result outstanding (R362): the mask, the cycle at which it is readable, the value; `job` is the vector form that is
still to compute it. -/
structure MaskPend where
  mask : Nat
  cycle : Nat
  val : BitVec 256
  job : Option Nat
deriving DecidableEq, Repr

/-- A write that governs chains from a later cycle: SEGW (R138) and SRW (R78). -/
inductive LateOp where
  | seg (n : Nat) (v : Seg)
  | status (n : Nat) (v : Word)
deriving DecidableEq, Repr

/-- See `LateOp`. -/
structure Late where
  cycle : Nat
  op : LateOp
deriving DecidableEq, Repr

/-- Classes of R183; plain accesses belong to none. -/
inductive Cls where
  | plain | r | w | a | e | i
deriving DecidableEq, Repr

/-- A fault as FRA and FRB report it (R81, R82). `orph`: the issuer has quit. -/
structure FaultRec where
  cause : Cause
  sub : Nat
  frb : Nat
  ahi : Nat
  pc : Nat
  entry : Nat
  page : Nat
  op : Nat
  widx : Nat
deriving DecidableEq, Repr

/-- The chain that is being issued (R54, R81): where it stands, what FRA reports of it, its halfwords. -/
structure Cur where
  core : Nat
  slot : Nat
  entry : Nat
  pc : Nat
  page : Nat
  op : Nat
  len : Nat
  words : Nat
  codeEnd : Nat
deriving DecidableEq, Repr

/-- The split barrier record (R204, R246). -/
structure SplitRec where
  valid : Bool
  clu : Bool
  reld : Bool
  dep : Bool
  chan : Nat
  phase : Nat                        -- the phase of the arrival; once that is released, the release word's
  val : BitVec 32
  wt : Option Nat                    -- the `.wt` that waits for the release, by its transaction
deriving DecidableEq, Repr

/-- A pending fence (R187, R246). -/
structure FenceRec where
  set : List Nat                     -- transactions of Set not yet performed
  succ : Nat
  fail : Option Nat                  -- module of the earliest-issued member that failed (R190), by transaction order
  failTxn : Nat
  imm : Nat                          -- the fence's immediate (R246)
deriving DecidableEq, Repr

/-- A remote-failure region (R458 to R460): its target offset, the operations it holds that are not yet performed, and its
failure of the earliest issue: transaction, cause, target core. -/
structure Region where
  target : Nat
  ops : List Nat
  own : List Nat                     -- its `SEND`s to its own core, which it does not wait for (R88)
  failed : Option (Nat × Nat × Nat)
deriving DecidableEq, Repr

/-- A write that a paired half's signature folds in, in issue order; its bytes may come later (R237). -/
structure SigItem where
  txn : Nat
  msg : Option (List Byte)
deriving DecidableEq, Repr

/-- What a task carries from its record (R221, R222, R227, R236, R240). -/
structure TaskInfo where
  isTask : Bool                      -- started by a dispatcher or a booking (R240)
  tid : Nat
  origin : Nat
  joina : Nat
  slist : Nat
  succn : Nat
  half : Nat
  run : Nat
  sig : BitVec 64
  sigq : List SigItem                -- writes not yet folded into the signature
  trec : BitVec 1024                 -- its record, as it was started
  booked : Nat                       -- the booking it was created for, 0 for none
deriving DecidableEq, Repr

/-- No task. -/
def TaskInfo.none : TaskInfo := ⟨false, 0, 0, 0, 0, 0, 0, 0, 0, [], 0, 0⟩

/-- A context (R75, R77). -/
structure Ctx where
  st : CtxState
  freeAt : Nat
  uid : Nat
  wbase : Nat
  wsize : Nat
  kernel : BitVec 256                -- the digest that it starts with
  begun : Bool                       -- it executes in `entry`, which counts it in RUN (R268)
  entry : Nat
  pc : Nat
  sg : SMap Seg
  p : SMap Ptr
  ptrAt : SMap Nat                   -- cycle at which a moved pointer is readable (R101)
  lp : SMap LoopLv
  m : SMap (BitVec 256)
  ts : BitVec 64
  fra : BitVec 64
  frb : BitVec 64
  xstep : BitVec 64
  role : BitVec 64
  prio : BitVec 2
  otag : BitVec 12
  gset : BitVec 3
  prin : BitVec 32
  linksp : BitVec 20
  ckptb : BitVec 20
  steald : BitVec 2
  taskr : BitVec 20
  bookid : BitVec 16
  park : Option Park
  pend : List Pend                   -- results outstanding, in issue order
  just : List Nat                    -- registers written by own results in this cycle (R90)
  maskPend : List MaskPend
  late : List Late
  parkCur : Option Cur               -- the chain at which it is parked (R54)
  access : Option Cur                -- the chain of a plain access in progress (R143)
  plainSw : Bool                     -- and its S
  limWait : Bool                     -- held by an outstanding-access limit (R144)
  arrHeld : Bool                     -- its cluster-scope `.arr` counts in the next phase, until which it waits (R203)
  swWait : Bool
  yieldWait : Option (Nat × List Nat)  -- expiry transaction, slots still to issue (R98)
  w : Nat
  notBefore : Nat
  hazOn : Option Nat                 -- register whose asynchronous result a hazard wait waits for (R85, R211)
  deferred : List FaultRec           -- faults to be taken at the next chain boundary (R146)
  imaged : Bool                      -- Spilled, its image written (R249)
  woke : Bool                        -- Spilled, the wake of its reason has come (R247)
  split : SplitRec
  fence : Option FenceRec
  region : Option Region
  quiet : List Nat                   -- operations of a region that was rolled back: their failures mark nothing (R195)
  task : TaskInfo
  ckptMark : Option (Nat × Nat × Nat)  -- pending `spill.ckpt`: its requester's core, slot and transaction (R257)
  gang : Option (Nat × Nat)          -- gang word's node cluster and channel (R334)
  noGrant : Bool                     -- made Spilled by CLOAD, it uses no grant set yet (R416)
  waiting : Option (Nat × Nat × Bool)  -- result that the chain it is parked at will write: register, transaction, was full (R203, R326)
deriving DecidableEq, Repr

/-- An empty split barrier record. -/
def SplitRec.none : SplitRec := ⟨false, false, false, false, 0, 0, 0, Option.none⟩

/-- A Free slot as reset leaves it (R77, R83). -/
def Ctx.free : Ctx :=
  { st := .free, freeAt := 0, uid := 0, wbase := 0, wsize := 8, kernel := 0, begun := false, entry := 0, pc := 0, sg := [], p := [], ptrAt := [], lp := [], m := [],
    ts := 0, fra := 0, frb := 0, xstep := 0, role := 0xA, prio := 0, otag := 0, gset := 0, prin := 0, linksp := 0,
    ckptb := 0, steald := 1, taskr := 0, bookid := 0, park := none, pend := [], just := [], maskPend := [], late := [], parkCur := none, access := none, plainSw := false, limWait := false, arrHeld := false,
    swWait := false, yieldWait := none, w := 0, notBefore := 0, hazOn := none, deferred := [], imaged := false, woke := false, split := .none,
    fence := none, region := none, quiet := [], task := .none, ckptMark := none, gang := none, noGrant := false, waiting := none }

/-! ### The core (01_machine R16) -/

/-- A write of a core-common register and the cycle from which chains see it (R115). -/
structure CcWrite where
  reg : Nat
  val : Word
  seen : Nat
deriving DecidableEq, Repr

/-- An entry of the overflow deque (R91) and its place in the ring. -/
structure OvfEntry where
  pos : Nat
  val : Word
  reg : Nat
  slot : Nat
  sender : Nat
deriving DecidableEq, Repr

/-- A run of bytes that the copy engine has read: offset in the command, the bytes, the tag, the poison (R141). -/
structure CopyRun where
  off : Nat
  bytes : List Byte
  tag : Nat
  poison : Bool
deriving DecidableEq, Repr

/-- Destination bytes within one sector whose source bytes have been read, and the first cycle in which they can be written (R156). -/
structure CopySeg where
  off : Nat
  len : Nat
  ready : Nat
deriving DecidableEq, Repr

/-- How far a copy command has come (R156, R157, R159). -/
structure CopyProg where
  ls : Nat                           -- L of the source and of the destination
  ld : Nat
  rate : Nat                         -- cycles from one sector to the next
  chunked : Bool
  rd : Nat                           -- source bytes read
  cut : Nat                          -- destination bytes whose source has been read or given up
  buf : List CopyRun                 -- read and not yet written
  segs : List CopySeg
  next : Nat                         -- first cycle of the next write
  stop : Option (Nat × Nat × Nat)    -- the first failure: status, cause, target
  until_ : Nat                       -- the cycle in which its report is back
  heldR : Option Nat                 -- the address of a page that the reads wait for (R177)
  heldW : Option Nat                 -- the address of a page that the writes wait for
  rwait : Bool                       -- the reads wait for the writes
  sig : List Byte                    -- what the command has written, for a signature (R237)
deriving DecidableEq, Repr

/-- A command that has not started. -/
def CopyProg.reset : CopyProg := ⟨0, 0, 0, false, 0, 0, [], [], 0, none, 0, none, none, false, []⟩

/-- A command of the copy engine (R155, R156): its words, who pushed it and under what identity. -/
structure CopyCmd where
  txn : Nat
  slot : Nat
  uid : Nat
  ident : Nat                        -- ID
  fill : Bool
  src : Nat
  srcVirt : Bool
  dst : Nat
  dstVirt : Bool
  len : Nat
  pat : BitVec 64
  otag : Nat
  tenant : Nat
  svc : Bool
  chain : Cur
  waits : List Nat                   -- earlier stores of the context that it follows (R158)
  done : Nat                         -- destination bytes written
  poison : Bool                      -- poisoned data has been carried
  seg : Nat                          -- DSEG and DOFF (R157, R237)
  off : Nat
  prog : CopyProg
deriving DecidableEq, Repr

/-- A completion in `e1`, `e2` or `e3`, and the incarnation that it belongs to (R153). -/
structure Compl where
  uid : Nat
  word : Word
deriving DecidableEq, Repr

/-- A monitor entry at a bank or a DRAM channel (R152): the context and the sector. -/
structure Monitor where
  core : Nat
  slot : Nat
  uid : Nat
  sector : Nat
deriving DecidableEq, Repr

/-- A grant set (R416): state 0 Empty, 1 Loading, 2 Ready, its principal, its users and its 4,096 bits, which grant nothing
before it is Ready. -/
structure GrantSet where
  state : Nat
  owner : Nat
  users : Nat
  bits : BitVec 4096
deriving DecidableEq, Repr

/-- Combining kinds of a barrier phase (R203). -/
inductive Comb where
  | plain | fmax | imax
deriving DecidableEq, Repr

/-- A context that waits for the release of a phase, or whose arrival waits for the next phase (R203): the kind of its BAR,
its value, its chain with S, and whether its register was full. -/
structure BarWait where
  core : Nat
  slot : Nat
  uid : Nat
  kind : Nat
  val : Nat
  reg : Nat
  txn : Nat
  chain : Cur
  sw : Bool
deriving DecidableEq, Repr

/-- A release decided and not yet written (R207): its word, the waiters, the contexts with a split arrival. -/
structure BarRel where
  word : Nat
  waiters : List BarWait
  splits : List (Nat × Nat × Nat)
deriving DecidableEq, Repr

/-- A barrier channel (R196 to R208). It is Idle while it is not active, Gathering once something has arrived, Released while
`releasing`. -/
structure Chan where
  active : Bool
  mask : BitVec 64
  arrived : BitVec 64
  phase : BitVec 16
  comb : Comb
  val : Option Nat                   -- combined value, of 32 bits
  dep : Bool
  releasing : Bool
  waiters : List BarWait             -- of the phase
  splits : List (Nat × Nat × Nat)    -- core, slot, incarnation (R204)
  held : List BarWait                -- arrivals that count in the next phase
  rels : List BarRel
  gang : Bool                        -- held by a gang (R198)
deriving DecidableEq, Repr

/-- An idle channel (R196). -/
def Chan.idle : Chan := ⟨false, 0, 0, 0, .plain, none, false, false, [], [], [], [], false⟩

/-! ### Gangs and pipes (16_group) -/

/-- A member that has joined a forming gang (R334): the register of its status, its chain, its pipe table. -/
structure GangJoin where
  core : Nat
  slot : Nat
  uid : Nat
  reg : Nat
  txn : Nat
  chain : Cur
  sw : Bool
  table : List Nat
deriving DecidableEq, Repr

/-- States of a gang (R336). -/
inductive GangState where
  | forming | formed | broken
deriving DecidableEq, Repr

/-- A gang, held under the number of its cluster channel (R332, R336, R337). -/
structure Gang where
  word : Nat
  gid : Nat
  booking : Nat                      -- 0 for a gang without a booking
  members : List Nat                 -- global core numbers, by index
  joins : List GangJoin
  left : List Nat                    -- members that have departed
  state : GangState
  faulted : Nat                      -- the member that faulted first
  formedAt : Nat                     -- the cycle of its formation, which tells one gang of a channel from the next
deriving DecidableEq, Repr

/-- A matrix phase of a gang under way (R400): its channel, formation and members, and who has arrived: core, transaction and the
cycle at which the command would start. -/
structure MPhase where
  chan : Nat
  formed : Nat
  members : List Nat
  arrived : List (Nat × Nat × Nat)
deriving DecidableEq, Repr

/-- A pipe endpoint (R338). -/
structure Pipe where
  write : Bool
  peer : Nat                         -- global core number
  buf : Nat
  width : Nat
  depth : Nat
  wc : BitVec 32
  fc : BitVec 32
  tc : BitVec 32
  held : Bool
deriving DecidableEq, Repr

/-! ### Queues (11_queue) -/

/-- A record in a queue (R225 to R228): its place in the order of first entry, its latest entry into this queue, and how often
it has been skipped for its window. -/
structure QEntry where
  rec_ : BitVec 1024
  order : Nat
  entered : Nat
  skips : Nat
  requeue : Option (Nat × Nat)       -- core and slot whose overrun image it releases (R319)
  half : Option (Nat × Nat)          -- a half of a paired task (R237): which, and the cluster that runs it
deriving DecidableEq, Repr

/-- A deque (R230): entries from the thief end to the owner end, by their place in the ring. -/
structure Deque where
  thief : Nat
  owner : Nat
  next : Nat                         -- the first cycle in which its engine is free
deriving DecidableEq, Repr

/-- A thief's walk (R231): the candidates that are left, a request outstanding, the cycle until which it waits, the entry it
has taken and not yet started. -/
structure StealWalk where
  left : List Nat
  out : Bool
  until_ : Nat
  entry : Option (BitVec 768)
deriving DecidableEq, Repr

/-- The queue of a tenant on a die (R225). -/
structure DieQueue where
  cap : Nat
  setup : Nat
  entries : List QEntry
  held : List QEntry                 -- insertions that wait for room
deriving DecidableEq, Repr

/-! ### The spill engine (12_preempt) -/

/-- What the spill engine does (R253): a spill with its TRIG, HOLD and whom it answers, an image copy of a Faulted context, a
checkpoint save with its ranges, a restore. -/
structure SpillOp where
  slot : Nat
  uid : Nat
  trig : Nat
  hold : Nat
  restore : Bool
  answer : Option (Nat × Nat)        -- requester's core and transaction
  ranges : List (Nat × Nat)          -- scratch keys and lengths (R259)
  due : Nat                          -- the cycle at which it ends
deriving DecidableEq, Repr

/-- A SPILL request that waits at its target (R253). -/
structure SpillReq where
  slot : Nat
  hold : Bool
  core : Nat
  txn : Nat
deriving DecidableEq, Repr

/-! ### The calendar (15_calendar) -/

/-- States of a booking (R311). -/
inductive BState where
  | booked | staging | running | finished | overrun | cancelled
deriving DecidableEq, Repr

/-- A member's part of a booking: its core, its context, the steps of R312 done, the digest-table entry whose RUN it holds,
the grain in which its part has ended. -/
structure BMember where
  core : Nat
  slot : Option Nat
  uid : Nat
  steps : Nat                        -- one bit a step
  entry : Option Nat
  grant : Bool                       -- it uses its grant set (R424)
  stop : Option Nat
deriving DecidableEq, Repr

/-- A booking (R306 to R328). -/
structure Booking where
  num : Nat
  q0 : Nat
  q1 : Nat
  d : Nat
  s : Nat
  early : Nat
  core : Nat                         -- issuer
  slot : Nat
  uid : Nat
  self_ : Bool
  block : Option (Nat × Nat)         -- scratch key of the block, and its length
  wins : List (Nat × Nat)
  pages : List (Nat × Nat)           -- pages of the windows: virtual base and bytes
  rec_ : BitVec 1024
  tenant : Nat                       -- identity of the issuer (R415)
  svc : Bool
  prin : Nat
  gset : Nat
  otag : Nat
  state : BState
  flt : Bool
  slip : Bool
  ext : Nat
  members : List BMember
  chan : Option Nat                  -- gang channel (R337)
  order : Nat                        -- when it ended
  wt : Option Nat                    -- transaction of a `bkq.wt` that waits (R326)
  dropped : List (Nat × Nat)         -- window pages whose pin TLBINV has dropped (R316)
deriving DecidableEq, Repr

/-- A request of `BOOK` under way (R323). -/
structure BookReq where
  core : Nat
  slot : Nat
  uid : Nat
  reg : Nat
  txn : Nat
  chain : Cur
  sw : Bool
  q0 : Nat
  q1 : Nat
  block : Option (Nat × Nat)
  wins : List (Nat × Nat)
  pages : Option (List (Nat × Nat))  -- none where a window is unfit (R310)
  rec_ : BitVec 1024
  tenant : Nat
  svc : Bool
  prin : Nat
  gset : Nat
  otag : Nat
  due : Nat
deriving DecidableEq, Repr

/-- What a bank found when it performed one piece of an access (R140): the bytes that a read took, the address that an audit record
gives the sector, its effective tag, the tag check where the bank decides it (R418), its poison bit, and a refusal by the K map
(R175). -/
structure PieceRes where
  piece : Piece
  bytes : List Byte
  sector : Nat
  tag : Nat
  grant : Option Bool
  poison : Bool
  refused : Bool
deriving DecidableEq, Repr

/-- An outstanding access at a core's memory port (R144, R145, R183, R187): the incarnation and chain that made it, its
class, the destination registers that were full when it issued; `sent` is false while it waits for an earlier access to the
same sector, `performed` true once its banks have performed all of it; `todo` are the pieces still to be performed, `got` what the banks
found (R140). -/
structure Outst where
  acc : Acc
  uid : Nat
  cls : Cls
  chain : Cur
  wasFull : List Nat
  sent : Bool
  performed : Bool
  waits : List Nat                   -- earlier operations that a release follows (R233)
  dropped : Bool                     -- a plain access of a booking through a page whose pin was dropped (R316)
  todo : List Piece := []
  got : List PieceRes := []
deriving DecidableEq, Repr

/-- A result that a context is owed by a message, a request or a service (R88, R96, R99): the registers that it writes
first, its class (R183), the target core. -/
structure Owed where
  txn : Nat
  uid : Nat
  slot : Nat
  reg : Nat
  cls : Cls
  target : Nat
  chain : Cur
  hand : Option (Msg × Acc) := none  -- of an HSEND: the message and the return of the sent half (R440)
deriving DecidableEq, Repr

/-- A task that has quit and whose last accesses are not yet performed (R236). -/
structure Retiring where
  uid : Nat
  paired : Bool
  job : RetireJob
  sigq : List SigItem
deriving DecidableEq, Repr

/-- What a vector form computes (R372 to R385). -/
inductive VOp where
  | add | sub | mul | fma | fms | min | max | abs | neg | and | or | xor | not | shl | shr | sar
  | cmp (k : Cond)
  | sel
  | cvt (t : ETy) (part : Nat)
  | qnt (f : QFmt) (part : Nat)
  | dqnt (f : QFmt) (part : Nat)
  | red (op : RedOp)
  | scan (op : RedOp) (excl : Bool)
  | bcast (k : Nat)
  | bcreg
  | iota | perm | gath | scat
  | sfu (f : SfuFn)
  | dot | clamp | amax
deriving DecidableEq, Repr

/-- A source row that a vector form is still to read (R368): the operands that it serves (0 C, 1 B, 2 A), its address, the access
that stands for it, and its cycle. -/
structure VRead where
  args : List Nat
  key : Nat
  txn : Nat
  due : Nat
deriving DecidableEq, Repr

/-- A row that a vector form is still to write (R366, R368): its bytes with their enable bits, and its cycle. -/
structure VWrite where
  key : Nat
  txn : Nat
  data : BitVec 1024
  en : BitVec 128
  due : Nat
deriving DecidableEq, Repr

/-- A sector request of `VGATH` or `VSCAT` (R384): the lanes that it serves, with their addresses. -/
structure VElem where
  txn : Nat
  key : Nat
  lanes : List (Nat × Nat)
  sent : Bool
  got : Option PieceRes              -- what another core's bank found (R418)
deriving DecidableEq, Repr

/-- A vector form under way (R366 to R371). -/
structure VJob where
  id : Nat
  slot : Nat
  uid : Nat
  chain : Cur
  op : VOp
  ty : ETy
  rnd : Rnd
  nsat : Bool
  mask : BitVec 256
  reg : Word                         -- the register of `vbcast.reg`
  acc : Acc                          -- the identity that its accesses carry
  seg : Seg                          -- the segment of `VGATH` and `VSCAT`
  reads : List VRead
  rows : SMap (BitVec 1024)          -- rows read, by operand
  poison : Option Nat
  dests : List (Nat × Nat)           -- destination rows not yet computed: address and access
  elem : Option Nat                  -- the access that stands for elements not yet known
  writes : List VWrite
  elems : List VElem
  n : Nat                            -- the cycle of its last read
  stop : Bool                        -- it has failed and writes nothing more
  sfuEnd : Nat                       -- the cycle in which the special-function unit ends (R385)
deriving DecidableEq, Repr

/-- An operand latch (R388, R389): rows of 128 bytes and their scale bytes; an absent row is zeros. -/
structure Latch where
  valid : Bool
  fmt : Nat
  rows : SMap (BitVec 1024)
  scales : SMap (BitVec 256)
deriving DecidableEq, Repr

/-- An accumulator tile (R388, R390): its mode, its entries by 32 m + n, the entries whose INV is set. -/
structure Tile where
  f32 : Bool
  entries : SMap (BitVec 128)
  inv : SMap Unit
deriving DecidableEq, Repr

/-- A matrix command (R391). -/
inductive MOp where
  | gath (toB : Bool) | ald | bld
  | mma (g z : Bool) (ks : Nat)
  | mscl (toB : Bool) (v : Nat)
  | mzero (f32 : Bool)
  | mrd (rnd : Rnd) (nsat : Bool)
  | mwr
  | baddq (rnd : Rnd) (bias : BitVec 1024)
deriving DecidableEq, Repr

/-- A memory request of a matrix command (R397, R403, R404): its row; part 0 is data, 1 scales, 2 the index row, and for tile rows
the sector; where it goes, the cycle in which it is due; a gathered row that fails its check; then, once sent, its pieces, its reply
and what it found. -/
structure MReq where
  row : Nat
  part : Nat
  virt : Bool
  addr : Nat
  len : Nat
  due : Nat
  bad : Bool
  pieces : List Piece
  reply : Nat
  performed : Bool
  data : List Byte
  den : List (Nat × Nat)             -- denied sectors and their tags, once its reply is in
  poison : Option Nat
  got : List PieceRes                -- what the banks found (R418)
deriving DecidableEq, Repr

/-- A command of the matrix unit (R392 to R410). -/
structure MCmd where
  txn : Nat
  slot : Nat
  uid : Nat
  chain : Cur
  acc : Acc                          -- the identity that its accesses carry
  op : MOp
  tile : Nat
  ident : Nat                        -- ID
  cq : Bool
  enter : Nat                        -- the cycle at which it enters its queue
  start : Nat                        -- the cycle at which it starts, once that is decided
  waits : List Nat                   -- earlier stores of the context that it follows (R158)
  gang : Option (Nat × Nat × List Nat)  -- `.g`: the gang's channel, formation and members
  broken : Bool                      -- its gang has broken before its start (R410)
  computing : Bool
  fmt : Nat
  last : Nat                         -- rows - 1
  trow : Nat
  band : Nat
  seg : Nat                          -- number of the segment of its rows (R237)
  dseg : Seg
  cseg : Seg
  doff : Nat
  dstr : Nat
  coff : Nat
  cstr : Nat
  ranges : List (Bool × Nat × Nat)   -- what it may access: virtual, address, length
  todo : List MReq
  flight : List MReq
  rows : SMap (BitVec 1024)          -- what a load has read
  scales : SMap (BitVec 256)
  buf : SMap (List Byte)             -- what MWR has read, by sector
  bad : List Nat                     -- sectors of MWR that were poisoned
  denied : List (Nat × Nat)          -- rows denied, each with the tag
  addrs : SMap Nat                   -- addresses of the rows read
  poison : Option Nat
  fail : Option (Nat × Nat × Option (Nat × Nat))  -- status, address, remote cause and target
  held : Option Nat                  -- the address of a page that it waits for (R177)
  sig : List Byte                    -- its part of a paired half's signature (R237)
deriving DecidableEq, Repr

/-- A transmission that waits for earlier accesses of its context: a handle's message (R440, R442), or a contribution with its time to
the node (R467). -/
structure HeldSend where
  msg : Option Msg
  later : Option (Nat × Instr × Arg)
  waits : List Nat
deriving DecidableEq, Repr

/-- An `MCSEND` whose targets have not all replied (R463): targets to come, those held and those failed, the cycle of its result. -/
structure McSend where
  txn : Nat
  left : Nat
  held : Nat
  fail : Nat
  failCore : Nat                     -- the first target that failed
  due : Nat
deriving DecidableEq, Repr

/-- A step to come: the cycle it falls due, the step, and what it acts on. -/
structure Due where
  at_ : Nat
  instr : Instr
  arg : Arg
deriving DecidableEq, Repr

/-- A core (R16, R75, R77). -/
structure Core where
  rf : SMap Word                     -- register-file entries (R74)
  empty : SMap Unit                  -- entries whose full bit is 0
  slots : SMap Ctx
  out : List Outst                   -- outstanding accesses, in issue order
  owed : List Owed                   -- outstanding results of other kinds, in issue order
  retiring : List Retiring
  ccs : List CcWrite                 -- writes of c0 to c15, the latest first (R115)
  wheel : Bool
  svc : Bool
  age : Nat
  deqb : Nat
  deql : Nat
  ovfb : Nat
  ovfl : Nat
  saveBase : Option Nat              -- offset in the slice (R245)
  ovf : List OvfEntry                -- oldest first (R91)
  grants : SMap GrantSet
  e0 : List CopyCmd
  e1 : List Compl
  e1Resv : Nat
  e2 : List Compl
  e2Resv : Nat
  e3 : List Compl
  e3Resv : Nat
  e4 : List (BitVec 256)
  e4Lost : Bool
  copy : Option CopyCmd              -- the command in progress (R156)
  ptr : SMap Nat                     -- issue pointers of EFF 1, 2, 3 (R212)
  lastIssue : Option Nat
  monitors : SMap (List Monitor)     -- by bank 0, 1, 2, and 3 for the DRAM channel (R152)
  chans : SMap Chan                  -- core-scope barrier channels (R196)
  pipes : SMap Pipe                  -- pipe endpoints (R338)
  queue : List QEntry                -- core queue, 16 records (R225)
  peckOut : Bool                     -- a request for a peck is outstanding
  qcount : Nat                       -- Q (R229)
  deque : Deque
  walk : StealWalk
  nextStart : Nat                    -- first cycle at which the dispatcher may start a task (R228)
  stealList : List Nat               -- clusters of the tenant (R231)
  engine : Option SpillOp            -- what the spill engine holds (R253)
  spillReqs : List SpillReq
  restores : List Nat                -- slots pending a restore, in the order in which they became restorable
  overruns : List Nat                -- slots pending the spill of an overrun (R319)
  ckpts : List (Nat × List (Nat × Nat))  -- slots pending a checkpoint save, with their ranges (R258)
  imaging : Bool                     -- CSAVE or CLOAD runs (R262)
  heldIn : List Due                  -- what has arrived meanwhile, in order, each with the cycle of its arrival (R262)
  saved : SMap (List (Nat × Nat))    -- ranges saved at a checkpoint, by slot (R259, R260)
  vjobs : List VJob                  -- vector forms under way, in issue order
  vread : Option Nat                 -- the form that holds the vector unit (R370)
  vecFree : Nat                      -- first cycle at which the unit accepts the next form (R368)
  sfuq : List Nat                    -- cycles at which the special-function unit takes the requests in its FIFO (R220)
  sfuFree : Nat                      -- first cycle at which that unit is free
  latA : Latch
  latB : Latch
  acc : SMap Tile                    -- by number; an absent one is as reset leaves it
  aq : List MCmd                     -- array path: queued, then the one that runs (R388)
  arun : Option MCmd
  tq : List MCmd                     -- tile path
  trun : Option MCmd
  vwrote : List (Nat × Nat)          -- banks in which a vector row was written, with the cycle (R369)
  sends : List HeldSend
  mcs : List McSend
  retAt : SMap Nat                   -- the cycle of the latest return at a tensor record (R432)
  pipeq : List (Nat × Nat)           -- pipe entries not yet written: incarnation and transaction (R340, R342)
  pipeLink : Nat                     -- first cycle in which its gang link takes the next entry (R331)
  pipeLast : SMap Nat                -- by slot, the cycle in which its latest entry is written (R342)
  scrubAt : SMap Nat                 -- the latest grain whose scrub has told what it found: 0 DRAM, 1 scratchpad (R39)
deriving DecidableEq, Repr

/-- A latch as reset leaves it (R388). -/
def Latch.reset : Latch := ⟨false, 0, [], []⟩

/-- A tile as reset leaves it (R388). -/
def Tile.reset : Tile := ⟨false, [], []⟩

/-- A core as reset leaves it (R77, R479). -/
def Core.reset : Core :=
  { rf := [], empty := [], slots := [], out := [], owed := [], retiring := [], ccs := [], wheel := false, svc := false, age := 1024, deqb := 0, deql := 0,
    ovfb := 0, ovfl := 0, saveBase := none, ovf := [], grants := [], e0 := [], e1 := [], e1Resv := 0, e2 := [],
    e2Resv := 0, e3 := [], e3Resv := 0, e4 := [], e4Lost := false, copy := none, ptr := [], lastIssue := none,
    monitors := [], chans := [], pipes := [], queue := [], peckOut := false, qcount := 0, deque := ⟨0, 0, 0⟩,
    walk := ⟨[], false, 0, none⟩, nextStart := 0, stealList := [], engine := none, spillReqs := [], restores := [], overruns := [],
    ckpts := [], imaging := false, heldIn := [], saved := [], vjobs := [], vread := none, vecFree := 0, sfuq := [], sfuFree := 0, vwrote := [],
    latA := .reset, latB := .reset, acc := [], aq := [], arun := none, tq := [], trun := none,
    sends := [], mcs := [], retAt := [], pipeq := [], pipeLink := 0, pipeLast := [], scrubAt := [] }

/-! ### The cluster -/

/-- An entry of a TLB (R171): one page of a tenant, its leaf, and whether a booking pins it (R173). -/
structure TlbEntry where
  tenant : Nat
  vbase : Nat
  q0 : BitVec 64
  q1 : BitVec 64
  pin : List Nat                     -- numbers of the bookings that pin it
deriving DecidableEq, Repr

/-- States of a digest-table entry (R266, R269). -/
inductive DState where
  | absent | loading | verified | installed | evicted | draining
deriving DecidableEq, Repr

/-- A digest-table entry with the image it holds (R264, R266). -/
structure DEntry where
  digest : BitVec 256
  xid : BitVec 64
  st : DState
  isLocal : Bool
  units : Nat
  live : Nat
  run : Nat
  stamp : Nat
  load : Nat                         -- number of its latest load, the model's own
  due : Nat                          -- the first cycle in which its image can be written to the store (R271)
  poisoned : Bool                    -- the image on its way has arrived poisoned (R272)
  code : List Half
  sites : List Nat
  imports : List (BitVec 256)
  segs : List Seg
  templates : List (BitVec 128)      -- the booking descriptors that its translation gives, their durations filled in (R284, R286, R288)
deriving DecidableEq, Repr

/-- An absent entry. -/
def DEntry.none : DEntry := ⟨0, 0, .absent, false, 0, 0, 0, 0, 0, 0, false, [], [], [], [], []⟩

/-- A code miss that has not found an entry to take (R270). -/
structure Miss where
  core : Nat
  slot : Nat
  uid : Nat
  digest : BitVec 256
  at_ : Nat                          -- the cycle of its lookup
deriving DecidableEq, Repr

/-- A cluster (R16). -/
structure Cluster where
  owner : Option Nat
  tids : Nat                         -- count of TIDs given (R223)
  elim : Nat
  dtab : SMap DEntry
  missq : List Miss                  -- oldest first
  tlb : List TlbEntry                -- most recently used first
  chans : SMap Chan                  -- cluster-scope barrier channels
  gangs : SMap Gang                  -- by channel (R334)
  queue : List QEntry                -- launch queue, 128 records (R225)
  peckOut : Bool
  bookings : SMap Booking            -- by number (R311)
  lastBook : Nat
  bookReqs : List BookReq
  mphases : List MPhase
deriving DecidableEq, Repr

/-- A cluster as reset leaves it. -/
def Cluster.reset : Cluster :=
  { owner := none, tids := 0, elim := 64, dtab := [], missq := [], tlb := [], chans := [], gangs := [], queue := [],
    peckOut := false, bookings := [], lastBook := 0, bookReqs := [], mphases := [] }

/-! ### The die -/

/-- A table entry in the walk cache (R172): the tenant, the level, the index bits above it, and the next table. -/
structure WalkEntry where
  tenant : Nat
  level : Nat
  idx : Nat
  next : Nat
deriving DecidableEq, Repr

/-- A die (R16, R171, R172). -/
structure Die where
  tlb : List TlbEntry
  wcache : List WalkEntry
  roots : SMap Nat                   -- page-table roots of the tenants (R167)
  droots : SMap Nat                  -- directory roots (R417)
  queues : SMap DieQueue             -- launch queues, by tenant (R225)
deriving DecidableEq, Repr

/-- A die as reset leaves it. -/
def Die.reset : Die := { tlb := [], wcache := [], roots := [], droots := [], queues := [] }

/-! ### The module -/

/-- A principal's entry of a directory, as BRS keeps it (R417): its OTAG and its grants. -/
structure Principal where
  otag : Nat
  grants : BitVec 4096
deriving DecidableEq, Repr

/-- A kernel of a package (R296): its digest, its portable form if the package has one, its containers. -/
structure PkgKernel where
  digest : BitVec 256
  portable : Option (List Byte)
  conts : List (List Byte)
deriving DecidableEq, Repr

/-- A plan entry (R296, R300): its name, its size, its alignment as a power of two, its space, and its placed address. -/
structure PlanEntry where
  name : BitVec 128
  size : Nat
  align : Nat
  virt : Bool
  addr : Nat
deriving DecidableEq, Repr

/-- An edge of a package's graph (R296): the nodes it goes from and to, and the pipe it names, if any. -/
structure Edge where
  src : Nat
  dst : Nat
  pipe : Option Nat
deriving DecidableEq, Repr

/-- A pipe declaration (R296, R299), with the plan entry of its buffer. -/
structure PipeDecl where
  width : Nat
  depth : Nat
  wrate : Nat
  rrate : Nat
  plan : Nat
deriving DecidableEq, Repr

/-- States of a package (R302). -/
inductive PkgState where
  | loading | loaded | unloading
deriving DecidableEq, Repr

/-- A package of a tenant (R295 to R303), by its number; one that is absent from the map is Absent. -/
structure Package where
  name : BitVec 256
  ident : BitVec 256
  st : PkgState
  order : Nat                        -- its place in the order of loads (R290)
  bytes : List Byte                  -- what it was loaded from, while it is Loading
  kernels : List PkgKernel
  nodes : List (BitVec 1024)
  edges : List Edge
  plan : List PlanEntry
  pipes : List PipeDecl
  relocs : List (Nat × Nat × Nat)    -- kernel, segment, plan entry
  launches : List (List Nat × List (Nat × Nat))  -- TIDs of each launch (R303), and the scratch ranges of its cells (R301)
deriving DecidableEq, Repr

/-- A tenant (R469) with the rings of its records (R473): records in each, those forwarded and not yet acknowledged, those lost. -/
structure Tenant where
  exist : Bool
  clusters : List Nat
  events : List (BitVec 256)
  eventLost : Nat
  audits : List (BitVec 256)
  auditLost : Nat
  eventSent : Nat                    -- records at the head of the ring that have been forwarded (R473)
  auditSent : Nat
  dir : SMap Principal
  anchors : List (BitVec 256)
  peers : List Nat                   -- network addresses, in list order
  store : List (List Byte)           -- what its NVMe namespace holds
  packs : SMap Package
  pageRoot : Nat                     -- address of its page-table root
  deleting : Bool
deriving DecidableEq, Repr

/-- No tenant. -/
def Tenant.none : Tenant := ⟨false, [], [], 0, [], 0, 0, 0, [], [], [], [], [], 0, false⟩

/-- A search of BRS for a digest (R290): who waits, and its step: 1 the loaded packages, 2 the NVMe store, 3 peers (those left), 4 the
resident translator. -/
structure Search where
  clu : Nat
  entry : Nat
  load : Nat
  digest : BitVec 256
  tenant : Nat
  core : Nat
  slot : Nat
  step : Nat
  peers : List Nat
  form : Option (List Byte)          -- the portable form that a loaded package held
  moves : List (Nat × Nat)           -- the BASEs that a package's relocations give the kernel's initial segments (R296)
deriving DecidableEq, Repr

/-- States of an uplink (R451). -/
inductive LinkState where
  | off | training | up | degraded | down
deriving DecidableEq, Repr

/-- An uplink (R451, R454). -/
structure Uplink where
  st : LinkState
  lanes : Nat
  replay : Nat
  corr : Nat
  poisn : Nat
  refused : Nat                      -- refusals in a row of the header that it is sending (R450)
  epoch : Nat                        -- how often it has changed state, which tells a timer from a later one
deriving DecidableEq, Repr

/-- An uplink as reset leaves it (R451, R454). -/
def Uplink.reset : Uplink := ⟨.off, 0, 0, 0, 0, 0, 0⟩

/-- A multicast group (R461): its tenant and its target cores. -/
structure McGroup where
  tenant : Nat
  cores : List Nat
deriving DecidableEq, Repr

/-- An `MCW` under way (R462). -/
structure Mcw where
  group : Nat
  core : Nat
  slot : Nat
  uid : Nat
  txn : Nat
deriving DecidableEq, Repr

/-- States of a reduction slot (R464). -/
inductive RedState where
  | free | opened | closed
deriving DecidableEq, Repr

/-- A `REDW` that waits for the closure of a slot (R468). -/
structure RedWait where
  core : Nat
  slot : Nat
  uid : Nat
  txn : Nat
  due : Nat                          -- the first cycle of its result
deriving DecidableEq, Repr

/-- A reduction slot of a node (R464 to R468); members and contributors by their place in the bitmap. -/
structure RedSlot where
  st : RedState
  gen : Nat
  op : Nat
  tenant : Nat
  members : List Nat
  done : List Nat
  acc : BitVec 64
  waits : List RedWait
  taken : Bool                       -- its result is on the way to a REDW, which frees it
deriving DecidableEq, Repr

/-- A reduction slot as reset leaves it. -/
def RedSlot.reset : RedSlot := ⟨.free, 0, 0, 0, [], [], 0, [], false⟩

/-- The start-up and identity of a module (R479 to R486). -/
structure Boot where
  halt : Bool
  die : Nat
  code : Nat                         -- BOOTST
  numbered : Bool                    -- the module number has come (R480)
  fw : Nat                           -- NVMe boot partitions tried
  signer : BitVec 256                -- signer of the firmware
  fwm : BitVec 512
  brsm : BitVec 512
  pkgm : BitVec 512
  npkg : Nat
  log : List (Nat × Nat × BitVec 256)  -- loads and unloads: 1 or 2, tenant, identity (R484)
  clock : Nat                        -- steps by which the cluster clock is lowered (R486)
deriving DecidableEq, Repr

/-- As reset leaves it: the boot ROM is at step 1. -/
def Boot.reset : Boot := ⟨false, 0, 1, false, 0, 0, 0, 0, 0, 0, [], 0⟩

/-- A page request that waits for BRS (R177). -/
structure PageReq where
  die : Nat
  tenant : Nat
  va : Nat                           -- the 72-bit virtual address
  bytes : Nat                        -- the size of its page: that of a Migrating one, else the smallest
  kind : Nat
  cause : Nat
  core : Nat
  slot : Nat
deriving DecidableEq, Repr

/-- A service call that waits for BRS (R99, R474). -/
structure TrapReq where
  core : Nat
  txn : Nat
  n : Nat
  arg : Word
  prin : Nat
  flags : Nat
deriving DecidableEq, Repr

/-- A module. -/
structure Module where
  since : Nat                        -- the cycle in which its clusters were last reset, from which their counts run (R30)
  board : Nat                        -- where the module stands in the pod (R28)
  rack : Nat
  fused : List Nat                   -- cores that failed manufacturing test, by the fuses, 13-bit numbers (R20)
  disabled : List Nat                -- cores that the capability map shows disabled (R20)
  kmap : List Nat                    -- K granules: physical address / 65,536 (R175)
  klocked : Bool
  tenants : SMap Tenant
  downs : List Nat                   -- modules under a down notice (R452)
  ownDown : Bool                     -- own uplinks all down for 65,536 cycles (R452)
  pageReqs : List PageReq
  traps : List TrapReq
  heldPages : List (Acc × Nat)       -- accesses held at a cluster memory port, each with the address that missed (R146, R177)
  halves : List RetireJob            -- retired halves of paired tasks that wait for the other (R237)
  sessions : SMap Nat                -- Ultra Ethernet sessions and their tenants (R476)
  sent : List (Nat × List Byte)      -- messages that BRS has sent, by session; 65,536 is the I3C port
  cache : List (BitVec 512)          -- verified containers, the one used last first (R292)
  searches : List Search
  clearing : List Nat                -- clusters that are being cleared (R36)
  boot : Boot
  uplinks : SMap Uplink
  lastUp : Nat                       -- the cycle in which it last had an uplink that was Up or Degraded (R452)
  groups : SMap McGroup
  mcws : List Mcw
  ecc : SMap Nat                     -- errors: 8 × die + 0 DRAM, 1 scratchpad, 2 latches and accumulators, 3 uncorrectable, 4 links inside the module (R37, R389)
  temps : SMap Nat                   -- junction temperature of a die, in tenths of a degree
  powers : SMap Nat                  -- power of a die, in milliwatts
  telem : List Nat                   -- the latest telemetry sample (R487)
deriving DecidableEq, Repr

/-- A module as power-on leaves it. -/
def Module.reset : Module :=
  { since := 0, board := 0, rack := 0, fused := [], disabled := [], kmap := [], klocked := false, tenants := [], downs := [], ownDown := false, pageReqs := [], traps := [],
    heldPages := [], halves := [], sessions := [], sent := [], cache := [], searches := [], clearing := [], boot := .reset, uplinks := [], lastUp := 0,
    groups := [], mcws := [], ecc := [], temps := [], powers := [], telem := [] }

/-! ### The state -/

/-- The identity that a bound cell's task starts with (R239, R415): TID, PRIN, GSET, OTAG; `svc` keeps the record as written. -/
structure CellBind where
  tid : Nat
  prin : Nat
  gset : Nat
  otag : Nat
  svc : Bool
deriving DecidableEq, Repr

/-- Everything but the contents of memory. -/
structure Hw where
  now : Nat
  agenda : List Due                  -- what the part has bound itself to, by cycle
  inputs : List Due                  -- what BRS and the outside world do, by cycle
  cur : Option Cur                   -- the chain being issued
  arg : Arg                          -- what the step without an encoding acts on
  self : Nat                         -- this module's number (R22, R485)
  cores : SMap Core
  clusters : SMap Cluster
  dies : SMap Die
  mods : SMap Module                 -- by module number; one that is absent never answers
  cells : SMap CellBind              -- bound dependence cells by scratch address (R239)
  reds : SMap RedSlot                -- reduction slots (R464): 32 × (2^21 × level + node) + slot, with level 0 to 3
  nodeAt : SMap Nat                  -- the cycle of the latest contribution at a node (R467)
  bookEnds : List (Nat × Nat × Nat)  -- parts of bookings that have ended in this cycle (R317): core, number, 1 for a fault; 2 a cancellation
  freeCtr : Nat
  nextTxn : Nat
deriving DecidableEq, Repr

/-- The contents of memory: bytes of the scratchpads and of DRAM in one canonical list, and beside each 32-byte sector
(by key / 32) its tag (R139) and its poison bit (R38). -/
structure Mem where
  bytes : List Host.Cell
  tags : List (Nat × Nat)
  poison : List (Nat × Bool)
deriving DecidableEq, Repr

/-- The machine. -/
structure State where
  hw : Hw
  mem : Mem
deriving DecidableEq, Repr

/-- Why the machine stops without a next state. -/
inductive Fault where
  /-- Raised by a meaning of a chain form that runs while no chain is being issued; `step` never does that. Safe. -/
  | noIssue
  /-- Raised by a meaning of a step without an encoding that runs while the state holds no argument of its kind; `step`
  takes each step with the argument it was bound with. Safe. -/
  | noArgument
deriving DecidableEq, Repr

/-- Why a meaning is refused. -/
inductive Refusal where
  /-- Raised by the arm of an instruction that has no meaning yet. Safe. -/
  | notModelled (mnemonic : String)
deriving DecidableEq, Repr

/-- Memory with nothing listed. -/
def Mem.reset : Mem := ⟨[], [], []⟩

/-- The machine right after reset. -/
def State.reset : State :=
  { hw := { now := 0, agenda := [⟨65536, .telemetrySample, .none⟩, ⟨16777216, .moduleNumberWaitExpiry, .none⟩], inputs := [], cur := none, arg := .none, self := 0, cores := [], clusters := [], dies := [],
            mods := [(0, Module.reset)], cells := [], reds := [], nodeAt := [], bookEnds := [], freeCtr := 0, nextTxn := 0 },
    mem := Mem.reset }

end Sys2Proof.Machine
end

