-- ==== Sys2Proof/Machine/Ops.lean ====
section
/-! DEFINITION. The named operations over memory, registers, contexts and records, and the one operation by which a
context takes a fault (00_scope R11, R12; 04_context R81 to R84, R102, R103). -/

namespace Sys2Proof.Machine

/-! ### Bit fields -/

/-- Bits hi:lo of a value, as a number (R10). -/
def bits (v hi lo : Nat) : Nat := v / 2 ^ lo % 2 ^ (hi + 1 - lo)

/-- Bit i of a value. -/
def bitAt (v i : Nat) : Bool := v / 2 ^ i % 2 == 1

/-- Bits n-1:0 of a value read as a two's-complement integer (R10). -/
def sext (v n : Nat) : Int :=
  let u := v % 2 ^ n
  if u < 2 ^ (n - 1) then (u : Int) else (u : Int) - (2 ^ n : Nat)

/-- The low n bits of an integer (R10, `Bits`). -/
def wrap (x : Int) (n : Nat) : Nat := (x % (2 ^ n : Nat)).toNat

/-- A 64-bit word from an integer. -/
def word (x : Int) : Word := BitVec.ofInt 64 x

/-- Replaces `len` bits of a register from bit `lo`. -/
def putBits {w : Nat} (v : BitVec w) (lo len x : Nat) : BitVec w :=
  BitVec.ofNat w (v.toNat - bits v.toNat (lo + len - 1) lo * 2 ^ lo + x % 2 ^ len * 2 ^ lo)

/-- Little-endian bytes of a value. -/
def bytesLE : Nat → Nat → List Byte
  | 0, _ => []
  | n + 1, v => BitVec.ofNat 8 v :: bytesLE n (v / 256)

/-- The value of little-endian bytes (R2). -/
def valLE : List Byte → Nat
  | [] => 0
  | b :: r => b.toNat + 256 * valLE r

/-! ### Memory -/

/-- What an address that nothing has written reads as (notes/assumptions/6.md). -/
def unlisted : Byte := 0

/-- The value at a key of a sparse list; `z` is what an unlisted key reads as. -/
def sparseRead {α : Type} (z : α) : List (Nat × α) → Nat → α
  | [], _ => z
  | (j, b) :: r, k => if j = k then b else sparseRead z r k

/-- Writes a value at a key, keeping the canonical form. -/
def sparseWrite {α : Type} [DecidableEq α] (z : α) : List (Nat × α) → Nat → α → List (Nat × α)
  | [], k, b => if b = z then [] else [(k, b)]
  | (j, c) :: r, k, b =>
    if k < j then (if b = z then (j, c) :: r else (k, b) :: (j, c) :: r)
    else if k = j then (if b = z then r else (k, b) :: r)
    else (j, c) :: sparseWrite z r k b

/-- The canonical form of a sparse list whose keys lie above a bound: keys strictly rising, no entry equal to what an unlisted key
reads as. -/
def sparseFrom {α : Type} [DecidableEq α] (z : α) : Nat → List (Nat × α) → Bool
  | _, [] => true
  | lo, (j, b) :: r => decide (lo ≤ j) && decide (b ≠ z) && sparseFrom z (j + 1) r

/-- Drops the keys from `lo` to `hi - 1`. -/
def sparseClear {α : Type} (l : List (Nat × α)) (lo hi : Nat) : List (Nat × α) := l.filter (fun c => decide (c.1 < lo) || decide (hi ≤ c.1))

/-- Copies `n` keys from `src` over those from `dst`. -/
def sparseMove {α : Type} (l : List (Nat × α)) (src dst n : Nat) : List (Nat × α) :=
  l.filter (fun c => decide (c.1 < dst)) ++
    (l.filter (fun c => decide (src ≤ c.1) && decide (c.1 < src + n))).map (fun c => (c.1 - src + dst, c.2)) ++
    l.filter (fun c => decide (dst + n ≤ c.1))

/-- The canonical form of memory: its bytes, its sectors' tags and their poison bits. -/
def Mem.wf (m : Mem) : Bool := sparseFrom unlisted 0 m.bytes && sparseFrom 0 0 m.tags && sparseFrom false 0 m.poison

/-- The byte at a key. -/
def Mem.read (m : Mem) (k : Nat) : Byte := sparseRead unlisted m.bytes k

/-- `n` bytes from a key. -/
def Mem.readN (m : Mem) (k : Nat) : Nat → List Byte
  | 0 => []
  | n + 1 => m.read k :: m.readN (k + 1) n

/-- `n` bytes from a key, as a number (R2). -/
def Mem.val (m : Mem) (k n : Nat) : Nat := valLE (m.readN k n)

/-- Writes one byte. -/
def Mem.put (m : Mem) (k : Nat) (b : Byte) : Mem := { m with bytes := sparseWrite unlisted m.bytes k b }

/-- Writes bytes from a key upward. -/
def Mem.putN (m : Mem) (k : Nat) : List Byte → Mem
  | [] => m
  | b :: r => (m.put k b).putN (k + 1) r

/-- The tag of the sector that holds a key (R139). -/
def Mem.tagOf (m : Mem) (k : Nat) : Nat := sparseRead 0 m.tags (k / 32)

/-- Sets a sector's tag. -/
def Mem.setTag (m : Mem) (k t : Nat) : Mem := { m with tags := sparseWrite 0 m.tags (k / 32) t }

/-- The sector that holds a key is poisoned (R38). -/
def Mem.isPoison (m : Mem) (k : Nat) : Bool := sparseRead false m.poison (k / 32)

/-- Sets or clears a sector's poison bit. -/
def Mem.setPoison (m : Mem) (k : Nat) (p : Bool) : Mem := { m with poison := sparseWrite false m.poison (k / 32) p }

/-- Writes bytes that lie in one sector, with the tag that the write brings; `none` keeps the sector's tag (R141). A write
of part of a sector that brings another tag zeroes the sector's other bytes; a write of the whole sector clears its poison
bit (R38). -/
def Mem.writeSector (m : Mem) (k : Nat) (bs : List Byte) (tag : Option Nat) : Mem :=
  let base := k / 32 * 32
  let m1 :=
    match tag with
    | none => m
    | some t => if t = m.tagOf k then m else (m.putN base (bytesLE 32 0)).setTag k t
  let m2 := m1.putN k bs
  if bs.length = 32 then m2.setPoison k false else m2

/-- The runs of a range of keys that lie each in one sector: key, length, offset in the range. -/
def pieces : Nat → Nat → Nat → Nat → List Piece
  | 0, _, _, _ => []
  | fuel + 1, k, len, off =>
    if len = 0 then []
    else
      let n := min len (32 - k % 32)
      ⟨k, n, off, 0⟩ :: pieces fuel (k + n) (len - n) (off + n)

/-- The pieces of a range (R140). -/
def piecesOf (k len : Nat) : List Piece := pieces (len / 32 + 2) k len 0

/-- Writes a range of any length, sector by sector. -/
def Mem.writeRange (m : Mem) (k : Nat) (bs : List Byte) (tag : Option Nat) : Mem :=
  (piecesOf k bs.length).foldl (fun m p => m.writeSector p.key ((bs.drop p.off).take p.len) tag) m

/-- Copies a range of sectors with its tags and poison bits (R414). -/
def Mem.copyTo (m : Mem) (src dst n : Nat) : Mem :=
  { bytes := sparseMove m.bytes src dst n, tags := sparseMove m.tags (src / 32) (dst / 32) (n / 32),
    poison := sparseMove m.poison (src / 32) (dst / 32) (n / 32) }

/-- Clears a range of keys to zero, with its tags and its poison bits. -/
def Mem.clear (m : Mem) (lo hi : Nat) : Mem :=
  { bytes := sparseClear m.bytes lo hi, tags := sparseClear m.tags (lo / 32) (hi / 32), poison := sparseClear m.poison (lo / 32) (hi / 32) }

/-- The memory key of a scratch address (R23). -/
def scratchKey (core off : Nat) : Nat := core * 2 ^ 20 + off

/-- The memory key of a DRAM physical address (R24). -/
def dramKeyOf (pa : Nat) : Nat := Config.dramKey + pa

/-- The core whose scratchpad or slice holds a key (R184). -/
def keyCore (k : Nat) : Nat := if k < Config.dramKey then k / 2 ^ 20 else (k - Config.dramKey) / 2 ^ 28

/-- The key lies in DRAM. -/
def keyDram (k : Nat) : Bool := decide (Config.dramKey ≤ k)

/-! ### Cores, contexts, clusters -/

/-- A core. -/
def Hw.core (h : Hw) (c : Nat) : Core := SMap.get Core.reset h.cores c
/-- Replaces a core. -/
def Hw.setCore (h : Hw) (c : Nat) (k : Core) : Hw := { h with cores := SMap.set h.cores c k }
/-- Changes a core. -/
def Hw.modCore (h : Hw) (c : Nat) (f : Core → Core) : Hw := h.setCore c (f (h.core c))
/-- A context. -/
def Core.ctx (k : Core) (s : Nat) : Ctx := SMap.get Ctx.free k.slots s
/-- Replaces a context. -/
def Core.setCtx (k : Core) (s : Nat) (x : Ctx) : Core := { k with slots := SMap.set k.slots s x }
/-- A context of a core. -/
def Hw.ctx (h : Hw) (c s : Nat) : Ctx := (h.core c).ctx s
/-- Replaces a context. -/
def Hw.setCtx (h : Hw) (c s : Nat) (x : Ctx) : Hw := h.modCore c (fun k => k.setCtx s x)
/-- Changes a context. -/
def Hw.modCtx (h : Hw) (c s : Nat) (f : Ctx → Ctx) : Hw := h.setCtx c s (f (h.ctx c s))

/-- The service cores stand outside the global core numbers (R22, R32): service core j of die d, counted over the pod, is
2^21 + 4 d + j (notes/assumptions/16.md). -/
def firstService : Nat := 2 ^ 21
/-- The cluster number of a core (R22). -/
def clusterOf (core : Nat) : Nat := core / 16
/-- The die number of a core, with its module. -/
def dieOf (core : Nat) : Nat := if core < firstService then core / 1024 else (core - firstService) / 4
/-- The module number of a core. -/
def moduleOf (core : Nat) : Nat := dieOf core / 8

/-- A cluster. -/
def Hw.cluster (h : Hw) (c : Nat) : Cluster := SMap.get Cluster.reset h.clusters c
/-- Changes a cluster. -/
def Hw.modCluster (h : Hw) (c : Nat) (f : Cluster → Cluster) : Hw :=
  { h with clusters := SMap.set h.clusters c (f (h.cluster c)) }
/-- A die. -/
def Hw.die (h : Hw) (d : Nat) : Die := SMap.get Die.reset h.dies d
/-- Changes a die. -/
def Hw.modDie (h : Hw) (d : Nat) (f : Die → Die) : Hw := { h with dies := SMap.set h.dies d (f (h.die d)) }
/-- A module. -/
def Hw.mod (h : Hw) (m : Nat) : Module := SMap.get Module.reset h.mods m
/-- Changes a module. -/
def Hw.modMod (h : Hw) (m : Nat) (f : Module → Module) : Hw := { h with mods := SMap.set h.mods m (f (h.mod m)) }

/-- The tenant of a core: the owner of its cluster (R34). -/
def Hw.tenantOf (h : Hw) (core : Nat) : Option Nat := (h.cluster (clusterOf core)).owner

/-- A core that the capability map shows disabled (R20). -/
def Hw.coreDisabled (h : Hw) (core : Nat) : Bool := (h.mod (moduleOf core)).disabled.contains (core % 8192)

/-- The cycle in which the clusters of a core's module were last reset (R30). -/
def Hw.since (h : Hw) (core : Nat) : Nat := (h.mod (moduleOf core)).since

/-- The cycle count of a core's cluster (R30). -/
def Hw.count (h : Hw) (core : Nat) : Nat := h.now - h.since core

/-- The grain that runs in a cluster (R305). -/
def Hw.grainNow (h : Hw) (clu : Nat) : Nat := h.count (16 * clu) / 16

/-- The first cycle of a grain of a cluster. -/
def Hw.grainAt (h : Hw) (clu g : Nat) : Nat := h.since (16 * clu) + 16 * g

/-- Errors found by an integrity check are counted for the core's die (R37, R389, R487). -/
def Hw.countEcc (h : Hw) (core place n : Nat) : Hw :=
  if n = 0 then h else h.modMod (moduleOf core) (fun m => { m with ecc := SMap.set m.ecc (8 * (dieOf core % 8) + place) (SMap.get 0 m.ecc (8 * (dieOf core % 8) + place) + n) })

/-- The module exists in the pod. -/
def Hw.hasModule (h : Hw) (m : Nat) : Bool := (SMap.find? h.mods m).isSome

/-- Changes everything but memory. -/
def State.onHw (s : State) (f : Hw → Hw) : State := { s with hw := f s.hw }
/-- Changes memory. -/
def State.onMem (s : State) (f : Mem → Mem) : State := { s with mem := f s.mem }

/-! ### The agenda -/

/-- The order of steps within a cycle: a cluster node applies every `.arm` first (R208), an install stands before the lookups of its cycle
and the choice of an entry after them (R273), the arrival of a message stands after the results of its cycle (R89, R90), the units that look for work come after all that, and then
the pushes and the steals at a deque (R230; notes/assumptions/5.md). -/
def dueRank (i : Instr) (a : Arg) : Nat :=
  match i with
  | .remoteAccessAtBank => (match a with | .acc c _ => (match c.op with | .fork _ _ => 4 | _ => 1) | _ => 1)
  | .stealRequest => 5
  | .barrierArmApplied => 0 | .codeInstall => 0 | .sendArrival => 2 | .multicastCopyArrival => 2 | .overflowDelivery => 2
  | .codeMissRetry => 3 | .contextSpill => 3 | .forwardProgressSpill => 3 | .contextRestore => 3 | .checkpointSave => 3 | .checkpointRestore => 3
  | .bookingOverrun => 3 | .corePeckRequest => 3 | .clusterPeckRequest => 3 | .dispatcherStart => 3 | _ => 1

/-- Inserts a step behind those that fall due no later, in the order of `dueRank` within a cycle (R5). -/
def insertDue : List Due → Due → List Due
  | [], d => [d]
  | e :: r, d =>
    if d.at_ < e.at_ ∨ (d.at_ = e.at_ ∧ dueRank d.instr d.arg < dueRank e.instr e.arg) then d :: e :: r else e :: insertDue r d

/-- Binds the part to a step at a cycle. -/
def Hw.schedule (h : Hw) (due : Nat) (i : Instr) (a : Arg) : Hw := { h with agenda := insertDue h.agenda ⟨due, i, a⟩ }

/-- Binds the part to a step `d` cycles from now. -/
def Hw.after (h : Hw) (d : Nat) (i : Instr) (a : Arg) : Hw := h.schedule (h.now + d) i a

/-- What an arrival acts on, where the reply that it leads to is `d` cycles later. -/
def laterBy (d : Nat) : Arg → Arg
  | .acc a due => .acc a (due + d)
  | .msg m due => .msg m (due + d)
  | .words [a, b, c, e, f, g, due] ws => .words [a, b, c, e, f, g, due + d] ws
  | x => x

/-- An arrival at a core whose image is taken waits until that is complete (R262). -/
def Hw.holdIn (h : Hw) (core : Nat) (i : Instr) (a : Arg) : Hw :=
  h.modCore core (fun k => { k with heldIn := k.heldIn ++ [⟨h.now, i, a⟩] })

/-- The image of a core is complete: what has arrived meanwhile is taken in its order (R93, R262). -/
def Hw.releaseIn (h : Hw) (core : Nat) : Hw :=
  (h.core core).heldIn.foldl (fun h d => h.schedule h.now d.instr (laterBy (h.now - d.at_) d.arg))
    (h.modCore core (fun k => { k with heldIn := [] }))

/-- Drops the steps that a test names. -/
def Hw.unschedule (h : Hw) (p : Due → Bool) : Hw := { h with agenda := h.agenda.filter (fun e => !p e) }

/-- The number of a new transaction. -/
def Hw.newTxn (h : Hw) : Nat × Hw := (h.nextTxn, { h with nextTxn := h.nextTxn + 1 })

/-- A free choice (notes/assumptions/8.md). -/
def Hw.drawBool (h : Hw) : Bool × Hw := (Config.freeBool h.freeCtr, { h with freeCtr := h.freeCtr + 1 })

/-! ### Status bits (R79, R80) -/

/-- Bit positions of TS. -/
def tsHAZ : Nat := 0
/-- See `tsHAZ`. -/
def tsCOLL : Nat := 1
/-- See `tsHAZ`. -/
def tsOVFD : Nat := 2
/-- See `tsHAZ`. -/
def tsAUD : Nat := 3
/-- See `tsHAZ`. -/
def tsFREG : Nat := 5
/-- See `tsHAZ`. -/
def tsBOOKED : Nat := 6
/-- See `tsHAZ`. -/
def tsWHEEL : Nat := 7
/-- See `tsHAZ`. -/
def tsSVC : Nat := 8
/-- See `tsHAZ`. -/
def tsOVR : Nat := 9
/-- See `tsHAZ`. -/
def tsPAIRED : Nat := 10

/-- Sets a bit of TS. -/
def Ctx.setTs (x : Ctx) (i : Nat) (v : Bool) : Ctx := { x with ts := putBits x.ts i 1 (bit v) }
/-- Reads a bit of TS. -/
def Ctx.tsBit (x : Ctx) (i : Nat) : Bool := x.ts.getLsbD i
/-- The context runs a booking (R79). -/
def Ctx.booked (x : Ctx) : Bool := x.tsBit tsBOOKED
/-- The context is in service mode (R14, R79). -/
def Ctx.service (x : Ctx) : Bool := x.tsBit tsSVC
/-- The context is inside a remote-failure region (R79). -/
def Ctx.inRegion (x : Ctx) : Bool := x.tsBit tsFREG

/-- ROLE.DECL (R80). -/
def Ctx.decl (x : Ctx) : Nat := bits x.role.toNat 3 2
/-- ROLE.EFF (R80). -/
def Ctx.eff (x : Ctx) : Nat := bits x.role.toNat 1 0
/-- Sets EFF. -/
def Ctx.setEff (x : Ctx) (e : Nat) : Ctx := { x with role := putBits x.role 0 2 e }
/-- W := 0 and EFF back to DECL, or 0 while booked (R80, R213). -/
def Ctx.settle (x : Ctx) : Ctx := { x.setEff (if x.booked then 0 else x.decl) with w := 0 }

/-! ### General registers (R74, R107) -/

/-- The register-file entry of a `g` register. -/
def Ctx.entryOf (x : Ctx) (n : Nat) : Nat := x.wbase + n

/-- The value of a `g` register; `g0` reads 0 (R10). -/
def Core.g (k : Core) (x : Ctx) (n : Nat) : Word := if n = 0 then 0 else SMap.get 0 k.rf (x.entryOf n)

/-- The full bit that the register file holds. -/
def Core.fullBit (k : Core) (x : Ctx) (n : Nat) : Bool := n = 0 || (SMap.find? k.empty (x.entryOf n)).isNone

/-- Writes a register and leaves full bits alone; a write to `g0` is discarded. -/
def Core.putG (k : Core) (x : Ctx) (n : Nat) (v : Word) : Core :=
  if n = 0 then k else { k with rf := SMap.set k.rf (x.entryOf n) v }

/-- Sets or clears a full bit; Full[0] stays 1. -/
def Core.putFull (k : Core) (x : Ctx) (n : Nat) (f : Bool) : Core :=
  if n = 0 then k
  else { k with empty := if f then SMap.erase k.empty (x.entryOf n) else SMap.set k.empty (x.entryOf n) () }

/-- The register that an outstanding result writes. -/
def Pend.reg : Pend → Nat
  | .fixed r _ _ => r
  | .async r _ => r
  | .trap r _ => r

/-- The result belongs to a transaction. -/
def Pend.ofTxn (p : Pend) (n t : Nat) : Bool :=
  match p with
  | .fixed _ _ _ => false
  | .async r u => r == n && u == t
  | .trap r u => r == n && u == t

/-- A result is outstanding for a register (R85, R109). -/
def Ctx.pending (x : Ctx) (n : Nat) : Bool := n != 0 && x.pend.any (fun p => p.reg == n)

/-- Full[n] as a chain sees it. -/
def Hw.isFull (h : Hw) (c s n : Nat) : Bool := (h.core c).fullBit (h.ctx c s) n

/-- A register of a context. -/
def Hw.g (h : Hw) (c s n : Nat) : Word := (h.core c).g (h.ctx c s) n

/-- Changes a core by way of one of its contexts. -/
def Hw.modSlot (h : Hw) (c s : Nat) (f : Core → Ctx → Core) : Hw := h.modCore c (fun k => f k (k.ctx s))

/-- A result of fixed latency: Full[n] is cleared now; the value is written, and Full[n] set, at the end of the cycle
before the one at which it is readable (R107). A result named `g0` is discarded. -/
def Hw.setG (h : Hw) (c s n : Nat) (v : Word) (lat : Nat) : Hw :=
  if n = 0 then h
  else h.modSlot c s (fun k x =>
    (k.putFull x n false).setCtx s { x with pend := x.pend ++ [.fixed n (h.now + lat) v] })

/-- Clears Full[n] for a result that arrives by itself (R144). -/
def Hw.awaitG (h : Hw) (c s n txn : Nat) : Hw :=
  if n = 0 then h
  else h.modSlot c s (fun k x =>
    (k.putFull x n false).setCtx s { x with pend := x.pend ++ [.async n txn] })

/-- Clears Full[n] for each register of a run. -/
def Hw.awaitGs (h : Hw) (c s : Nat) (ns : List Nat) (txn : Nat) : Hw := ns.foldl (fun h n => h.awaitG c s n txn) h

/-- Writes a result into a register and sets its full bit. -/
def Core.land (k : Core) (s n : Nat) (v : Word) : Core := ((k.putG (k.ctx s) n v).putFull (k.ctx s) n true)

/-- An own result that arrives by itself is written: the register is full, and nothing of the transaction is outstanding
for it (R144). -/
def Hw.landG (h : Hw) (c s n txn : Nat) (v : Word) : Hw :=
  h.modCore c (fun k =>
    let x := k.ctx s
    (k.land s n v).setCtx s
      { x with pend := x.pend.filter (fun p => !p.ofTxn n txn), just := if k.fullBit x n then x.just else n :: x.just })

/-- A result is outstanding at a cycle and due. -/
def Pend.dueBy (now : Nat) : Pend → Bool
  | .fixed _ c _ => decide (c ≤ now)
  | _ => false

/-- Applies one due result of fixed latency (R107). -/
def Core.landPend (k : Core) (s : Nat) : Pend → Core
  | .fixed r _ v =>
    let x := k.ctx s
    (k.land s r v).setCtx s { x with just := if k.fullBit x r then x.just else r :: x.just }
  | _ => k

/-- Sets a mask (R75); `m0` is no register. -/
def Ctx.setMask (x : Ctx) (n : Nat) (v : BitVec 256) : Ctx := if n = 0 then x else { x with m := SMap.set x.m n v }

/-- A mask; `m0` reads all ones (R75). -/
def Ctx.mask (x : Ctx) (n : Nat) : BitVec 256 := if n = 0 then BitVec.allOnes 256 else SMap.get 0 x.m n

/-- A segment register. -/
def Ctx.seg (x : Ctx) (n : Nat) : Seg := SMap.get Seg.none x.sg n

/-- A scratch pointer. -/
def Ctx.ptr (x : Ctx) (n : Nat) : Ptr := SMap.get ⟨0, 0⟩ x.p n

/-- A loop level. -/
def Ctx.loopLv (x : Ctx) (n : Nat) : LoopLv := SMap.get ⟨false, 0, 0, 0⟩ x.lp n

/-! ### Waking and event records -/

/-- A context that waits becomes Ready, eligible from `at` (R83, R211, R213). -/
def Hw.wakeAt (h : Hw) (c s cyc : Nat) : Hw :=
  h.modCtx c s (fun x =>
    if x.st = .parked then ({ x with st := .ready, park := none, notBefore := max cyc x.notBefore }).settle else x)

/-- KIND values of R102. -/
def kindFault : Nat := 0x0001
/-- See `kindFault`. -/
def kindOrphan : Nat := 0x0002

/-- The event record of R102. -/
def eventRecord (now core slot cause flags kind : Nat) (d0 d1 : Nat) : BitVec 256 :=
  BitVec.ofNat 256
    ((core % 2 ^ 21) * 2 ^ 43 + (slot % 64) * 2 ^ 37 + (cause % 256) * 2 ^ 24 + (flags % 256) * 2 ^ 16 + kind % 65536
      + 2 ^ 64 * (now % 2 ^ 64 + 2 ^ 64 * (d0 % 2 ^ 64 + 2 ^ 64 * (d1 % 2 ^ 64))))

/-- FLAGS of a record of a context (R102). -/
def Ctx.flags (x : Ctx) : Nat := 2 * bit x.service + 4 * bit x.booked + 8 * bit (x.tsBit tsWHEEL)

/-- A record goes to the tenant's event queue, a ring of 16,384 (R469), and to `e4`, which holds 16 (R103). One that finds the ring or
`e4` full is lost there, and the next one placed there has LOST set (R473). -/
def Hw.post (h : Hw) (core : Nat) (r : BitVec 256) : Hw :=
  let h1 :=
    match h.tenantOf core with
    | none => h
    | some t =>
      h.modMod (moduleOf core) (fun m =>
        let ten := SMap.get Tenant.none m.tenants t
        let ten' :=
          if ten.events.length < 16384 then
            { ten with events := ten.events ++ [if ten.eventLost = 0 then r else putBits r 23 1 1], eventLost := 0 }
          else { ten with eventLost := ten.eventLost + 1 }
        { m with tenants := SMap.set m.tenants t ten' })
  h1.modCore core (fun k =>
    if k.e4.length < 16 then
      { k with e4 := k.e4 ++ [if k.e4Lost then putBits r 23 1 1 else r], e4Lost := false }
    else { k with e4Lost := true })

/-! ### Taking a fault -/

/-- Cause codes of R12. -/
def Cause.code : Cause → Nat
  | .undefinedInstruction => 0x01 | .illegalChain => 0x02 | .registerWindow => 0x03 | .privileged => 0x04
  | .segmentBounds => 0x05 | .segmentRights => 0x06 | .misaligned => 0x07 | .pageDenied => 0x08 | .reservedValue => 0x09
  | .loopLimit => 0x0A | .calendarViolation => 0x0B | .overrun => 0x0C | .poisoned => 0x0D | .remoteFailure => 0x0E
  | .engineCommand => 0x0F | .gangMember => 0x10 | .handleInvalid => 0x11 | .breakpoint => 0x12

/-- FRA of a fault (R81). -/
def FaultRec.fra (f : FaultRec) : BitVec 64 :=
  BitVec.ofNat 64
    (f.ahi % 256 * 2 ^ 56 + f.pc % 2 ^ 17 * 2 ^ 39 + f.entry % 64 * 2 ^ 33 + f.page % 16 * 2 ^ 29 + f.op % 64 * 2 ^ 23
      + f.widx % 8 * 2 ^ 20 + f.sub % 256 * 2 ^ 8 + Cause.code f.cause)

/-- The fault that a chain raises: where it stands and what it says. -/
def Cur.fault (c : Cur) (cause : Cause) (sub frb : Nat) : FaultRec :=
  { cause := cause, sub := sub, frb := frb % 2 ^ 64, ahi := 0, pc := c.pc, entry := c.entry, page := c.page, op := c.op,
    widx := c.len - 1 }

/-- The fault that a chain raises at a virtual address: FRA.AHI holds the address's high bits (R81, R82). -/
def Cur.faultAt (c : Cur) (cause : Cause) (sub addr : Nat) (virt : Bool) : FaultRec :=
  { c.fault cause sub addr with ahi := if virt then bits addr 71 64 else 0 }

/-- The same fault, taken at a later chain boundary: FRA.SUB has bit 7 set (R146). -/
def FaultRec.deferred (f : FaultRec) : FaultRec := { f with sub := f.sub % 128 + 128 }

/-- A chain at which its context was parked ends without its result (R11): the register is as it was. -/
def Core.undoWait (k : Core) (s : Nat) : Core :=
  let x := k.ctx s
  match x.waiting with
  | none => k
  | some (r, t, full) =>
    (if full then k.putFull x r true else k).setCtx s
      { x with pend := x.pend.filter (fun p => !p.ofTxn r t), waiting := none }

/-- A pending `spill.ckpt` completes with status 1 when its context faults, quits or is discarded (R257); the status takes half
of the figure of R27 (60 on the die, 140 in the module). -/
def Hw.dropCkpt (h : Hw) (core slot : Nat) : Hw :=
  match (h.ctx core slot).ckptMark with
  | none => h
  | some (rc, _, txn) =>
    (h.modCtx core slot (fun x => { x with ckptMark := none })).after (if dieOf rc = dieOf core then 30 else 70) .spillComplete
      (.nats [1, rc, txn, 1])

/-- A slot leaves the masks of its core's barrier channels (R206). -/
def Hw.departs (h : Hw) (core slot : Nat) : Hw :=
  if (h.core core).chans.any (fun (c : Nat × Chan) => c.2.active && c.2.mask.getLsbD slot) then
    h.schedule h.now .barrierDeparture (.nats [core, slot])
  else h

/-- A context takes a fault (R11, R12, R81 to R83, R103): it becomes Faulted at its chain, FRA and FRB are written, and a
kind 0x0001 record is posted. It departs from its barrier channels (R206), its part of a booking ends (R317), and a member of a
Formed gang takes its gang with it (R339). -/
def Hw.raise (h : Hw) (core slot : Nat) (f : FaultRec) : Hw :=
  let h0 := h.modCore core (fun k => k.undoWait slot)
  let x := h0.ctx core slot
  let x1 := ({ x with
    st := .faulted, park := none, fra := f.fra, frb := BitVec.ofNat 64 f.frb, access := none, swWait := false,
    yieldWait := none, hazOn := none, imaged := false, pc := f.pc }).settle
  let h1 := (h0.setCtx core slot x1).post core
    (eventRecord (h.count core) core slot (Cause.code f.cause) x.flags kindFault f.fra.toNat f.frb)
  let h2 := ((h1.departs core slot).dropCkpt core slot)
  let h3 := if x.booked then { h2 with bookEnds := h2.bookEnds ++ [(core, x.bookid.toNat, 1)] } else h2
  match x.gang with
  | none => h3
  | some (cl, g) => if f.cause = .gangMember then h3 else h3.schedule h.now .gangMemberFault (.nats [cl, g, core])

/-- An orphan record (R104): the issuer has quit, and no context changes state. -/
def Hw.orphan (h : Hw) (core slot : Nat) (flags kind : Nat) (f : FaultRec) : Hw :=
  h.post core (eventRecord (h.count core) core slot (Cause.code f.cause) (flags + 1) kind f.fra.toNat f.frb)

end Sys2Proof.Machine
end

