-- ==== Sys2Proof/Machine/Hash.lean ====
section
/-! DEFINITION. Checks over byte strings: the CRC-32 of CRCB and of packets (06_memory R165, 22_link R449) and the
CRC-64/ECMA-182 of paired tasks (11_queue R237), SHA-512 and SHA-512/256 (13_kernel R263). -/

namespace Sys2Proof.Machine

/-- One bit of the reflected CRC-32 with polynomial 0xEDB8_8320 (R165). -/
def crc32Bit (c b : Nat) : Nat :=
  let f := (c + b) % 2
  if f = 1 then (c / 2) ^^^ 0xEDB88320 else c / 2

/-- `n` bits of a word, least significant first, into the CRC-32 (R165). -/
def crc32Bits : Nat → Nat → Nat → Nat
  | 0, c, _ => c
  | n + 1, c, w => crc32Bits n (crc32Bit c (w % 2)) (w / 2)

/-- The CRC-32 of IEEE 802.3 over bytes, from a running value, without inversion (R165). -/
def crc32Bytes (c : Nat) (bs : List Byte) : Nat := bs.foldl (fun c b => crc32Bits 8 c b.toNat) c

/-- One bit of the CRC-64/ECMA-182, most significant first (R237). -/
def crc64Bit (c b : Nat) : Nat :=
  let f := (c / 2 ^ 63 + b) % 2
  let s := c * 2 % 2 ^ 64
  if f = 1 then s ^^^ 0x42F0E1EBA9EA3693 else s

/-- The bits of a byte from bit n-1 down into the CRC-64. -/
def crc64Bits : Nat → Nat → Nat → Nat
  | 0, c, _ => c
  | n + 1, c, w => crc64Bits n (crc64Bit c (w / 2 ^ n % 2)) w

/-- CRC-64/ECMA-182 over bytes, from a running value: neither reflected nor inverted (R237). -/
def crc64Bytes (c : Nat) (bs : List Byte) : Nat := bs.foldl (fun c b => crc64Bits 8 c b.toNat) c

/-- The message that a write folds into a paired half's signature (R237): segment, offset, count, the bytes. -/
def sigMessage (seg off : Nat) (bs : List Byte) : List Byte :=
  bytesLE 1 seg ++ bytesLE 8 off ++ bytesLE 1 bs.length ++ bs

/-! ### SHA-512 and SHA-512/256 (FIPS 180-4; 13_kernel R263, 24_bringup R481) -/

/-- The round constants, in parts. -/
def shaK0 : List Nat :=
  [0x428A2F98D728AE22, 0x7137449123EF65CD, 0xB5C0FBCFEC4D3B2F, 0xE9B5DBA58189DBBC,
   0x3956C25BF348B538, 0x59F111F1B605D019, 0x923F82A4AF194F9B, 0xAB1C5ED5DA6D8118,
   0xD807AA98A3030242, 0x12835B0145706FBE, 0x243185BE4EE4B28C, 0x550C7DC3D5FFB4E2,
   0x72BE5D74F27B896F, 0x80DEB1FE3B1696B1, 0x9BDC06A725C71235, 0xC19BF174CF692694,
   0xE49B69C19EF14AD2, 0xEFBE4786384F25E3, 0x0FC19DC68B8CD5B5, 0x240CA1CC77AC9C65,
   0x2DE92C6F592B0275, 0x4A7484AA6EA6E483, 0x5CB0A9DCBD41FBD4, 0x76F988DA831153B5,
   0x983E5152EE66DFAB, 0xA831C66D2DB43210, 0xB00327C898FB213F, 0xBF597FC7BEEF0EE4,
   0xC6E00BF33DA88FC2, 0xD5A79147930AA725, 0x06CA6351E003826F, 0x142929670A0E6E70,
   0x27B70A8546D22FFC, 0x2E1B21385C26C926, 0x4D2C6DFC5AC42AED, 0x53380D139D95B3DF,
   0x650A73548BAF63DE, 0x766A0ABB3C77B2A8, 0x81C2C92E47EDAEE6, 0x92722C851482353B]
/-- See `shaK0`. -/
def shaK1 : List Nat :=
  [0xA2BFE8A14CF10364, 0xA81A664BBC423001, 0xC24B8B70D0F89791, 0xC76C51A30654BE30,
   0xD192E819D6EF5218, 0xD69906245565A910, 0xF40E35855771202A, 0x106AA07032BBD1B8,
   0x19A4C116B8D2D0C8, 0x1E376C085141AB53, 0x2748774CDF8EEB99, 0x34B0BCB5E19B48A8,
   0x391C0CB3C5C95A63, 0x4ED8AA4AE3418ACB, 0x5B9CCA4F7763E373, 0x682E6FF3D6B2B8A3,
   0x748F82EE5DEFB2FC, 0x78A5636F43172F60, 0x84C87814A1F0AB72, 0x8CC702081A6439EC,
   0x90BEFFFA23631E28, 0xA4506CEBDE82BDE9, 0xBEF9A3F7B2C67915, 0xC67178F2E372532B,
   0xCA273ECEEA26619C, 0xD186B8C721C0C207, 0xEADA7DD6CDE0EB1E, 0xF57D4F7FEE6ED178,
   0x06F067AA72176FBA, 0x0A637DC5A2C898A6, 0x113F9804BEF90DAE, 0x1B710B35131C471B,
   0x28DB77F523047D84, 0x32CAAB7B40C72493, 0x3C9EBE0A15C9BEBC, 0x431D67C49C100D4C,
   0x4CC5D4BECB3E42B6, 0x597F299CFC657E2A, 0x5FCB6FAB3AD6FAEC, 0x6C44198C4A475817]

/-- The initial value of SHA-512. -/
def sha512Init : List Nat :=
  [0x6A09E667F3BCC908, 0xBB67AE8584CAA73B, 0x3C6EF372FE94F82B, 0xA54FF53A5F1D36F1,
   0x510E527FADE682D1, 0x9B05688C2B3E6C1F, 0x1F83D9ABFB41BD6B, 0x5BE0CD19137E2179]

/-- A sum of 64-bit words. -/
def add64 (a b : Nat) : Nat := (a + b) % 2 ^ 64

/-- Rotates a 64-bit word right. -/
def rotr64 (v n : Nat) : Nat := (v / 2 ^ n) ||| (v * 2 ^ (64 - n) % 2 ^ 64)

/-- A block's words, first byte most significant. -/
def beWords : Nat → List Byte → List Nat
  | 0, _ => []
  | n + 1, bs => (bs.take 8).foldl (fun a b => a * 256 + b.toNat) 0 :: beWords n (bs.drop 8)

/-- The message schedule, the latest word first. -/
def shaSchedule : Nat → List Nat → List Nat
  | 0, w => w
  | n + 1, w =>
    let x := w.getD 14 0
    let y := w.getD 1 0
    let s0 := (rotr64 x 1 ^^^ rotr64 x 8) ^^^ x / 2 ^ 7
    let s1 := (rotr64 y 19 ^^^ rotr64 y 61) ^^^ y / 2 ^ 6
    shaSchedule n (add64 (add64 (w.getD 15 0) s0) (add64 (w.getD 6 0) s1) :: w)

/-- The eight working words. -/
structure ShaW where
  a : Nat
  b : Nat
  c : Nat
  d : Nat
  e : Nat
  f : Nat
  g : Nat
  h : Nat
deriving DecidableEq, Repr

/-- One round. -/
def shaRound (s : ShaW) (kw : Nat × Nat) : ShaW :=
  let s1 := (rotr64 s.e 14 ^^^ rotr64 s.e 18) ^^^ rotr64 s.e 41
  let ch := (s.e &&& s.f) ^^^ ((2 ^ 64 - 1 - s.e) &&& s.g)
  let t1 := add64 (add64 (add64 s.h s1) (add64 ch kw.1)) kw.2
  let s0 := (rotr64 s.a 28 ^^^ rotr64 s.a 34) ^^^ rotr64 s.a 39
  let mj := ((s.a &&& s.b) ^^^ (s.a &&& s.c)) ^^^ (s.b &&& s.c)
  ⟨add64 t1 (add64 s0 mj), s.a, s.b, s.c, add64 s.d t1, s.e, s.f, s.g⟩

/-- One block. -/
def shaBlock (v : List Nat) (blk : List Byte) : List Nat :=
  let w := (shaSchedule 64 (beWords 16 blk).reverse).reverse
  let i (n : Nat) : Nat := v.getD n 0
  let r := ((shaK0 ++ shaK1).zip w).foldl shaRound ⟨i 0, i 1, i 2, i 3, i 4, i 5, i 6, i 7⟩
  [add64 (i 0) r.a, add64 (i 1) r.b, add64 (i 2) r.c, add64 (i 3) r.d, add64 (i 4) r.e, add64 (i 5) r.f, add64 (i 6) r.g,
    add64 (i 7) r.h]

/-- The blocks of a padded message. -/
def shaBlocks : Nat → List Nat → List Byte → List Nat
  | 0, v, _ => v
  | n + 1, v, bs => if bs = [] then v else shaBlocks n (shaBlock v (bs.take 128)) (bs.drop 128)

/-- Bytes of a value, the most significant first. -/
def bytesBE (n v : Nat) : List Byte := (bytesLE n v).reverse

/-- The padding of a message of `n` bytes. -/
def shaPad (n : Nat) : List Byte := 0x80 :: (bytesLE ((239 - n % 128) % 128) 0 ++ bytesBE 16 (8 * n))

/-- The digest words of a message from an initial value. -/
def shaRun (init : List Nat) (bs : List Byte) : List Nat :=
  let m := bs ++ shaPad bs.length
  shaBlocks (m.length / 128) init m

/-- SHA-512: 64 bytes. -/
def sha512 (bs : List Byte) : List Byte := (shaRun sha512Init bs).flatMap (bytesBE 8)

/-- The initial value of SHA-512/256: SHA-512 of its name from the initial value with each word complemented by
0xA5A5_A5A5_A5A5_A5A5 (FIPS 180-4, 5.3.6). -/
def sha512256Init : List Nat :=
  shaRun (sha512Init.map (fun v => v ^^^ 0xA5A5A5A5A5A5A5A5)) [0x53, 0x48, 0x41, 0x2D, 0x35, 0x31, 0x32, 0x2F, 0x32, 0x35, 0x36]

/-- SHA-512/256: 32 bytes. -/
def sha512256 (bs : List Byte) : List Byte := ((shaRun sha512256Init bs).flatMap (bytesBE 8)).take 32

/-- The translation identity of a translation's code (R263). -/
def xidOf (code : List Half) : Nat := valLE ((sha512 (code.flatMap (fun h => bytesLE 2 h.toNat))).take 8)

end Sys2Proof.Machine
end

