-- ==== Sys2Proof/Machine/Operands.lean ====
section
/-! DEFINITION. Operands and the common course of a chain: which registers it reads and when that waits (04_context R85,
05_scalar R107 to R109), the memory operand and its check (06_memory R137), and how a chain ends: it retires, transfers,
parks or faults (R54, R134, R213). -/

namespace Sys2Proof.Machine

/-- What a step answers. -/
abbrev Res := Host.Outcome State Fault Refusal

/-- The integer of Sext of a bit vector (R10). -/
def sbv {w : Nat} (v : BitVec w) : Int := v.toInt

/-- Runs a meaning of a chain form on the chain that is being issued. -/
def State.withCur (s : State) (k : Cur → State) : Res :=
  match s.hw.cur with
  | none => .fault .noIssue
  | some c => .next (k c)

/-- The context of the chain. -/
def Hw.curCtx (h : Hw) (c : Cur) : Ctx := h.ctx c.core c.slot
/-- Changes the context of the chain. -/
def Hw.modCur (h : Hw) (c : Cur) (f : Ctx → Ctx) : Hw := h.modCtx c.core c.slot f
/-- A register of the chain's context. -/
def Hw.cg (h : Hw) (c : Cur) (n : GReg) : Word := h.g c.core c.slot n.toNat
/-- A register of the chain's context, by number. -/
def Hw.cgn (h : Hw) (c : Cur) (n : Nat) : Word := h.g c.core c.slot n

/-! ### How a chain ends -/

/-- Removes a slot that has issued from the lists of the contexts that yielded to it (R98). -/
def Ctx.yieldSeen (x : Ctx) (slot now : Nat) : Ctx :=
  match x.yieldWait with
  | none => x
  | some (t, l) =>
    let l' := l.filter (fun j => j != slot)
    if l' = [] ∧ l ≠ [] then { x with yieldWait := none, notBefore := max x.notBefore (now + 1) } else { x with yieldWait := some (t, l') }

/-- The chain has taken the core's issue cycle (R212, R213): the pointer of its EFF, its W and EFF, XSTEP for a chain that
is not of page 15 (R106), and the contexts that yielded to it (R98). -/
def Hw.issued (h : Hw) (c : Cur) : Hw :=
  { h.modSlot c.core c.slot (fun k x =>
      let k1 := { k with
        lastIssue := some h.now,
        ptr := if k.wheel then k.ptr else SMap.set k.ptr x.eff c.slot,
        slots := k.slots.map (fun (e : Nat × Ctx) => if e.1 = c.slot then e else (e.1, e.2.yieldSeen c.slot h.now)) }
      k1.setCtx c.slot { x.settle with xstep := if c.page = 15 then x.xstep else 0 })
    with cur := none }

/-- Ends a loop level: it is active no more and its LC is 0 (R134, R135). -/
def Ctx.endLoop (x : Ctx) (v : Nat) : Ctx := { x with lp := SMap.set x.lp v { x.loopLv v with active := false, lc := 0 } }

/-- Inserts a level so that the one whose body starts last comes first. -/
def insLevel (start : Nat → Nat) (v : Nat) : List Nat → List Nat
  | [] => [v]
  | w :: r => if start w ≤ start v then v :: w :: r else w :: insLevel start v r

/-- The active levels, the innermost first: a LOOP opens its body after itself inside the body around it, so the inner
level starts later (R133). -/
def Ctx.levels (x : Ctx) : List Nat :=
  ([0, 1, 2].filter (fun v => (x.loopLv v).active)).foldr (insLevel (fun v => (x.loopLv v).start)) []

/-- The loop-back rule for a body that ends at halfword `e` (R134): the new context with its PC. -/
def loopBack : List Nat → Nat → Ctx → Ctx
  | [], _, x => x
  | v :: r, e, x =>
    let l := x.loopLv v
    if l.fin = e then
      if 1 < l.lc.toNat then { x with pc := l.start, lp := SMap.set x.lp v { l with lc := l.lc - 1 } }
      else loopBack r e (x.endLoop v)
    else loopBack r e x

/-- The PC after a chain that does not itself transfer control (R134). -/
def Ctx.advance (x : Ctx) (pc len : Nat) : Ctx := loopBack x.levels (pc + len - 1) { x with pc := pc + len }

/-- A chain that does not transfer ends; the next chain of its context may issue `d` cycles later (R108). -/
def Hw.retire (h : Hw) (c : Cur) (sw : Bool) (d : Nat) : Hw :=
  (h.issued c).modCur c (fun x => { x.advance c.pc c.len with notBefore := h.now + d, swWait := sw })

/-- Ends the levels that a transfer to `t` leaves, with every level inside them (R135). -/
def Ctx.leaveLoops (x : Ctx) (t : Nat) : Ctx :=
  let gone := x.levels.filter (fun v => t < (x.loopLv v).start || (x.loopLv v).fin < t)
  match gone.getLast? with
  | none => x
  | some o => (x.levels.takeWhile (fun v => v != o) ++ [o]).foldl Ctx.endLoop x

/-- A chain transfers control within its translation (R130, R135). -/
def Hw.transfer (h : Hw) (c : Cur) (sw : Bool) (t d : Nat) : Hw :=
  (h.issued c).modCur c (fun x => { x.leaveLoops t with pc := t, notBefore := h.now + d, swWait := sw })

/-- A chain parks its context; the PC stays at the chain (R54, R84). -/
def Hw.parkChain (h : Hw) (c : Cur) (why : Park) : Hw :=
  (h.issued c).modCur c (fun x => { x with st := .parked, park := some why, parkCur := some c, pc := c.pc })

/-- A plain access parks its context with reason memory (R143). -/
def Hw.parkMemory (h : Hw) (c : Cur) (sw : Bool) : Hw :=
  (h.parkChain c .memory).modCur c (fun x => { x with access := some c, plainSw := sw, swWait := false })

/-- The chain of a plain access has its reply: it ends, and the next chain of its context may issue at cycle `cyc` (R143). -/
def Hw.endPlain (h : Hw) (core slot cyc : Nat) : Hw :=
  h.modCtx core slot (fun x =>
    match x.access with
    | none => x
    | some c =>
      ({ x.advance c.pc c.len with
        st := .ready, park := none, access := none, notBefore := cyc, swWait := x.plainSw }).settle)

/-- A chain raises a fault (R11, R12). -/
def Hw.faultChain (h : Hw) (c : Cur) (f : FaultRec) : Hw := (h.issued c).raise c.core c.slot f

/-- A chain raises a fault: cause, FRA.SUB, FRB. -/
def State.faultWith (s : State) (c : Cur) (cause : Cause) (sub frb : Nat) : State :=
  s.onHw (fun h => h.faultChain c (c.fault cause sub frb))

/-! ### Reading registers -/

/-- The context does not issue this chain yet: it waits for the result of a register (R85, R211). TS.HAZ is set. -/
def Hw.hazard (h : Hw) (c : Cur) (n : Nat) : Hw :=
  let x := h.curCtx c
  let at_ := x.pend.foldl (fun m p => match p with | .fixed r k _ => if r = n then max m k else m | _ => m) (h.now + 1)
  let async := x.pend.any (fun p => match p with | .async r _ => r == n | _ => false)
  { h.modCur c (fun x => { x.setTs tsHAZ true with notBefore := at_, hazOn := if async then some n else none })
    with cur := none }

/-- The chain's sources are at hand, or the chain waits (R85): for a result of its own a hazard wait, for an empty
register, or the reply of a `TRAP` (R99), a park; in a booked context either is a CalendarViolation with FRA.SUB = 1
(R316). -/
def State.reads (s : State) (c : Cur) (rs : List Nat) (k : State) : State :=
  let x := s.hw.curCtx c
  match rs.find? (fun n => x.pending n) with
  | some n =>
    if x.booked then s.faultWith c .calendarViolation 1 0
    else if x.pend.any (fun p => match p with | .trap r _ => r == n | _ => false) then
      s.onHw (fun h => h.parkChain c (.fullBit n))
    else s.onHw (fun h => h.hazard c n)
  | none =>
    match rs.find? (fun n => !s.hw.isFull c.core c.slot n) with
    | some n =>
      if x.booked then s.faultWith c .calendarViolation 1 0
      else s.onHw (fun h => h.parkChain c (.fullBit n))
    | none => k

/-- Registers named by fields. -/
def regs (l : List GReg) : List Nat := l.map BitVec.toNat

/-- A run of registers. -/
def regRun (a n : Nat) : List Nat := (List.range n).map (fun i => a + i)

/-- A form that needs registers up to `last` inside its window (R52, R149). -/
def State.window (s : State) (c : Cur) (last : Nat) (k : State) : State :=
  if (s.hw.curCtx c).wsize ≤ last then s.faultWith c .registerWindow 0 last else k

/-- The common course of a form that computes one register result at a fixed latency from registers (R107, R108). -/
def State.compute (s : State) (sw : Bool) (a : GReg) (srcs : List GReg) (lat : Nat) (f : (GReg → Word) → Word) : Res :=
  s.withCur fun c =>
    s.reads c (regs srcs) (s.onHw fun h => (h.setG c.core c.slot a.toNat (f (h.cg c)) lat).retire c sw 1)

/-- The chain reads a scratch pointer, which waits for the result of a `PMOV` (R101, R211). -/
def State.readsPtr (s : State) (c : Cur) (p : Nat) (k : State) : State :=
  let x := s.hw.curCtx c
  let at_ := SMap.get 0 x.ptrAt p
  if at_ ≤ s.hw.now then k
  else if x.booked then s.faultWith c .calendarViolation 1 0
  else s.onHw (fun h => { h.modCur c (fun x => { x.setTs tsHAZ true with notBefore := at_ }) with cur := none })

/-- Waits while a mask result of the context is outstanding (R362). -/
def State.readsMasks (s : State) (c : Cur) (ms : List Nat) (k : State) : State :=
  let x := s.hw.curCtx c
  match x.maskPend.find? (fun p => p.mask != 0 && ms.contains p.mask) with
  | some p =>
    if x.booked then s.faultWith c .calendarViolation 1 0
    else s.onHw (fun h => { h.modCur c (fun x => { x.setTs tsHAZ true with notBefore := max (s.hw.now + 1) p.cycle }) with cur := none })
  | none => k

/-! ### The memory operand -/

/-- What a form needs of a segment and of a leaf. -/
structure Need where
  r : Bool := false
  w : Bool := false
  g : Bool := false
deriving DecidableEq, Repr

/-- The segment grants what a form needs. -/
def Seg.grants (s : Seg) (n : Need) : Bool := (!n.r || s.r) && (!n.w || s.w) && (!n.g || s.g)

/-- The result of `Check` (R137): the address, or the fault with its address. -/
inductive Chk where
  | ok (addr : Nat)
  | bad (cause : Cause) (addr : Nat)
deriving DecidableEq, Repr

/-- The first byte of a range that no scratchpad holds (R23, R137): its first byte, or offset 0x9_0000 of its first core. -/
def scratchHole (a size : Nat) : Option Nat :=
  if size = 0 then none
  else if 2 ^ 41 ≤ a ∨ 0x90000 ≤ a % 2 ^ 20 then some a
  else
    let hole := a / 2 ^ 20 * 2 ^ 20 + 0x90000
    if hole < a + size then some hole else none

/-- `Check` of R137 for segment `sg`, offset `o`, `size` bytes. -/
def segCheck (sg : Seg) (o : Int) (size : Nat) (need : Need) (align : Nat) : Chk :=
  let addr := wrap ((sg.base : Int) + o) 72
  if !sg.grants need then .bad .segmentRights addr
  else if o < 0 ∨ (sg.len : Int) < o + size then .bad .segmentBounds addr
  else
    match (if sg.virt then none else scratchHole addr size) with
    | some b => .bad .segmentBounds b
    | none => if addr % align ≠ 0 then .bad .misaligned addr else .ok addr

/-- The offset of a memory operand (R137). -/
def Hw.memOffset (h : Hw) (c : Cur) (m : MemOp) : Int := ((h.cg c m.idx).toNat : Int) + sbv m.disp

/-- Runs `Check` for a segment number; a failure is the chain's fault. -/
def State.check (s : State) (c : Cur) (n : Nat) (o : Int) (size : Nat) (need : Need) (align : Nat)
    (k : Nat → Seg → State) : State :=
  let sg := (s.hw.curCtx c).seg n
  match segCheck sg o size need align with
  | .ok a => k a sg
  | .bad cause a => s.onHw (fun h => h.faultChain c (c.faultAt cause 0 a sg.virt))

/-! ### Latencies (R27, R28) -/

/-- Switches outside the module that a packet passes (R28). -/
def Hw.hops (h : Hw) (m n : Nat) : Nat :=
  let a := h.mod m
  let b := h.mod n
  if a.rack = b.rack then (if a.board = b.board then 1 else 3) else 5

/-- The figure of R27 for a scratchpad of a core; a service core stands at the die node (R257). -/
def Hw.scratchLatency (h : Hw) (src dst : Nat) : Nat :=
  if src = dst then 4
  else if src < firstService ∧ src / 16 = dst / 16 then 20
  else if src < firstService ∧ src / 128 = dst / 128 then 36
  else if dieOf src = dieOf dst then 60
  else if moduleOf src = moduleOf dst then 140
  else 900 + 120 * h.hops (moduleOf src) (moduleOf dst)

/-- The figure of R27 for a DRAM slice of a core. -/
def Hw.dramLatency (h : Hw) (src dst : Nat) : Nat :=
  if src = dst then 96
  else if src < firstService ∧ src / 16 = dst / 16 then 112
  else if dieOf src = dieOf dst then 156
  else if moduleOf src = moduleOf dst then 236
  else 996 + 120 * h.hops (moduleOf src) (moduleOf dst)

/-- The figure of R27 for a memory key. -/
def Hw.latency (h : Hw) (src key : Nat) : Nat :=
  if keyDram key then h.dramLatency src (keyCore key) else h.scratchLatency src (keyCore key)

end Sys2Proof.Machine
end

