-- ==== Sys2Proof/Machine/Flags.lean ====
section
/-! DEFINITION. The status registers as SRR reads and SRW writes them (04_context R77 to R80), and the writes that govern
later chains (R78, R138). The part has no arithmetic flags: the flags are the fields of TS. -/

namespace Sys2Proof.Machine

/-- The chip model of this part (R1, R77). -/
def modelNumber : Nat := 0x0B02

/-- The value of a status register, none for an unassigned number (R77). -/
def Hw.status (h : Hw) (core slot n : Nat) : Option Word :=
  let k := h.core core
  let x := k.ctx slot
  let w (v : Nat) : Option Word := some (BitVec.ofNat 64 v)
  match n with
  | 0x00 => some x.ts
  | 0x01 => some x.fra
  | 0x02 => some x.frb
  | 0x03 => some x.xstep
  | 0x04 => some x.role
  | 0x05 => w x.prio.toNat
  | 0x06 => w k.age
  | 0x07 => w x.otag.toNat
  | 0x08 => w x.gset.toNat
  | 0x09 => w x.prin.toNat
  | 0x0A => w x.linksp.toNat
  | 0x0B => w x.ckptb.toNat
  | 0x0C => w k.deqb
  | 0x0D => w k.deql
  | 0x0E => w x.steald.toNat
  | 0x0F => w k.ovfb
  | 0x10 => w k.ovfl
  | 0x11 => w x.taskr.toNat
  | 0x12 => w (h.count core)
  | 0x13 => w core
  | 0x14 => w slot
  | 0x15 => w modelNumber
  | 0x16 => w x.bookid.toNat
  | _ => none

/-- The register has a field that task mode may write (R77, R79, R80). -/
def taskWritable (n : Nat) : Bool := n = 0x00 || n = 0x04 || n = 0x0E

/-- The MBZ bits of a status register (R79, R80, R81, R105). -/
def mbzMask (n : Nat) : Word :=
  match n with
  | 0x00 => 0x000000001FFFF810
  | 0x01 => 0x00000000000F0000
  | 0x03 => 0xFFFFFFFFFFFFF800
  | 0x04 => 0xFFFFFFFFFFFFFFF0
  | _ => 0

/-- A value that a writable field refuses (R78, R80): DECL 0; in service mode AGE below 16, OVFB or OVFL unaligned or
out of order, whichever of the two is written (log 115). -/
def Hw.badStatus (h : Hw) (core : Nat) (svc : Bool) (n : Nat) (v : Word) : Bool :=
  let k := h.core core
  let u := v.toNat
  match n with
  | 0x04 => bits u 3 2 = 0
  | 0x06 => svc && decide (bits u 15 0 < 16)
  | 0x0F => svc && (decide (bits u 19 0 % 16 ≠ 0) || decide (k.ovfl < bits u 19 0))
  | 0x10 => svc && (decide (bits u 19 0 % 16 ≠ 0) || decide (bits u 19 0 < k.ovfb))
  | _ => false

/-- Applies a checked write of a status register (R78): in task mode only RW and W1C fields change; in service mode every
field but those that report the part. -/
def Core.writeStatus (k : Core) (slot n : Nat) (v : Word) : Core :=
  let x := k.ctx slot
  let svc := x.service
  let u := v.toNat
  let ctx (y : Ctx) : Core := k.setCtx slot y
  match n with
  | 0x00 =>
    if svc then ctx { x with ts := putBits (putBits (v &&& ~~~0xF#64) 7 2 (bits x.ts.toNat 8 7)) 0 4 (bits (x.ts &&& ~~~v).toNat 3 0) }
    else ctx { x with ts := x.ts &&& ~~~(v &&& 0xF#64) }
  | 0x04 =>
    if svc then ctx { x with role := putBits (putBits x.role 2 2 (bits u 3 2)) 0 2 (bits u 1 0) }
    else
      let y := { x with role := putBits x.role 2 2 (bits u 3 2) }
      ctx (if x.booked || decide (k.age ≤ x.w) then y else y.setEff y.decl)
  | 0x0E => ctx { x with steald := BitVec.ofNat 2 u }
  | 0x01 => if svc then ctx { x with fra := v } else k
  | 0x02 => if svc then ctx { x with frb := v } else k
  | 0x03 => if svc then ctx { x with xstep := v } else k
  | 0x05 => if svc then ctx { x with prio := BitVec.ofNat 2 u } else k
  | 0x06 => if svc then { k with age := bits u 15 0 } else k
  | 0x07 => if svc then ctx { x with otag := BitVec.ofNat 12 u } else k
  | 0x08 => if svc then ctx { x with gset := BitVec.ofNat 3 u } else k
  | 0x09 => if svc then ctx { x with prin := BitVec.ofNat 32 u } else k
  | 0x0A => if svc then ctx { x with linksp := BitVec.ofNat 20 u } else k
  | 0x0B => if svc then ctx { x with ckptb := BitVec.ofNat 20 u } else k
  | 0x0C => if svc then { k with deqb := bits u 19 0 } else k
  | 0x0D => if svc then { k with deql := bits u 19 0 } else k
  | 0x0F => if svc then { k with ovfb := bits u 19 0 } else k
  | 0x10 => if svc then { k with ovfl := bits u 19 0 } else k
  | 0x11 => if svc then ctx { x with taskr := BitVec.ofNat 20 u } else k
  | 0x16 => if svc then ctx { x with bookid := BitVec.ofNat 16 u } else k
  | _ => k

/-- Applies one write that governs chains from this cycle on (R78, R138). -/
def Core.applyLate (k : Core) (slot : Nat) : LateOp → Core
  | .seg n v => let x := k.ctx slot; k.setCtx slot { x with sg := SMap.set x.sg n v }
  | .status n v => k.writeStatus slot n v

/-- The results and writes of one context that fall due at a cycle (R78, R107, R138, R362). -/
def Core.landSlot (now : Nat) (k : Core) (slot : Nat) : Core :=
  let x := k.ctx slot
  let due := x.pend.filter (Pend.dueBy now)
  let k1 := k.setCtx slot { x with
    pend := x.pend.filter (fun p => !p.dueBy now), just := [],
    late := x.late.filter (fun l => now < l.cycle), maskPend := x.maskPend.filter (fun p => p.job.isSome || decide (now < p.cycle)) }
  let k2 := due.foldl (fun k p => k.landPend slot p) k1
  let k3 := (x.maskPend.filter (fun p => p.job.isNone && decide (p.cycle ≤ now))).foldl
    (fun k p => k.setCtx slot ((k.ctx slot).setMask p.mask p.val)) k2
  (x.late.filter (fun l => l.cycle ≤ now)).foldl (fun k l => k.applyLate slot l.op) k3

/-- The slots that a core keeps. -/
def Core.slotNums (k : Core) : List Nat := k.slots.map (fun (e : Nat × Ctx) => e.1)

/-- Everything of fixed latency that a core writes as a cycle begins. -/
def Core.land1 (now : Nat) (k : Core) : Core := k.slotNums.foldl (Core.landSlot now) k

/-- Everything of fixed latency that the part writes as a cycle begins. -/
def Hw.landAll (h : Hw) : Hw := { h with cores := h.cores.map (fun (e : Nat × Core) => (e.1, e.2.land1 h.now)) }

/-- The value of a core-common register seen by a chain that issues at `now` (R115). -/
def Core.ccSeen (k : Core) (now n : Nat) : Word :=
  match k.ccs.find? (fun w => w.reg = n && w.seen ≤ now) with
  | some w => w.val
  | none => 0

/-- A write of a core-common register; writes that no later chain can see are dropped (R115). -/
def Core.ccWrite (k : Core) (now n : Nat) (v : Word) : Core :=
  let later := k.ccs.filter (fun w => w.reg != n || decide (now < w.seen))
  let seen := (k.ccs.find? (fun w => w.reg = n && w.seen ≤ now)).toList
  { k with ccs := ⟨n, v, now + 8⟩ :: (later ++ seen) }

/-- A context that waits on a register wakes once it is full (R84, R85). -/
def Hw.fullWake (h : Hw) (c s n : Nat) : Hw :=
  let x := h.ctx c s
  let h1 := if x.park = some (.fullBit n) then h.wakeAt c s h.now else h
  if x.hazOn = some n ∧ !(h1.ctx c s).pending n then h1.modCtx c s (fun x => { x with hazOn := none }) else h1

end Sys2Proof.Machine
end

