-- ==== Sys2Proof/Machine/Scalar.lean ====
section
/-! DEFINITION. The scalar instructions (05_scalar R112 to R135) and the moves of pointers and segments that take no
memory access (04_context R101, 06_memory R138). -/

namespace Sys2Proof.Machine

/-! ### Integer types (R112) -/

/-- Width of a type. -/
def ityWidth : ITy → Nat
  | .s64 => 64 | .s32 => 32 | .s16 => 16 | .s8 => 8 | .z64 => 64 | .z32 => 32 | .z16 => 16 | .z8 => 8

/-- Kind s of a type. -/
def itySigned : ITy → Bool
  | .s64 => true | .s32 => true | .s16 => true | .s8 => true | _ => false

/-- `In` at a width and a kind (R112). -/
def inAt (signed : Bool) (w v : Nat) : Int := if signed then sext v w else ((v % 2 ^ w : Nat) : Int)

/-- `Out` at a width and a kind (R112): the low bits, extended to 64 by kind. -/
def outAt (signed : Bool) (w : Nat) (x : Int) : Word := word (inAt signed w (wrap x w))

/-- `In` of R112. -/
def inTy (t : ITy) (v : Word) : Int := inAt (itySigned t) (ityWidth t) v.toNat

/-- `Out` of R112. -/
def outTy (t : ITy) (x : Int) : Word := outAt (itySigned t) (ityWidth t) x

/-- The latency of DIV and REM (R108). -/
def divLatency (t : ITy) : Nat :=
  match ityWidth t with
  | 64 => 34 | 32 => 18 | 16 => 10 | _ => 6

/-- DIV of R120. -/
def divOp (t : ITy) (x y : Word) : Word :=
  let a := inTy t x
  let b := inTy t y
  outTy t (if b = 0 then (if itySigned t then -1 else (2 ^ ityWidth t : Nat) - 1) else a.tdiv b)

/-- REM of R120. -/
def remOp (t : ITy) (x y : Word) : Word :=
  let a := inTy t x
  let b := inTy t y
  outTy t (if b = 0 then a else a - a.tdiv b * b)

/-- The condition of CMP and CMPI (R125). -/
def condHolds (k : Cond) (a b : Int) : Bool :=
  match k with
  | .eq => decide (a = b) | .ne => decide (a ≠ b) | .lt => decide (a < b) | .ge => decide (b ≤ a)
  | .le => decide (a ≤ b) | .gt => decide (b < a)

/-- The test of SEL and BR (R126, R131). -/
def testHolds (k : Test) (v : Word) : Bool :=
  let x := v.toInt
  match k with
  | .nz => decide (x ≠ 0) | .z => decide (x = 0) | .neg => decide (x < 0) | .nneg => decide (0 ≤ x)
  | .pos => decide (0 < x) | .npos => decide (x ≤ 0)

/-- A shift by an amount below 64 (R121, R122). -/
def shiftOp (k : ShKind) (v : Word) (n : Nat) : Word :=
  match k with
  | .shl => v <<< n
  | .shr => v >>> n
  | .sar => v.sshiftRight n
  | .rot => v.rotateLeft n

/-- The shift amount in a register (R121). -/
def amount (v : Word) : Nat := v.toNat % 64

/-- Leading zeros (R123). -/
def clzOp (v : Word) : Word := BitVec.ofNat 64 (if v = 0 then 64 else 63 - v.toNat.log2)

/-- Ones of a number's low bits. -/
def popcount : Nat → Nat → Nat
  | 0, _ => 0
  | n + 1, v => v % 2 + popcount n (v / 2)

/-- Number of ones (R123). -/
def popcOp (v : Word) : Word := BitVec.ofNat 64 (popcount 64 v.toNat)

/-- Sign-extends an immediate held at its widest width (R51). -/
def immWord (i : BitVec 40) : Word := i.signExtend 64

/-! ### Moves and constants -/

/-- NOP (R118). -/
def execNop (sw : Bool) (s : State) : Res := s.withCur fun c => s.onHw fun h => h.retire c sw 1

/-- MOV (R114). -/
def execMov (sw : Bool) (a b : GReg) (s : State) : Res := s.compute sw a [b] 2 fun g => g b

/-- MOV.wc (R114, R115). -/
def execMovWc (sw : Bool) (a : BitVec 4) (b : GReg) (s : State) : Res :=
  s.withCur fun c => s.reads c (regs [b]) <| s.onHw fun h =>
    (h.modCore c.core (fun k => k.ccWrite h.now a.toNat (h.cg c b))).retire c sw 1

/-- MOV.rc (R114, R115). -/
def execMovRc (sw : Bool) (a : GReg) (b : BitVec 4) (s : State) : Res :=
  s.withCur fun c => s.onHw fun h =>
    (h.setG c.core c.slot a.toNat ((h.core c.core).ccSeen h.now b.toNat) 2).retire c sw 1

/-- MOV.rlc (R114). -/
def execMovRlc (sw : Bool) (a : GReg) (b : Fin 3) (s : State) : Res :=
  s.withCur fun c => s.onHw fun h =>
    (h.setG c.core c.slot a.toNat (((h.curCtx c).loopLv b.val).lc.zeroExtend 64) 2).retire c sw 1

/-- LI (R116). -/
def execLi (sw : Bool) (a : GReg) (imm : BitVec 40) (s : State) : Res := s.compute sw a [] 2 fun _ => immWord imm

/-- LIH (R117). -/
def execLih (sw : Bool) (a : GReg) (imm : BitVec 40) (s : State) : Res :=
  s.withCur fun c =>
    if 0xFFFFFF < imm.toNat then s.faultWith c .reservedValue 5 imm.toNat
    else s.reads c (regs [a]) <| s.onHw fun h =>
      (h.setG c.core c.slot a.toNat (BitVec.ofNat 64 ((h.cg c a).toNat * 2 ^ 24 + imm.toNat)) 2).retire c sw 1

/-! ### Arithmetic -/

/-- ADD (R119). -/
def execAdd (sw : Bool) (t : ITy) (a c b : GReg) (s : State) : Res :=
  s.compute sw a [c, b] 2 fun g => outTy t (inTy t (g c) + inTy t (g b))

/-- SUB (R119). -/
def execSub (sw : Bool) (t : ITy) (a c b : GReg) (s : State) : Res :=
  s.compute sw a [c, b] 2 fun g => outTy t (inTy t (g c) - inTy t (g b))

/-- ADDI (R119). -/
def execAddi (sw : Bool) (t : ITy) (a c : GReg) (imm : BitVec 40) (s : State) : Res :=
  s.compute sw a [c] 2 fun g => outTy t (inTy t (g c) + inTy t (immWord imm))

/-- MUL (R119). -/
def execMul (sw : Bool) (t : ITy) (a c b : GReg) (s : State) : Res :=
  s.compute sw a [c, b] 4 fun g => outTy t (inTy t (g c) * inTy t (g b))

/-- MULH (R119). -/
def execMulh (sw : Bool) (t : ITy) (a c b : GReg) (s : State) : Res :=
  s.compute sw a [c, b] 5 fun g => outTy t ((inTy t (g c) * inTy t (g b)).fdiv (2 ^ ityWidth t : Nat))

/-- DIV (R120). -/
def execDiv (sw : Bool) (t : ITy) (a c b : GReg) (s : State) : Res :=
  s.compute sw a [c, b] (divLatency t) fun g => divOp t (g c) (g b)

/-- REM (R120). -/
def execRem (sw : Bool) (t : ITy) (a c b : GReg) (s : State) : Res :=
  s.compute sw a [c, b] (divLatency t) fun g => remOp t (g c) (g b)

/-! ### Logic, shifts and bit counts -/

/-- AND (R121). -/
def execAnd (sw : Bool) (a c b : GReg) (s : State) : Res := s.compute sw a [c, b] 2 fun g => g c &&& g b

/-- OR (R121). -/
def execOr (sw : Bool) (a c b : GReg) (s : State) : Res := s.compute sw a [c, b] 2 fun g => g c ||| g b

/-- XOR (R121). -/
def execXor (sw : Bool) (a c b : GReg) (s : State) : Res := s.compute sw a [c, b] 2 fun g => g c ^^^ g b

/-- ANDN (R121). -/
def execAndn (sw : Bool) (a c b : GReg) (s : State) : Res := s.compute sw a [c, b] 2 fun g => g c &&& ~~~(g b)

/-- SHL (R121). -/
def execShl (sw : Bool) (a c b : GReg) (s : State) : Res :=
  s.compute sw a [c, b] 2 fun g => shiftOp .shl (g c) (amount (g b))

/-- SHR (R121). -/
def execShr (sw : Bool) (a c b : GReg) (s : State) : Res :=
  s.compute sw a [c, b] 2 fun g => shiftOp .shr (g c) (amount (g b))

/-- SAR (R121). -/
def execSar (sw : Bool) (a c b : GReg) (s : State) : Res :=
  s.compute sw a [c, b] 2 fun g => shiftOp .sar (g c) (amount (g b))

/-- ROT (R121). -/
def execRot (sw : Bool) (a c b : GReg) (s : State) : Res :=
  s.compute sw a [c, b] 2 fun g => shiftOp .rot (g c) (amount (g b))

/-- SHI (R122). -/
def execShi (sw : Bool) (k : ShKind) (a c : GReg) (imm : BitVec 13) (s : State) : Res :=
  s.withCur fun cu =>
    if 63 < imm.toNat then s.faultWith cu .reservedValue 4 0
    else s.reads cu (regs [c]) <| s.onHw fun h =>
      (h.setG cu.core cu.slot a.toNat (shiftOp k (h.cg cu c) imm.toNat) 2).retire cu sw 1

/-- CLZ (R123). -/
def execClz (sw : Bool) (a b : GReg) (s : State) : Res := s.compute sw a [b] 2 fun g => clzOp (g b)

/-- POPC (R123). -/
def execPopc (sw : Bool) (a b : GReg) (s : State) : Res := s.compute sw a [b] 2 fun g => popcOp (g b)

/-! ### Comparison and selection -/

/-- MIN (R124). -/
def execMin (sw : Bool) (t : ITy) (a c b : GReg) (s : State) : Res :=
  s.compute sw a [c, b] 2 fun g => outTy t (min (inTy t (g c)) (inTy t (g b)))

/-- MAX (R124). -/
def execMax (sw : Bool) (t : ITy) (a c b : GReg) (s : State) : Res :=
  s.compute sw a [c, b] 2 fun g => outTy t (max (inTy t (g c)) (inTy t (g b)))

/-- CMP (R125). -/
def execCmp (sw : Bool) (k : Cond) (t : ITy) (a c b : GReg) (s : State) : Res :=
  s.compute sw a [c, b] 2 fun g => if condHolds k (inTy t (g c)) (inTy t (g b)) then 1 else 0

/-- CMPI (R125). -/
def execCmpi (sw : Bool) (k : Cond) (t : ITy) (a c : GReg) (imm : BitVec 40) (s : State) : Res :=
  s.compute sw a [c] 2 fun g => if condHolds k (inTy t (g c)) (inTy t (immWord imm)) then 1 else 0

/-- SEL (R126). -/
def execSel (sw : Bool) (k : Test) (a c b : GReg) (s : State) : Res :=
  s.compute sw a [a, c, b] 2 fun g => if testHolds k (g a) then g c else g b

/-! ### Fields and extension -/

/-- EXT (R127). -/
def execExt (sw : Bool) (t : ITy) (a b : GReg) (s : State) : Res := s.compute sw a [b] 2 fun g => outTy t (inTy t (g b))

/-- The field of BFX and BFI: lo, len (R128). -/
def fieldOf (imm : BitVec 13) : Nat × Nat := (bits imm.toNat 5 0, bits imm.toNat 11 6 + 1)

/-- BFX (R128). -/
def bfxOp (sgn : Bool) (lo len : Nat) (v : Word) : Word :=
  let f := v.toNat / 2 ^ lo % 2 ^ len
  if sgn then word (sext f len) else BitVec.ofNat 64 f

/-- BFX (R128). -/
def execBfx (sw : Bool) (sgn : Bool) (a c : GReg) (imm : BitVec 13) (s : State) : Res :=
  s.withCur fun cu =>
    let f := fieldOf imm
    if 64 < f.1 + f.2 then s.faultWith cu .reservedValue 3 imm.toNat
    else s.reads cu (regs [c]) <| s.onHw fun h =>
      (h.setG cu.core cu.slot a.toNat (bfxOp sgn f.1 f.2 (h.cg cu c)) 2).retire cu sw 1

/-- BFI (R128). -/
def execBfi (sw : Bool) (a c : GReg) (imm : BitVec 13) (s : State) : Res :=
  s.withCur fun cu =>
    let f := fieldOf imm
    if 64 < f.1 + f.2 then s.faultWith cu .reservedValue 3 imm.toNat
    else s.reads cu (regs [a, c]) <| s.onHw fun h =>
      (h.setG cu.core cu.slot a.toNat (putBits (h.cg cu a) f.1 f.2 (h.cg cu c).toNat) 2).retire cu sw 1

/-! ### Address arithmetic -/

/-- LEA (R129). The offset wraps at 64 bits, and the bounds are those of a one-byte access (R137), without rights. -/
def execLea (sw : Bool) (hi : Bool) (a : GReg) (m : MemOp) (s : State) : Res :=
  s.withCur fun c => s.reads c (regs [m.idx]) <|
    let sg := (s.hw.curCtx c).seg m.sg.toNat
    let o := wrap (s.hw.memOffset c m) 64
    match segCheck sg o 1 {} 1 with
    | .bad cause ad => s.onHw fun h => h.faultChain c (c.faultAt cause 0 ad sg.virt)
    | .ok ad => s.onHw fun h =>
        (h.setG c.core c.slot a.toNat (BitVec.ofNat 64 (if hi then bits ad 71 64 else ad)) 2).retire c sw 1

/-! ### Control transfer -/

/-- A taken transfer to a target (R130): the target must lie in the translation. -/
def State.jumpTo (s : State) (c : Cur) (sw : Bool) (t : Int) (d : Nat) : State :=
  if t < 0 ∨ (c.codeEnd : Int) < t then s.faultWith c .reservedValue 1 (wrap t 64)
  else s.onHw fun h => h.transfer c sw t.toNat d

/-- BR (R130, R131). -/
def execBr (sw : Bool) (k : BrTest) (a : GReg) (imm : BitVec 40) (s : State) : Res :=
  s.withCur fun c =>
    let go (taken : Bool) : State :=
      if taken then s.jumpTo c sw ((c.pc : Int) + sbv imm) 2 else s.onHw fun h => h.retire c sw 1
    match k with
    | .test t => s.reads c (regs [a]) (go (testHolds t (s.hw.cg c a)))
    | .full => go (s.hw.isFull c.core c.slot a.toNat)
    | .empty => go (!s.hw.isFull c.core c.slot a.toNat)

/-- JMP (R130, R132). -/
def execJmp (sw : Bool) (imm : BitVec 40) (s : State) : Res :=
  s.withCur fun c => s.jumpTo c sw ((c.pc : Int) + sbv imm) 2

/-- JMPR (R130, R132). -/
def execJmpr (sw : Bool) (b : GReg) (s : State) : Res :=
  s.withCur fun c => s.reads c (regs [b]) (s.jumpTo c sw ((s.hw.cg c b).toNat : Int) 3)

/-! ### Loops -/

/-- LOOP (R133); of several levels whose ends its body passes the innermost is reported (log 104). -/
def execLoop (sw : Bool) (lc : Fin 3) (b : GReg) (imm : BitVec 9) (s : State) : Res :=
  s.withCur fun c =>
    let x := s.hw.curCtx c
    let len := imm.toNat
    let start := c.pc + c.len
    let last := start + len - 1
    if len = 0 ∨ 256 < len ∨ c.codeEnd < last then s.faultWith c .loopLimit 1 len
    else if (x.loopLv lc.val).active then s.faultWith c .loopLimit 2 lc.val
    else
      match x.levels.find? (fun v => start < (x.loopLv v).start || (x.loopLv v).fin < last) with
      | some v => s.faultWith c .loopLimit 3 v
      | none =>
        s.reads c (regs [b]) <|
          let cnt := (s.hw.cg c b).toNat
          if 0xFFFFFFFF < cnt then s.faultWith c .reservedValue 2 cnt
          else if cnt = 0 then
            s.onHw fun h => (h.retire c sw 1).modCur c (fun y => loopBack x.levels last { y with pc := last + 1, lp := x.lp })
          else
            s.onHw fun h => (h.issued c).modCur c (fun y =>
              { y with
                lp := SMap.set y.lp lc.val ⟨true, start, last, BitVec.ofNat 32 cnt⟩
                pc := start, notBefore := h.now + 1, swWait := sw })

/-! ### Pointers and segments -/

/-- PMOV (R101). -/
def execPmov (sw : Bool) (p : BitVec 3) (b : GReg) (s : State) : Res :=
  s.withCur fun c => s.reads c (regs [b]) <|
    let v := (s.hw.cg c b).toNat
    if bits v 31 20 ≠ 0 ∨ bits v 63 48 ≠ 0 then s.faultWith c .reservedValue 0 0
    else s.onHw fun h =>
      (h.modCur c (fun x =>
        { x with
          p := SMap.set x.p p.toNat ⟨BitVec.ofNat 20 v, BitVec.ofNat 16 (bits v 47 32)⟩
          ptrAt := SMap.set x.ptrAt p.toNat (h.now + 2) })).retire c sw 1

/-- PMOV.get (R101). -/
def execPmovGet (sw : Bool) (a : GReg) (p : BitVec 3) (s : State) : Res :=
  s.withCur fun c => s.readsPtr c p.toNat <| s.onHw fun h =>
    let q := (h.curCtx c).ptr p.toNat
    (h.setG c.core c.slot a.toNat (BitVec.ofNat 64 (q.off.toNat + q.inc.toNat * 2 ^ 32)) 2).retire c sw 1

/-- Word 1 of a segment register (R136). -/
def Seg.word1 (g : Seg) : Nat :=
  g.len % 2 ^ 40 * 2 ^ 24 + bit g.virt * 2 ^ 12 + bit g.g * 2 ^ 11 + bit g.xn * 2 ^ 10 + bit g.w * 2 ^ 9 + bit g.r * 2 ^ 8
    + bits g.base 71 64

/-- A segment register from its two words (R136). -/
def Seg.ofWords (w0 w1 : Nat) : Seg :=
  { base := w0 + bits w1 7 0 * 2 ^ 64, len := bits w1 63 24, virt := bitAt w1 12, g := bitAt w1 11, xn := bitAt w1 10,
    w := bitAt w1 9, r := bitAt w1 8 }

/-- A scratch segment's address lies in the scratch space (R136). -/
def Seg.placed (g : Seg) : Bool := g.virt || (decide (g.base < 2 ^ 41) && decide (g.base % 2 ^ 20 < 0x90000))

/-- A task-mode SEGW narrows (R138). -/
def Seg.narrows (new old : Seg) : Bool :=
  new.virt == old.virt && (!new.r || old.r) && (!new.w || old.w) && (!new.g || old.g) && (!old.xn || new.xn) &&
    decide (old.base ≤ new.base) && decide (new.base + new.len ≤ old.base + old.len)

/-- SEGR (R138). -/
def execSegr (sw : Bool) (a : GReg) (b : BitVec 3) (s : State) : Res :=
  s.withCur fun c => s.onHw fun h =>
    (h.setG c.core c.slot a.toNat (BitVec.ofNat 64 ((h.curCtx c).seg b.toNat).base) 2).retire c sw 1

/-- SEGR.hi (R138). -/
def execSegrHi (sw : Bool) (a : GReg) (b : BitVec 3) (s : State) : Res :=
  s.withCur fun c => s.onHw fun h =>
    (h.setG c.core c.slot a.toNat (BitVec.ofNat 64 ((h.curCtx c).seg b.toNat).word1) 2).retire c sw 1

/-- SEGW (R138); it governs the context's chains from cycle 2. -/
def execSegw (sw : Bool) (a : BitVec 3) (b : GReg) (s : State) : Res :=
  s.withCur fun c => s.window c (b.toNat + 1) <| s.reads c [b.toNat, b.toNat + 1] <|
    let x := s.hw.curCtx c
    let w0 := (s.hw.cgn c b.toNat).toNat
    let w1 := (s.hw.cgn c (b.toNat + 1)).toNat
    let new := Seg.ofWords w0 w1
    let old := x.seg a.toNat
    if bits w1 23 13 ≠ 0 ∨ !new.placed then s.faultWith c .reservedValue 0 a.toNat
    else if !x.service && decide (new.len ≠ 0) && !new.narrows old then
      s.onHw (fun h => h.faultChain c (c.faultAt .segmentRights 1 new.base new.virt))
    else s.onHw fun h =>
      (h.modCur c (fun x => { x with late := x.late ++ [⟨h.now + 2, .seg a.toNat new⟩] })).retire c sw 1

end Sys2Proof.Machine
end

