-- ==== Sys2Proof/Machine/Access.lean ====
section
/-! DEFINITION. Accesses on their way: the memory port of a core (06_memory R143 to R146), translation (07_page R166 to
R178), the bank that performs an access with its tag, rights and integrity checks (R137 to R142, R151, R152; 20_tags R411
to R423), and how failures act (22_link R455, R456). -/

namespace Sys2Proof.Machine

/-! ### Leaves (R166 to R170, R174) -/

/-- Bytes of a page of a size code (R166). -/
def pageBytes (s : Nat) : Nat := 4096 * 4 ^ s

/-- Fields of a leaf entry (R168). -/
def leafSize (q0 : Nat) : Nat := bits q0 11 8
/-- See `leafSize`. -/
def leafFrame (q0 : Nat) : Nat := bits q0 48 12 * 4096
/-- See `leafSize`. -/
def leafTag (q1 : Nat) : Nat := bits q1 27 16
/-- See `leafSize`. -/
def leafMig (q1 : Nat) : Nat := bits q1 15 14

/-- The leaf is malformed at a level of the tree (R25, R170). -/
def leafMalformed (q0 q1 level : Nat) : Bool :=
  let s := leafSize q0
  let pa := leafFrame q0
  let core := pa / 2 ^ 28
  let off := pa % 2 ^ 28
  let piece := min (pageBytes s) (2 ^ 26)
  bits q0 63 49 != 0 || bitAt q0 7 || bitAt q0 2 || bits q1 31 28 != 0 || bits q1 13 0 != 0 || decide (9 < s) ||
    decide (2 ≤ leafMig q1) || decide (level < 3) || (level == 3 && decide (s < 6)) || (level == 4 && decide (5 < s)) ||
    decide (off % piece ≠ 0) || (s == 8 && decide (core % 4 ≠ 0)) || (s == 9 && decide (core % 16 ≠ 0)) ||
    (decide (7 ≤ s) && decide (0x8000000 ≤ off)) || decide (Config.recordArea < off + piece)

/-- A table entry is malformed (R169, R170). -/
def tableMalformed (q0 q1 level : Nat) : Bool :=
  decide (level = 4) || bits q0 63 49 != 0 || bits q0 15 2 != 0 || bits q1 31 0 != 0

/-- The physical address of a virtual address through a leaf (R25). -/
def leafPa (q0 va : Nat) : Nat :=
  let s := leafSize q0
  let v := va % pageBytes s
  leafFrame q0 + v / 2 ^ 26 * 2 ^ 28 + v % 2 ^ 26

/-- The leaf admits an access, or the sub-code of its refusal: 0 a right, 1 the K bit, 4 the tag of a write (R174, R175,
R413). `brings` is the tag that a write brings, none where the sector's tag is kept. -/
def leafRefuses (q0 q1 : Nat) (need : Need) (svc : Bool) (brings : Option Nat) : Option Nat :=
  if bitAt q0 6 && !svc then some 1
  else if (need.r && !bitAt q0 3) || (need.w && !bitAt q0 4) || (need.g && !bitAt q0 5) then some 0
  else match brings with
    | some t => if leafTag q1 ≠ 0 ∧ t ≠ leafTag q1 then some 4 else none
    | none => none

/-- Cores in whose slices a page lies (R25). -/
def leafCores (q0 : Nat) : List Nat := (List.range (max 1 (pageBytes (leafSize q0) / 2 ^ 26))).map (fun i => leafFrame q0 / 2 ^ 28 + i)

/-- The runs of memory of a page: one piece of at most 64 MiB in each slice (R25). -/
def leafRuns (q0 : Nat) : List (Nat × Nat) :=
  (leafCores q0).map (fun c => (dramKeyOf (c * 2 ^ 28 + leafFrame q0 % 2 ^ 28), min (pageBytes (leafSize q0)) (2 ^ 26)))

/-- BRS may write an entry of a tenant's tables (R21, R34): a leaf maps no frame in a disabled core's slice, and a tenant's frame, but for
a K frame, lies in slices of its clusters. -/
def Hw.leafAllowed (h : Hw) (tenant : Option Nat) (q0 : Nat) : Bool :=
  !bitAt q0 0 || bitAt q0 1 || (leafCores q0).all (fun c => !h.coreDisabled c && (bitAt q0 6 ||
    (match tenant with | some t => h.tenantOf c == some t | none => true)))

/-- BRS writes page-table entries that it may write: their physical addresses and quadwords (R167). -/
def State.writeLeaves (s : State) (tenant : Option Nat) : List Nat → State
  | pa :: q0 :: q1 :: r =>
    (if s.hw.leafAllowed tenant q0 then s.onMem (fun m => m.putN (dramKeyOf pa) (bytesLE 8 q0 ++ bytesLE 8 q1)) else s).writeLeaves tenant r
  | _ => s

/-- The entry covers a virtual address of a tenant. -/
def TlbEntry.covers (e : TlbEntry) (tenant va : Nat) : Bool :=
  e.tenant == tenant && e.vbase == va / pageBytes (leafSize e.q0.toNat) * pageBytes (leafSize e.q0.toNat)

/-- Looks up a TLB and makes the entry the most recently used. -/
def tlbFind (l : List TlbEntry) (tenant va : Nat) : Option (TlbEntry × List TlbEntry) :=
  match l.find? (fun e => e.covers tenant va) with
  | none => none
  | some e => some (e, e :: l.erase e)

/-- Puts an entry into a TLB of `n` entries: least recently used leaves first, pinned ones stay, and so do the pins of the entry that it
replaces (R171, R173). -/
def tlbFill (l : List TlbEntry) (n : Nat) (e : TlbEntry) : List TlbEntry :=
  let same (d : TlbEntry) : Bool := d.tenant == e.tenant && d.vbase == e.vbase && leafSize d.q0.toNat == leafSize e.q0.toNat
  let pins := (l.filter same).flatMap (fun d => d.pin.filter (fun b => !e.pin.contains b))
  let l' := { e with pin := e.pin ++ pins } :: l.filter (fun d => !same d)
  if l'.length ≤ n then l'
  else
    match (l'.reverse).find? (fun d => d.pin == []) with
    | some d => (l'.reverse.erase d).reverse
    | none => l'.take n

/-- Where a translation was found (R172, R180). -/
inductive Found where
  | cluster (e : TlbEntry) | die (e : TlbEntry) | miss
deriving DecidableEq, Repr

/-- A lookup in the cluster TLB, then the die TLB, filling the former from the latter (R171); the service cores have
one of their own (log 112). -/
def Hw.tlbLookup (h : Hw) (core tenant va : Nat) : Found × Hw :=
  match tlbFind (h.cluster (clusterOf core)).tlb tenant va with
  | some (e, l) => (.cluster e, h.modCluster (clusterOf core) (fun c => { c with tlb := l }))
  | none =>
    match tlbFind (h.die (dieOf core)).tlb tenant va with
    | some (e, l) =>
      (.die e, (h.modDie (dieOf core) (fun d => { d with tlb := l })).modCluster (clusterOf core)
        (fun c => { c with tlb := tlbFill c.tlb 256 { e with pin := [] } }))
    | none => (.miss, h)

/-- The outcome of a table walk (R167, R170, R176): a leaf with its level, or why there is none: 0 absent, 1 migrating,
2 malformed. `mig` is the leaf of a Migrating page; `reads` lists the addresses of the tables read, with their levels. -/
structure Walk where
  leaf : Option (Nat × Nat)
  why : Nat
  mig : Option (Nat × Nat)
  reads : List (Nat × Nat)
deriving DecidableEq, Repr

/-- Bytes of the page that a walk without a leaf has met, where an entry says so (R177). -/
def Walk.bytes (w : Walk) : Nat := match w.mig with | some q => pageBytes (leafSize q.1) | none => 4096

/-- Index bits of a level (R167). -/
def walkIndex (va level : Nat) : Nat := bits va (71 - 12 * level) (60 - 12 * level)

/-- The walk from a table of a level; an entry with V = 0 is absent whatever else it holds (log 114). -/
def walkFrom (m : Mem) (va : Nat) : Nat → Nat → Nat → List (Nat × Nat) → Walk
  | 0, _, _, rs => ⟨none, 2, none, rs⟩
  | fuel + 1, level, table, rs =>
    let k := dramKeyOf (table + 16 * walkIndex va level)
    let q0 := m.val k 8
    let q1 := m.val (k + 8) 8
    let rs' := rs ++ [(level, table)]
    if !bitAt q0 0 then ⟨none, 0, none, rs'⟩
    else if bitAt q0 1 then
      if tableMalformed q0 q1 level then ⟨none, 2, none, rs'⟩ else walkFrom m va fuel (level + 1) (bits q0 48 16 * 65536) rs'
    else if leafMalformed q0 q1 level then ⟨none, 2, none, rs'⟩
    else if leafMig q1 = 1 then ⟨none, 1, some (q0, q1), rs'⟩
    else ⟨some (q0, q1), 0, none, rs'⟩

/-- The walk of a tenant's tree on a die; a tenant without a root has no tree. -/
def State.walk (s : State) (core tenant va : Nat) : Walk :=
  match SMap.find? (s.hw.die (dieOf core)).roots tenant with
  | none => ⟨none, 0, none, []⟩
  | some root => walkFrom s.mem va 5 0 root []

/-- Cycles of a walk (R172): 20, and a table read for each level whose entry the walk cache, of levels 0 to 2, does not hold. -/
def Hw.walkCycles (h : Hw) (core tenant va : Nat) (w : Walk) : Nat :=
  let cached (level : Nat) : Bool :=
    (h.die (dieOf core)).wcache.any (fun e => e.tenant == tenant && e.level == level && e.idx == va / 2 ^ (60 - 12 * level))
  w.reads.foldl (fun n r =>
    if r.1 < 3 && cached r.1 then n else n + (if (r.2 / 2 ^ 28) / 1024 = dieOf core then 140 else 220)) 20

/-- Keeps the table entries of levels 0 to 2 that a walk used, 32 in all, the most recent first (R172). -/
def Hw.walkKeep (h : Hw) (core tenant va : Nat) (w : Walk) : Hw :=
  let uses := (w.reads.zip (w.reads.drop 1)).filter (fun p => p.1.1 < 3)
  let es := uses.map (fun p => (⟨tenant, p.1.1, va / 2 ^ (60 - 12 * p.1.1), p.2.2⟩ : WalkEntry))
  h.modDie (dieOf core) (fun d => { d with wcache := (es.reverse ++ d.wcache.filter (fun e => !es.contains e)).take 32 })

/-! ### Grants (R416 to R418) -/

/-- A set grants a tag. -/
def Hw.granted (h : Hw) (core gset tag : Nat) : Bool :=
  let s := SMap.get ⟨0, 0, 0, 0⟩ (h.core core).grants gset
  s.state == 2 && s.bits.getLsbD tag

/-- The grant word of a request: the 64 bits of the requester's set for a group of tags (R418). -/
def Hw.grantWord (h : Hw) (core gset group : Nat) : BitVec 64 :=
  let s := SMap.get ⟨0, 0, 0, 0⟩ (h.core core).grants gset
  if s.state = 2 then (s.bits >>> (64 * group)).setWidth 64 else 0

/-- The effective tag of a sector (R412). -/
def effTag (m : Mem) (p : Piece) : Nat := if p.leaf ≠ 0 then p.leaf else m.tagOf p.key

/-! ### Audit records (R421, R422) -/

/-- KIND of an access's denials (R421). -/
def AccOp.auditKind : AccOp → Nat
  | .load _ _ => 1 | .store _ => 1 | .atom _ _ _ _ _ => 2 | .mwait _ _ => 3 | .join _ => 3 | .depnew _ => 2
  | .deppub _ _ => 2 | .signal _ => 2 | .enq _ _ => 1 | .fork _ _ => 2 | .ckptHead => 1 | .ckptBody _ => 1 | .stepLoad _ _ => 1 | .stepCrc _ _ _ => 1 | .stepStore _ _ => 1 | .probe _ => 1 | .vrow _ => 4
  | .hnew _ _ _ _ => 1 | .hindir _ _ _ _ => 1 | .hbind _ _ _ _ _ => 1 | .haddr _ _ _ _ _ _ _ _ => 1 | .tret _ _ => 1 | .bitmap _ _ _ => 1 | .redw _ => 1 | .call _ _ => 1 | .frame => 1 | .retTo _ => 1

/-- Posts an audit record to the tenant's audit queue, a ring of 65,536; one that finds it full is counted in the next
(R421, R422). -/
def Hw.audit (h : Hw) (core slot kind prin addr : Nat) (virt : Bool) (gset tag : Nat) : Hw :=
  match h.tenantOf core with
  | none => h
  | some t =>
    let now := h.count core
    h.modMod (moduleOf core) (fun m =>
      let ten := SMap.get Tenant.none m.tenants t
      let rec0 := core % 2 ^ 21 * 2 ^ 43 + slot % 64 * 2 ^ 37 + kind % 32 * 2 ^ 32 + prin % 2 ^ 32
      let q3 := (if virt then bits addr 71 64 else 0) * 2 ^ 56 + gset % 8 * 2 ^ 53 + bit virt * 2 ^ 52 + tag % 4096 * 2 ^ 40
        + min ten.auditLost 65535 * 2 ^ 24
      let r : BitVec 256 := BitVec.ofNat 256 (rec0 + 2 ^ 64 * (now % 2 ^ 64 + 2 ^ 64 * (addr % 2 ^ 64 + 2 ^ 64 * q3)))
      let ten' :=
        if ten.audits.length < 65536 then { ten with audits := ten.audits ++ [r], auditLost := 0 }
        else { ten with auditLost := ten.auditLost + 1 }
      { m with tenants := SMap.set m.tenants t ten' })

/-! ### Monitors (R152) -/

/-- The monitor bank of a key: bank (offset / 128) mod 3 of a scratchpad (R23), 3 for the slice's channel. -/
def monBank (k : Nat) : Nat := if keyDram k then 3 else k % 2 ^ 20 / 128 % 3

/-- Half of the figure of R27, the time of one way. -/
def Hw.oneWay (h : Hw) (src key : Nat) : Nat := if keyDram key then h.latency src key / 2 else
  (if src = keyCore key then 0 else h.latency src key / 2)

/-- A write to sectors of a bank fires the monitor entries armed for them (R152): each context's wake is on its way. -/
def Hw.wakeSectors (h : Hw) (home bank lo hi key : Nat) : Hw :=
  let ms := SMap.get [] (h.core home).monitors bank
  let hits (m : Monitor) : Bool := decide (lo ≤ m.sector) && decide (m.sector ≤ hi)
  let hit := ms.filter hits
  if hit = [] then h
  else
    let h1 := h.modCore home (fun k => { k with monitors := SMap.set k.monitors bank (ms.filter (fun m => !hits m)) })
    hit.foldl (fun h m => h.after (h.oneWay m.core key) .monitorWake (.nats [m.core, m.slot, m.uid])) h1

/-- A write wakes every monitor armed on its sectors, and frees the entries (R152). The wake travels for half the figure of
R27 (notes/assumptions/14.md). -/
def Hw.wakeMonitors (h : Hw) (key len : Nat) : Hw :=
  h.wakeSectors (keyCore key) (monBank key) (key / 32) ((key + len - 1) / 32) key

/-- The same for a range of any length. -/
def Hw.wakeRange (h : Hw) (key len : Nat) : Hw :=
  [0, 1, 2, 3].foldl (fun h b => h.wakeSectors (keyCore key) b (key / 32) ((key + len - 1) / 32) key) h

/-- A write at a bank: the bytes, the tag (R141), the monitors. The range lies in one row or one slice. -/
def State.bankWrite (s : State) (key : Nat) (bs : List Byte) (tag : Option Nat) : State :=
  if bs = [] then s
  else
    let s1 := s.onMem (fun m => m.writeRange key bs tag)
    (piecesOf key bs.length).foldl (fun s p => s.onHw (fun h => h.wakeMonitors p.key p.len)) s1

/-! ### Sending an access -/

/-- What an access needs of a leaf (R174). -/
def AccOp.need : AccOp → Need
  | .load _ _ => { r := true }
  | .store _ => { w := true }
  | .atom _ _ _ _ _ => { r := true, w := true }
  | .mwait _ _ => { r := true }
  | .join _ => { r := true }
  | .depnew _ => { r := true, w := true }
  | .enq _ _ => { r := true }
  | .fork _ _ => { r := true, w := true }
  | .ckptHead => { r := true }
  | .ckptBody _ => { r := true }
  | .deppub _ _ => { r := true, w := true }
  | .signal _ => { r := true, w := true }
  | .stepLoad _ _ => { r := true }
  | .stepCrc _ _ _ => { r := true }
  | .stepStore _ _ => { w := true }
  | .probe _ => {}
  | .vrow w => { r := !w, w := w }
  | .hnew _ _ _ _ => {}
  | .hindir _ _ _ _ => {}
  | .hbind _ _ _ _ _ => {}
  | .haddr _ _ _ _ _ _ _ _ => {}
  | .tret _ _ => {}
  | .bitmap _ _ _ => { r := true }
  | .redw _ => {}
  | .call _ _ => { w := true }
  | .frame => { r := true }
  | .retTo _ => {}

/-- The tag that an access brings, where it brings one (R141, R413). -/
def Acc.brings (a : Acc) : Option Nat :=
  match a.op with
  | .store _ => some a.otag
  | .stepStore _ _ => some a.otag
  | _ => none

/-- Extra cycles of the form: ATOM and the dependence forms take 2 more (R159, R239), FORK 4, ENQ 4, 24 or 160 by its level
(R234, R238). -/
def AccOp.extra : AccOp → Nat
  | .atom _ _ _ _ _ => 2 | .depnew _ => 2 | .deppub _ _ => 2 | .signal _ => 2 | .fork _ _ => 4
  | .hnew _ _ _ _ => 2 | .hindir _ _ _ _ => 2 | .hbind _ _ _ _ _ => 2 | .haddr _ _ _ _ _ _ _ _ => 2 | .tret _ _ => 2
  | .enq _ .core => 4 | .enq _ .clu => 24 | .enq _ .die => 160 | _ => 0

/-- Extra cycles of an access that crosses sectors: 1 for two sectors of one row, 3 for DRAM (R159, R488). -/
def crossing (ps : List Piece) : Nat :=
  match ps with
  | [p, q] => if keyDram p.key then 3 else if p.key / 128 = q.key / 128 then 1 else 0
  | _ => 0

/-- Translates the pieces of a virtual access (R171, R174): the physical pieces and the cycles added, the sub-code and
address of a refusal, or the address that missed. -/
inductive Xlate where
  | ok (ps : List Piece) (cycles : Nat)
  | refused (sub va : Nat)
  | miss (va : Nat)
deriving DecidableEq, Repr

/-- See `Xlate`. -/
def Hw.translate (h : Hw) (core tenant : Nat) (svc : Bool) (need : Need) (brings : Option Nat) :
    List Piece → List Piece → Nat → Xlate × Hw
  | [], acc, cyc => (.ok acc cyc, h)
  | p :: ps, acc, cyc =>
    match h.tlbLookup core tenant p.key with
    | (.miss, h1) => (.miss p.key, h1)
    | (.cluster e, h1) =>
      match leafRefuses e.q0.toNat e.q1.toNat need svc brings with
      | some sub => (.refused sub p.key, h1)
      | none => h1.translate core tenant svc need brings ps
          (acc ++ [{ p with key := dramKeyOf (leafPa e.q0.toNat p.key), leaf := leafTag e.q1.toNat }]) cyc
    | (.die e, h1) =>
      match leafRefuses e.q0.toNat e.q1.toNat need svc brings with
      | some sub => (.refused sub p.key, h1)
      | none => h1.translate core tenant svc need brings ps
          (acc ++ [{ p with key := dramKeyOf (leafPa e.q0.toNat p.key), leaf := leafTag e.q1.toNat }]) (cyc + 24)

/-- An uplink of the module carries traffic (R451). -/
def Module.linked (m : Module) : Bool := m.uplinks.any (fun (e : Nat × Uplink) => e.2.st == .up || e.2.st == .degraded)

/-- Why a request to a target core fails before it is performed, with the cycles until the requester learns it
(R21, R29, R35, R452, R455); a service context's request is made for the target's tenant (log 111). -/
def Hw.routeFails (h : Hw) (core tenant : Nat) (svc : Bool) (target lat : Nat) : Option (Nat × Nat) :=
  if target = core then none
  else if moduleOf target ≠ moduleOf core ∧
      ((h.mod (moduleOf core)).downs.contains (moduleOf target) ∨ (h.mod (moduleOf core)).ownDown) then some (2, 140)
  else if !h.hasModule (moduleOf target) then some (1, Config.fabricTimeout)
  else if moduleOf target ≠ moduleOf core ∧ (!(h.mod (moduleOf core)).linked ∨ !(h.mod (moduleOf target)).linked) then some (1, Config.fabricTimeout)
  else if svc then none
  else if h.tenantOf target ≠ some tenant then some (4, lat)
  else if h.coreDisabled target then some (3, lat)
  else none

/-- The reply step of an access (R143, R144). -/
def Acc.replyStep (a : Acc) : Instr :=
  if !a.relaxed then .plainAccessReply
  else match a.op with
    | .store _ => .storeAcknowledge
    | .tret _ _ => .returnReply
    | _ => .relaxedLoadResult

/-- The operation is at a tensor record (R425): it is performed there in cycle L (R432, R441). -/
def AccOp.record : AccOp → Bool
  | .hnew _ _ _ _ => true | .hindir _ _ _ _ => true | .hbind _ _ _ _ _ => true | .haddr _ _ _ _ _ _ _ _ => true | .tret _ _ => true
  | _ => false

/-- The operation is performed piece by piece, each sector at a bank cycle of its own (R140, R488, R489). -/
def AccOp.piecewise : AccOp → Bool
  | .load _ _ => true | .store _ => true | .stepLoad _ _ => true | .stepCrc _ _ _ => true | .stepStore _ _ => true | .enq _ _ => true
  | .ckptHead => true | .ckptBody _ => true | .bitmap _ _ _ => true | .frame => true | _ => false

/-- A form's own read of more than one sector, which reads one sector a cycle (R489). -/
def AccOp.multi : AccOp → Bool
  | .enq _ _ => true | .ckptHead => true | .ckptBody _ => true | .bitmap _ _ _ => true | .frame => true | _ => false

/-- The scrub reads a row of a bank of a core's scratchpad in a cycle (R39, R161). -/
def Hw.scrubRow (h : Hw) (core bank t : Nat) : Bool :=
  let n := t - h.since core
  n / 16 % 1024 == 511 && bank == n % 16 % 3

/-- Cycles for which background work holds back a piece of an unbooked access that would take its bank in a cycle (R39, R40, R161):
a DRAM refresh, a row of the scratchpad scrub. -/
def Hw.bankHold (h : Hw) (booked : Bool) (key t : Nat) : Nat :=
  let n := t - h.since (keyCore key)
  if booked then 0
  else if keyDram key then (if 4080 ≤ n ∧ (n + 16) % 4096 < 60 then 60 - (n + 16) % 4096 else 0)
  else bit (h.scrubRow (keyCore key) (key % 2 ^ 20 / 128 % 3) t)

/-- Cycles for which an unbooked access that leaves its cluster waits for a link calibration (R39, R161). -/
def Hw.calibration (h : Hw) (a : Acc) (leaves : Nat) : Nat :=
  let n := leaves - h.since a.core
  if !(h.ctx a.core a.slot).booked ∧ n / 16 % 4096 = 4095 ∧ a.pieces.any (fun p => clusterOf (keyCore p.key) != clusterOf a.core) then
    16 - n % 16 else 0

/-- The gap between the bank cycles of two pieces in turn: 3 cycles of one DRAM channel, 1 of one row or of a form's own read, else
none (R140, R488, R489). -/
def pieceGap (multi : Bool) (p q : Piece) : Option Nat :=
  if keyDram p.key && keyDram q.key then some 3
  else if multi || (p.key / 128 == q.key / 128 && keyDram p.key == keyDram q.key) then some 1
  else none

/-- The bank cycles of the pieces of an access: `at_` gives the cycle in which a piece could first be performed, `hold` what holds it back
there. -/
def pieceTimes (multi : Bool) (at_ hold : Piece → Nat → Nat) : Option (Piece × Nat) → List Piece → List (Piece × Nat)
  | _, [] => []
  | prev, p :: ps =>
    let t0 := at_ p 0
    let t := match prev with
      | none => t0
      | some (q, u) => match pieceGap multi q p with | some g => max t0 (u + g) | none => t0
    let t1 := t + hold p t
    (p, t1) :: pieceTimes multi at_ hold (some (p, t1)) ps

/-- An access with its pieces at hand leaves for its banks, `extra` cycles of translation behind it: a piece is performed in
cycle t + 1 of its own scratchpad, and half-way through its latency elsewhere (notes/assumptions/14.md). -/
def Hw.toBank (h : Hw) (a : Acc) (extra : Nat) : Hw :=
  let lat0 := a.pieces.foldl (fun n p => max n (h.latency a.core p.key)) 4
  let lat := lat0 + crossing a.pieces + AccOp.extra a.op
  let fails := (a.pieces.map (fun p => h.routeFails a.core a.tenant a.svc (keyCore p.key) lat)).find? Option.isSome
  match fails with
  | some (some (cause, d)) => h.after (extra + d) (if cause = 1 then .fabricTimeout else .remoteFailureReport) (.acc a cause)
  | _ =>
    let cal := h.calibration a (h.now + extra)
    let leaves := h.now + extra + cal
    let at_ (p : Piece) : Nat :=
      if !keyDram p.key && keyCore p.key == a.core then 1 else if AccOp.record a.op then lat0 else h.latency a.core p.key / 2
    let booked := (h.ctx a.core a.slot).booked
    let times (hold : Piece → Nat → Nat) : List (Piece × Nat) := pieceTimes (AccOp.multi a.op) (fun p _ => leaves + at_ p) hold none a.pieces
    let ts := times (fun p t => h.bankHold booked p.key t)
    let late := ((ts.zip (times (fun _ _ => 0))).map (fun e => e.1.2 - e.2.2)).foldl max 0
    let due := leaves + lat + late
    let step : Instr := match a.op with | .tret _ _ => .tensorReturn | _ => .remoteAccessAtBank
    let b := { a with sent := h.now + extra, gword := h.grantWord a.core a.gset a.group }
    if AccOp.piecewise a.op then ts.foldl (fun h e => h.schedule e.2 step (.acc { b with pieces := [e.1] } due)) h
    else h.schedule ((ts.map Prod.snd).headD (leaves + 1)) step (.acc b due)

/-- A page request to BRS (R177); requests for one page are merged. -/
def Hw.askPage (h : Hw) (core slot tenant kind va : Nat) (w : Walk) : Hw :=
  h.modMod (moduleOf core) (fun m =>
    if m.pageReqs.any (fun q => q.tenant == tenant && q.va / q.bytes == va / q.bytes) then m
    else { m with pageReqs := m.pageReqs ++ [⟨dieOf core, tenant, va, w.bytes, kind, w.why, core, slot⟩] })

/-- The page request of an access (R177). -/
def Hw.pageRequest (h : Hw) (a : Acc) (va : Nat) (w : Walk) : Hw :=
  h.askPage a.core a.slot a.tenant
    (match a.op with | .store _ => 1 | .stepStore _ _ => 1 | .redw _ => 1 | .atom _ _ _ _ _ => 2 | _ => 0) va w

end Sys2Proof.Machine
end

