-- ==== Sys2Proof/Machine/Record.lean ====
section
/-! DEFINITION. Task records and deque entries (11_queue R221, R222), TIDs (R223), effective levels (R226). -/

namespace Sys2Proof.Machine

/-- Quadword i of a task record (R221). -/
def recQuad (r : BitVec 1024) (i : Nat) : Nat := r.toNat / 2 ^ (64 * i) % 2 ^ 64

/-- Replaces bits of a quadword of a record. -/
def recPut (r : BitVec 1024) (i lo len v : Nat) : BitVec 1024 := putBits r (64 * i + lo) len v

/-- Fields of a record (R221). -/
def recPrin (r : BitVec 1024) : Nat := bits (recQuad r 9) 63 32
/-- See `recPrin`. -/
def recOtag (r : BitVec 1024) : Nat := bits (recQuad r 9) 31 20
/-- See `recPrin`. -/
def recGset (r : BitVec 1024) : Nat := bits (recQuad r 9) 19 17
/-- See `recPrin`. -/
def recSteald (r : BitVec 1024) : Nat := bits (recQuad r 9) 16 15
/-- See `recPrin`. -/
def recDecl (r : BitVec 1024) : Nat := bits (recQuad r 9) 14 13
/-- See `recPrin`. -/
def recPrio (r : BitVec 1024) : Nat := bits (recQuad r 9) 12 11
/-- See `recPrin`. -/
def recPass (r : BitVec 1024) : Nat := bits (recQuad r 9) 10 6
/-- Window size of a record. -/
def recWindow (r : BitVec 1024) : Nat := (bits (recQuad r 9) 5 2 + 1) * 8
/-- See `recPrin`. -/
def recPaired (r : BitVec 1024) : Bool := bitAt (recQuad r 9) 1
/-- See `recPrin`. -/
def recOvr (r : BitVec 1024) : Bool := bitAt (recQuad r 9) 0
/-- See `recPrin`. -/
def recSuccn (r : BitVec 1024) : Nat := bits (recQuad r 10) 44 41
/-- See `recPrin`. -/
def recSlist (r : BitVec 1024) : Nat := bits (recQuad r 10) 40 0
/-- See `recPrin`. -/
def recPin (r : BitVec 1024) : Bool := bitAt (recQuad r 11) 63
/-- See `recPrin`. -/
def recPcore (r : BitVec 1024) : Nat := bits (recQuad r 11) 62 42
/-- See `recPrin`. -/
def recJoina (r : BitVec 1024) : Nat := bits (recQuad r 11) 40 0
/-- See `recPrin`. -/
def recRun (r : BitVec 1024) : Nat := bits (recQuad r 15) 1 0
/-- See `recPrin`. -/
def recTid (r : BitVec 1024) : Nat := recQuad r 8

/-- A segment that two words give is a legal scratch segment (R136). -/
def legalScratch (w0 w1 : Nat) : Bool :=
  let g := Seg.ofWords w0 w1
  !g.virt && g.placed && bits w1 23 13 == 0 && bits w1 7 0 == 0

/-- A record is invalid on submission, whoever submits it (R221). -/
def recInvalid (r : BitVec 1024) : Bool :=
  bits (recQuad r 10) 63 45 != 0 || bitAt (recQuad r 11) 41 || bits (recQuad r 15) 63 2 != 0 ||
    (!recPaired r && (recQuad r 12 != 0 || recQuad r 13 != 0 || recQuad r 14 != 0)) || recDecl r == 0 ||
    (recSuccn r != 0 && (recSlist r == 0 || recSlist r % 8 != 0)) || recPass r != 0 || recOvr r || recRun r != 0 ||
    (recPaired r && !legalScratch (recQuad r 12) (recQuad r 13)) || (!recPin r && recPcore r != 0) || (recPin r && recPaired r)

/-- A pinned record names an enabled core of a cluster that the tenant holds (R227). -/
def Hw.pinHeld (h : Hw) (tenant : Nat) (r : BitVec 1024) : Bool :=
  !recPin r || (h.tenantOf (recPcore r) == some tenant && !h.coreDisabled (recPcore r))

/-- Replaces the identity of a record (R415). -/
def recIdentity (r : BitVec 1024) (prin gset otag : Nat) : BitVec 1024 :=
  recPut (recPut (recPut r 9 32 32 prin) 9 20 12 otag) 9 17 3 gset

/-- Effective level E (R226). -/
def recLevel (r : BitVec 1024) : Nat := recPrio r - recPass r / 8

/-- One pass-over more; PASS saturates at 31 (R226). -/
def recPassed (r : BitVec 1024) : BitVec 1024 := recPut r 9 6 5 (min 31 (recPass r + 1))

/-- A new TID of a cluster (R223). -/
def Hw.newTid (h : Hw) (clu : Nat) : Nat × Hw :=
  let n := (h.cluster clu).tids
  (clu % 2 ^ 17 * 2 ^ 47 + n % 2 ^ 47, h.modCluster clu (fun c => { c with tids := n + 1 }))

/-! ### Deque entries (R222) -/

/-- Quadword i of a deque entry. -/
def entQuad (e : BitVec 768) (i : Nat) : Nat := e.toNat / 2 ^ (64 * i) % 2 ^ 64

/-- A deque entry as the record of the task that it starts: its JOINA stands where a record holds one. -/
def entRecord (e : BitVec 768) : BitVec 1024 := BitVec.ofNat 1024 (e.toNat % 2 ^ 640 + entQuad e 10 % 2 ^ 41 * 2 ^ 704)

end Sys2Proof.Machine
end

