-- ==== Sys2Proof/Machine/Port.lean ====
section
/-! DEFINITION. The memory port of a core and the banks: an access is started, sent, translated, performed and answered
(06_memory R137 to R146, R151, R152; 07_page R171 to R178; 08_ordering R187 to R190; 11_queue R235, R239;
20_tags R412 to R419; 22_link R455, R456). -/

namespace Sys2Proof.Machine

/-! ### What is outstanding -/

/-- The class of a relaxed access (R183). -/
def accCls (op : AccOp) : Cls :=
  match op with
  | .load _ _ => .r | .store _ => .w | .atom _ _ _ _ _ => .a | .signal _ => .a
  | .vrow w => if w then .w else .r | .tret _ _ => .w | _ => .plain

/-- The bit of a class in a fence's sets (R186). -/
def Cls.bit : Cls → Nat
  | .plain => 5 | .r => 0 | .w => 1 | .a => 2 | .e => 3 | .i => 4

/-- A pending fence holds a chain that makes an access of a class (R188). -/
def Ctx.fenced (x : Ctx) (k : Cls) : Bool :=
  match x.fence with
  | none => false
  | some f => k == .plain || bitAt f.succ k.bit

/-- The registers that an access writes, in order. -/
def accRegs (op : AccOp) : List Nat :=
  match op with
  | .load _ rs => rs
  | .store _ => []
  | .atom _ _ r _ _ => [r]
  | .mwait r _ => [r]
  | .join r => [r]
  | .depnew r => [r]
  | .enq r _ => [r]
  | .fork r _ => [r]
  | .ckptHead => []
  | .ckptBody _ => []
  | .deppub r _ => [r]
  | .signal r => [r]
  | .stepLoad r _ => [r]
  | .stepCrc r _ _ => [r]
  | .stepStore _ _ => []
  | .probe r => [r]
  | .vrow _ => []
  | .hnew r _ _ _ => [r]
  | .hindir a b _ s => if s.isSome then [b] else [a, b]
  | .hbind r _ _ _ _ => [r]
  | .haddr r _ _ _ _ _ _ _ => [r]
  | .tret _ _ => []
  | .bitmap _ _ _ => []
  | .redw r => [r, r + 1]
  | .call _ _ => []
  | .frame => []
  | .retTo _ => []

/-- The slot holds a context: it is neither Free nor about to be (R86, R97). -/
def CtxState.taken (st : CtxState) : Bool := match st with | .free | .leaving _ => false | _ => true

/-- The context that issued an access still runs in its slot. -/
def Hw.alive (h : Hw) (core slot uid : Nat) : Bool := (h.ctx core slot).uid == uid && CtxState.taken (h.ctx core slot).st

/-- Nothing that the context issued is outstanding for it, a pending fence and a `CODEINV` whose result is discarded neither (R109, R188,
R276). -/
def Core.settled (k : Core) (now slot : Nat) : Bool :=
  let x := k.ctx slot
  x.pend == [] && x.maskPend == [] && x.fence.isNone && x.ptrAt.all (fun (e : Nat × Nat) => decide (e.2 ≤ now)) &&
    !k.owed.any (fun o => o.uid == x.uid && o.cls == .i)

/-- Pairs of a flat list. -/
def pairsOf : List Nat → List (Nat × Nat)
  | a :: b :: r => (a, b) :: pairsOf r
  | _ => []

/-- Commands of the matrix unit that are queued or run. -/
def Core.matCmds (k : Core) : List MCmd := k.arun.toList ++ k.aq ++ k.trun.toList ++ k.tq

/-- The command accesses memory (R183). -/
def MOp.memory : MOp → Bool
  | .gath _ => true | .ald => true | .bld => true | .mrd _ _ => true | .mwr => true | _ => false

/-- The step by which a command runs. -/
def MOp.step : MOp → Instr
  | .gath _ => .matrixLoadExec | .ald => .matrixLoadExec | .bld => .matrixLoadExec | .mma _ _ _ => .mmaExec | .mscl _ _ => .msclExec
  | .mzero _ => .mzeroExec | .mrd _ _ => .mrdExec | .mwr => .mwrExec | .baddq _ _ => .baddqExec

/-- Something of an incarnation is outstanding at its core (R236). -/
def Core.busy (k : Core) (uid : Nat) : Bool :=
  k.out.any (fun o => o.uid == uid) || k.owed.any (fun o => o.uid == uid) || k.e0.any (fun o => o.uid == uid) ||
    (match k.copy with | some o => o.uid == uid | none => false) || k.pipeq.any (fun e => e.1 == uid) || k.matCmds.any (fun m => m.uid == uid && m.op.memory)

/-- Folds the writes whose bytes are known, in issue order, into a signature (R237). -/
def foldSig : BitVec 64 → List SigItem → BitVec 64 × List SigItem
  | g, [] => (g, [])
  | g, i :: r =>
    match i.msg with
    | none => (g, i :: r)
    | some bs => foldSig (BitVec.ofNat 64 (crc64Bytes g.toNat bs)) r

/-- The bytes of a write become known. -/
def fillSig (q : List SigItem) (txn : Nat) (bs : List Byte) : List SigItem :=
  q.map (fun i => if i.txn = txn ∧ i.msg.isNone then { i with msg := some bs } else i)

/-- A write joins the signature of a paired half, in issue order (R237). -/
def Ctx.signWrite (x : Ctx) (txn : Nat) (msg : Option (List Byte)) : Ctx :=
  if x.tsBit tsPAIRED then
    let r := foldSig x.task.sig (x.task.sigq ++ [⟨txn, msg⟩])
    { x with task := { x.task with sig := r.1, sigq := r.2 } }
  else x

/-- The bytes of an earlier write of an incarnation become known (R237). -/
def Hw.signFill (h : Hw) (core slot uid txn : Nat) (bs : List Byte) : Hw :=
  h.modCore core (fun k =>
    let x := k.ctx slot
    let k1 :=
      if x.uid = uid then
        let r := foldSig x.task.sig (fillSig x.task.sigq txn bs)
        k.setCtx slot { x with task := { x.task with sig := r.1, sigq := r.2 } }
      else k
    { k1 with retiring := k1.retiring.map (fun t =>
        if t.uid = uid then
          let r := foldSig t.job.sig (fillSig t.sigq txn bs)
          { t with job := { t.job with sig := r.1 }, sigq := r.2 }
        else t) })

/-- A task that has quit retires once nothing of it is outstanding (R236). -/
def Hw.checkRetire (h : Hw) (core uid : Nat) : Hw :=
  let k := h.core core
  match k.retiring.find? (fun t => t.uid == uid) with
  | none => h
  | some t =>
    if k.busy uid then h
    else
      (h.modCore core (fun k => { k with retiring := k.retiring.filter (fun t => t.uid != uid) })).schedule h.now .taskRetire
        (.retire t.job)

/-- The copy engine takes the next command of `e0` once it is free and the stores that the command follows have been
performed (R156, R158). -/
def Hw.copyKick (h : Hw) (core : Nat) : Hw :=
  let k := h.core core
  match k.copy, k.e0 with
  | none, m :: r =>
    if m.waits = [] then
      (h.modCore core (fun k => { k with e0 := r, copy := some m })).schedule h.now .copyCommandStart (.nats [core])
    else h
  | _, _ => h

/-- A path of the matrix unit takes the command at the head of its queue: it starts in the cycle after the later of its entry and
the last cycle of the command before it, once the stores that it follows have been performed (R158, R393). -/
def Hw.kickPath (h : Hw) (core : Nat) (array : Bool) : Hw :=
  let k := h.core core
  match (if array then k.arun else k.trun), (if array then k.aq else k.tq) with
  | none, m :: r =>
    if m.waits = [] then
      let m1 := { m with start := max (m.enter + 1) h.now }
      (h.modCore core (fun k => if array then { k with aq := r, arun := some m1 } else { k with tq := r, trun := some m1 })).schedule
        m1.start m.op.step (.nats [core, m.txn, 0])
    else h
  | _, _ => h

/-- Both paths look for work. -/
def Hw.matKick (h : Hw) (core : Nat) : Hw := (h.kickPath core true).kickPath core false

/-- Sends a register message (R88, R455): its arrival at the end of cycle L / 2, its status from cycle L. -/
def Hw.transmit (h : Hw) (m : Msg) : Hw :=
  let lat := h.scratchLatency m.sender m.core
  match h.routeFails m.sender m.tenant true m.core lat with
  | some (cause, d) => h.after d (if cause = 1 then .fabricTimeout else .remoteFailureReport) (.msg m cause)
  | none => h.after (lat / 2 + 1) .sendArrival (.msg m (h.now + lat))

/-- Transmissions of handles that wait for nothing more are sent (R442). -/
def Hw.sendKick (h : Hw) (core : Nat) : Hw :=
  let go := (h.core core).sends.filter (fun t => t.waits.isEmpty)
  if go.isEmpty then h
  else go.foldl (fun h t =>
    let h1 := match t.msg with | some m => h.transmit m | none => h
    match t.later with | some (d, i, a) => h1.after d i a | none => h1) (h.modCore core (fun k => { k with sends := k.sends.filter (fun t => !t.waits.isEmpty) }))

/-- An outstanding operation of a context has been performed or has failed: a pending fence, a region, an
outstanding-access limit and a retiring task see it (R144, R187, R236, R460). -/
def Hw.opDone (h : Hw) (core slot uid txn : Nat) : Hw :=
  let h := h.signFill core slot uid txn []
  let h1 :=
    if h.alive core slot uid then
      let x := h.ctx core slot
      let fence := x.fence.map (fun f => { f with set := f.set.filter (fun t => t != txn) })
      let region := x.region.map (fun r => { r with ops := r.ops.filter (fun t => t != txn) })
      let h2 := h.setCtx core slot { x with fence := fence, region := region, limWait := false, quiet := x.quiet.filter (fun t => t != txn) }
      let h3 :=
        match x.fence, fence with
        | some f, some g => if f.set.contains txn ∧ g.set = [] then h2.schedule h.now .fenceComplete (.nats [core, slot, uid]) else h2
        | _, _ => h2
      match x.region, region with
      | some r, some q =>
        if r.ops.contains txn ∧ q.ops = [] ∧ x.park = some .commit then
          h3.schedule h.now .fcommitDecision (.nats [core, slot, uid])
        else h3
      | _, _ => h3
    else h
  let drop (l : List Nat) : List Nat := l.filter (fun t => t != txn)
  let h4 := h1.modCore core (fun k => { k with
    e0 := k.e0.map (fun m => { m with waits := drop m.waits }), out := k.out.map (fun o => { o with waits := drop o.waits }),
    aq := k.aq.map (fun m => { m with waits := drop m.waits }), tq := k.tq.map (fun m => { m with waits := drop m.waits }),
    sends := k.sends.map (fun m => { m with waits := drop m.waits }) })
  (((h4.copyKick core).matKick core).sendKick core).checkRetire core uid

/-! ### The wake of a context, spilled ones included (R83, R250) -/

/-- The memory key of a slot's image (R245). -/
def Hw.imageKey (h : Hw) (core slot : Nat) : Nat :=
  dramKeyOf (core % 2 ^ 21 * 2 ^ 28 + (h.core core).saveBase.getD 0 + 0x800 * slot)

/-- Sets bits of a quadword in memory, with the sector's tag kept. -/
def Mem.orBit (m : Mem) (key i : Nat) : Mem :=
  let v := m.val key 8
  if bitAt v i then m else m.putN key (bytesLE 8 (v + 2 ^ i))

/-- WOKE := 1 for a Spilled context (R250). -/
def State.setWoke (s : State) (core slot : Nat) : State :=
  let x := s.hw.ctx core slot
  let s1 := s.onHw (fun h => h.setCtx core slot { x with woke := true })
  if x.imaged then s1.onMem (fun m => m.orBit (s.hw.imageKey core slot) 53) else s1

/-- The wake event of a context's park reason (R83, R84, R250). -/
def State.wake (s : State) (core slot : Nat) : State :=
  let x := s.hw.ctx core slot
  if x.st = .spilled then s.setWoke core slot else s.onHw (fun h => h.wakeAt core slot h.now)

/-- A result that comes by itself reaches its register, or the register's place in the image (R144, R250); one that nothing
waits for any more is dropped (R460). -/
def State.deliver (s : State) (core slot n txn : Nat) (v : Word) : State :=
  let x := s.hw.ctx core slot
  if n = 0 ∨ !x.pend.any (fun p => p.ofTxn n txn) then s
  else
    if x.st = .spilled ∧ x.imaged then
      let key := s.hw.imageKey core slot
      let s1 := s.onMem (fun m => (m.putN (key + 0x200 + 8 * n) (bytesLE 8 v.toNat)).orBit (key + 0x10 + n / 64 * 8) (n % 64))
      let s2 := s1.onHw (fun h => h.modCtx core slot (fun x => { x with pend := x.pend.filter (fun p => !p.ofTxn n txn) }))
      if x.park = some (.fullBit n) then s2.setWoke core slot else s2
    else
      let s0 := if x.st = .faulted ∧ x.imaged then
          let key := s.hw.imageKey core slot
          s.onMem (fun m => (m.putN (key + 0x200 + 8 * n) (bytesLE 8 v.toNat)).orBit (key + 0x10 + n / 64 * 8) (n % 64))
        else s
      let s1 := s0.onHw (fun h => h.landG core slot n txn v)
      if x.st = .spilled ∧ x.park = some (.fullBit n) then s1.setWoke core slot
      else s1.onHw (fun h => h.fullWake core slot n)

/-- Results for several registers. -/
def State.deliverAll (s : State) (core slot txn : Nat) (l : List (Nat × Word)) : State :=
  l.foldl (fun s p => s.deliver core slot p.1 txn p.2) s

/-- Sets a flag of TS, in the image where the context's registers stand there (R250). -/
def State.flagTs (s : State) (core slot i : Nat) : State :=
  let s1 := s.onHw (fun h => h.modCtx core slot (fun x => x.setTs i true))
  if (s.hw.ctx core slot).st = .spilled ∧ (s.hw.ctx core slot).imaged then
    s1.onMem (fun m => m.orBit (s.hw.imageKey core slot + 0x170) i)
  else s1

/-! ### Audits -/

/-- Posts a record for each denial of an access and sets TS.AUD of its context (R142, R421). -/
def State.auditAll (s : State) (a : Acc) (uid : Nat) (den : List (Nat × Nat)) : State :=
  let s1 := s.onHw (fun h => den.foldl (fun h d => h.audit a.core a.slot (AccOp.auditKind a.op) a.prin d.1 a.virt a.gset d.2) h)
  if den ≠ [] ∧ s.hw.alive a.core a.slot uid then s1.flagTs a.core a.slot tsAUD else s1

/-! ### The end of a plain access -/

/-- The step was not the last of its page-15 form. -/
def AccOp.more (op : AccOp) : Bool :=
  match op with
  | .stepLoad _ l => !l | .stepCrc _ _ l => !l | .stepStore _ l => !l | _ => false

/-- A step of a page-15 form is done: the form goes on at its next step, or ends (R105, R106). -/
def Hw.endStep (h : Hw) (core slot : Nat) (more : Bool) : Hw :=
  let x := h.ctx core slot
  if more then
    h.setCtx core slot ({ x with st := .ready, park := none, access := none, notBefore := h.now, xstep := x.xstep + 1 }.settle)
  else (h.modCtx core slot (fun x => { x with xstep := 0 })).endPlain core slot h.now

/-- The operation is a step of a page-15 form. -/
def AccOp.isStep (op : AccOp) : Bool :=
  match op with | .stepLoad _ _ => true | .stepCrc _ _ _ => true | .stepStore _ _ => true | _ => false

/-- A plain access of a chain is over: its context goes on, a page-15 form at its next step (R105, R106, R143). -/
def Hw.endAccess (h : Hw) (core slot : Nat) (op : AccOp) : Hw :=
  if AccOp.isStep op then h.endStep core slot (AccOp.more op) else h.endPlain core slot h.now

/-! ### Failures (R146, R190, R456) -/

/-- The chain's registers are as they were before a failed plain access (R11). -/
def Hw.undoAwait (h : Hw) (core slot txn : Nat) (rs full : List Nat) : Hw :=
  h.modSlot core slot (fun k x =>
    let k1 := full.foldl (fun k n => k.putFull x n true) k
    k1.setCtx slot { x with pend := x.pend.filter (fun p => !rs.any (fun n => p.ofTxn n txn)) })

/-- The region of a context has failed: the earliest-issued failure stands (R459). -/
def Ctx.failRegion (x : Ctx) (txn cause core : Nat) : Ctx :=
  { x with region := x.region.map (fun r =>
      match r.failed with
      | some (t, _, _) => if t ≤ txn then r else { r with failed := some (txn, cause, core) }
      | none => { r with failed := some (txn, cause, core) }) }

/-- A member of a fence's Set that targets another module has failed: the earliest-issued one is recorded (R190). -/
def Ctx.failFence (x : Ctx) (txn module : Nat) : Ctx :=
  { x with fence := x.fence.map (fun f =>
      if f.fail.isNone ∨ txn < f.failTxn then { f with fail := some module, failTxn := txn } else f) }

/-- The operation belongs to the context's region. -/
def Ctx.regionOp (x : Ctx) (txn : Nat) : Bool :=
  match x.region with | some r => r.ops.contains txn | none => false

/-- The operation is a `SEND` of the context's region to its own core (R88). -/
def Ctx.regionOwn (x : Ctx) (txn : Nat) : Bool :=
  match x.region with | some r => r.own.contains txn | none => false

/-- The operation is in the Set of the context's pending fence. -/
def Ctx.fenceOp (x : Ctx) (txn : Nat) : Bool :=
  match x.fence with | some f => f.set.contains txn | none => false

/-- The operation belongs to a region that has been rolled back: its failure marks nothing (R195). -/
def Hw.isQuiet (h : Hw) (core slot txn : Nat) : Bool := (h.ctx core slot).quiet.contains txn

/-- A deferred fault waits for the next chain boundary of its context (R146). -/
def Hw.deferFault (h : Hw) (core slot : Nat) (f : FaultRec) : Hw :=
  h.modCtx core slot (fun x => { x with deferred := x.deferred ++ [f.deferred] })

/-- The deferred fault of a relaxed access: its destinations stay empty, and nothing is outstanding for them any more (R146). -/
def Hw.deferAcc (h : Hw) (a : Acc) (f : FaultRec) : Hw :=
  (h.modCtx a.core a.slot (fun x => { x with pend := x.pend.filter (fun p => !(accRegs a.op).any (fun n => p.ofTxn n a.txn)) })).deferFault
    a.core a.slot f

/-- A fault that the reply of an access reports (R11, R143, R146). -/
def State.accFaults (s : State) (o : Outst) (cause : Cause) (sub frb : Nat) : State :=
  let a := o.acc
  let f := o.chain.faultAt cause sub frb a.virt
  if !s.hw.alive a.core a.slot o.uid then
    match a.op with
    | .store _ | .vrow _ | .tret _ _ => s.onHw (fun h => h.orphan a.core a.slot (2 * bit a.svc) kindFault f.deferred)
    | _ => s
  else if s.hw.isQuiet a.core a.slot a.txn then s
  else if a.relaxed then s.onHw (fun h => h.deferAcc a f)
  else s.onHw (fun h => (h.undoAwait a.core a.slot a.txn (accRegs a.op) o.wasFull).raise a.core a.slot f)

/-- A remote failure of an access (R456): a fence's member, a region, or a fault. -/
def State.accRemote (s : State) (o : Outst) (cause target : Nat) : State :=
  let a := o.acc
  let row := match a.op with | .vrow _ => true | _ => false      -- R367
  let sub := if row then 0 else cause
  let frb := if row then a.addr else target
  if !s.hw.alive a.core a.slot o.uid then s.accFaults o .remoteFailure sub frb
  else if s.hw.isQuiet a.core a.slot a.txn then s
  else
    let x := s.hw.ctx a.core a.slot
    let fen := x.fenceOp a.txn && moduleOf target != moduleOf a.core && decide (cause ≤ 2)
    let reg := x.regionOp a.txn
    if fen || reg then
      let s1 := s.onHw (fun h => h.modCtx a.core a.slot (fun x =>
        let x1 := if fen then x.failFence a.txn (moduleOf target) else x
        if reg then x1.failRegion a.txn cause target else x1))
      let s2 := s1.deliverAll a.core a.slot a.txn ((accRegs a.op).map (fun n => (n, 0)))
      if a.relaxed then s2 else s2.onHw (fun h => h.endAccess a.core a.slot a.op)
    else
      let f := o.chain.fault .remoteFailure sub frb
      if a.relaxed then s.onHw (fun h => h.deferAcc a f)
      else s.onHw (fun h => (h.undoAwait a.core a.slot a.txn (accRegs a.op) o.wasFull).raise a.core a.slot f)

/-! ### Sending -/

/-- Sectors of two ranges meet. -/
def sectorsMeet (a n b m : Nat) : Bool := decide (a / 32 ≤ (b + m - 1) / 32) && decide (b / 32 ≤ (a + n - 1) / 32)

/-- Two accesses touch one sector (R145). -/
def Acc.meets (a b : Acc) : Bool :=
  (a.virt == b.virt && a.size != 0 && sectorsMeet a.addr a.size b.addr b.size) ||
    a.pieces.any (fun p => b.pieces.any (fun q => sectorsMeet p.key p.len q.key q.len))

/-- All of an access lies in the scratchpad of its own core. -/
def Acc.own (a : Acc) : Bool := !a.virt && a.pieces.all (fun p => !keyDram p.key && keyCore p.key == a.core)

/-- The sectors of an access that the port does not know to be performed (R145): it learns of a piece in its own scratchpad in the
bank cycle that performs it, of any other from the reply. -/
def Outst.unknown (o : Outst) : Acc :=
  if o.sent && Acc.own o.acc then { o.acc with pieces := o.todo, size := 0 } else o.acc

/-- An earlier access of the context to the same sector holds an access back (R145). -/
def heldBack (l : List Outst) (o : Outst) : Bool :=
  !AccOp.record o.acc.op &&
    (l.takeWhile (fun e => e.acc.txn != o.acc.txn)).any (fun e => e.uid == o.uid && Acc.meets e.unknown o.acc)

/-- Changes an outstanding access. -/
def Hw.modOut (h : Hw) (core txn : Nat) (f : Outst → Outst) : Hw :=
  h.modCore core (fun k => { k with out := k.out.map (fun o => if o.acc.txn = txn then f o else o) })

/-- An outstanding access. -/
def Hw.findOut (h : Hw) (core txn : Nat) : Option Outst := (h.core core).out.find? (fun o => o.acc.txn == txn)

/-- Sends an access (R145, R171, R174): to its banks, to the walker, or back as refused. -/
def State.send (s : State) (o : Outst) : State :=
  let a := o.acc
  let sent (h : Hw) (a : Acc) : Hw := h.modOut a.core a.txn (fun o => { o with acc := a, sent := true, todo := a.pieces, got := [] })
  if !a.virt then
    let a1 := { a with pieces := piecesOf a.addr a.size }
    s.onHw (fun h => (sent h a1).toBank a1 0)
  else
    match s.hw.translate a.core a.tenant a.svc (AccOp.need a.op) (Acc.brings a) (piecesOf a.addr a.size) [] 0 with
    | (.refused sub va, h) =>
      { s with hw := (sent h a).after 4 (Acc.replyStep a) (.accRes a (.fail .pageDenied sub va)) }
    | (.miss va, h) =>
      { s with hw := (sent h a).after (h.walkCycles a.core a.tenant va (s.walk a.core a.tenant va)) .tlbWalkComplete (.acc a va) }
    | (.ok ps cyc, h) =>
      let a1 := { a with pieces := ps }
      let h1 := h.modOut a.core a.txn (fun o => { o with acc := a1 })
      if heldBack (h1.core a.core).out { o with acc := a1 } then { s with hw := h1 }
      else { s with hw := (sent h1 a1).toBank a1 cyc }

/-- Sends what waits at a port and is no longer held back (R145). -/
def State.pump (s : State) (core : Nat) : State :=
  ((s.hw.core core).out.filter (fun o => !o.sent)).foldl (fun s w =>
    match s.hw.findOut core w.acc.txn with
    | none => s
    | some o => if o.sent || o.waits != [] || heldBack (s.hw.core core).out o then s else s.send o) s

/-- The access that a chain makes, with the identity of its context. -/
def Hw.mkAcc (h : Hw) (c : Cur) (op : AccOp) (relaxed virt : Bool) (addr size seg off : Nat) : Acc :=
  let x := h.curCtx c
  { txn := h.nextTxn, core := c.core, slot := c.slot, op := op, relaxed := relaxed, virt := virt, addr := addr, size := size,
    pieces := [], seg := seg, off := off, tenant := (h.tenantOf c.core).getD 0, svc := x.service, otag := x.otag.toNat,
    gset := x.gset.toNat, prin := x.prin.toNat, group := x.otag.toNat / 64, sent := h.now }

/-- The bytes that a write adds to a paired half's signature, where they are known at issue (R237). -/
def Acc.message (a : Acc) : Option (List Byte) :=
  match a.op with
  | .store bs => some (sigMessage a.seg a.off bs)
  | .stepStore v _ => some (sigMessage a.seg a.off (bytesLE 8 v))
  | _ => none

/-- The operation may write. -/
def AccOp.writes (op : AccOp) : Bool :=
  match op with
  | .store _ => true | .stepStore _ _ => true | .atom _ _ _ _ _ => true | .depnew _ => true | .deppub _ _ => true
  | .signal _ => true | .fork _ _ => true | .vrow w => w | .tret _ _ => true | _ => false

/-- The writes that a paired half's signature counts (R237). -/
def AccOp.signed (op : AccOp) : Bool :=
  match op with
  | .store _ => true | .stepStore _ _ => true | .atom _ _ _ _ _ => true | _ => false

/-- The dependence forms, ENQ and FORK are releases (R233). -/
def AccOp.isRelease (op : AccOp) : Bool :=
  match op with
  | .depnew _ => true | .deppub _ _ => true | .signal _ => true | .enq _ _ => true | .fork _ _ => true | _ => false

/-- The stores of a context that an engine command follows (R158, R184 case 5): stores, atomics and message arrivals not yet
performed. -/
def Hw.earlierStores (h : Hw) (c : Cur) : List Nat :=
  let k := h.core c.core
  let uid := (h.curCtx c).uid
  ((k.out.filter (fun o => o.uid == uid && AccOp.writes o.acc.op && !o.performed)).map (fun o => o.acc.txn)) ++
    ((k.owed.filter (fun o => o.uid == uid && o.cls == .w)).map (fun o => o.txn))

/-- What a release of a context follows (R233): those, and the accesses of its engine commands. -/
def Hw.releaseWaits (h : Hw) (c : Cur) : List Nat :=
  let k := h.core c.core
  h.earlierStores c ++ (((k.copy.toList ++ k.e0).filter (fun m => m.uid == (h.curCtx c).uid)).map (fun m => m.txn)) ++
    ((k.matCmds.filter (fun m => m.uid == (h.curCtx c).uid && m.op.memory)).map (fun m => m.txn))

/-- What a return or a transmission of a handle follows (R442): every earlier access of the context, of every class; the message of
an earlier `HSEND` is none of them, as `drop4` shows. -/
def Hw.allWaits (h : Hw) (c : Cur) : List Nat :=
  let k := h.core c.core
  let uid := (h.curCtx c).uid
  ((k.out.filter (fun o => o.uid == uid && !o.performed)).map (fun o => o.acc.txn)) ++
    ((k.owed.filter (fun o => o.uid == uid && o.hand.isNone)).map (fun o => o.txn)) ++
    (((k.copy.toList ++ k.e0).filter (fun m => m.uid == uid)).map (fun m => m.txn)) ++
    ((k.matCmds.filter (fun m => m.uid == uid && m.op.memory)).map (fun m => m.txn))

/-- The booking that the chain's context runs (R79, R314). -/
def Hw.ownBooking (h : Hw) (c : Cur) : Option Booking :=
  SMap.find? (h.cluster (clusterOf c.core)).bookings (h.curCtx c).bookid.toNat

/-- A booking books a resource, named by its lowest bit in quad 1 (R306): 0 MX, 1 GA, 2 CE, 3 DC, 4 VI, 6 SF, 7 NL, 9 SL. -/
def Booking.has (b : Booking) (k : Nat) : Bool :=
  if k = 4 then bits b.q1 5 4 != 0 else if k = 7 then bits b.q1 8 7 != 0 else bitAt b.q1 k

/-- A resource of a core is kept for a booking that is being staged or runs (R312, R315). -/
def Hw.unitBarred (h : Hw) (core k : Nat) : Bool :=
  (h.cluster (clusterOf core)).bookings.any (fun (e : Nat × Booking) =>
    (e.2.state == .staging || e.2.state == .running) && e.2.has k && e.2.members.any (fun m => m.core == core && m.stop.isNone))

/-- The chain is not eligible in this cycle (R211). -/
def State.notYet (s : State) (c : Cur) : State :=
  s.onHw (fun h => { h.modCur c (fun x => { x with notBefore := h.now + 1 }) with cur := none })

/-- A chain needs a resource that bookings reserve: a booked one must have booked it (R316), an unbooked one is not eligible while
a booking has it (R312, R315). -/
def State.unit (s : State) (c : Cur) (k : Nat) (go : State) : State :=
  if (s.hw.curCtx c).booked then
    match s.hw.ownBooking c with
    | some b => if b.has k then go else s.faultWith c .calendarViolation 3 0
    | none => s.faultWith c .calendarViolation 3 0
  else if s.hw.unitBarred c.core k then s.notYet c
  else go

/-- What stands between a booking and a virtual address (R316): 5 where no pinned page of its windows in the core's own slice holds
it, 7 where the pin was dropped. -/
def Hw.bookedPage (h : Hw) (core tenant : Nat) (b : Booking) (va : Nat) : Option Nat :=
  match (h.cluster (clusterOf core)).tlb.find? (fun e => e.covers tenant va && e.pin.contains b.num) with
  | some e => if leafPa e.q0.toNat va / 2 ^ 28 = core then none else some 5
  | none => if b.dropped.any (fun d => decide (d.1 ≤ va) && decide (va < d.1 + d.2)) then some 7 else some 5

/-- The same for each page of a range, up to the first outside the windows. -/
def Hw.bookedPages (h : Hw) (core tenant : Nat) (b : Booking) : Nat → Nat → Nat → List Nat
  | 0, _, _ => []
  | fuel + 1, va, last =>
    if last < va then []
    else
      match h.bookedPage core tenant b va with
      | some 5 => [5]
      | r => r.toList ++ h.bookedPages core tenant b fuel ((va / 4096 + 1) * 4096) last

/-- FRA.SUB for a target of a booked context that is none of its own (R316): 3 for posted traffic that leaves the cluster though no share of
the uplink is booked, else 2 (log 109). -/
def Hw.awaySub (h : Hw) (c : Cur) (posted : Bool) (target : Nat) : Nat :=
  if posted && clusterOf target != clusterOf c.core &&
      (match h.ownBooking c with | some b => !b.has 7 | none => true) then 3 else 2

/-- What a booked context may not reach (R316), with its FRA.SUB: another scratchpad; DRAM without its channel; a page outside
its windows; a page whose pin was dropped. -/
def Hw.bookedSub (h : Hw) (c : Cur) (posted virt : Bool) (addr len : Nat) : Option Nat :=
  if !(h.curCtx c).booked then none
  else if !virt then (if keyCore addr = c.core then none else some (h.awaySub c posted (keyCore addr)))
  else
    match h.ownBooking c with
    | none => some 3
    | some b =>
      if !b.has 3 then some 3
      else
        let l := h.bookedPages c.core ((h.tenantOf c.core).getD 0) b (len / 4096 + 2) addr (addr + len - 1)
        if l.contains 5 then some 5 else l.head?

/-- Starts the access of a chain (R143, R144, R188): the registers that it writes become empty; a plain access parks its
context, a relaxed one lets it go on. An access through a page whose pin was dropped is made, and faults (R316). -/
def State.access (s : State) (c : Cur) (sw : Bool) (a : Acc) : State :=
  let x := s.hw.curCtx c
  let rs := accRegs a.op
  let start (dropped : Bool) : State :=
    let full := rs.filter (fun n => s.hw.isFull c.core c.slot n)
    let o : Outst :=
      ⟨a, x.uid, if a.relaxed then accCls a.op else .plain, c, full, false, false, if AccOp.isRelease a.op then s.hw.releaseWaits c else match a.op with | .tret _ _ => s.hw.allWaits c | _ => [],
        dropped && !a.relaxed, [], []⟩
    let h0 := { s.hw with nextTxn := s.hw.nextTxn + 1 }
    let h1 := (h0.awaitGs c.core c.slot rs a.txn).modCur c (fun x =>
      let y := if AccOp.signed a.op then x.signWrite a.txn (Acc.message a) else x
      if a.virt ∨ keyCore a.addr ≠ c.core then { y with region := y.region.map (fun r => { r with ops := r.ops ++ [a.txn] }) } else y)
    let h2 :=
      if a.relaxed then
        if dropped then (h1.undoAwait c.core c.slot a.txn rs full).faultChain c (c.fault .calendarViolation 7 0) else h1.retire c sw 1
      else
        let h3 := h1.parkMemory c sw
        if dropped then h3.after 96 .plainAccessReply (.accRes a (.fail .calendarViolation 7 0)) else h3
    ({ s with hw := h2.modCore c.core (fun k => { k with out := k.out ++ [o] }) }).pump c.core
  match s.hw.bookedSub c (a.relaxed && accCls a.op == .w) a.virt a.addr a.size with
  | some 7 => start true
  | some sub => s.faultWith c .calendarViolation sub 0
  | none => start false

/-- A form that parks its context for a time fixed at issue, with one result (R13): the result is written, and the next chain
may issue, `d` cycles later. -/
def State.timedPlain (s : State) (c : Cur) (sw : Bool) (d reg : Nat) (v : Word) : State :=
  let a := s.hw.mkAcc c (.probe reg) false false (scratchKey c.core 0) 0 0 0
  let full := [reg].filter (fun n => s.hw.isFull c.core c.slot n)
  let o : Outst := ⟨a, (s.hw.curCtx c).uid, .plain, c, full, true, true, [], false, [], []⟩
  let h0 : Hw := { s.hw with nextTxn := s.hw.nextTxn + 1 }
  let h1 := ((h0.awaitG c.core c.slot reg a.txn).parkMemory c sw).modCore c.core (fun k => { k with out := k.out ++ [o] })
  { s with hw := h1.after d .plainAccessReply (.accRes a (.data v.toNat [])) }

/-- A chain may make an access of its class now, or waits: a pending fence holds it (R188), or an outstanding-access limit
(R144). -/
def State.mayAccess (s : State) (c : Cur) (relaxed : Bool) (k : Cls) (go : State) : State :=
  let x := s.hw.curCtx c
  if x.fenced (if relaxed then k else .plain) then s.onHw (fun h => h.parkChain c .fence)
  else
    let port (op : AccOp) : Bool := match op with | .vrow _ => false | _ => true      -- R383
    let mine := (s.hw.core c.core).out.filter (fun o => o.uid == x.uid && o.acc.relaxed && port o.acc.op)
    let atLimit :=
      relaxed && (if k = .w then decide (16 ≤ (mine.filter (fun o => o.cls == .w)).length)
        else decide (8 ≤ (mine.filter (fun o => o.cls != .w)).length))
    if atLimit then s.onHw (fun h => { h.modCur c (fun x => { x with limWait := true }) with cur := none }) else go

/-! ### At the bank -/

/-- The requester's grant set admits a piece of a read (R142, R412). -/
def State.granted (s : State) (a : Acc) (p : Piece) : Bool := s.hw.granted a.core a.gset (effTag s.mem p)

/-- The piece lies in the requester's own scratchpad or slice (R418). -/
def Acc.local_ (a : Acc) (p : Piece) : Bool := keyCore p.key == a.core

/-- The address of the sector of a piece as an audit record gives it (R421). -/
def Acc.sectorAddr (a : Acc) (p : Piece) : Nat := if a.virt then (a.addr + p.off) / 32 * 32 else p.key / 32 * 32

/-- Each DRAM channel refuses a granule of the K map to all but service cores (R175). -/
def State.kRefusedPiece (s : State) (a : Acc) (p : Piece) : Bool :=
  !a.svc && keyDram p.key && (s.hw.mod (moduleOf (keyCore p.key))).kmap.contains ((p.key - Config.dramKey) / 65536)

/-- The first refused piece of an access. -/
def State.kRefused (s : State) (a : Acc) : Option Piece := a.pieces.find? (s.kRefusedPiece a)

/-- What a read of the pieces finds: the bytes with denied ones zero, the denied sectors, the first poisoned piece that is
not denied (R38, R142). -/
structure Found2 where
  bytes : List Byte
  denied : List (Nat × Nat)
  poison : Bool
deriving DecidableEq, Repr

/-- See `Found2`. -/
def State.readPieces (s : State) (a : Acc) : List Piece → Found2
  | [] => ⟨[], [], false⟩
  | p :: ps =>
    let r := s.readPieces a ps
    if s.granted a p then ⟨s.mem.readN p.key p.len ++ r.bytes, r.denied, s.mem.isPoison p.key || r.poison⟩
    else ⟨bytesLE p.len 0 ++ r.bytes, (Acc.sectorAddr a p, effTag s.mem p) :: r.denied, r.poison⟩

/-- A plain, tag-checked read of scratch bytes that a form makes for itself: its target may fail (R455), denied sectors read
zeros and are audited (R142), a poisoned one is a fault (R38). -/
def State.plainRead (s : State) (c : Cur) (key len : Nat) (k : List Byte → State → State) : State :=
  let a : Acc := { s.hw.mkAcc c (.load .sec []) false false key len 0 0 with pieces := piecesOf key len }
  match s.hw.routeFails c.core a.tenant a.svc (keyCore key) 0 with
  | some (cause, _) => s.faultWith c .remoteFailure cause (keyCore key)
  | none =>
    let r := s.readPieces a a.pieces
    let s1 := s.auditAll a (s.hw.curCtx c).uid r.denied
    if r.poison then s1.faultWith c .poisoned 0 key else k r.bytes s1

/-- The check of a memory operand that must lie in a scratch segment (R232): a virtual one is a SegmentRights fault. -/
def State.scratchCheck (s : State) (c : Cur) (n : Nat) (o : Int) (size : Nat) (need : Need) (align sub : Nat)
    (k : Nat → State) : State :=
  let sg := (s.hw.curCtx c).seg n
  if sg.virt then s.onHw (fun h => h.faultChain c (c.faultAt .segmentRights sub (wrap ((sg.base : Int) + o) 72) true))
  else s.check c n o size need align fun a _ => k a

/-- Width of an ATOM's type (R151). -/
def atomWidth : AtomTy → Nat
  | .s64 => 64 | .z64 => 64 | .s32 => 32 | .z32 => 32
/-- Kind s of an ATOM's type. -/
def atomSigned : AtomTy → Bool
  | .s64 => true | .s32 => true | _ => false

/-- The value that an ATOM writes, none where it writes nothing (R151). `x` and `y` are G[A] and G[A+1]. -/
def atomNew (op : AtomOp) (t : AtomTy) (old x y : Nat) : Option Nat :=
  let w := atomWidth t
  let i (v : Nat) : Int := inAt (atomSigned t) w v
  match op with
  | .add => some (wrap (i old + i x) w)
  | .and => some ((old &&& x) % 2 ^ w)
  | .or => some ((old ||| x) % 2 ^ w)
  | .xor => some ((old ^^^ x) % 2 ^ w)
  | .min => some (wrap (min (i old) (i x)) w)
  | .max => some (wrap (max (i old) (i x)) w)
  | .swap => some (x % 2 ^ w)
  | .cas => if i old = i x then some (y % 2 ^ w) else none

/-- A dependence cell: its word and its binding word after a form, none where nothing is written (R239). -/
def cellAfter (op : AccOp) (w b : Nat) : Option (Nat × Nat) :=
  let count (v : Nat) : Nat := v % 2 ^ 63
  match op with
  | .depnew _ => some (0, 1)
  | .deppub _ n => if b % 2 = 1 ∧ !bitAt w 63 then some (2 ^ 63 + count (count w + n), b) else none
  | .signal _ => some (w / 2 ^ 63 * 2 ^ 63 + count (count w + 2 ^ 63 - 1), b)
  | _ => none

/-- The release test of a cell (R239). -/
def cellReleases (w b : Nat) : Bool := b % 2 == 1 && w == 2 ^ 63

/-- Answers an access at its cycle. -/
def State.reply (s : State) (a : Acc) (due : Nat) (r : AccRes) : State :=
  s.onHw (fun h => h.schedule (max due h.now) (Acc.replyStep a) (.accRes a r))

/-- The uid of the issuer of an outstanding access. -/
def Hw.uidOf (h : Hw) (core txn : Nat) : Nat := ((h.findOut core txn).map (fun o => o.uid)).getD 0

/-- Writes a run of keys that keeps its sector's tag, and wakes its monitors. -/
def State.writeKeep (s : State) (key : Nat) (bs : List Byte) : State := s.bankWrite key bs none

/-- The tag of a sector is decided at the bank (R418): `none` where the request's grant word does not cover it. -/
def State.bankGrant (s : State) (a : Acc) (p : Piece) : Option Bool :=
  if Acc.local_ a p then some (s.granted a p)
  else if effTag s.mem p / 64 = a.group then some (a.gword.getLsbD (effTag s.mem p % 64))
  else none

/-- One access of a dependence form to its cell (R239). -/
def State.cellStep (s : State) (op : AccOp) (base : Nat) : State :=
  match cellAfter op (s.mem.val base 8) (s.mem.val (base + 8) 8) with
  | none => s
  | some (w, b') =>
    let rel := cellReleases w b'
    let q (v : Nat) : List Byte := bytesLE 8 v
    let bs := q w ++ q (if rel then b' - b' % 2 else b') ++ (match op with | .depnew _ => q 0 ++ q 0 | _ => [])
    let s2 := s.writeKeep base bs
    if rel then s2.onHw (fun h => h.after 9 .cellReleaseInsert (.nats [base])) else s2

/-- What a bank finds for a piece of a load; a frame is read with no tag check (R274). -/
def State.pieceRead (s : State) (a : Acc) (p : Piece) : PieceRes :=
  { piece := p, bytes := s.mem.readN p.key p.len, sector := Acc.sectorAddr a p, tag := effTag s.mem p,
    grant := if a.op == .frame then some true else if Acc.local_ a p then some (s.granted a p) else none, poison := s.mem.isPoison p.key, refused := s.kRefusedPiece a p }

/-- DEPNEW at its cell (R221, R239): the record that it binds is read with its tag check and must be valid; the identity that
its task starts with is kept (R415). -/
def State.bindCheck (s : State) (a : Acc) (due : Nat) (k : State → State) : State :=
  match a.op with
  | .depnew _ =>
    let ps := piecesOf (a.addr + 32) 128
    let r := s.readPieces { a with addr := a.addr + 32, pieces := ps } ps
    let mine (d : Nat × Nat) : Bool := ps.any (fun p => Acc.local_ a p && Acc.sectorAddr a p == d.1)
    let s0 := s.auditAll a (s.hw.uidOf a.core a.txn) (r.denied.filter mine)
    let far := (ps.filter (fun p => !Acc.local_ a p && !s.granted a p)).map (s.pieceRead a)
    let s1 := s0.onHw (fun h => h.modOut a.core a.txn (fun o => { o with got := o.got ++ far }))
    let rec_ : BitVec 1024 := BitVec.ofNat 1024 (valLE r.bytes)
    if r.poison then s1.reply a due (.fail .poisoned 0 (a.addr + 32))
    else if recInvalid rec_ ∨ recPaired rec_ ∨ !s1.hw.pinHeld a.tenant rec_ then s1.reply a due (.fail .reservedValue 12 a.addr)
    else
      k (s1.onHw fun h =>
        let t := h.newTid (clusterOf a.core)
        { t.2 with cells := SMap.set t.2.cells a.addr ⟨t.1, a.prin, a.gset, a.otag, a.svc⟩ })
  | _ => k s

/-- The bank replies with a tag that the grant word does not cover, after the round trip of R27 (R418). -/
def State.tagBack (s : State) (a : Acc) (due tag : Nat) : State :=
  s.onHw (fun h => h.schedule (max (due - AccOp.extra a.op) h.now) .tagRetryRequest (.accRes a (.tag tag)))

/-- One sector access of ATOM, MWAIT, JOIN or a dependence form at the bank (R151, R152, R235, R239, R418). -/
def State.performOne (s : State) (a : Acc) (p : Piece) (due : Nat) : State :=
  let uid := s.hw.uidOf a.core a.txn
  let tag := effTag s.mem p
  match s.bankGrant a p with
  | none => s.tagBack a due tag
  | some false =>
    let s1 := s.auditAll a uid [(Acc.sectorAddr a p, tag)]
    match a.op with
    | .mwait _ x => s1.reply a due (if x = 0 then .timed [] else .data 0 [])
    | _ => s1.reply a due (.data 0 [])
  | some true =>
    let old := s.mem.val p.key p.len
    let arm (s : State) : State :=
      let home := keyCore p.key
      let ms := SMap.get [] (s.hw.core home).monitors (monBank p.key)
      if ms.length < 16 then
        (s.onHw (fun h => h.modCore home (fun k => { k with
          monitors := SMap.set k.monitors (monBank p.key) (ms ++ [⟨a.core, a.slot, uid, p.key / 32⟩]) }))).reply a due .armed
      else s.reply a due (.timed [])
    if s.mem.isPoison p.key then s.reply a due (.fail .poisoned 0 a.addr)
    else
      match a.op with
      | .atom op t _ x y =>
        let res := outAt (atomSigned t) (atomWidth t) (inAt (atomSigned t) (atomWidth t) old)
        let s1 :=
          match atomNew op t old x.toNat y.toNat with
          | none => s.onHw (fun h => h.signFill a.core a.slot uid a.txn [])
          | some v =>
            (s.writeKeep p.key (bytesLE p.len v)).onHw (fun h =>
              h.signFill a.core a.slot uid a.txn (sigMessage a.seg a.off (bytesLE p.len v)))
        s1.reply a due (.data res.toNat [])
      | .mwait _ x => if old ≠ x.toNat then s.reply a due (.data old []) else arm s
      | .join _ => if old = 0 then s.reply a due (.data 0 []) else arm s
      | .depnew _ | .deppub _ _ | .signal _ =>
       s.bindCheck a due fun s =>
        let s1 := s.cellStep a.op p.key
        s1.reply a due (match a.op with | .depnew _ => .data a.addr [] | _ => .data old [])
      | _ => s.reply a due (.data old [])

/-- All of an access has been performed. -/
def State.performed (s : State) (a : Acc) : State := s.onHw (fun h => h.modOut a.core a.txn (fun o => { o with performed := true, todo := [] }))

/-- The bytes that a store brings. -/
def AccOp.storeData : AccOp → Option (List Byte)
  | .store bs => some bs | .stepStore v _ => some (bytesLE 8 v) | _ => none

/-- A piece of a load or a store is performed at its bank (R137 to R142, R175, R411 to R418): a store writes it, a load takes its bytes. A
denial that the bank decides is audited there. -/
def State.performPiece (s : State) (a : Acc) (p : Piece) (due : Nat) : State :=
  let r0 := s.pieceRead a p
  let st := AccOp.storeData a.op
  let s1 :=
    match st with
    | some bs => if r0.refused then s else s.bankWrite p.key ((bs.drop p.off).take p.len) (some a.otag)
    | none => if r0.grant = some false ∧ !r0.refused then s.auditAll a (s.hw.uidOf a.core a.txn) [(r0.sector, r0.tag)] else s
  let r := if st.isSome then { r0 with bytes := [], grant := some true, poison := false } else r0
  let s2 := s1.onHw (fun h => h.modOut a.core a.txn (fun o => { o with got := o.got ++ [r], todo := o.todo.filter (fun q => q != p) }))
  match s2.hw.findOut a.core a.txn with
  | none => s2
  | some o => if o.todo = [] then (s2.performed a).reply o.acc due .pieces else s2

/-- An access is performed at its banks (R137 to R142, R182, R411 to R423), and its answer is on its way. -/
def State.perform (s : State) (a : Acc) (due : Nat) : State :=
  let s1 :=
    if AccOp.piecewise a.op then a.pieces.foldl (fun s p => s.performPiece a p due) s
    else
      match s.kRefused a, a.op, a.pieces with
      | some p, _, _ => (s.performed a).reply a due (.fail .pageDenied 1 (if a.virt then a.addr + p.off else p.key))
      | none, .probe _, _ => (s.performed a).reply a due (.data 0 [])
      | none, _, p :: _ => if (s.bankGrant a p).isSome then (s.performed a).performOne a p due else s.performOne a p due
      | none, _, [] => s.performed a
  match s1.hw.findOut a.core a.txn with
  | some o => if Acc.own o.acc then s1.pump a.core else s1
  | none => s1

/-! ### The answer -/

/-- The values that a load's registers take (R148). -/
def loadValues (k : LdKind) (rs : List Nat) (v : Nat) : List (Nat × Word) :=
  match k with
  | .val t => (rs.take 1).map (fun n => (n, outTy t (inTy t (BitVec.ofNat 64 v))))
  | .sec => (rs.zip (List.range 4)).map (fun p => (p.1, BitVec.ofNat 64 (bits v (64 * p.2 + 63) (64 * p.2))))

/-- The values that an access's registers take. -/
def accValues (op : AccOp) (v : Nat) : List (Nat × Word) :=
  match op with
  | .load k rs => loadValues k rs v
  | .stepCrc r crc _ => [(r, BitVec.ofNat 64 (crc32Bits 64 crc v))]
  | op => (accRegs op).map (fun n => (n, BitVec.ofNat 64 v))

/-- MWAIT and JOIN park with reason monitor once the read has been answered (R152). -/
def Hw.parkMonitor (h : Hw) (a : Acc) (full : List Nat) : Hw :=
  (h.undoAwait a.core a.slot a.txn (accRegs a.op) full).modCtx a.core a.slot (fun x =>
    { x with park := some (.monitor a.addr), access := none })

/-- A piece of a read as its requester gets it: admitted at the bank, or by the requester's own set on the reply (R418). -/
def State.admitted (s : State) (a : Acc) (r : PieceRes) : Bool := r.grant.getD (s.hw.granted a.core a.gset r.tag)

/-- The value of an access whose pieces have been performed: a refused piece or a poisoned one that is not denied fails it, denied bytes
read zero (R38, R142, R175). -/
def State.pieceValue (s : State) (o : Outst) : AccRes :=
  let a := o.acc
  let rs := a.pieces.filterMap (fun p => o.got.find? (fun r => r.piece == p))
  match rs.find? (fun r => r.refused) with
  | some r => .fail .pageDenied 1 (if a.virt then a.addr + r.piece.off else r.piece.key)
  | none =>
    if rs.any (fun r => r.poison && s.admitted a r) then .fail .poisoned 0 a.addr
    else .data (valLE (rs.flatMap (fun r => if s.admitted a r then r.bytes else r.bytes.map (fun _ => 0)))) []

/-- A reply reaches its core: it brings the sectors whose tags the requester checks itself, and each that is denied is audited
(R142, R418, R421). -/
def State.arrived (s : State) (core txn : Nat) (r : AccRes) : State × AccRes :=
  match s.hw.findOut core txn with
  | none => (s, r)
  | some o =>
    let den := (o.got.filter (fun q => q.grant.isNone && !q.refused && !s.admitted o.acc q)).map (fun q => (q.sector, q.tag))
    (s.auditAll o.acc o.uid den |>.onHw (fun h => h.modOut core txn (fun o => { o with got := o.got.map (fun q => { q with grant := some (s.admitted o.acc q) }) })),
      match r with | .pieces => s.pieceValue o | r => r)

/-- The answer of an access reaches its core (R143 to R146, R152). -/
def State.answer (s : State) (core txn : Nat) (r : AccRes) : State :=
  let (s, r) := s.arrived core txn r
  match s.hw.findOut core txn with
  | none => s
  | some o =>
    let a := o.acc
    let s0 := s.onHw (fun h => h.modCore core (fun k => { k with out := k.out.filter (fun e => e.acc.txn != txn) }))
    let live := s0.hw.alive core a.slot o.uid
    let s1 :=
      match r with
      | .data v den =>
        let s2 := s0.auditAll a o.uid den
        if !live then s2
        else
          let s3 := s2.deliverAll core a.slot txn (accValues a.op v)
          if a.relaxed then s3
          else s3.onHw (fun h => h.endAccess core a.slot a.op)
      | .armed => if live then s0.onHw (fun h => h.parkMonitor a o.wasFull) else s0
      | .timed den =>
        let s2 := s0.auditAll a o.uid den
        if live then
          s2.onHw (fun h => (h.parkMonitor a o.wasFull).after 1024 .mwaitTimedWake (.nats [core, a.slot, o.uid]))
        else s2
      | .tag _ | .pieces => s0
      | .fail c sub frb => s0.accFaults o c sub frb
      | .remote cause target => s0.accRemote o cause target
    (s1.onHw (fun h => h.opDone core a.slot o.uid txn)).pump core

/-- A request whose grant word did not cover the sector's tag (R418): the requester decides from its own set, or sends the
request again with that tag's group. -/
def State.tagReply (s : State) (core txn tag : Nat) : State :=
  match s.hw.findOut core txn with
  | none => s
  | some o =>
    let a := o.acc
    let again := match a.op with | .fork _ _ => true | _ => false      -- a denied join word leaves the push to be made (R234)
    if again || s.hw.granted core a.gset tag then
      let a1 := { a with group := tag / 64 }
      s.onHw (fun h => (h.modOut core txn (fun o => { o with acc := a1 })).toBank a1 0)
    else
      let s1 := s.auditAll a o.uid (a.pieces.map (fun p => (Acc.sectorAddr a p, tag)))
      let s2 := match a.op with | .atom _ _ _ _ _ => s1.onHw (fun h => h.signFill core a.slot o.uid txn []) | _ => s1
      (s2.performed a).reply a (s.hw.now + AccOp.extra a.op) (match a.op with | .mwait _ x => if x = 0 then .timed [] else .data 0 [] | _ => .data 0 [])

/-! ### The walker (R172, R177) -/

/-- A translation unit takes the entry of a walk (R171). -/
def Hw.fillTlbs (h : Hw) (core tenant va q0 q1 : Nat) : Hw :=
  let n := pageBytes (leafSize q0)
  let e : TlbEntry := ⟨tenant, va / n * n, BitVec.ofNat 64 q0, BitVec.ofNat 64 q1, []⟩
  (h.modDie (dieOf core) (fun d => { d with tlb := tlbFill d.tlb 2048 e })).modCluster (clusterOf core)
    (fun c => { c with tlb := tlbFill c.tlb 256 e })

/-- The result word of PGPROBE (R180) for a leaf found at a place, of a page that is Resident or Reserved (1), or Migrating (2). -/
def probeWord (svc : Bool) (where_ state q0 q1 : Nat) : Nat :=
  (if svc then bits q0 48 12 else 0) * 2 ^ 27 + leafTag q1 * 2 ^ 15 + leafSize q0 * 2 ^ 11 + bit (bitAt q0 6) * 2 ^ 10
    + bit (bitAt q0 5) * 2 ^ 9 + bit (bitAt q0 4) * 2 ^ 8 + bit (bitAt q0 3) * 2 ^ 7 + where_ * 2 ^ 5
    + (if state = 1 ∧ bitAt q0 6 then 3 else state) * 2 ^ 3 + 1

/-- An access that finds its page not resident waits for BRS (R177). -/
def State.noPage (s : State) (o : Outst) (va : Nat) (w : Walk) : State :=
  let a := o.acc
  let s1 := s.onHw (fun h => h.pageRequest a va w)
  if a.relaxed then
    s1.onHw (fun h => h.modMod (moduleOf a.core) (fun m => { m with heldPages := m.heldPages ++ [(a, va)] }))
  else
    s1.onHw (fun h =>
      let h1 := h.modCore a.core (fun k => { k with out := k.out.filter (fun e => e.acc.txn != a.txn) })
      if h1.alive a.core a.slot o.uid then
        ((h1.undoAwait a.core a.slot a.txn (accRegs a.op) o.wasFull).modCtx a.core a.slot (fun x =>
          { x with park := some (.page va), access := none })).opDone a.core a.slot o.uid a.txn
      else h1)

/-- A walk for an access ends (R172): its leaf fills the TLBs and the access goes on, or its page is not resident. -/
def State.walkDone (s : State) (core txn va : Nat) : State :=
  match s.hw.findOut core txn with
  | none => s
  | some o =>
    let a := o.acc
    let w := s.walk core a.tenant va
    let s1 := s.onHw (fun h => h.walkKeep core a.tenant va w)
    match w.leaf, a.op with
    | some (q0, q1), .probe _ =>
      (s1.onHw (fun h => h.fillTlbs core a.tenant va q0 q1)).reply a (s.hw.now + 4) (.data (probeWord a.svc 2 1 q0 q1) [])
    | none, .probe _ =>
      s1.reply a (s.hw.now + 4) (.data (match w.mig with | some (q0, q1) => probeWord a.svc 2 2 q0 q1 | none => if w.why = 2 then 0 else 2 * 32 + 1) [])
    | some (q0, q1), _ => (s1.onHw (fun h => h.fillTlbs core a.tenant va q0 q1)).send o
    | none, _ => s1.noPage o va w

end Sys2Proof.Machine
end

