-- ==== Sys2Proof/Machine/Engine.lean ====
section
/-! DEFINITION. How an engine reaches a sector (07_page R171 to R178, 22_link R455), and the copy engine
(06_memory R155 to R158). -/

namespace Sys2Proof.Machine

/-- What an engine's access to one sector meets: the key and the leaf's TAG; a refusal with its sub-code; a page that is not
resident with its cause; a remote failure. -/
inductive Reach where
  | ok (key leaf : Nat)
  | refused (sub : Nat)
  | absent (w : Walk)
  | remote (cause target : Nat)
deriving DecidableEq, Repr

/-- The checks behind the translation (R21, R35, R175). -/
def State.reachKey (s : State) (core tenant : Nat) (svc : Bool) (key leaf : Nat) : Reach :=
  match s.hw.routeFails core tenant svc (keyCore key) 0 with
  | some (cause, _) => .remote cause (keyCore key)
  | none =>
    if !svc && keyDram key && (s.hw.mod (moduleOf (keyCore key))).kmap.contains ((key - Config.dramKey) / 65536) then .refused 1
    else .ok key leaf

/-- An engine reaches an address: translation with its walk, the rights of the leaf, and the checks behind it. -/
def State.reach (s : State) (core tenant : Nat) (svc : Bool) (need : Need) (brings : Option Nat) (virt : Bool) (addr : Nat) :
    Reach × State :=
  if !virt then (s.reachKey core tenant svc addr 0, s)
  else
    let through (s : State) (q0 q1 : Nat) : Reach × State :=
      match leafRefuses q0 q1 need svc brings with
      | some sub => (.refused sub, s)
      | none => (s.reachKey core tenant svc (dramKeyOf (leafPa q0 addr)) (leafTag q1), s)
    match s.hw.tlbLookup core tenant addr with
    | (.cluster e, h) => through { s with hw := h } e.q0.toNat e.q1.toNat
    | (.die e, h) => through { s with hw := h } e.q0.toNat e.q1.toNat
    | (.miss, h) =>
      let w := s.walk core tenant addr
      let s1 : State := { s with hw := h.walkKeep core tenant addr w }
      match w.leaf with
      | some (q0, q1) => through (s1.onHw (fun h => h.fillTlbs core tenant addr q0 q1)) q0 q1
      | none => (.absent w, s1)

/-- Cycles that a translation adds (R171, R172). -/
def State.xlateCycles (s : State) (core tenant : Nat) (virt : Bool) (addr : Nat) : Nat :=
  if !virt then 0
  else match (s.hw.tlbLookup core tenant addr).1 with
    | .cluster _ => 0
    | .die _ => 24
    | .miss => s.hw.walkCycles core tenant addr (s.walk core tenant addr)

/-- A key that an address reaches, where its page is known. -/
def State.keyOf (s : State) (core tenant : Nat) (virt : Bool) (addr : Nat) : Option Nat :=
  if !virt then some addr
  else match (s.hw.tlbLookup core tenant addr).1 with
    | .cluster e => some (dramKeyOf (leafPa e.q0.toNat addr))
    | .die e => some (dramKeyOf (leafPa e.q0.toNat addr))
    | .miss => (s.walk core tenant addr).leaf.map (fun q => dramKeyOf (leafPa q.1 addr))

/-- The runs of keys that a range reaches, page by page; none for a page that is not known. -/
def State.keyRuns (s : State) (core tenant : Nat) (virt : Bool) : Nat → Nat → Nat → List (Option Nat × Nat)
  | 0, _, _ => []
  | fuel + 1, addr, len =>
    if len = 0 then []
    else
      let n := if virt then min len (4096 - addr % 4096) else len
      (s.keyOf core tenant virt addr, n) :: s.keyRuns core tenant virt fuel (addr + n) (len - n)

/-! ### The copy engine -/

/-- The bytes of a fill from an offset (R155). -/
def fillBytes (pat : Nat) : Nat → Nat → List Byte
  | 0, _ => []
  | n + 1, off => BitVec.ofNat 8 (pat / 2 ^ (8 * (off % 8))) :: fillBytes pat n (off + 1)

/-- The end of the chunk of 4,096 bytes in which an offset lies; a streamed command is one chunk (R156). -/
def CopyCmd.chunkEnd (m : CopyCmd) (off : Nat) : Nat := if m.prog.chunked then min m.len (off / 4096 * 4096 + 4096) else m.len

/-- Bytes from an offset within one destination sector and one chunk. -/
def CopyCmd.segLen (m : CopyCmd) (off : Nat) : Nat := min (32 - (m.dst + off) % 32) (m.chunkEnd off - off)

/-- Everything up to the end of a chunk has been read or given up. -/
def CopyCmd.chunkOver (m : CopyCmd) : Bool := decide (m.len ≤ m.prog.cut) || (m.prog.chunked && m.prog.cut % 4096 == 0)

/-- Cycles that fill up a chunk's figure: r for each 32 bytes (R159), though the chunk's sectors are written r apart from the first to
the last (notes/assumptions/15.md). -/
def CopyCmd.lead (m : CopyCmd) (off : Nat) : Nat :=
  let lo := if m.prog.chunked then off / 4096 * 4096 else 0
  let n := m.chunkEnd off - lo
  if ((m.dst + lo) % 32 + n + 31) / 32 = (n + 31) / 32 then m.prog.rate else 0

/-- Changes what a core's copy engine knows of its command. -/
def Hw.modCopy (h : Hw) (core : Nat) (f : CopyProg → CopyProg) : Hw :=
  h.modCore core (fun k => { k with copy := k.copy.map (fun m => { m with prog := f m.prog }) })

/-- A step of a command: 1 reads, 2 writes; `late` tells that its translation has been waited for. -/
def Hw.copyStep (h : Hw) (core txn step at_ : Nat) (late : Bool) : Hw := h.schedule at_ .copyCommandStart (.nats [core, txn, step, bit late])

/-- A chunk is read and written: the next chunk is read, or the command completes once its writes are performed (R156, R157). -/
def Hw.copyOver (h : Hw) (core : Nat) : Hw :=
  match (h.core core).copy with
  | none => h
  | some m =>
    let p := m.prog
    let done := h.now + (p.ld - p.ld / 2) + (if p.chunked then m.lead (p.cut - 1) else 0)
    if p.cut < m.len then h.copyStep core m.txn 1 (done + p.ls / 2) false
    else
      let e := p.stop.getD (bit m.poison, 0, core)
      (h.signFill core m.slot m.uid m.txn p.sig).schedule (max done p.until_) .copyCommandComplete
        (.nats [core, m.txn, e.1, m.done, e.2.1, e.2.2])

/-- A destination sector's source bytes have been read, or given up (`got` false): the next read, and the first write that it lets go. -/
def Hw.copyCut (h : Hw) (core : Nat) (got : Bool) : Hw :=
  match (h.core core).copy with
  | none => h
  | some m =>
    let p := m.prog
    let n := m.segLen p.cut
    let ready := h.now + (p.ls - p.ls / 2) + m.lead p.cut + p.ld / 2
    let segs := if got then p.segs ++ [⟨p.cut, n, ready⟩] else p.segs
    let h1 := h.modCopy core (fun p => { p with cut := p.cut + n, rd := max p.rd (p.cut + n), segs := segs })
    let last := ({ m with prog := { p with cut := p.cut + n } } : CopyCmd).chunkOver
    let h2 := if last then h1 else h1.copyStep core m.txn 1 (h.now + p.rate) false
    if last && segs == [] then h2.copyOver core
    else if (p.chunked && last) || (!p.chunked && got && p.segs == []) then h2.copyStep core m.txn 2 (max ready p.next) false
    else h2

/-- The first sector that waits to be written is written, or given up: the next write, the next chunk or the end. -/
def Hw.copyPast (h : Hw) (core : Nat) : Hw :=
  match (h.core core).copy with
  | none => h
  | some m =>
    let p := m.prog
    let done := match p.segs with | g :: _ => g.off + g.len | [] => 0
    let h1 := h.modCopy core (fun p =>
      { p with segs := p.segs.drop 1, next := h.now + p.rate, buf := (p.buf.filter (fun r => decide (done < r.off + r.bytes.length))) })
    match p.segs.drop 1 with
    | g :: _ => h1.copyStep core m.txn 2 (max (h.now + p.rate) g.ready) false
    | [] => if m.chunkOver then h1.copyOver core else h1

/-- A command has failed (R157): it goes on, but from here on a free choice says of each sector whether it is still written (log 8). -/
def Hw.copyFail (h : Hw) (core status cause target until_ : Nat) : Hw :=
  h.modCopy core (fun p => if p.stop.isSome then p else { p with stop := some (status, cause, target), until_ := until_ })

/-- Reads source sectors, each once, until the bytes below an offset are at hand (R156, R182). -/
def State.copyFetch (core upto : Nat) : Nat → CopyCmd → State → Option (Nat × Reach) × CopyCmd × State
  | 0, m, s => (none, m, s)
  | fuel + 1, m, s =>
    let p := m.prog
    let have_ (m : CopyCmd) (n : Nat) (r : CopyRun) : CopyCmd := { m with prog := { m.prog with rd := p.rd + n, buf := p.buf ++ [r] } }
    if upto ≤ p.rd then (none, m, s)
    else if m.fill then (none, have_ m (upto - p.rd) ⟨p.rd, fillBytes m.pat.toNat (upto - p.rd) p.rd, m.otag, false⟩, s)
    else
      let n := min (32 - (m.src + p.rd) % 32) (m.chunkEnd p.rd - p.rd)
      match s.reach core m.tenant m.svc { r := true } none m.srcVirt (m.src + p.rd) with
      | (.ok key leaf, s1) =>
        State.copyFetch core upto fuel (have_ m n ⟨p.rd, s1.mem.readN key n, effTag s1.mem ⟨key, n, 0, leaf⟩, s1.mem.isPoison key⟩) s1
      | (e, s1) => (some (m.src + p.rd, e), m, s1)

/-- The part of the runs that lies in a range. -/
def copySlice (buf : List CopyRun) (off len : Nat) : List CopyRun :=
  buf.filterMap (fun r =>
    let lo := max off r.off
    let hi := min (off + len) (r.off + r.bytes.length)
    if lo < hi then some { r with off := lo, bytes := (r.bytes.drop (lo - r.off)).take (hi - lo) } else none)

/-- Writes the bytes of one destination sector at once: the bytes and the tag of each run under R141, so that of two runs with different
tags the later one's tag stands and the other's bytes are zero (log 15); the poison bit travels with the data (R38), and a sector that the
command writes whole loses the poison it had. -/
def State.copyPut (s : State) (key off len : Nat) (rs : List CopyRun) : State :=
  let was := s.mem.isPoison key && decide (len < 32)
  (rs.foldl (fun s r => s.bankWrite (key + (r.off - off)) r.bytes (some r.tag)) s).onMem
    (fun x => x.setPoison key (was || rs.any (fun r => r.poison)))

/-- The core that holds an address of a command takes its image, so that the access waits at its cluster node (R262). -/
def State.copyHeldBack (s : State) (core : Nat) (m : CopyCmd) (virt : Bool) (addr : Nat) : Bool :=
  match s.keyOf core m.tenant virt addr with
  | some k => keyCore k != core && (s.hw.core (keyCore k)).imaging
  | none => false

/-- What stands in the way of a command at an address: a page that is not resident holds it (R156, R177); a refusal or a failure stops
it (R157). `past` gives the sector up. -/
def State.copyBlocked (s : State) (core : Nat) (m : CopyCmd) (va : Nat) (e : Reach) (held : CopyProg → CopyProg) (past : Hw → Hw) : State :=
  match e with
  | .absent w => s.onHw (fun h => if m.prog.stop.isSome then past h else (h.modCopy core held).askPage core m.slot m.tenant 4 va w)
  | .remote cause t =>
    s.onHw (fun h =>
      let d := match h.routeFails core m.tenant m.svc t (h.scratchLatency core t) with | some (_, d) => d | none => 0
      past (h.copyFail core 2 cause t (h.now + d)))
  | _ => s.onHw (fun h => past (h.copyFail core 3 0 core h.now))

/-- A command that has failed takes a free choice about a sector (R157): the state, and whether it gives it up. -/
def Hw.copyGivesUp (h : Hw) (m : CopyCmd) (off : Nat) : Bool × Hw :=
  if m.prog.stop.isNone || off == m.done then (false, h) else (!h.drawBool.1, h.drawBool.2)

/-- The engine reads what the next destination sector needs (R156). -/
def State.copyRead (s : State) (core : Nat) (late : Bool) : State :=
  match (s.hw.core core).copy with
  | none => s
  | some m =>
    let p := m.prog
    let upto := p.cut + m.segLen p.cut
    let x (o : Nat) : Nat := if m.fill || decide (upto ≤ p.rd) then 0 else s.xlateCycles core m.tenant m.srcVirt (m.src + o)
    let wait := max (x p.rd) (x (upto - 1))
    if p.heldW.isSome then s.onHw (fun h => h.modCopy core (fun p => { p with rwait := true }))
    else if !m.fill && s.copyHeldBack core m m.srcVirt (m.src + p.rd) then s.onHw (fun h => h.copyStep core m.txn 1 (h.now + 1) late)
    else if !late && p.stop.isNone && decide (0 < wait) then s.onHw (fun h => h.copyStep core m.txn 1 (h.now + wait) true)
    else
      let g := if p.stop.isNone then (false, s.hw) else (!s.hw.drawBool.1, s.hw.drawBool.2)
      let s0 : State := { s with hw := g.2 }
      if g.1 then s0.onHw (fun h => h.copyCut core false)
      else
        match State.copyFetch core upto 3 m s0 with
        | (none, m1, s1) => s1.onHw (fun h => (h.modCopy core (fun _ => m1.prog)).copyCut core true)
        | (some (va, e), m1, s1) =>
          (s1.onHw (fun h => h.modCopy core (fun _ => m1.prog))).copyBlocked core m va e (fun p => { p with heldR := some va })
            (fun h => h.copyCut core false)

/-- What a command knows once it has written a sector. -/
def CopyCmd.wrote (m : CopyCmd) (g : CopySeg) (poison : Bool) (bs : List Byte) : CopyCmd :=
  { m with
    poison := m.poison || poison
    done := if g.off = m.done then g.off + g.len else m.done
    prog := { m.prog with sig := m.prog.sig ++ sigMessage m.seg (m.off + g.off) bs } }

/-- The engine writes the first destination sector whose bytes are at hand (R156). -/
def State.copyWrite (s : State) (core : Nat) (late : Bool) : State :=
  match (s.hw.core core).copy with
  | none => s
  | some m =>
    match m.prog.segs with
    | [] => s
    | g :: _ =>
      let va := m.dst + g.off
      let wait := s.xlateCycles core m.tenant m.dstVirt va
      let past (h : Hw) : Hw := h.copyPast core
      if s.copyHeldBack core m m.dstVirt va then s.onHw (fun h => h.copyStep core m.txn 2 (h.now + 1) late)
      else if !late && m.prog.stop.isNone && decide (0 < wait) then s.onHw (fun h => h.copyStep core m.txn 2 (h.now + wait) true)
      else
        let c := s.hw.copyGivesUp m g.off
        let s0 : State := { s with hw := c.2 }
        if c.1 then s0.onHw past
        else
          let rs := copySlice m.prog.buf g.off g.len
          let r := rs.foldl (fun (a : Option (Reach × State)) (r : CopyRun) =>
            match a with
            | some (.ok _ _, s) => some (s.reach core m.tenant m.svc { w := true } (some r.tag) m.dstVirt va)
            | none => some (s0.reach core m.tenant m.svc { w := true } (some r.tag) m.dstVirt va)
            | e => e) none
          match r with
          | none => s0.onHw past
          | some (.ok key _, s1) =>
            let bs := rs.flatMap (fun r => r.bytes)
            (s1.copyPut key g.off g.len rs).onHw fun h => past (h.modCore core (fun k => { k with copy := k.copy.map (fun m =>
              m.wrote g (rs.any (fun r => r.poison)) bs) }))
          | some (e, s1) => s1.copyBlocked core m va e (fun p => { p with heldW := some va }) past

/-- The command that the engine has taken starts: its figures (R159; a fill has no source, log 15), its way (R156), its first read. -/
def State.copyStart (s : State) (core : Nat) : State :=
  match (s.hw.core core).copy with
  | none => s
  | some m =>
    let key (virt : Bool) (addr : Nat) : Nat := (s.keyOf core m.tenant virt addr).getD (dramKeyOf (core * 2 ^ 28))
    let src := key m.srcVirt m.src
    let dst := key m.dstVirt m.dst
    let ls := if m.fill then 0 else s.hw.latency core src
    let dram := keyDram dst || (!m.fill && keyDram src)
    let chunked := !m.fill && m.srcVirt == m.dstVirt && decide (m.src < m.dst) && decide (m.dst < m.src + m.len)
    let p : CopyProg := { CopyProg.reset with ls := ls, ld := s.hw.latency core dst, rate := if dram then 3 else 1, chunked := chunked }
    s.onHw fun h => (h.modCopy core (fun _ => p)).copyStep core m.txn 1 (h.now + ls / 2) false

/-- Reads or writes of a command no longer wait for a page. -/
def CopyProg.goesOn (p : CopyProg) (r w : Bool) : CopyProg :=
  { p with
    heldR := if r then none else p.heldR
    heldW := if w then none else p.heldW
    rwait := p.rwait && !w }

/-- The wake that BRS sends lets a held command go on at the sector where it was held (R178). -/
def Hw.copyResume (h : Hw) (core : Nat) (r w : Bool) : Hw :=
  match (h.core core).copy with
  | none => h
  | some m =>
    let p := m.prog
    let h1 := h.modCopy core (fun p => p.goesOn r w)
    let h2 := if w then h1.copyStep core m.txn 2 h.now false else h1
    if r || (w && p.rwait) then h2.copyStep core m.txn 1 h.now false else h2

/-- Contexts of a core that wait on an engine wake (R84). -/
def Hw.wakeEngine (h : Hw) (core f : Nat) (p : Ctx → Bool) : Hw :=
  (h.core core).slots.foldl (fun h (e : Nat × Ctx) =>
    if e.2.park = some (.engine f) ∧ p e.2 then h.wakeAt core e.1 h.now else h) h

/-- A failed engine command is charged (R104, R146, R157, R190, R408, R456): to a pending fence, to the region, as a deferred
EngineCommand, or as an orphan record. `remote` holds the failing target of a remote failure; every failure of a copy command fails its
region, of a matrix command only that one. -/
def Hw.engineFails (h : Hw) (core slot uid txn : Nat) (chain : Cur) (svc copy : Bool) (status addr : Nat) (virt : Bool)
    (remote : Option (Nat × Nat)) : Hw :=
  let f := chain.faultAt .engineCommand status addr virt
  if !h.alive core slot uid then h.orphan core slot (2 * bit svc) kindOrphan f.deferred
  else if h.isQuiet core slot txn then h
  else
    let x := h.ctx core slot
    let fen := match remote with | some (rc, t) => x.fenceOp txn && moduleOf t != moduleOf core && decide (rc ≤ 2) | none => false
    let reg := x.regionOp txn && (copy || remote.isSome)
    let h1 := h.modCtx core slot (fun x =>
      let r := remote.getD (3, core)
      let x1 := if fen then x.failFence txn (moduleOf r.2) else x
      if reg then x1.failRegion txn r.1 r.2 else x1)
    if fen || reg then h1 else h1.deferFault core slot f

/-- The copy completion word (R157). -/
def copyWord (m : CopyCmd) (status done : Nat) : Word :=
  BitVec.ofNat 64 (m.ident % 2 ^ 16 * 2 ^ 48 + status % 16 * 2 ^ 44 + (if 2 ≤ status then done else m.len) % 2 ^ 40)

/-- A command completes (R154, R157): its completion, its failure, and the next command. -/
def Hw.copyComplete (h : Hw) (core txn status done rc target : Nat) : Hw :=
  match (h.core core).copy with
  | none => h
  | some m =>
    if m.txn ≠ txn then h
    else
      let live := h.alive core m.slot m.uid && !h.isQuiet core m.slot txn
      let h1 := h.modCore core (fun k =>
        { k with copy := none, e1Resv := k.e1Resv - 1, e1 := if live then k.e1 ++ [⟨m.uid, copyWord m status done⟩] else k.e1 })
      let h2 :=
        if 2 ≤ status then
          h1.engineFails core m.slot m.uid txn m.chain m.svc true status (m.dst + done) m.dstVirt (if status = 2 then some (rc, target) else none)
        else h1
      let h3 := if live then h2.wakeEngine core 1 (fun x => x.uid == m.uid) else h2.wakeEngine core 8 (fun _ => true)
      (h3.opDone core m.slot m.uid txn).copyKick core

end Sys2Proof.Machine
end

