-- ==== Sys2Proof/Machine/Memory.lean ====
section
/-! DEFINITION. The memory instructions (06_memory R147 to R158, R162 to R165), FENCE (08_ordering R186 to R190), and the
steps by which their accesses are performed and answered. -/

namespace Sys2Proof.Machine

/-! ### Loads and stores -/

/-- Bytes of a load (R148). -/
def ldBytes : LdKind → Nat
  | .val t => ityWidth t / 8
  | .sec => 32

/-- Bytes of a store (R148). -/
def stBytes : StKind → Nat
  | .b64 => 8 | .b32 => 4 | .b16 => 2 | .b8 => 1 | .sec => 32

/-- The registers of a load or store (R148): one, or four for a sector. -/
def secRegs (sec : Bool) (a : Nat) : List Nat := if sec then [a, a + 1, a + 2, a + 3] else [a]

/-- The bytes that a store takes from its registers (R149). -/
def Hw.storeBytes (h : Hw) (c : Cur) (k : StKind) (a : Nat) : List Byte :=
  match k with
  | .sec => (secRegs true a).flatMap (fun n => bytesLE 8 (h.cgn c n).toNat)
  | k => bytesLE (stBytes k) (h.cgn c a).toNat

/-- A kind of load is a sector. -/
def LdKind.isSec (k : LdKind) : Bool := match k with | .sec => true | _ => false
/-- A kind of store is a sector. -/
def StKind.isSec (k : StKind) : Bool := match k with | .sec => true | _ => false

/-- The check of a form that needs the sector registers (R149). -/
def State.secWindow (s : State) (c : Cur) (sec : Bool) (a : Nat) (k : State) : State :=
  if sec then s.window c (a + 3) k else k

/-- A memory form with one access through `[sgB + gC + imm]`: its sources are at hand, it may make its access, the operand
passes Check, and the access starts (R137, R143, R144). -/
def State.memForm (s : State) (c : Cur) (sw : Bool) (m : MemOp) (srcs : List Nat) (op : AccOp) (relaxed : Bool)
    (size align : Nat) (need : Need) : State :=
  s.reads c (m.idx.toNat :: srcs) <| s.mayAccess c relaxed (accCls op) <|
    s.check c m.sg.toNat (s.hw.memOffset c m) size need align fun a sg =>
      s.access c sw (s.hw.mkAcc c op relaxed sg.virt a size m.sg.toNat (s.hw.memOffset c m).toNat)

/-- LD (R147 to R149). -/
def execLd (sw : Bool) (k : LdKind) (rx : Bool) (a : GReg) (m : MemOp) (s : State) : Res :=
  s.withCur fun c => s.secWindow c (LdKind.isSec k) a.toNat <|
    s.memForm c sw m [] (.load k (secRegs (LdKind.isSec k) a.toNat)) rx (ldBytes k) (if LdKind.isSec k then 32 else 1) { r := true }

/-- ST (R147 to R149). The data are read at issue. -/
def execSt (sw : Bool) (k : StKind) (rx : Bool) (a : GReg) (m : MemOp) (s : State) : Res :=
  s.withCur fun c => s.secWindow c (StKind.isSec k) a.toNat <|
    s.memForm c sw m (secRegs (StKind.isSec k) a.toNat) (.store (s.hw.storeBytes c k a.toNat)) rx (stBytes k)
      (if StKind.isSec k then 32 else 1) { w := true }

/-- The pointer after an access (R148). -/
def Ptr.after (p : Ptr) (md : PMode) : Ptr :=
  match md with
  | .keep => p
  | .inc => { p with off := BitVec.ofInt 20 ((p.off.toNat : Int) + p.inc.toInt) }
  | .dec => { p with off := BitVec.ofInt 20 ((p.off.toNat : Int) - p.inc.toInt) }

/-- An access through a pointer and `sg0` (R150): always relaxed, scratch only; the pointer moves at issue. -/
def State.ptrForm (s : State) (c : Cur) (sw : Bool) (p : Nat) (md : PMode) (srcs : List Nat) (op : AccOp) (size align : Nat)
    (need : Need) : State :=
  s.reads c srcs <| s.readsPtr c p <| s.mayAccess c true (accCls op) <|
    let x := s.hw.curCtx c
    let q := x.ptr p
    let sg := x.seg 0
    if sg.virt then
      s.onHw (fun h => h.faultChain c (c.faultAt .segmentRights 0 (wrap ((sg.base : Int) + q.off.toNat) 72) true))
    else
      s.check c 0 q.off.toNat size need align fun a _ =>
        let s1 := s.access c sw (s.hw.mkAcc c op true false a size 0 q.off.toNat)
        if (s1.hw.curCtx c).st = .faulted then s1
        else s1.onHw (fun h => h.modCur c (fun x => { x with p := SMap.set x.p p (q.after md) }))

/-- LDP (R147, R148, R150). -/
def execLdp (sw : Bool) (k : LdKind) (md : PMode) (a : GReg) (p : BitVec 3) (s : State) : Res :=
  s.withCur fun c => s.secWindow c (LdKind.isSec k) a.toNat <|
    s.ptrForm c sw p.toNat md [] (.load k (secRegs (LdKind.isSec k) a.toNat)) (ldBytes k) (if LdKind.isSec k then 32 else 1)
      { r := true }

/-- STP (R147, R148, R150). -/
def execStp (sw : Bool) (k : StKind) (md : PMode) (a : GReg) (p : BitVec 3) (s : State) : Res :=
  s.withCur fun c => s.secWindow c (StKind.isSec k) a.toNat <|
    s.ptrForm c sw p.toNat md (secRegs (StKind.isSec k) a.toNat) (.store (s.hw.storeBytes c k a.toNat)) (stBytes k)
      (if StKind.isSec k then 32 else 1) { w := true }

/-- ATOM (R151). -/
def execAtom (sw : Bool) (op : AtomOp) (t : AtomTy) (rx : Bool) (a : GReg) (m : MemOp) (s : State) : Res :=
  s.withCur fun c =>
    let cas := op == .cas
    let n := atomWidth t / 8
    let go := s.memForm c sw m (if cas then [a.toNat, a.toNat + 1] else [a.toNat])
      (.atom op t a.toNat (s.hw.cg c a) (s.hw.cgn c (a.toNat + 1))) rx n n { r := true, w := true }
    if cas then s.window c (a.toNat + 1) go else go

/-- MWAIT (R152). -/
def execMwait (sw : Bool) (a : GReg) (m : MemOp) (s : State) : Res :=
  s.withCur fun c =>
    if (s.hw.curCtx c).booked then s.faultWith c .calendarViolation 4 0
    else s.memForm c sw m [a.toNat] (.mwait a.toNat (s.hw.cg c a)) false 8 8 { r := true }

/-! ### Engine FIFOs (R153 to R158) -/

/-- EPUSH (R154, R155). -/
def execEpush (sw : Bool) (e : BitVec 3) (b : GReg) (s : State) : Res :=
  s.withCur fun c =>
    if e ≠ 0 then s.faultWith c .reservedValue 6 e.toNat
    else s.window c (b.toNat + 3) <| s.unit c 2 <| s.reads c (regRun b.toNat 4) <|
      let x := s.hw.curCtx c
      let q (i : Nat) : Nat := (s.hw.cgn c (b.toNat + i)).toNat
      let fill := bits (q 2) 35 32 = 1
      let len := bits (q 2) 31 0
      let sseg := bits (q 0) 42 40
      let soff := bits (q 0) 39 0
      let dseg := bits (q 0) 45 43
      let doff := bits (q 1) 39 0
      if bits (q 0) 47 46 ≠ 0 ∨ bits (q 1) 63 40 ≠ 0 ∨ bits (q 2) 63 36 ≠ 0 ∨ 1 < bits (q 2) 35 32 ∨ len = 0 ∨ 0x10000000 < len ∨
          (fill ∧ (sseg ≠ 0 ∨ soff ≠ 0)) ∨ (¬ fill ∧ q 3 ≠ 0) then s.faultWith c .reservedValue 0 0
      else
        let go (src : Nat) (sv : Bool) : State :=
          s.check c dseg doff len { w := true } 1 fun dst dsg =>
            let subs := (s.hw.bookedSub c false dsg.virt dst len).toList ++ (if fill then [] else (s.hw.bookedSub c false sv src len).toList)
            if subs ≠ [] then s.faultWith c .calendarViolation (subs.headD 0) 0
            else if x.fenced .e then s.onHw (fun h => h.parkChain c .fence)
            else
              let k := s.hw.core c.core
              if 16 ≤ k.e0.length ∨ 16 ≤ k.e1.length + k.e1Resv then
                if x.booked then s.faultWith c .calendarViolation 0 0 else s.onHw (fun h => h.parkChain c (.engine 8))
              else
                let txn := s.hw.nextTxn
                let m : CopyCmd :=
                  { txn := txn, slot := c.slot, uid := x.uid, ident := bits (q 0) 63 48, fill := fill, src := src, srcVirt := sv,
                    dst := dst, dstVirt := dsg.virt, len := len, pat := BitVec.ofNat 64 (q 3), otag := x.otag.toNat,
                    tenant := (s.hw.tenantOf c.core).getD 0, svc := x.service, chain := c, waits := s.hw.earlierStores c,
                    done := 0, poison := false, seg := dseg, off := doff, prog := .reset }
                s.onHw fun h =>
                  let h1 := ({ h with nextTxn := h.nextTxn + 1 }).modCore c.core (fun k =>
                    { k with e0 := k.e0 ++ [m], e1Resv := k.e1Resv + 1 })
                  let h2 := h1.modCur c (fun x =>
                    let y := x.signWrite txn none
                    if sv ∨ dsg.virt ∨ keyCore dst ≠ c.core ∨ (fill = false ∧ keyCore src ≠ c.core) then
                      { y with region := y.region.map (fun r => { r with ops := r.ops ++ [txn] }) }
                    else y)
                  (h2.copyKick c.core).retire c sw 1
        if fill then go 0 false else s.check c sseg soff len { r := true } 1 fun src ssg => go src ssg.virt

/-- EPOP (R154). -/
def execEpop (sw : Bool) (a : GReg) (e : BitVec 3) (s : State) : Res :=
  s.withCur fun c =>
    let f := e.toNat
    if f = 0 ∨ 5 ≤ f then s.faultWith c .reservedValue 6 f
    else
      let n := if f = 4 then 4 else 1
      s.window c (a.toNat + n - 1) <|
        let x := s.hw.curCtx c
        let k := s.hw.core c.core
        let none_ : State :=
          if x.booked then s.faultWith c .calendarViolation 6 f else s.onHw (fun h => h.parkChain c (.engine f))
        let give (h : Hw) (v : Nat) : Hw :=
          ((List.range n).foldl (fun h i => h.setG c.core c.slot (a.toNat + i) (BitVec.ofNat 64 (bits v (64 * i + 63) (64 * i))) 2) h).retire
            c sw 1
        let own (l : List Compl) (put : Core → List Compl → Core) : State :=
          match l.find? (fun m => m.uid == x.uid) with
          | none => none_
          | some m => s.onHw fun h =>
              give ((h.modCore c.core (fun k => put k (l.erase m))).wakeEngine c.core (if f = 1 then 8 else 8 + f) (fun _ => true))
                m.word.toNat
        match f with
        | 1 => own k.e1 (fun k l => { k with e1 := l })
        | 2 => own k.e2 (fun k l => { k with e2 := l })
        | 3 => own k.e3 (fun k l => { k with e3 := l })
        | _ =>
          match k.e4 with
          | [] => none_
          | r :: l => s.onHw fun h => give (h.modCore c.core (fun k => { k with e4 := l })) r.toNat

/-! ### FENCE (R186 to R190) -/

/-- A target core lies in a scope of an issuing core (R187). -/
def inScope (scope core target : Nat) : Bool :=
  match scope with
  | 0 => target == core
  | 1 => clusterOf target == clusterOf core
  | 2 => dieOf target == dieOf core
  | 3 => moduleOf target == moduleOf core
  | _ => true

/-- An outstanding access has its target in a scope; one whose place is not known yet is waited for. -/
def Acc.inScope (a : Acc) (scope : Nat) : Bool :=
  if a.pieces = [] then (a.virt || decide (128 < a.size) || Machine.inScope scope a.core (keyCore a.addr))
  else a.pieces.any (fun p => Machine.inScope scope a.core (keyCore p.key))

/-- Cores of a scope's size. -/
def scopeCores : Nat → Nat
  | 0 => 1 | 1 => 16 | 2 => 1024 | _ => 8192

/-- A run of keys lies in part in a scope. -/
def keysInScope (scope core key len : Nat) : Bool :=
  let n := scopeCores scope
  let lo := core / n * n
  decide (4 ≤ scope) || (decide (lo ≤ keyCore (key + len - 1)) && decide (keyCore key < lo + n))

/-- A range has a core's memory in a scope; a page whose place is not known is waited for (log 35). -/
def State.rangeInScope (s : State) (tenant scope core : Nat) (r : Bool × Nat × Nat) : Bool :=
  decide (4 ≤ scope) || (s.keyRuns core tenant r.1 (r.2.2 / 4096 + 2) r.2.1 r.2.2).any (fun e =>
    match e.1 with | some k => keysInScope scope core k e.2 | none => true)

/-- The ranges that a copy command accesses. -/
def CopyCmd.ranges (m : CopyCmd) : List (Bool × Nat × Nat) :=
  (m.dstVirt, m.dst, m.len) :: (if m.fill then [] else [(m.srcVirt, m.src, m.len)])

/-- The outstanding accesses of a context, by transaction: class and whether a scope holds their target (R183, R187). -/
def State.fenceSet (s : State) (c : Cur) (pred scope : Nat) : List Nat :=
  let k := s.hw.core c.core
  let uid := (s.hw.curCtx c).uid
  let inPred (q : Cls) : Bool := q != .plain && bitAt pred q.bit
  ((k.out.filter (fun o => o.uid == uid && inPred o.cls && Acc.inScope o.acc scope)).map (fun o => o.acc.txn)) ++
    ((k.owed.filter (fun o => o.uid == uid && inPred o.cls && inScope scope c.core o.target)).map (fun o => o.txn)) ++
    (((k.copy.toList ++ k.e0).filter (fun m => m.uid == uid && inPred .e && m.ranges.any (s.rangeInScope m.tenant scope c.core))).map (fun m => m.txn)) ++
    ((k.matCmds.filter (fun m => m.uid == uid && m.op.memory && inPred .e && m.ranges.any (s.rangeInScope m.acc.tenant scope c.core))).map
      (fun m => m.txn))

/-- Sets TS.FST, and TS.FMOD where a module is recorded (R79, R187, R190). -/
def Ctx.fenceStatus (x : Ctx) (f : Option Nat) : Ctx :=
  match f with
  | none => { x with ts := putBits x.ts 29 2 0 }
  | some m => { x with ts := putBits (putBits x.ts 29 2 1) 31 8 m }

/-- FENCE (R186, R187). -/
def execFence (sw : Bool) (imm : BitVec 13) (s : State) : Res :=
  s.withCur fun c =>
    let n := imm.toNat
    let x := s.hw.curCtx c
    if bits n 4 0 = 0 ∨ bits n 9 5 = 0 ∨ 4 < bits n 12 10 then s.faultWith c .reservedValue 7 n
    else if x.booked ∧ bits n 12 10 ≠ 0 then s.faultWith c .calendarViolation 4 n
    else if x.fence.isSome then s.onHw (fun h => h.parkChain c .fence)
    else s.onHw fun h =>
      let set := s.fenceSet c (bits n 4 0) (bits n 12 10)
      (h.modCur c (fun x =>
        if set = [] then x.fenceStatus none
        else { x with fence := some ⟨set, bits n 9 5, none, 0, n⟩ })).retire c sw 1

/-- The last member of a fence's Set is performed or has failed (R187, R188, R190): TS.FST, and the chains that the fence
held. -/
def execFenceComplete (s : State) : Res :=
  match s.hw.arg with
  | .nats [core, slot, uid] =>
    .next <|
      let x := s.hw.ctx core slot
      match x.fence with
      | none => s
      | some f =>
        if x.uid ≠ uid ∨ f.set ≠ [] then s
        else
          let y := { x.fenceStatus f.fail with fence := none }
          let s1 := s.onHw (fun h => h.setCtx core slot y)
          let s2 :=
            if x.st = .spilled ∧ x.imaged then
              s1.onMem (fun m => m.putN (s.hw.imageKey core slot + 0x170)
                (bytesLE 8 (({ x with ts := BitVec.ofNat 64 (m.val (s.hw.imageKey core slot + 0x170) 8) } : Ctx).fenceStatus f.fail).ts.toNat))
            else s1
          if x.park = some .fence then s2.wake core slot else s2
  | _ => .fault .noArgument

/-! ### Deprecated forms (R105, R106, R162 to R165) -/

/-- The step at which a page-15 form begins (R106). -/
def Ctx.firstStep (x : Ctx) (code : Nat) : Nat :=
  let v := x.xstep.toNat
  if bitAt v 10 && bits v 9 8 == code then bits v 7 0 else 0

/-- One step of a page-15 form: XSTEP names it, and it makes its own Check and its plain access (R105, R106, R162). -/
def State.step15 (s : State) (c : Cur) (sw : Bool) (m : MemOp) (code i : Nat) (o : Int) (need : Need) (op : AccOp) : State :=
  s.mayAccess c false .plain <|
    let s1 := s.onHw (fun h => h.modCur c (fun x => { x with xstep := BitVec.ofNat 64 (2 ^ 10 + code % 4 * 2 ^ 8 + i % 256) }))
    s1.check c m.sg.toNat o 8 need 8 fun a sg =>
      s1.access c sw (s1.hw.mkAcc c op false sg.virt a 8 m.sg.toNat o.toNat)

/-- LDMB (R163). -/
def execLdmb (sw : Bool) (k : BitVec 4) (a : GReg) (m : MemOp) (s : State) : Res :=
  s.withCur fun c => s.window c (a.toNat + k.toNat) <| s.reads c [m.idx.toNat] <|
    let i := (s.hw.curCtx c).firstStep 0
    s.step15 c sw m 0 i (s.hw.memOffset c m + 8 * i) { r := true } (.stepLoad (a.toNat + i) (decide (k.toNat ≤ i)))

/-- STMB (R163). -/
def execStmb (sw : Bool) (k : BitVec 4) (a : GReg) (m : MemOp) (s : State) : Res :=
  s.withCur fun c => s.window c (a.toNat + k.toNat) <|
    let i := (s.hw.curCtx c).firstStep 1
    s.reads c [m.idx.toNat, a.toNat + i] <|
      s.step15 c sw m 1 i (s.hw.memOffset c m + 8 * i) { w := true }
        (.stepStore (s.hw.cgn c (a.toNat + i)).toNat (decide (k.toNat ≤ i)))

/-- BLKCP (R164): even steps read, odd steps write. -/
def execBlkcp (sw : Bool) (a : GReg) (m : MemOp) (s : State) : Res :=
  s.withCur fun c => s.window c (a.toNat + 2) <|
    let i := (s.hw.curCtx c).firstStep 2
    s.reads c ([m.idx.toNat, a.toNat, a.toNat + 1] ++ (if i % 2 = 1 then [a.toNat + 2] else [])) <|
      let n := (s.hw.cgn c (a.toNat + 1)).toNat
      if n = 0 ∨ 1024 < n ∨ n % 8 ≠ 0 then s.faultWith c .reservedValue 0 n
      else
        let j : Int := ((8 * (i / 2) : Nat) : Int)
        if i % 2 = 0 then s.step15 c sw m 2 i (s.hw.memOffset c m + j) { r := true } (.stepLoad (a.toNat + 2) false)
        else s.step15 c sw m 2 i (((s.hw.cg c a).toNat : Int) + j) { w := true }
          (.stepStore (s.hw.cgn c (a.toNat + 2)).toNat (decide (n / 4 ≤ i + 1)))

/-- CRCB (R165). -/
def execCrcb (sw : Bool) (a : GReg) (m : MemOp) (s : State) : Res :=
  s.withCur fun c => s.window c (a.toNat + 1) <| s.reads c [m.idx.toNat, a.toNat, a.toNat + 1] <|
    let i := (s.hw.curCtx c).firstStep 3
    let n := (s.hw.cgn c (a.toNat + 1)).toNat
    if n = 0 ∨ 2048 < n ∨ n % 8 ≠ 0 then s.faultWith c .reservedValue 0 n
    else s.step15 c sw m 3 i (s.hw.memOffset c m + 8 * i) { r := true }
      (.stepCrc a.toNat (bits (s.hw.cg c a).toNat 31 0) (decide (n / 8 ≤ i + 1)))

/-! ### The steps of an access -/

/-- The result of a relaxed load or atomic (R144, R146). -/
def execRelaxedLoadResult (s : State) : Res :=
  match s.hw.arg with
  | .accRes a r => .next (s.answer a.core a.txn r)
  | _ => .fault .noArgument

/-- The write acknowledgement of a relaxed store (R144, R145). -/
def execStoreAcknowledge (s : State) : Res :=
  match s.hw.arg with
  | .accRes a r => .next (s.answer a.core a.txn r)
  | _ => .fault .noArgument

/-- The bank left a tag to the requester (R418). -/
def execTagRetryRequest (s : State) : Res :=
  match s.hw.arg with
  | .accRes a (.tag t) => .next (s.tagReply a.core a.txn t)
  | _ => .fault .noArgument

/-- A context waits for the answer of an MWAIT or JOIN that armed its monitor. -/
def Hw.monitorArming (h : Hw) (core uid : Nat) : Bool :=
  (h.core core).out.any (fun o => o.uid == uid && (match o.acc.op with | .mwait _ _ => true | .join _ => true | _ => false))

/-- The context waits for its monitor. -/
def Ctx.onMonitor (x : Ctx) : Bool := match x.park with | some (.monitor _) => true | _ => false

/-- The first write to a monitored sector wakes the context (R152, R192). -/
def execMonitorWake (s : State) : Res :=
  match s.hw.arg with
  | .nats [core, slot, uid] =>
    .next <|
      let x := s.hw.ctx core slot
      if x.uid ≠ uid then s
      else if x.onMonitor then s.wake core slot
      else if s.hw.monitorArming core uid then s.onHw (fun h => h.after 1 .monitorWake (.nats [core, slot, uid]))
      else s
  | _ => .fault .noArgument

/-- 1,024 cycles after an armed-timed reply (R152). -/
def execMwaitTimedWake (s : State) : Res :=
  match s.hw.arg with
  | .nats [core, slot, uid] =>
    .next <|
      let x := s.hw.ctx core slot
      if x.uid = uid ∧ x.onMonitor then s.wake core slot else s
  | _ => .fault .noArgument

/-- The copy engine takes a command (R156), and then, sector by sector, reads (1) and writes (2) for it; `late` follows a translation. -/
def execCopyCommandStart (s : State) : Res :=
  match s.hw.arg with
  | .nats [core] => .next (s.copyStart core)
  | .nats [core, txn, step, late] =>
    let mine := match (s.hw.core core).copy with | some m => m.txn == txn | none => false
    .next (if !mine then s else if step = 1 then s.copyRead core (late != 0) else s.copyWrite core (late != 0))
  | _ => .fault .noArgument

/-- Every write of a copy command has been performed: its completion (R157). -/
def execCopyCommandComplete (s : State) : Res :=
  match s.hw.arg with
  | .nats [core, txn, status, done, cause, target] => .next (s.onHw fun h => h.copyComplete core txn status done cause target)
  | _ => .fault .noArgument

end Sys2Proof.Machine
end

