-- ==== Sys2Proof/Machine/Code.lean ====
section
/-! DEFINITION. The digest table and the code-load unit of a cluster (13_kernel R263 to R273): lookups, misses, eviction,
fetches and installs. -/

namespace Sys2Proof.Machine

/-- The first key whose value passes a test. -/
def SMap.first {α : Type} (m : SMap α) (p : α → Bool) : Option Nat :=
  match m with
  | [] => none
  | (k, v) :: r => if p v then some k else SMap.first r p

/-- An entry of a cluster's digest table. -/
def Hw.entry (h : Hw) (clu e : Nat) : DEntry := SMap.get DEntry.none (h.cluster clu).dtab e

/-- Changes an entry. -/
def Hw.modEntry (h : Hw) (clu e : Nat) (f : DEntry → DEntry) : Hw :=
  h.modCluster clu (fun c => { c with dtab := SMap.set c.dtab e (f (SMap.get DEntry.none c.dtab e)) })

/-- Units of an image (R264): the code, the call-site table and the import table, each from a multiple of 32. -/
def imageUnits (code : List Half) (sites : List Nat) (imports : List (BitVec 256)) : Nat :=
  let up (n : Nat) : Nat := (n + 31) / 32 * 32
  (up (up (2 * code.length) + 4 * sites.length) + 32 * imports.length + 1023) / 1024

/-- The limits of R264. -/
def imageFits (code : List Half) (sites : List Nat) (imports : List (BitVec 256)) : Bool :=
  decide (1 ≤ code.length) && decide (code.length ≤ 65536) && decide (sites.length ≤ 4096) && decide (imports.length ≤ 256) &&
    decide (imageUnits code sites imports ≤ 128)

/-- CEND (R264). -/
def DEntry.cend (d : DEntry) : Nat := d.code.length - 1

/-- A lookup of a digest (R267): the entry that is Loading, Verified or Installed. -/
def Hw.lookup (h : Hw) (clu : Nat) (d : BitVec 256) : Option Nat :=
  SMap.first (h.cluster clu).dtab (fun e => e.digest == d && (e.st == .loading || e.st == .verified || e.st == .installed))

/-- The entry with the oldest STAMP among those that pass a test. -/
def Cluster.oldest (c : Cluster) (p : DEntry → Bool) : Option Nat :=
  ((c.dtab.filter (fun (e : Nat × DEntry) => p e.2)).foldl (fun (m : Option (Nat × DEntry)) e =>
    match m with
    | none => some e
    | some b => if e.2.stamp < b.2.stamp then some e else some b) none).map (fun e => e.1)

/-- An Installed entry to evict (R270 steps 4 and 5). -/
def Cluster.victim (c : Cluster) : Option Nat :=
  match c.oldest (fun d => d.st == .installed && d.run == 0 && d.live == 0) with
  | some e => some e
  | none => c.oldest (fun d => d.st == .installed && d.run == 0)

/-- The entry that a miss takes (R270). -/
def Cluster.choose (c : Cluster) (d : BitVec 256) : Option Nat :=
  match SMap.first c.dtab (fun e => e.st == .evicted && e.digest == d) with
  | some e => some e
  | none =>
    match (List.range c.elim).find? (fun e => (SMap.get DEntry.none c.dtab e).st == .absent) with
    | some e => some e
    | none =>
      match c.oldest (fun d => d.st == .evicted) with
      | some e => some e
      | none => c.victim

/-- An entry leaves the store: its units are freed (R269, R270). -/
def DEntry.evict (d : DEntry) : DEntry := { d with st := .evicted, units := 0, code := [], sites := [], imports := [], segs := [], templates := [] }

/-- Units of the code store in use (R265, R266). -/
def Cluster.unitsUsed (c : Cluster) : Nat :=
  c.dtab.foldl (fun n (e : Nat × DEntry) => if e.2.st = .installed ∨ e.2.st = .draining then n + e.2.units else n) 0

/-- A miss decided at cycle `m` takes an entry and asks the first source (R270, R271); `none` where no entry qualifies. An Evicted entry of
the same digest keeps LIVE and STAMP, any other is reset (R269). -/
def Hw.codeMiss (h : Hw) (clu core slot : Nat) (d : BitVec 256) (m : Nat) : Option Nat × Hw :=
  match (h.cluster clu).choose d with
  | none => (none, h)
  | some e =>
    let old := h.entry clu e
    let kept := if old.digest = d then old else DEntry.none
    let n := h.nextTxn
    let h1 := ({ h with nextTxn := n + 1 }).modEntry clu e (fun _ =>
      { DEntry.none with digest := d, st := .loading, live := kept.live, load := n, stamp := kept.stamp })
    (some e, h1.schedule (max h.now (m + 121)) .codeFetchReply (.nats [clu, e, n, 1, m, core, slot]))

/-- A requester waits for a digest after its lookup in cycle `m` (R267, R270, R273): on the entry that it found, or in the queue of misses
(number 64), where an entry is chosen at the end of that cycle. -/
def Hw.codeWait (h : Hw) (core slot : Nat) (d : BitVec 256) (m : Nat) : Nat × Hw :=
  let clu := clusterOf core
  match h.lookup clu d with
  | some e => (e, h)
  | none =>
    (64, (h.modCluster clu (fun c => { c with missq := c.missq ++ [⟨core, slot, (h.ctx core slot).uid, d, m⟩] })).schedule
      (max h.now (m + 1)) .codeMissRetry (.nats [clu]))

/-- The installed entry of a digest, with its STAMP set (R267). -/
def Hw.installed (h : Hw) (clu : Nat) (d : BitVec 256) : Option Nat :=
  match h.lookup clu d with
  | some e => if (h.entry clu e).st = .installed then some e else none
  | none => none

/-- RUN + 1 and STAMP of an entry (R267, R268). -/
def Hw.runInc (h : Hw) (clu e : Nat) : Hw := h.modEntry clu e (fun d => { d with run := d.run + 1, stamp := h.now })

/-- A hit sets STAMP (R267). -/
def Hw.touch (h : Hw) (clu e : Nat) : Hw := h.modEntry clu e (fun d => { d with stamp := h.now })

/-- Queued misses and images that wait for units are tried again at the end of the cycle (R270, R272). -/
def Hw.codeRetry (h : Hw) (clu : Nat) : Hw :=
  let c := h.cluster clu
  if c.missq ≠ [] ∨ c.dtab.any (fun (e : Nat × DEntry) => e.2.st == .verified) then h.after 1 .codeMissRetry (.nats [clu])
  else h

/-- RUN - 1 of an entry; a Draining entry whose RUN reaches 0 becomes Absent (R268, R269). -/
def Hw.runDec (h : Hw) (clu e : Nat) : Hw :=
  let d := h.entry clu e
  let n := d.run - 1
  if d.run = 0 then h
  else if n = 0 then
    (h.modEntry clu e (fun d => if d.st = .draining then DEntry.none else { d with run := 0 })).codeRetry clu
  else h.modEntry clu e (fun d => { d with run := n })

/-- LIVE - 1 of a digest's entry, where a lookup finds one (R268). -/
def Hw.liveDec (h : Hw) (clu : Nat) (d : BitVec 256) : Hw :=
  match h.lookup clu d with
  | some e => h.modEntry clu e (fun d => { d with live := d.live - 1 })
  | none => h

/-- The contexts of a cluster's cores, with their slots. -/
def Hw.clusterSlots (h : Hw) (clu : Nat) : List (Nat × Nat) :=
  (h.cores.filter (fun (e : Nat × Core) => clusterOf e.1 == clu)).flatMap (fun e => e.2.slots.map (fun x => (e.1, x.1)))

/-- Contexts that wait on an entry wake (R272). -/
def State.wakeCode (s : State) (clu e : Nat) : State :=
  (s.hw.clusterSlots clu).foldl (fun s p =>
    if (s.hw.ctx p.1 p.2).park = some (.code e) then s.wake p.1 p.2 else s) s

/-- Evicts until an image's units fit (R272), as far as that goes; the count of steps bounds the evictions. -/
def Hw.makeRoom (h : Hw) (clu units : Nat) : Nat → Hw
  | 0 => h
  | n + 1 =>
    if (h.cluster clu).unitsUsed + units ≤ 256 then h
    else
      match (h.cluster clu).victim with
      | none => h
      | some v => (h.modEntry clu v DEntry.evict).makeRoom clu units n

/-- A Verified image is written to the store, 8 cycles after its last byte or later, once its units fit; where they do not, entries are
evicted only after the lookups of the cycle (R271 to R273). -/
def State.install (s : State) (clu e : Nat) (room : Bool) : State :=
  let d := s.hw.entry clu e
  if d.st ≠ .verified ∨ s.hw.now < d.due then s
  else
    let h := if room then s.hw.makeRoom clu d.units 65 else s.hw
    if (h.cluster clu).unitsUsed + d.units ≤ 256 then
      ({ s with hw := h.modEntry clu e (fun d => { d with st := .installed, stamp := s.hw.now }) } : State).wakeCode clu e
    else { s with hw := if room then h else h.schedule h.now .codeMissRetry (.nats [clu]) }

/-- An image is on its way at 32 bytes a cycle (R271); `step` is its source. -/
def Hw.sendImage (h : Hw) (clu e : Nat) (img : DEntry) (step m core slot : Nat) : Hw :=
  (h.modEntry clu e (fun o => { o with
    xid := img.xid, isLocal := img.isLocal, code := img.code, sites := img.sites, imports := img.imports, segs := img.segs,
    templates := img.templates, poisoned := false })).after (32 * imageUnits img.code img.sites img.imports) .codeInstall
    (.nats [clu, e, (h.entry clu e).load, step, m, core, slot])

/-- The last byte of an image has come and it is accepted (R272): Verified, and written to the store 8 cycles later. -/
def Hw.acceptImage (h : Hw) (clu e : Nat) : Hw :=
  (h.modEntry clu e (fun o => { o with
    st := .verified, units := imageUnits o.code o.sites o.imports, due := h.now + 8 })).after 8 .codeInstall
    (.nats [clu, e, (h.entry clu e).load])

/-- The clusters of a tenant that hold a digest Installed and pass a test, lowest number first (R271). -/
def Hw.holders (h : Hw) (tenant : Option Nat) (d : BitVec 256) (p : Nat → Bool) : List DEntry :=
  (h.clusters.filter (fun (c : Nat × Cluster) => p c.1 && c.2.owner == tenant)).flatMap (fun c =>
    (c.2.dtab.filter (fun (e : Nat × DEntry) => e.2.digest == d && e.2.st == .installed)).map (fun e => e.2))

/-- A peer's image passes the checks of R272. -/
def DEntry.sound (d : DEntry) : Bool := xidOf d.code == d.xid.toNat && imageFits d.code d.sites d.imports

/-- The source after `step` is asked (R271): the other dies, with the reply at m + 400, then BRS, which answers in its own time (R290). -/
def Hw.nextSource (h : Hw) (clu e load step m core slot : Nat) : Hw :=
  if step = 1 then h.schedule (max h.now (m + 401)) .codeFetchReply (.nats [clu, e, load, 2, m, core, slot])
  else h.modMod (clu / 512) (fun k => { k with
    searches := k.searches ++ [⟨clu, e, load, (h.entry clu e).digest, ((h.cluster clu).owner).getD 0, core, slot, 1, [], none, []⟩] })

/-- The reply of a query (R271): the lowest cluster that holds the digest sends its image, or the next source is asked. Step 1 asks the
die, step 2 the module. -/
def State.fetchReply (s : State) (clu e load step m core slot : Nat) : State :=
  let d := s.hw.entry clu e
  if d.st ≠ .loading ∨ d.load ≠ load then s
  else
    let near (c : Nat) : Bool := c / 64 == clu / 64
    let there (c : Nat) : Bool := if step = 1 then near c && c != clu else c / 512 == clu / 512 && !near c
    s.onHw fun h =>
      match h.holders (h.cluster clu).owner d.digest there with
      | img :: _ => h.sendImage clu e img step m core slot
      | [] => h.nextSource clu e load step m core slot

/-- The last byte of an image has come (R272): one from a peer is checked, and where it fails, or has arrived poisoned, counts as not
held. -/
def State.imageCame (s : State) (clu e load step m core slot : Nat) : State :=
  let d := s.hw.entry clu e
  if d.st ≠ .loading ∨ d.load ≠ load then s
  else s.onHw fun h =>
    if 3 ≤ step || (d.sound && !d.poisoned) then h.acceptImage clu e else h.nextSource clu e load step m core slot

/-- No source holds a digest (R272): the entry is Absent, parked waiters fault, Spilled ones wake. -/
def State.noSource (s : State) (clu e load : Nat) : State :=
  let d := s.hw.entry clu e
  if d.st ≠ .loading ∨ d.load ≠ load then s
  else
    let s1 := s.onHw (fun h => h.modEntry clu e (fun _ => DEntry.none))
    ((s.hw.clusterSlots clu).foldl (fun s p =>
      let x := s.hw.ctx p.1 p.2
      if x.park ≠ some (.code e) then s
      else if x.st = .spilled then s.setWoke p.1 p.2
      else
        let f : FaultRec :=
          match x.parkCur with
          | some c => c.fault .reservedValue 19 (d.digest.toNat % 2 ^ 64)
          | none => { cause := .reservedValue, sub := 19, frb := d.digest.toNat % 2 ^ 64, ahi := 0, pc := x.pc, entry := x.entry,
                      page := 0, op := 0, widx := 0 }
        s.onHw (fun h => h.raise p.1 p.2 f)) s1).onHw (fun h => h.codeRetry clu)

/-- Queued misses are tried again in order, and images that wait for units (R270, R272). -/
def State.codeRetryAll (s : State) (clu : Nat) : State :=
  let s1 := (s.hw.cluster clu).dtab.foldl (fun s (e : Nat × DEntry) => s.install clu e.1 true) s
  ((s1.hw.cluster clu).missq.filter (fun q => decide (q.at_ < s.hw.now))).foldl (fun s q =>
    let x := s.hw.ctx q.core q.slot
    let drop (h : Hw) : Hw := h.modCluster clu (fun c => { c with missq := c.missq.erase q })
    if x.uid ≠ q.uid ∨ x.park ≠ some (.code 64) then s.onHw drop
    else
      match s.hw.lookup clu q.digest with
      | some e =>
        let s1 := s.onHw (fun h => (drop h).modCtx q.core q.slot (fun x => { x with park := some (.code e) }))
        if (s1.hw.entry clu e).st = .installed then s1.wake q.core q.slot else s1
      | none =>
        match s.hw.codeMiss clu q.core q.slot q.digest (s.hw.now - 1) with
        | (some e, h1) => { s with hw := (drop h1).modCtx q.core q.slot (fun x => { x with park := some (.code e) }) }
        | (none, _) => s) s1

/-- A queued miss is tried again (R270). -/
def execCodeMissRetry (s : State) : Res :=
  match s.hw.arg with
  | .nats [clu] => .next (s.codeRetryAll clu)
  | _ => .fault .noArgument

/-- The die or module query of the code-load unit is answered (R271). -/
def execCodeFetchReply (s : State) : Res :=
  match s.hw.arg with
  | .nats [clu, e, load, step, m, core, slot] => .next (s.fetchReply clu e load step m core slot)
  | _ => .fault .noArgument

/-- The last byte of an image comes, or a verified image is installed (R271, R272). -/
def execCodeInstall (s : State) : Res :=
  match s.hw.arg with
  | .nats [clu, e, load] => .next (if (s.hw.entry clu e).load = load then s.install clu e false else s)
  | .nats [clu, e, load, step, m, core, slot] => .next (s.imageCame clu e load step m core slot)
  | _ => .fault .noArgument

/-- BRS reports that no source holds a digest (R272, R294). -/
def execCodeNoSource (s : State) : Res :=
  match s.hw.arg with
  | .nats [clu, e, load] => .next (s.noSource clu e load)
  | _ => .fault .noArgument

/-! ### Frames (R274, R275) -/

/-- The memory key of frame `i` of a context's link stack (R274). -/
def Ctx.frameKey (x : Ctx) (core i : Nat) : Nat := scratchKey core (x.linksp.toNat / 2048 * 2048 + 64 * i)

/-- Depth of the link stack (R274). -/
def Ctx.depth (x : Ctx) : Nat := bits x.linksp.toNat 10 6

/-- `QUIT` or discard with frames live: each frame's digest is looked up, top first, and its LIVE released (R268). -/
def State.dropFrames (s : State) (core slot : Nat) : State :=
  let x := s.hw.ctx core slot
  ((List.range x.depth).reverse).foldl (fun s i =>
    s.onHw (fun h => h.liveDec (clusterOf core) (BitVec.ofNat 256 (s.mem.val (x.frameKey core i) 32)))) s

end Sys2Proof.Machine
end

