-- ==== Sys2Proof/Machine/Create.lean ====
section
/-! DEFINITION. The making of a context (04_context R73, R74, R76; 11_queue R224, R228): its slot, its window, its grant set
(20_tags R416, R417), and the moment at which it begins to run. -/

namespace Sys2Proof.Machine

/-! ### Slots and windows -/

/-- The spill engine restores a slot. -/
def Core.restoring (k : Core) (slot : Nat) : Bool :=
  match k.engine with | some o => o.restore && o.slot == slot | none => false

/-- A slot holds its window (R83): until it is Free (R86, R97), and while it is not Spilled, or its restore has begun (R249, R252). -/
def Core.holds (k : Core) (now slot : Nat) (x : Ctx) : Bool :=
  if x.st = .free then decide (now < x.freeAt) else !(x.st == .spilled && x.imaged) || k.restoring slot

/-- A run of register-file entries is free (R74), but for the windows of some slots. -/
def Core.runFree (k : Core) (now base size : Nat) (but : List Nat) : Bool :=
  decide (base + size ≤ 2048) &&
    k.slots.all (fun (e : Nat × Ctx) => !k.holds now e.1 e.2 || but.contains e.1 || decide (e.2.wbase + e.2.wsize ≤ base) ||
      decide (base + size ≤ e.2.wbase))

/-- The lowest base that fits (R228, R252). -/
def Core.findWindow (k : Core) (now size : Nat) : Option Nat :=
  ((List.range 256).map (fun i => 8 * i)).find? (fun b => k.runFree now b size [])

/-- Slots that the core uses (R73). -/
def Core.slotLimit (k : Core) : Nat := if k.wheel then 16 else 64

/-- The lowest Free slot (R83, R97, R228). -/
def Core.findSlot (k : Core) (now : Nat) : Option Nat :=
  (List.range k.slotLimit).find? (fun i => (k.ctx i).st == .free && decide ((k.ctx i).freeAt ≤ now))

/-- Clears a window: every register 0 with its full bit set (R76). -/
def Core.clearWindow (k : Core) (base size : Nat) : Core :=
  let out (e : Nat) : Bool := e < base || base + size ≤ e
  { k with rf := k.rf.filter (fun e => out e.1), empty := k.empty.filter (fun e => out e.1) }

/-- The context of a slot as it is created (R76, R77, R274, R457), Starting. -/
def Core.fresh (k : Core) (uid slot base size : Nat) : Ctx :=
  ({ Ctx.free with
    st := .starting, uid := uid, wbase := base, wsize := size, linksp := BitVec.ofNat 20 (0x6E000 + 0x800 * slot),
    ckptb := BitVec.ofNat 20 (0x5C000 + 0x480 * slot) }.setTs tsWHEEL k.wheel).setTs tsSVC k.svc

/-- Places a context in a slot and window, with its arguments in `g1` to `g4` (R76). -/
def Core.place (k : Core) (slot : Nat) (x : Ctx) (args : List Word) : Core :=
  let k1 := (k.clearWindow x.wbase x.wsize).setCtx slot x
  ((List.range 4).zip args).foldl (fun k p => k.putG x (p.1 + 1) p.2) k1

/-! ### Grant sets (R416, R417) -/

/-- A grant set of a core. -/
def Core.grantSet (k : Core) (i : Nat) : GrantSet := SMap.get ⟨0, 0, 0, 0⟩ k.grants i

/-- Replaces a grant set. -/
def Hw.setGrant (h : Hw) (core i : Nat) (g : GrantSet) : Hw := h.modCore core (fun k => { k with grants := SMap.set k.grants i g })

/-- A directory entry is malformed (R417). -/
def dirMalformed (q0 q1 : Nat) : Bool := bits q0 62 44 != 0 || bits q1 63 49 != 0 || bits q1 5 0 != 0

/-- The probes of a directory for a principal (R417): how many, and the grant block found. -/
def dirProbe (m : Mem) (root p : Nat) : Nat → Nat → Nat × Option Nat
  | 0, n => (n, none)
  | fuel + 1, n =>
    let k := dramKeyOf (root + 16 * ((p % 4096 + n) % 4096))
    let q0 := m.val k 8
    let q1 := m.val (k + 8) 8
    if !bitAt q0 63 then (n + 1, none)
    else if bits q0 31 0 = p then (n + 1, if dirMalformed q0 q1 then none else some (bits q1 48 6 * 64))
    else dirProbe m root p fuel (n + 1)

/-- A load of a grant set begins (R416, R417). -/
def State.grantLoad (s : State) (core i p : Nat) : State :=
  let tenant := (s.hw.tenantOf core).getD 0
  match SMap.find? (s.hw.die (dieOf core)).droots tenant with
  | none =>
    s.onHw fun h => (h.setGrant core i ⟨1, p, 1, 0⟩).schedule h.now .grantSetLoadComplete (.nats [core, i])
  | some root =>
    let r := dirProbe s.mem root p 8 0
    let lat := s.hw.dramLatency core (root / 2 ^ 28)
    let bits : BitVec 4096 := match r.2 with | some b => BitVec.ofNat 4096 (s.mem.val (dramKeyOf b) 512) | none => 0
    let time := r.1 * lat + (match r.2 with | some b => s.hw.dramLatency core (b / 2 ^ 28) + 15 | none => 0)
    s.onHw fun h => (h.setGrant core i ⟨1, p, 1, bits⟩).after time .grantSetLoadComplete (.nats [core, i])

/-- A need of a principal for a set (R416): met at once, waiting for a load, or refused. -/
inductive Need3 where
  | met | waits | refused
deriving DecidableEq, Repr

/-- What a need would meet. -/
def Hw.grantNeed (h : Hw) (core i p : Nat) : Need3 :=
  let g := (h.core core).grantSet i
  if g.state = 0 then .waits
  else if g.owner ≠ p then .refused
  else if g.state = 2 then .met
  else .waits

/-- A need that is not refused counts its user, and starts a load of an Empty set. -/
def State.grantTake (s : State) (core i p : Nat) : State :=
  let g := (s.hw.core core).grantSet i
  if g.state = 0 then s.grantLoad core i p else s.onHw (fun h => h.setGrant core i { g with users := g.users + 1 })

/-- A context gives its use back as it becomes Free (R416). -/
def Hw.grantGive (h : Hw) (core i : Nat) : Hw :=
  let g := (h.core core).grantSet i
  if g.users ≤ 1 then h.setGrant core i ⟨0, 0, 0, 0⟩ else h.setGrant core i { g with users := g.users - 1 }

/-- A load of a grant set completes (R416): contexts that start with it go on. -/
def execGrantSetLoadComplete (s : State) : Res :=
  match s.hw.arg with
  | .nats [core, i] =>
    .next (s.onHw fun h =>
      let g := (h.core core).grantSet i
      if g.state ≠ 1 then h
      else
        let h1 := h.setGrant core i { g with state := 2 }
        (h.core core).slots.foldl (fun h (e : Nat × Ctx) =>
          if e.2.st = .starting ∧ e.2.gset.toNat = i ∧ e.2.notBefore ≤ h.now then
            h.schedule h.now .taskReady (.nats [core, e.1, e.2.uid])
          else h) h1)
  | _ => .fault .noArgument

/-! ### Beginning to run -/

/-- The output segment of a paired half (R237). -/
def pairedSeg (r : BitVec 1024) (half : Nat) : Seg :=
  Seg.ofWords (if half = 0 then recQuad r 12 else recQuad r 14) (recQuad r 13)

/-- A context begins to run at offset 0 of an entry (R224, R237, R275). -/
def Hw.enterEntry (h : Hw) (core slot e : Nat) : Hw :=
  let x := h.ctx core slot
  let sg := if x.sg = [] then ((List.range 8).zip (h.entry (clusterOf core) e).segs).foldl (fun m p => SMap.set m p.1 p.2) [] else x.sg
  h.setCtx core slot
    { x with
      begun := true, entry := e, pc := 0,
      sg := if x.tsBit tsPAIRED then SMap.set sg 7 (pairedSeg x.task.trec x.task.half) else sg }

/-- The lookup with which a context begins (R224, R267, R268): it runs at offset 0 of the entry, or parks with reason code. -/
def State.begin_ (s : State) (core slot : Nat) : State :=
  let x := s.hw.ctx core slot
  let clu := clusterOf core
  match s.hw.installed clu x.kernel with
  | some e => s.onHw fun h => (h.runInc clu e).enterEntry core slot e
  | none =>
    let r := s.hw.codeWait core slot x.kernel s.hw.now
    { s with hw := r.2.setCtx core slot ({ x with st := .parked, park := some (.code r.1), parkCur := none, pc := 0 }.settle) }

/-- A chosen task is Ready 8 cycles after the choice (R96, R228), or when its grant set has been loaded (R416). -/
def execTaskReady (s : State) : Res :=
  match s.hw.arg with
  | .nats [core, slot, uid] =>
    .next <|
      let x := s.hw.ctx core slot
      if x.st ≠ .starting ∨ x.uid ≠ uid ∨ s.hw.now < x.notBefore then s
      else if ((s.hw.core core).grantSet x.gset.toNat).state ≠ 2 then s
      else (s.onHw (fun h => h.setCtx core slot ({ x with st := .ready }.settle))).begin_ core slot
  | _ => .fault .noArgument

end Sys2Proof.Machine
end

