-- ==== Sys2Proof/Machine/Context.lean ====
section
/-! DEFINITION. The context instructions (04_context): status registers, register messages, TAKE and CLRF, TRAP, BRK,
YIELD, SPAWN, and the steps by which messages arrive and are answered. -/

namespace Sys2Proof.Machine

/-! ### Status registers (R77, R78) -/

/-- A chain names a status register that is not assigned (R77). -/
def State.noStatus (s : State) (c : Cur) (n : Nat) : State := s.faultWith c .undefinedInstruction 0 n

/-- SRR (R78). -/
def execSrr (sw : Bool) (a : GReg) (n : BitVec 7) (s : State) : Res :=
  s.withCur fun c =>
    match s.hw.status c.core c.slot n.toNat with
    | none => s.noStatus c n.toNat
    | some v => s.onHw fun h => (h.setG c.core c.slot a.toNat v 2).retire c sw 1

/-- SRW (R78): the checks at issue, the write for chains that issue at cycle 2 or later. -/
def execSrw (sw : Bool) (n : BitVec 7) (b : GReg) (s : State) : Res :=
  s.withCur fun c =>
    let i := n.toNat
    let svc := (s.hw.curCtx c).service
    match s.hw.status c.core c.slot i with
    | none => s.noStatus c i
    | some _ =>
      if !svc && !taskWritable i then s.faultWith c .privileged 0 i
      else s.reads c (regs [b]) <|
        let v := s.hw.cg c b
        if v &&& mbzMask i ≠ 0 ∨ s.hw.badStatus c.core svc i v then s.faultWith c .reservedValue 0 i
        else s.onHw fun h =>
          (h.modCur c (fun x => { x with late := x.late ++ [⟨h.now + 2, .status i v⟩] })).retire c sw 1

/-! ### Register messages (R87 to R95) -/

/-- The MBZ bits of a target word (R87). -/
def badTarget (w : Nat) : Bool := bits w 63 37 != 0 || bits w 15 14 != 0 || bitAt w 7

/-- A result that a chain's context is owed (R88). -/
def Hw.owe (h : Hw) (c : Cur) (txn reg target : Nat) (k : Cls) : Hw :=
  ((h.awaitG c.core c.slot reg txn).modCur c (fun x =>
    { x with region := x.region.map (fun r => if target = c.core then { r with own := r.own ++ [txn] } else { r with ops := r.ops ++ [txn] }) })).modCore c.core
    (fun core => { core with owed := core.owed ++ [⟨txn, (h.curCtx c).uid, c.slot, reg, k, target, c, none⟩] })

/-- SEND (R87, R88). -/
def execSend (sw : Bool) (a c b : GReg) (s : State) : Res :=
  s.withCur fun cu => s.reads cu (regs [c, b]) <|
    let x := s.hw.curCtx cu
    let w := (s.hw.cg cu c).toNat
    let target := bits w 36 16
    if badTarget w then s.faultWith cu .reservedValue 0 0
    else if x.booked ∧ target ≠ cu.core then s.faultWith cu .calendarViolation (s.hw.awaySub cu true target) 0
    else if x.fenced .w then s.onHw (fun h => h.parkChain cu .fence)
    else s.onHw fun h =>
      let txn := h.nextTxn
      let m : Msg :=
        { txn := txn, core := target, slot := bits w 13 8, reg := bits w 6 0, val := h.cg cu b,
          tenant := (h.tenantOf cu.core).getD 0, sender := cu.core, senderSlot := cu.slot, svc := x.service, mc := false,
          handle := false }
      (((({ h with nextTxn := txn + 1 }).owe cu txn a.toNat target .w)).transmit m).retire cu sw 1

/-- Entries that the overflow deque can still take (R91). -/
def Core.ovfFree (k : Core) : Nat := (k.ovfl - k.ovfb) / 16 - k.ovf.length

/-- Held(s, n) of R89. -/
def Core.heldFor (k : Core) (slot n : Nat) : Bool := k.ovf.any (fun e => e.slot == slot && e.reg == n)

/-- The bytes of an entry in the scratchpad (R91). -/
def OvfEntry.bytes (e : OvfEntry) : List Byte :=
  bytesLE 8 e.val.toNat ++ bytesLE 1 e.reg ++ bytesLE 1 e.slot ++ bytesLE 3 (e.sender % 2 ^ 21) ++ bytesLE 3 0

/-- An entry's bytes are written at its place. -/
def State.ovfWrite (s : State) (core : Nat) (e : OvfEntry) : State :=
  s.writeKeep (scratchKey core ((s.hw.core core).ovfb + 16 * e.pos)) e.bytes

/-- Makes room behind the youngest entry: the entries move down over the places of those delivered, still in arrival order (R91). -/
def State.ovfPack (s : State) (core : Nat) : State :=
  let k := s.hw.core core
  let last := match k.ovf.getLast? with | some e => e.pos + 1 | none => 0
  if last < (k.ovfl - k.ovfb) / 16 then s
  else
    let es := (List.range k.ovf.length).zip k.ovf |>.map (fun p => { p.2 with pos := p.1 })
    es.foldl (fun s e => s.ovfWrite core e) (s.onHw (fun h => h.modCore core (fun k => { k with ovf := es })))

/-- An arrival is held in the overflow deque, behind the youngest entry, with its bytes in the scratchpad (R91). -/
def State.holdArrival (s : State) (m : Msg) : State :=
  let s0 := s.ovfPack m.core
  let e : OvfEntry :=
    ⟨match (s0.hw.core m.core).ovf.getLast? with | some e => e.pos + 1 | none => 0, m.val, m.reg, m.slot, m.sender⟩
  let s1 := s0.onHw (fun h => h.modCore m.core (fun k => { k with ovf := k.ovf ++ [e] }))
  let s2 := (s1.ovfWrite m.core e).flagTs m.core m.slot tsOVFD
  let x := s.hw.ctx m.core m.slot
  if x.st = .spilled ∧ x.park = some (.fullBit m.reg) then s2.setWoke m.core m.slot else s2

/-- A value is delivered to an empty register (R89, R90). -/
def Hw.deliverMsg (h : Hw) (core slot n : Nat) (v : Word) (coll : Bool) : Hw :=
  (h.modSlot core slot (fun k x =>
    (k.land slot n v).setCtx slot (if coll then x.setTs tsCOLL true else x))).fullWake core slot n

/-- An arrival is applied at its target (R35, R89, R90): its status, with the cause of a failure. -/
def State.arrive (s : State) (m : Msg) : (Nat × Nat) × State :=
  let k := s.hw.core m.core
  let x := k.ctx m.slot
  if !m.svc && m.core != m.sender && s.hw.tenantOf m.core != some m.tenant then ((3, 4), s)
  else if s.hw.coreDisabled m.core ∨ x.st = .free ∨ x.st = .starting ∨ x.st = .faulted ∨ x.st = .leaving true ∨ m.reg = 0 ∨ x.wsize ≤ m.reg then ((3, 3), s)
  else
    let held := k.heldFor m.slot m.reg
    let coll := x.just.contains m.reg
    if x.st ≠ .spilled ∧ !held ∧ !x.pending m.reg ∧ (coll ∨ !k.fullBit x m.reg) then
      ((0, 0), s.onHw (fun h => h.deliverMsg m.core m.slot m.reg m.val coll))
    else if 0 < k.ovfFree then ((1, 0), s.holdArrival m)
    else ((2, 3), s)

/-- The arrival of a `SEND` is applied at the end of a cycle (R88, R89); its status is on its way. While the target's image is taken
it is held (R262). -/
def execSendArrival (s : State) : Res :=
  match s.hw.arg with
  | .msg m due =>
    .next <|
      if (s.hw.core m.core).imaging then s.onHw (fun h => h.holdIn m.core .sendArrival s.hw.arg) else
      let r := s.arrive m
      r.2.onHw fun h => h.schedule (max due h.now) .sendStatus (.nats [m.sender, m.txn, r.1.1, r.1.2, m.core])
  | _ => .fault .noArgument

/-- A return that the part makes for itself is an access of the context (R440). -/
def State.sendReturn (s : State) (o : Owed) (a : Acc) : State :=
  let txn := s.hw.nextTxn
  s.onHw fun h => ({ h with nextTxn := txn + 1 } : Hw).modCore a.core (fun k => { k with
    out := k.out ++ [⟨{ a with txn := txn, sent := h.now }, o.uid, .w, o.chain, [], false, false, [], false, [], []⟩] })

/-- An owed result comes (R88, R144): it is written, and what waited for the operation sees it done; the sent half of a refused
`HSEND` is returned (R440). -/
def State.payOwed (s : State) (core txn : Nat) (v : Word) : State :=
  match (s.hw.core core).owed.find? (fun o => o.txn == txn) with
  | none => s
  | some o =>
    let s1 := s.onHw (fun h => h.modCore core (fun k => { k with owed := k.owed.filter (fun e => e.txn != txn) }))
    let s1 := match o.hand with | some (_, a) => if 2 ≤ v.toNat then s1.sendReturn o a else s1 | none => s1
    let s2 := if s1.hw.alive core o.slot o.uid then s1.deliver core o.slot o.reg txn v else s1
    (s2.onHw (fun h => h.opDone core o.slot o.uid txn)).pump core

/-- An owed operation has failed (R190, R456): it marks its region, and a pending fence that waits for it. -/
def Hw.owedFails (h : Hw) (core txn cause target : Nat) : Hw :=
  match (h.core core).owed.find? (fun o => o.txn == txn) with
  | none => h
  | some o =>
    if h.alive core o.slot o.uid then
      h.modCtx core o.slot (fun x =>
        let x1 := if x.fenceOp txn && moduleOf target != moduleOf core && decide (cause ≤ 2) then x.failFence txn (moduleOf target) else x
        if x.regionOp txn || x.regionOwn txn then x1.failRegion txn cause target else x1)
    else h

/-- The status of a `SEND` reaches its sender (R88). -/
def execSendStatus (s : State) : Res :=
  match s.hw.arg with
  | .nats [core, txn, status, cause, target] =>
    .next ((s.onHw (fun h => if 2 ≤ status then h.owedFails core txn cause target else h)).payOwed core txn (BitVec.ofNat 64 status))
  | _ => .fault .noArgument

/-- A register that has held entries is emptied: the oldest is delivered at the end of cycle 2 (R92). -/
def Hw.emptied (h : Hw) (core slot n : Nat) : Hw :=
  if (h.core core).heldFor slot n then h.after 3 .overflowDelivery (.nats [core, slot, (h.ctx core slot).uid, n]) else h

/-- The oldest held entry of a register is delivered, if the register can take it (R90, R92). -/
def Hw.deliverHeld (h : Hw) (core slot n : Nat) : Hw :=
  let k := h.core core
  let x := k.ctx slot
  match k.ovf.find? (fun e => e.slot == slot && e.reg == n) with
  | none => h
  | some e =>
    let coll := x.just.contains n
    if !x.pending n ∧ (coll ∨ !k.fullBit x n) then
      (h.modCore core (fun k => { k with ovf := k.ovf.erase e })).deliverMsg core slot n e.val coll
    else h

/-- A held arrival is delivered (R92). -/
def execOverflowDelivery (s : State) : Res :=
  match s.hw.arg with
  | .nats [core, slot, uid, n] =>
    .next (s.onHw fun h => if h.alive core slot uid ∧ (h.ctx core slot).st ≠ .spilled then h.deliverHeld core slot n else h)
  | _ => .fault .noArgument

/-- TAKE (R95). -/
def execTake (sw : Bool) (a b : GReg) (s : State) : Res :=
  s.withCur fun c => s.reads c (regs [b]) <| s.onHw fun h =>
    let v := h.cg c b
    let h1 := (h.modSlot c.core c.slot (fun k x => k.putFull x b.toNat false)).emptied c.core c.slot b.toNat
    (if a = b then h1 else h1.setG c.core c.slot a.toNat v 2).retire c sw 1

/-- CLRF (R95). -/
def execClrf (sw : Bool) (a : GReg) (s : State) : Res :=
  s.withCur fun c =>
    if (s.hw.curCtx c).pending a.toNat then s.faultWith c .reservedValue 0 0
    else s.onHw fun h =>
      (((h.modSlot c.core c.slot (fun k x => k.putFull x a.toNat false)).emptied c.core c.slot a.toNat)).retire c sw 1

/-! ### SPAWN (R96) -/

/-- The words of a segment register (R136). -/
def Seg.words (g : Seg) : List Word := [BitVec.ofNat 64 (g.base % 2 ^ 64), BitVec.ofNat 64 g.word1]

/-- The digest in four words. -/
def digestWords (d : BitVec 256) : List Word := (List.range 4).map (fun i => BitVec.ofNat 64 (d.toNat / 2 ^ (64 * i)))

/-- The digest of four words (R221). -/
def digestOf (ws : List Word) : BitVec 256 := BitVec.ofNat 256 (ws.foldr (fun w n => w.toNat + 2 ^ 64 * n) 0)

/-- SPAWN (R96). -/
def execSpawn (sw : Bool) (a c b : GReg) (s : State) : Res :=
  s.withCur fun cu => s.reads cu [c.toNat] <|
    let x := s.hw.curCtx cu
    let w := (s.hw.cg cu c).toNat
    let imp := bits w 15 8
    let imports := (s.hw.entry (clusterOf cu.core) x.entry).imports
    if x.booked then s.faultWith cu .calendarViolation 4 0
    else if bits w 63 37 ≠ 0 ∨ bits w 3 0 ≠ 0 then s.faultWith cu .reservedValue 0 0
    else if imports.length ≤ imp then s.faultWith cu .reservedValue 0 imp
    else s.window cu (b.toNat + 3) <| s.reads cu (regRun b.toNat 4) <| s.onHw fun h =>
      let txn := h.nextTxn
      let target := bits w 36 16
      let lat := h.scratchLatency cu.core target
      let h1 := ({ h with nextTxn := txn + 1 }).owe cu txn a.toNat target .plain
      let ws := (regRun b.toNat 4).map (h.cgn cu) ++ ((List.range 8).flatMap (fun i => (x.seg i).words)) ++
        [BitVec.ofNat 64 x.otag.toNat, BitVec.ofNat 64 x.gset.toNat, BitVec.ofNat 64 x.prin.toNat, BitVec.ofNat 64 x.prio.toNat,
          BitVec.ofNat 64 x.steald.toNat, BitVec.ofNat 64 x.decl] ++ digestWords (imports.getD imp 0)
      let m : Msg :=
        { txn := txn, core := target, slot := 0, reg := a.toNat, val := 0, tenant := (h.tenantOf cu.core).getD 0, sender := cu.core,
          senderSlot := cu.slot, svc := x.service, mc := false, handle := false }
      let h2 :=
        match h1.routeFails cu.core m.tenant true target lat with
        | some (cause, d) => h1.after d (if cause = 1 then .fabricTimeout else .remoteFailureReport) (.msg m cause)
        | none => h1.after (lat / 2 + 1) .spawnArrival
            (.words [cu.core, txn, target, bits w 7 4, m.tenant, bit x.service, h.now + lat] ws)
      h2.retire cu sw 1

/-- The request of a `SPAWN` reaches its target (R96): a slot, a window and the grant set, and the status. -/
def execSpawnArrival (s : State) : Res :=
  match s.hw.arg with
  | .words [sender, txn, core, wsz, tenant, svc, due] ws =>
    .next <|
      if (s.hw.core core).imaging then
        s.onHw (fun h => h.holdIn core .spawnArrival s.hw.arg) else
      let k := s.hw.core core
      let answer (s : State) (st cause : Nat) : State :=
        s.onHw fun h => h.schedule (max due h.now) .sendStatus (.nats [sender, txn, st, cause, core])
      if svc = 0 ∧ core ≠ sender ∧ s.hw.tenantOf core ≠ some tenant then answer s 3 4
      else if s.hw.coreDisabled core then answer s 3 3
      else
        let size := (wsz + 1) * 8
        let gset := (ws.getD 21 0).toNat
        let prin := (ws.getD 22 0).toNat
        match k.findSlot s.hw.now, k.findWindow s.hw.now size with
        | some slot, some base =>
          if s.hw.grantNeed core gset prin = .refused then answer s 2 3
          else
            let s1 := s.grantTake core gset prin
            let uid := s1.hw.nextTxn
            let x : Ctx :=
              { k.fresh uid slot base size with
                otag := BitVec.ofNat 12 (ws.getD 20 0).toNat, gset := BitVec.ofNat 3 gset, prin := BitVec.ofNat 32 prin,
                prio := BitVec.ofNat 2 (ws.getD 23 0).toNat, steald := BitVec.ofNat 2 (ws.getD 24 0).toNat,
                role := BitVec.ofNat 64 ((ws.getD 25 0).toNat * 5), kernel := digestOf ((ws.drop 26).take 4),
                notBefore := s.hw.now - 1 + 8,
                sg := (List.range 8).map (fun i => (i, Seg.ofWords (ws.getD (4 + 2 * i) 0).toNat (ws.getD (5 + 2 * i) 0).toNat)) }
            answer (s1.onHw fun h =>
              (({ h with nextTxn := uid + 1 }).modCore core (fun k => k.place slot x (ws.take 4))).schedule (s.hw.now - 1 + 8) .taskReady
                (.nats [core, slot, uid])) 0 0
        | _, _ => answer s 2 3
  | _ => .fault .noArgument

/-! ### TRAP, BRK, YIELD -/

/-- TRAP (R99): the request waits for BRS, and the context goes on. -/
def execTrap (sw : Bool) (a : GReg) (n : BitVec 13) (s : State) : Res :=
  s.withCur fun c =>
    let x := s.hw.curCtx c
    if x.booked then s.faultWith c .calendarViolation 4 0
    else s.reads c (regs [a]) <| s.onHw fun h =>
      let txn := h.nextTxn
      let q : TrapReq := ⟨c.core, txn, n.toNat, h.cg c a, x.prin.toNat, x.flags⟩
      let h1 := ({ h with nextTxn := txn + 1 }).modSlot c.core c.slot (fun k x =>
        let x1 : Ctx := if a = 0 then x else { x with pend := x.pend ++ [Pend.trap a.toNat txn] }
        let k1 : Core := (k.putFull x a.toNat false).setCtx c.slot x1
        { k1 with owed := k1.owed ++ [(⟨txn, x.uid, c.slot, a.toNat, .plain, c.core, c, none⟩ : Owed)] })
      (h1.modMod (moduleOf c.core) (fun m => { m with traps := m.traps ++ [q] })).retire c sw 1

/-- Enabled cores of a die (R20). -/
def Hw.enabledCount (h : Hw) (module die : Nat) : Nat :=
  1024 - ((h.mod module).disabled.filter (fun c => c / 1024 == die)).length

/-- Clusters that a tenant holds in a module. -/
def Hw.clusterCount (h : Hw) (module : Nat) (t : Option Nat) : Nat :=
  (h.clusters.filter (fun (c : Nat × Cluster) => c.1 / 512 == module && c.2.owner == t && t.isSome)).length

/-- The reply of a service (R474). -/
def Hw.trapValue (h : Hw) (q : TrapReq) : Word :=
  match q.n with
  | 0 => q.arg
  | 1 => if 7 < q.arg.toNat then BitVec.allOnes 64 else BitVec.ofNat 64 (h.enabledCount (moduleOf q.core) q.arg.toNat)
  | 2 => BitVec.ofNat 64 (h.clusterCount (moduleOf q.core) (h.tenantOf q.core))
  | 3 => 0
  | _ => BitVec.allOnes 64

/-- BRS answers a service call (R99, R474). -/
def execTrapReply (s : State) : Res :=
  match s.hw.arg with
  | .nats [core, txn] =>
    .next <|
      match (s.hw.mod (moduleOf core)).traps.find? (fun q => q.core == core && q.txn == txn) with
      | none => s
      | some q =>
        let slot := (((s.hw.core core).owed.find? (fun o => o.txn == txn)).map (fun o => o.slot)).getD 0
        let s1 := s.onHw fun h =>
          let h1 := h.modMod (moduleOf core) (fun m => { m with traps := m.traps.erase q })
          if q.n = 3 then h1.post core (eventRecord (h.count core) core slot 0 q.flags 9 q.arg.toNat q.prin) else h1
        s1.payOwed core txn (s1.hw.trapValue q)
  | _ => .fault .noArgument

/-- BRK (R100). -/
def execBrk (_sw : Bool) (n : BitVec 4) (s : State) : Res := s.withCur fun c => s.faultWith c .breakpoint n.toNat 0

/-- YIELD (R98): not eligible until every other Ready context of equal or higher priority has issued, or for 64 cycles. -/
def execYield (sw : Bool) (s : State) : Res :=
  s.withCur fun c =>
    let x := s.hw.curCtx c
    if x.booked then s.faultWith c .calendarViolation 4 0
    else s.onHw fun h =>
      let k := h.core c.core
      let others := (k.slots.filter (fun (e : Nat × Ctx) => e.1 != c.slot && e.2.st == .ready && decide (e.2.eff ≤ x.eff))).map (fun e => e.1)
      if k.wheel ∨ others = [] then h.retire c sw 1
      else
        let t := h.nextTxn
        ((({ h with nextTxn := t + 1 }).retire c sw 1).modCur c (fun y => { y with yieldWait := some (t, others) })).after 64
          .yieldExpiry (.nats [c.core, c.slot, t])

/-- 64 cycles after a `YIELD` (R98). -/
def execYieldExpiry (s : State) : Res :=
  match s.hw.arg with
  | .nats [core, slot, t] =>
    .next (s.onHw fun h => h.modCtx core slot (fun x =>
      match x.yieldWait with
      | some (u, _) => if u = t then { x with yieldWait := none } else x
      | none => x))
  | _ => .fault .noArgument

/-! ### Ageing and the mode of a core (R213, R217) -/

/-- A context whose wait count has reached AGE is promoted, where it has not left Ready or issued since (R213). -/
def execAgeingPromotion (s : State) : Res :=
  match s.hw.arg with
  | .nats [core, slot] =>
    .next (s.onHw fun h =>
      let k := h.core core
      let x := k.ctx slot
      if x.st = .ready ∧ !x.booked ∧ !k.wheel ∧ 0 < x.w then h.setCtx core slot (x.setEff 1) else h)
  | _ => .fault .noArgument

/-- BRS sets a core's mode while all of its slots are Free (R217), from the next count that is a multiple of 16; 1 is the
wheel. -/
def execCoreModeSet (s : State) : Res :=
  let free (core : Nat) : Bool := (s.hw.core core).slots.all (fun (e : Nat × Ctx) => e.2.st == .free)
  match s.hw.arg with
  | .nats [core, mode] =>
    .next (if free core then s.onHw (fun h => h.schedule (h.now + 16 - h.count core % 16) .coreModeSet (.nats [core, mode, 1])) else s)
  | .nats [core, mode, _] => .next (s.onHw (fun h => h.modCore core (fun k => { k with wheel := mode == 1 })))
  | _ => .fault .noArgument

/-! ### Forms that some contexts may not use -/

/-- A page-4 form in a booked context (R232). -/
def State.unbooked (s : State) (c : Cur) (k : State) : State :=
  if (s.hw.curCtx c).booked then s.faultWith c .calendarViolation 4 0 else k

/-- FORK, ENQ, STEAL and DEPNEW in a half of a paired task (R232). -/
def State.unpaired (s : State) (c : Cur) (k : State) : State :=
  if (s.hw.curCtx c).tsBit tsPAIRED then s.faultWith c .reservedValue 13 0 else k

end Sys2Proof.Machine
end

