-- ==== Sys2Proof/Machine/Kernel.lean ====
section
/-! DEFINITION. Calls and the invalidation of code (13_kernel R274 to R280): CALLD, the way of RET through a frame, CODEINV. -/

namespace Sys2Proof.Machine

/-- A chain that issues only when no result of its context is outstanding (R276): it waits as after a switch marker, and sets no
TS.HAZ. -/
def State.whenSettled (s : State) (c : Cur) (k : State) : State :=
  if (s.hw.core c.core).settled s.hw.now c.slot then k
  else s.onHw (fun h => { h.modCur c (fun x => { x with swWait := true }) with cur := none })

/-- The bytes of a frame (R275). -/
def DEntry.frame (d : DEntry) (site : Nat) : List Byte :=
  bytesLE 32 d.digest.toNat ++ bytesLE 8 d.xid.toNat ++ bytesLE 8 (site % 4096 * 2 ^ 52 + bit d.isLocal * 2 ^ 33 + 2 ^ 32) ++ bytesLE 16 0

/-- RUN moves from one entry to another (R268). -/
def Hw.runMove (h : Hw) (clu old new : Nat) : Hw := (h.runInc clu new).runDec clu old

/-- A form begins its access to a frame of its context's link stack: a plain access, with no segment check (R274). -/
def State.frameAccess (s : State) (c : Cur) (sw : Bool) (op : AccOp) (i : Nat) : Acc × State :=
  let a : Acc := { s.hw.mkAcc c op false false ((s.hw.curCtx c).frameKey c.core i) 64 0 0 with pieces := [] }
  let o : Outst := ⟨a, (s.hw.curCtx c).uid, .plain, c, [], false, false, [], false, [], []⟩
  (a, s.onHw fun h =>
    (({ h with nextTxn := h.nextTxn + 1 } : Hw).parkMemory c sw).modCore c.core (fun k => { k with out := k.out ++ [o] }))

/-- Cycles by which background work holds back the two sectors of an own frame (R160, R161). -/
def Hw.frameHold (h : Hw) (c : Cur) (key : Nat) : Nat :=
  ((pieceTimes true (fun _ _ => h.now + 1) (fun p t => h.bankHold (h.curCtx c).booked p.key t) none (piecesOf key 64)).map Prod.snd).foldl
    max 0 - (h.now + 2)

/-- The access of a chain to a frame is over. -/
def State.frameOver (s : State) (o : Outst) : State :=
  s.onHw fun h =>
    (h.modCore o.acc.core (fun k => { k with out := k.out.filter (fun e => e.acc.txn != o.acc.txn) })).opDone o.acc.core o.acc.slot o.uid
      o.acc.txn

/-- The chain of a call or return goes on in an entry, `d` cycles after its issue in cycle `t` (R268, R276, R277). -/
def Hw.goTo (h : Hw) (core slot e pc at_ : Nat) (linksp : BitVec 20) : Hw :=
  h.modCtx core slot (fun x =>
    ({ x with
      st := .ready, park := none, access := none, entry := e, pc := pc, linksp := linksp, notBefore := at_, swWait := x.plainSw }).settle)

/-- A lookup of a call or return in the cycle that ends does not hit (R267, R270): its context is parked with reason code. -/
def Hw.codePark (h : Hw) (core slot : Nat) (digest : BitVec 256) : Hw :=
  let r := h.codeWait core slot digest (h.now - 1)
  r.2.modCtx core slot (fun x => { x with park := some (.code r.1), access := none })

/-- CALLD (R276): the checks, at issue; the lookup comes at the end of cycle 1. -/
def execCalld (sw : Bool) (imm : BitVec 22) (s : State) : Res :=
  s.withCur fun c => s.whenSettled c <|
    let x := s.hw.curCtx c
    let d := s.hw.entry (clusterOf c.core) x.entry
    let n := imm.toNat
    let imp := bits n 7 0
    let site := bits n 19 8
    if bits n 21 20 ≠ 0 ∨ d.imports.length ≤ imp then s.faultWith c .reservedValue 18 n
    else if d.sites.length ≤ site ∨ d.sites.getD site 0 ≠ c.pc + c.len then s.faultWith c .reservedValue 17 n
    else if x.levels ≠ [] then s.faultWith c .loopLimit 5 0
    else if x.inRegion then s.faultWith c .reservedValue 21 n
    else if x.booked then s.faultWith c .calendarViolation 4 n
    else if x.depth = 31 then s.faultWith c .reservedValue 20 x.linksp.toNat
    else
      let r := s.frameAccess c sw (.call (d.imports.getD imp 0) (d.frame site)) x.depth
      r.2.onHw (fun h => h.after (2 + s.hw.frameHold c r.1.addr) .plainAccessReply (.accRes r.1 .armed))

/-- The lookup of a call (R267, R276): on a hit the frame is written and the callee's first chain issues at cycle 6. -/
def State.callLookup (s : State) (o : Outst) (digest : BitVec 256) (bs : List Byte) : State :=
  let a := o.acc
  let clu := clusterOf a.core
  let x := s.hw.ctx a.core a.slot
  let s1 := s.frameOver o
  match s.hw.installed clu digest with
  | none => s1.onHw (fun h => h.codePark a.core a.slot digest)
  | some e =>
    (s1.bankWrite a.addr bs (some a.otag)).onHw fun h =>
      ((h.modEntry clu x.entry (fun d => { d with live := d.live + 1 })).runMove clu x.entry e).goTo a.core a.slot e 0 (h.now + 4)
        (x.linksp + 64)

/-- RET through a frame (R277): the frame is read in cycles 1 and 2. -/
def State.retFrame (s : State) (c : Cur) (sw : Bool) : State :=
  s.whenSettled c <|
    let x := s.hw.curCtx c
    if x.inRegion then s.faultWith c .reservedValue 21 0
    else if x.booked then s.faultWith c .calendarViolation 4 0
    else
      let r := s.frameAccess c sw .frame (x.depth - 1)
      r.2.pump c.core

/-- A frame is at hand (R275, R277): a poisoned or malformed one is a fault, else its digest is looked up at the end of the cycle. -/
def State.frameCame (s : State) (o : Outst) (r : AccRes) : State :=
  let a := o.acc
  let at_ := ((s.hw.ctx a.core a.slot).linksp - 64).toNat
  match r with
  | .data v _ =>
    let q5 := bits v 383 320
    if !bitAt q5 32 ∨ bits q5 51 34 ≠ 0 ∨ bits q5 31 0 ≠ 0 ∨ bits v 511 384 ≠ 0 then s.answer a.core a.txn (.fail .reservedValue 17 at_)
    else
      s.onHw fun h =>
        (h.modOut a.core a.txn (fun o => { o with acc := { o.acc with op := .retTo v } })).after 1 .plainAccessReply (.accRes a .armed)
  | _ => s.answer a.core a.txn (.fail .poisoned 0 at_)

/-- The lookup of a return (R267, R277): on a hit the continuation issues at cycle 8, from the installed translation's call-site table. -/
def State.retLookup (s : State) (o : Outst) (v : Nat) : State :=
  let a := o.acc
  let clu := clusterOf a.core
  let x := s.hw.ctx a.core a.slot
  let digest : BitVec 256 := BitVec.ofNat 256 v
  let site := bits v 383 372
  match s.hw.installed clu digest with
  | none => (s.frameOver o).onHw (fun h => h.codePark a.core a.slot digest)
  | some e =>
    let d := s.hw.entry clu e
    let s1 := s.onHw (fun h => h.touch clu e)
    if d.sites.length ≤ site ∨ d.cend < d.sites.getD site 0 then s1.answer a.core a.txn (.fail .reservedValue 17 (x.linksp - 64).toNat)
    else
      (s1.frameOver o).onHw fun h =>
        (((h.modEntry clu e (fun o => { o with live := o.live - 1 })).runMove clu x.entry e).modCtx a.core a.slot (fun x =>
          x.levels.foldl Ctx.endLoop x)).goTo a.core a.slot e (d.sites.getD site 0) (h.now + 2) (x.linksp - 64)

/-! ### CODEINV (R279) -/

/-- The common course of CODEINV (R188, R279): a pending fence with i in its successor set holds it; the result is owed, and comes when
every die has acknowledged. It is within every fence scope (log 113). -/
def State.codeinv (s : State) (c : Cur) (sw : Bool) (a : GReg) (digest : Option Nat) : State :=
  if (s.hw.curCtx c).fenced .i then s.onHw (fun h => h.parkChain c .fence)
  else s.onHw fun h =>
    let txn := h.nextTxn
    ((({ h with nextTxn := txn + 1 } : Hw).owe c txn a.toNat c.core .i).after 300 .codeinvComplete
      (.nats [c.core, txn, (h.tenantOf c.core).getD 64, bit digest.isSome, digest.getD 0])).retire c sw 1

/-- CODEINV of one digest. -/
def execCodeinv (sw : Bool) (a b : GReg) (s : State) : Res :=
  s.withCur fun c => s.window c (b.toNat + 3) <|
    if (s.hw.curCtx c).booked then s.faultWith c .calendarViolation 4 0
    else s.reads c (regRun b.toNat 4) <|
      s.codeinv c sw a (some ((List.range 4).foldr (fun i n => (s.hw.cgn c (b.toNat + i)).toNat + 2 ^ 64 * n) 0))

/-- CODEINV of every entry of the tenant. -/
def execCodeinvAll (sw : Bool) (a : GReg) (s : State) : Res :=
  s.withCur fun c =>
    if (s.hw.curCtx c).booked then s.faultWith c .calendarViolation 4 0 else s.codeinv c sw a none

/-- An entry after an invalidation (R279). -/
def DEntry.invalidate (d : DEntry) : DEntry :=
  match d.st with
  | .installed => if d.run = 0 then DEntry.none else { d with st := .draining }
  | .draining => d
  | _ => DEntry.none

/-- The entry is one that an invalidation changes. -/
def DEntry.invalidated (d : DEntry) (digest : Option (BitVec 256)) : Bool :=
  d.st != .absent && d.st != .draining && (match digest with | .some g => d.digest == g | .none => true)

/-- Invalidates one entry; the contexts that wait on a discarded load begin their misses again. -/
def Hw.invalidate (h : Hw) (clu e : Nat) : Hw :=
  let d := h.entry clu e
  let h1 := (h.modEntry clu e DEntry.invalidate).codeRetry clu
  if d.st = .loading ∨ d.st = .verified then
    (h.clusterSlots clu).foldl (fun h p =>
      if (h.ctx p.1 p.2).park = some (.code e) then
        let r := h.codeWait p.1 p.2 d.digest h.now
        r.2.modCtx p.1 p.2 (fun x => { x with park := some (.code r.1) })
      else h) h1
  else h1

/-- The invalidation is applied to every digest table of the tenant in the module, and the count returned (R279). -/
def execCodeinvComplete (s : State) : Res :=
  match s.hw.arg with
  | .nats [core, txn, tenant, one, digest] =>
    .next <|
      let g : Option (BitVec 256) := if one = 1 then some (BitVec.ofNat 256 digest) else none
      let hits := (s.hw.clusters.filter (fun (c : Nat × Cluster) =>
          c.1 / 512 == moduleOf core && c.2.owner.getD 64 == tenant)).flatMap (fun c =>
        (c.2.dtab.filter (fun (e : Nat × DEntry) => e.2.invalidated g)).map (fun e => (c.1, e.1)))
      (s.onHw (fun h => hits.foldl (fun h p => h.invalidate p.1 p.2) h)).payOwed core txn (BitVec.ofNat 64 hits.length)
  | _ => .fault .noArgument

end Sys2Proof.Machine
end

