-- ==== Sys2Proof/Machine/Portable.lean ====
section
/-! DEFINITION. Portable forms and their checks (14_package R281 to R283), the resident translator (R285 to R287), native
translation containers and their checks (R288, R289, R291), and RSA signatures (R289, 24_bringup R481). -/

namespace Sys2Proof.Machine

/-! ### Bytes -/

/-- `n` bytes from an offset, as a number (R2). -/
def bval (b : List Byte) (off n : Nat) : Nat := valLE ((b.drop off).take n)

/-- The next multiple of 32. -/
def up32 (n : Nat) : Nat := (n + 31) / 32 * 32

/-- The value of bytes, the most significant first. -/
def beVal (b : List Byte) : Nat := b.foldl (fun n x => n * 256 + x.toNat) 0

/-- Halfwords of bytes (R2). -/
def halvesOf : List Byte → List Half
  | lo :: hi :: r => BitVec.ofNat 16 (lo.toNat + 256 * hi.toNat) :: halvesOf r
  | _ => []

/-- The digest of bytes, SHA-512/256 (R263). -/
def digestBytes (b : List Byte) : BitVec 256 := BitVec.ofNat 256 (valLE (sha512256 b))

/-- `n` digests from an offset. -/
def digestsAt (b : List Byte) (off n : Nat) : List (BitVec 256) := (List.range n).map (fun i => BitVec.ofNat 256 (bval b (off + 32 * i) 32))

/-! ### The portable form (R281, R282) -/

/-- A booking template (R282, R284): the two quadwords of a booking descriptor and of its duration record. -/
structure BookTemplate where
  desc0 : Nat
  desc1 : Nat
  rec0 : Nat
  rec1 : Nat
deriving DecidableEq, Repr

/-- FIRST and LAST, portable halfword offsets (R284). -/
def BookTemplate.first (t : BookTemplate) : Nat := bits t.rec0 16 0
def BookTemplate.last (t : BookTemplate) : Nat := bits t.rec0 48 32

/-- TRIPv, the bound of loop level v (R284). -/
def BookTemplate.trip (t : BookTemplate) (v : Nat) : Nat := bits t.rec1 (16 * v + 15) (16 * v)

/-- EXTRA, in cycles (R284). -/
def BookTemplate.extra (t : BookTemplate) : Nat := bits t.rec1 63 48

/-- The duration field of the descriptor is 0, and the MBZ bits of the record are (R283, R284). -/
def BookTemplate.ok (t : BookTemplate) : Bool := bits t.desc0 63 52 == 0 && bits t.rec0 63 49 == 0

/-- A portable form as its header and sections give it. -/
structure PForm where
  code : List Half
  nsites : Nat
  imports : List (BitVec 256)
  segs : List (Nat × Seg)
  books : List BookTemplate
deriving DecidableEq, Repr

/-- A portable form whose header and layout are as R281 and R282 say, within the limits of R264. -/
def parsePortable (b : List Byte) : Option PForm :=
  let q0 := bval b 0 8
  let q1 := bval b 8 8
  let nh := bits q1 16 0
  let ns := bits q1 29 17
  let ni := bits q1 38 30
  let nseg := bits q1 46 43
  let nb := bits q1 54 47
  let i0 := up32 (64 + 2 * nh)
  let s0 := i0 + 32 * ni
  let t0 := s0 + 32 * nseg
  if bits q0 31 0 = 0x4E4D5956 ∧ bits q0 47 32 = 1 ∧ bits q0 63 49 = 0 ∧ bits q1 63 55 = 0 ∧ bval b 16 48 = 0 ∧ 1 ≤ nh ∧ nh ≤ 65536 ∧
      ns ≤ 4096 ∧ ni ≤ 256 ∧ nseg ≤ 8 ∧ b.length = t0 + 32 * nb then
    some { code := halvesOf ((b.drop 64).take (2 * nh)), nsites := ns, imports := digestsAt b i0 ni,
           segs := (List.range nseg).map (fun i =>
             (bval b (s0 + 32 * i) 1, Seg.ofWords (bval b (s0 + 32 * i + 8) 8) (bval b (s0 + 32 * i + 16) 8))),
           books := (List.range nb).map (fun i =>
             let t := t0 + 32 * i
             ⟨bval b t 8, bval b (t + 8) 8, bval b (t + 16) 8, bval b (t + 24) 8⟩) }
  else none

/-- A chain at its offset. -/
abbrev Placed := Nat × Chain

/-- The chains of a code, in layout order (R46); none where one fails steps 1 to 5 of R52. -/
def chainsFrom : Nat → Nat → List Half → Option (List Placed)
  | 0, _, _ => some []
  | fuel + 1, off, ws =>
    if ws = [] then some []
    else
      match decodeChain ws with
      | .error _ => none
      | .ok ch => (chainsFrom fuel (off + ch.raw.len) (ws.drop ch.raw.len)).map (fun l => (off, ch) :: l)

/-- The offset to which a BR or JMP transfers (R130). -/
def Placed.target (p : Placed) : Option Int :=
  match p.2.instr with
  | .br _ _ _ imm => some ((p.1 : Int) + sbv imm)
  | .jmp _ imm => some ((p.1 : Int) + sbv imm)
  | _ => none

/-- The last halfword of a LOOP's body (R133). -/
def Placed.bodyEnd (p : Placed) : Option Nat :=
  match p.2.instr with
  | .loop _ _ _ imm => some (p.1 + p.2.raw.len + imm.toNat - 1)
  | _ => none

/-- The number of a CALLD's site (R276). -/
def Placed.site (p : Placed) : Option Nat :=
  match p.2.instr with
  | .calld _ imm => some (bits imm.toNat 19 8)
  | _ => none

/-- A form that a portable form may not hold (R283). -/
def notPortable (ch : Chain) : Bool :=
  ch.raw.page == 15 || (match ch.instr with | .mstat _ _ => true | .jmpr _ _ => true | _ => false)

/-- The chains of a portable form that is valid (R283). -/
def PForm.chains (f : PForm) : Option (List Placed) :=
  match chainsFrom (f.code.length + 1) 0 f.code with
  | none => none
  | some cs =>
    let sites := cs.filterMap Placed.site
    if f.code.all (fun w => decide (w.toNat < 32768)) && cs.all (fun (p : Placed) => !notPortable p.2) &&
        cs.all (fun (p : Placed) => match Placed.target p with | some t => cs.any (fun (q : Placed) => (q.1 : Int) == t) | none => true) &&
        cs.all (fun (p : Placed) => match Placed.bodyEnd p with
          | some e => cs.any (fun (q : Placed) => q.1 + q.2.raw.len - 1 == e) | none => true) &&
        sites == List.range f.nsites && f.books.all BookTemplate.ok &&
        imageFits f.code (List.replicate f.nsites 0) f.imports then some cs else none

/-- The portable form of a digest that bytes hold, where they are valid and hash to it (R282, R291). -/
def portableOf (d : BitVec 256) (b : List Byte) : Option PForm :=
  match parsePortable b with
  | none => none
  | some f => if f.chains.isSome && digestBytes b == d then some f else none

/-- Initial segment registers (R76, R282), with the BASEs that relocations give (R296). -/
def segsWith (l : List (Nat × Seg)) (moved : List (Nat × Nat)) : List Seg :=
  let m : SMap Seg := l.foldl (fun m p => SMap.set m p.1 p.2) []
  let m := moved.foldl (fun (m : SMap Seg) p => SMap.set m p.1 { (SMap.get Seg.none m p.1) with base := p.2 }) m
  (List.range 8).map (fun i => SMap.get Seg.none m i)

/-! ### The resident translator (R285 to R287) -/

/-- What a chain reads and writes, as R85 counts it: `g` register n is n, pointer n is 128 + n (R101), mask n is 136 + n (R362). A
result has its fixed latency, or none; one that is written while its context is parked makes no reader wait. `gap` is the least
distance of the next chain. -/
structure Uses where
  reads : List Nat
  writes : List (Nat × Option Nat)
  gap : Nat
deriving DecidableEq, Repr

/-- See `Uses`; by default a form reads C and B, and writes A at a latency of 2 (R108). -/
def Chain.uses (ch : Chain) : Uses :=
  let r := ch.raw
  let s := ch.shape
  let a := r.a
  let b := r.b
  let c := s.cVal r
  let isC := s.c = .gA ∨ s.c = .g0 ∨ s.c = .gMand
  let cb := (if isC then [c] else []) ++ (if s.b = .g then [b] else [])
  let fixed (n : Nat) : Uses := ⟨cb, [(a, some n)], 1⟩
  let far (l : List Nat) : Uses := ⟨l, [(a, none)], 1⟩
  let parks (l : List Nat) (g : Nat) : Uses := ⟨l, [], g⟩
  let run (n k : Nat) : List Nat := regRun n k
  match ch.instr with
  | .lih _ _ _ => ⟨[a], [(a, some 2)], 1⟩
  | .bfi _ _ _ _ => ⟨a :: cb, [(a, some 2)], 1⟩
  | .sel _ _ _ _ _ => ⟨a :: cb, [(a, some 2)], 1⟩
  | .epop _ _ e => ⟨[], (run a (if e.toNat = 4 then 4 else 1)).map (fun n => (n, some 2)), 1⟩
  | .mul _ _ _ _ _ => fixed 4
  | .mulh _ _ _ _ _ => fixed 5
  | .div _ t _ _ _ => fixed (divLatency t)
  | .rem _ t _ _ _ => fixed (divLatency t)
  | .br _ k _ _ => parks (match k with | .test _ => [a] | _ => []) 1
  | .ld _ k rx _ _ => if rx then ⟨cb, (run a (if k = .sec then 4 else 1)).map (fun n => (n, none)), 1⟩ else parks cb 4
  | .st _ k rx _ _ => parks (cb ++ run a (if k = .sec then 4 else 1)) (if rx then 1 else 4)
  | .ldp _ k _ _ _ => ⟨[128 + b], (run a (if k = .sec then 4 else 1)).map (fun n => (n, none)), 1⟩
  | .stp _ k _ _ _ => parks ((128 + b) :: run a (if k = .sec then 4 else 1)) 1
  | .atom _ op _ rx _ _ => if rx then far (cb ++ run a (if op = .cas then 2 else 1)) else parks (cb ++ run a (if op = .cas then 2 else 1)) 6
  | .send _ _ _ _ => far cb
  | .clrf _ _ => parks [] 1
  | .mwait _ _ _ => parks (a :: cb) 4
  | .trap _ _ _ => far [a]
  | .spawn _ _ _ _ => far (c :: run b 4)
  | .epush _ _ _ => parks (run b 4) 1
  | .bar _ _ _ _ => parks [] 2
  | .barWt _ _ _ _ => fixed 2
  | .barFmax _ _ _ _ => parks [a] 2
  | .barImax _ _ _ _ => parks [a] 2
  | .barArm _ _ _ _ => parks [a] 1
  | .pmov _ _ _ => ⟨[b], [(128 + a, some 2)], 1⟩
  | .pmovGet _ _ _ => ⟨[128 + b], [(a, some 2)], 1⟩
  | .segw _ _ _ => parks (run b 2) 1
  | .pgprobe _ _ _ => parks cb 4
  | .tlbinv _ _ _ _ => far (run b 3)
  | .codeinv _ _ _ => far (run b 4)
  | .codeinvAll _ _ => far []
  | .spill _ _ _ => far cb
  | .spillHold _ _ _ => far cb
  | .spillRel _ _ _ => far (run b 2)
  | .spillBase _ _ _ => far (run b 2)
  | .spillCkpt _ _ _ => far cb
  | .csave _ _ _ => far (run b 2)
  | .cload _ _ _ => far (run b 2)
  | .fork _ _ _ _ => parks (c :: run b 4) 8
  | .join _ _ _ => parks cb 4
  | .depnew _ _ _ => parks cb 6
  | .deppub _ _ _ => parks (a :: cb) 6
  | .signal _ rx _ _ => if rx then far cb else parks cb 6
  | .enq _ _ _ _ => parks cb 8
  | .steal _ _ _ => far cb
  | .book _ _ _ => parks (run b 3) 1
  | .bkq _ _ _ => fixed 8
  | .bkqWt _ _ _ => fixed 8
  | .bkcan _ _ _ => fixed 8
  | .gang _ _ _ => parks (run b 2) 2
  | .gangCancel _ _ _ => ⟨run b 2, [(a, some 2)], 1⟩
  | .pipew _ _ _ => parks [a] 1
  | .hnew _ _ _ => parks (run b 2) 98
  | .hcopy _ _ _ => ⟨cb, [(a, some 1), (b, some 1)], 1⟩
  | .hdrop _ _ => ⟨[a], [(a, some 1)], 1⟩
  | .hdropLost _ _ => parks (run a 2) 1
  | .hbind _ _ _ => parks (run b 2) 98
  | .hsend _ _ _ _ => ⟨cb, [(a, none), (b, some 1)], 1⟩
  | .haddr _ _ _ _ => parks cb 98
  | .haddrLen _ _ _ => parks cb 98
  | .haddrWt _ _ _ => parks cb 98
  | .mcw _ _ _ => far (run b 2)
  | .mcsend _ _ _ _ => far cb
  | .rslot _ _ _ => far (run b 2)
  | .redc _ _ _ _ => far cb
  | .redw _ _ _ => ⟨run b 2, [(a, none), (a + 1, none)], 1⟩
  | .lnkst _ _ _ => far cb
  | .lnkstCtl _ _ _ => far cb
  | .vmovm _ (.put m _) => ⟨run b 4, [(136 + m.toNat, some 2)], 1⟩
  | .vmovm _ (.get _ m) => ⟨[136 + m.toNat], (run a 4).map (fun n => (n, some 2)), 1⟩
  | .vmovm _ (.cnt _ m) => ⟨[136 + m.toNat], [(a, some 2)], 1⟩
  | .vmsk _ _ _ _ _ => ⟨[136 + c, 136 + b], [(136 + a, some 2)], 1⟩
  | i =>
    if r.page = 1 then
      let ptrs := (if s.a = .p3 then [128 + a] else []) ++ (if s.b = .p3 then [128 + b] else []) ++
        (match s.c with | .pA => [128 + c] | .pMand => [128 + c] | _ => [])
      ⟨ptrs ++ (if s.b = .g then [b] else []) ++ [136 + r.m / 16 % 4],
        match i with | .vcmp _ _ _ _ _ => [(136 + a, none)] | _ => [], 1⟩
    else ⟨cb, if s.a = .g then [(a, some 2)] else [], 1⟩

/-- A chain that waits for every outstanding result by itself (R276, R277). -/
def Chain.settles (ch : Chain) : Bool :=
  match ch.instr with | .calld _ _ => true | .ret _ => true | _ => false

/-- Where control goes from each chain, with the least distance (R108, R134): by number in layout order. A LOOP whose count is 0 goes
past its body, and back to the starts of the bodies that end with it (R133). -/
def transfers (cs : List Placed) (i : Nat) (p : Placed) : List (Nat × Nat) :=
  let at_ (off : Int) : List Nat := ((List.range cs.length).zip cs).filterMap (fun (q : Nat × Placed) => if (q.2.1 : Int) = off then some q.1 else none)
  let falls : Bool := match p.2.instr with | .jmp _ _ => false | .ret _ => false | .quit _ => false | _ => true
  let next := if falls && decide (i + 1 < cs.length) then [(i + 1, max 1 (Chain.uses p.2).gap)] else []
  let jump := match Placed.target p with | some t => (at_ t).map (fun j => (j, 2)) | none => []
  let starts (last gap : Nat) : List (Nat × Nat) := cs.flatMap (fun (q : Placed) =>
    match Placed.bodyEnd q with
    | some e => if last = e ∧ q.1 ≠ p.1 then (at_ ((q.1 + q.2.raw.len : Nat) : Int)).map (fun j => (j, gap)) else []
    | none => [])
  let skip := match Placed.bodyEnd p with
    | some e => (at_ ((e + 1 : Nat) : Int)).map (fun j => (j, 1)) ++ starts e 1
    | none => []
  next ++ jump ++ starts (p.1 + p.2.raw.len - 1) (max 1 (Chain.uses p.2).gap) ++ skip

/-- Results outstanding at a chain: each with the distance at which it is readable, or none. -/
abbrev Waiting := SMap (Option Nat)

/-- A result joins, the later readable one kept. -/
def Waiting.add (w : Waiting) (n : Nat) (v : Option Nat) : Waiting :=
  SMap.set w n (match SMap.find? w n, v with
    | none, v => v
    | some none, _ => none
    | some _, none => none
    | some (some a), some b => some (max a b))

/-- What is still outstanding `d` cycles later. -/
def Waiting.later (w : Waiting) (d : Nat) : Waiting :=
  w.filterMap (fun (e : Nat × Option Nat) => match e.2 with | none => some (e.1, none) | some n => if d < n then some (e.1, some (n - d)) else none)

/-- What is outstanding behind a chain, before S. -/
def behind (p : Placed) (inn : Waiting) : Waiting :=
  (Chain.uses p.2).writes.foldl (fun w e => if e.1 = 0 ∨ e.1 = 136 then w else Waiting.add w e.1 e.2) (if Chain.settles p.2 then [] else inn)

/-- One round: what is outstanding at each chain, from what was at those before it. -/
def flowRound (cs : List Placed) (sw : List Bool) (ins : List Waiting) : List Waiting :=
  let all := (List.range cs.length).zip (cs.zip ins)
  let parts : List (Nat × Waiting) := all.flatMap (fun (e : Nat × Placed × Waiting) =>
    if sw.getD e.1 false then [] else (transfers cs e.1 e.2.1).map (fun t => (t.1, Waiting.later (behind e.2.1 e.2.2) t.2)))
  (List.range cs.length).map (fun j =>
    (parts.filter (fun p => p.1 == j)).foldl (fun (w : Waiting) p => p.2.foldl (fun w e => Waiting.add w e.1 e.2) w) [])

/-- `n` rounds from nothing outstanding. -/
def flow (cs : List Placed) (sw : List Bool) : Nat → List Waiting
  | 0 => cs.map (fun _ => [])
  | n + 1 => flowRound cs sw (flow cs sw n)

/-- A chain that follows another, or to which it transfers, would make a hazard wait (R287). -/
def needsSwitch (cs : List Placed) (i : Nat) (p : Placed) (inn : Waiting) : Bool :=
  (transfers cs i p).any (fun t =>
    match cs[t.1]? with
    | none => false
    | some q => !Chain.settles q.2 && (Chain.uses q.2).reads.any (fun n => (SMap.find? (Waiting.later (behind p inn) t.2) n).isSome))

/-- The chains that take S (R287): those that need it, given what others take. -/
def switches (cs : List Placed) : Nat → List Bool → List Bool
  | 0, sw => sw
  | n + 1, sw =>
    let ins := flow cs sw (cs.length + 1)
    let sw' := ((List.range cs.length).zip (sw.zip (cs.zip ins))).map (fun (e : Nat × Bool × Placed × Waiting) =>
      e.2.1 || needsSwitch cs e.1 e.2.2.1 e.2.2.2)
    if sw' = sw then sw else switches cs n sw'

/-- The instruction with its displacement or body length for a layout (R286): `off` and `len` hold the chains' places and lengths. -/
def relaid (cs : List Placed) (off len : List Nat) (i : Nat) (p : Placed) : Instr :=
  let place (o : Int) : Nat :=
    ((((List.range cs.length).zip cs).find? (fun (q : Nat × Placed) => (q.2.1 : Int) == o)).map (fun q => off.getD q.1 0)).getD 0
  let stop (e : Nat) : Nat :=
    ((((List.range cs.length).zip cs).find? (fun (q : Nat × Placed) => q.2.1 + q.2.2.raw.len - 1 == e)).map (fun q =>
      off.getD q.1 0 + len.getD q.1 0)).getD 0
  match p.2.instr, Placed.target p, Placed.bodyEnd p with
  | .br s k a _, some t, _ => .br s k a (BitVec.ofInt 40 ((place t : Int) - off.getD i 0))
  | .jmp s _, some t, _ => .jmp s (BitVec.ofInt 40 ((place t : Int) - off.getD i 0))
  | .loop s l b _, _, some e => .loop s l b (BitVec.ofNat 9 (stop e - (off.getD i 0 + len.getD i 0)))
  | j, _, _ => j

/-- The offsets of chains of given lengths. -/
def offsets (lens : List Nat) : List Nat := (lens.foldl (fun (r : List Nat × Nat) n => (r.1 ++ [r.2], r.2 + n)) ([], 0)).1

/-- The chains laid out, the shortest of each (R57, R287), once their lengths agree with the displacements. -/
def layOut (cs : List Placed) (sw : List Bool) : Nat → List Nat → List (List Half)
  | 0, _ => []
  | n + 1, lens =>
    let off := offsets lens
    let ws := ((List.range cs.length).zip cs).map (fun (e : Nat × Placed) =>
      (((relaid cs off lens e.1 e.2).fullForm.map (fun f => FullForm.words { f with sw := sw.getD e.1 false })).getD []))
    if ws.map List.length = lens then ws else layOut cs sw n (ws.map List.length)

/-! ### The durations of booking templates (R284) -/

/-- The cycles from a chain's issue to the next one's by the timing of its form (R108, R276, R277): a branch counts as taken. -/
def Chain.distance (ch : Chain) : Nat :=
  match ch.instr with
  | .br _ _ _ _ => 2
  | .jmp _ _ => 2
  | .calld _ _ => 6
  | .ret _ => 8
  | _ => max 1 (Chain.uses ch).gap

/-- The same in a translation, where a chain with S holds the next one until the results outstanding behind it are there (R109); of a
result without a fixed latency no cycle is counted (notes/assumptions/110.md). -/
def nativeDistance (p : Placed) (sw : Bool) (inn : Waiting) : Nat :=
  if sw then (behind p inn).foldl (fun n (e : Nat × Option Nat) => max n (e.2.getD 0)) (Chain.distance p.2) else Chain.distance p.2

/-- The product of the bounds of the loop levels that enclose an offset, of the loops that stand in the region (R284). -/
def BookTemplate.trips (t : BookTemplate) (cs : List Placed) (off : Nat) : Nat :=
  let inside (v : Nat) : Bool := cs.any (fun (q : Placed) =>
    match q.2.instr, Placed.bodyEnd q with
    | .loop _ lc _ _, some e => lc.val == v && decide (t.first ≤ q.1) && decide (q.1 < off) && decide (off ≤ e)
    | _, _ => false)
  ([0, 1, 2].filter inside).foldl (fun n v => n * t.trip v) 1

/-- The duration of a template, in grains (R284): its chains' distances, a third more for booked issue, and EXTRA. -/
def BookTemplate.grains (t : BookTemplate) (cs : List Placed) (sw : List Bool) : Nat :=
  let ins := flow cs sw (cs.length + 1)
  let c := ((List.range cs.length).zip cs).foldl (fun n (e : Nat × Placed) =>
    if t.first ≤ e.2.1 ∧ e.2.1 ≤ t.last then n + nativeDistance e.2 (sw.getD e.1 false) (ins.getD e.1 []) * t.trips cs e.2.1 else n) 0
  (c + (c + 2) / 3 + t.extra + 15) / 16

/-- A template with its duration filled in (R284, R306); the field has no value for more than 4,095 grains. -/
def BookTemplate.filled (t : BookTemplate) (cs : List Placed) (sw : List Bool) : BitVec 128 :=
  let n := t.grains cs sw
  let dur := if n < 2 ^ 12 then n else (Config.overlongDuration n).toNat
  BitVec.ofNat 128 (t.desc0 % 2 ^ 52 + dur * 2 ^ 52 + t.desc1 * 2 ^ 64)

/-- The local translation of a portable form (R286, R287), an image with LOCAL set; `segs` are its initial segments. -/
def translateForm (f : PForm) (segs : List Seg) : Option DEntry :=
  match f.chains with
  | none => none
  | some cs =>
    let sw := switches cs (cs.length + 1) (cs.map (fun _ => false))
    let ws := layOut cs sw (cs.length + 2) (cs.map (fun (p : Placed) => p.2.raw.len))
    let ends := offsets (ws.map List.length) |>.zip (ws.map List.length)
    let sites := (cs.zip ends).filterMap (fun (e : Placed × Nat × Nat) => (Placed.site e.1).map (fun _ => e.2.1 + e.2.2))
    let code := ws.flatten
    some { DEntry.none with
      xid := BitVec.ofNat 64 (xidOf code)
      isLocal := true
      code := code
      sites := sites
      imports := f.imports
      segs := segs
      templates := f.books.map (fun t => t.filled cs sw) }

/-! ### Signatures (R289, R481) -/

/-- b ^ e mod n, by squaring; `fuel` bounds the bits of e. -/
def powMod : Nat → Nat → Nat → Nat → Nat
  | 0, _, _, n => 1 % n
  | fuel + 1, b, e, n =>
    if e = 0 then 1 % n
    else
      let r := powMod fuel (b * b % n) (e / 2) n
      if e % 2 = 1 then r * b % n else r

/-- The EMSA-PKCS1-v1_5 encoding of a message in 512 bytes, with SHA-512 (notes/assumptions/10.md). -/
def emsa (msg : List Byte) : List Byte :=
  [0x00, 0x01] ++ List.replicate 426 0xFF ++ [0x00] ++
    [0x30, 0x51, 0x30, 0x0D, 0x06, 0x09, 0x60, 0x86, 0x48, 0x01, 0x65, 0x03, 0x04, 0x02, 0x03, 0x05, 0x00, 0x04, 0x40] ++ sha512 msg

/-- RSASSA-PKCS1-v1_5 verifies over a message (R289), the modulus and the signature big-endian. -/
def rsaVerifies (modulus sig msg : List Byte) : Bool :=
  let n := beVal modulus
  n != 0 && sig.length == 512 && decide (beVal sig < n) && powMod 32 (beVal sig) 65537 n == beVal (emsa msg)

/-! ### The native translation container (R288) -/

/-- A container's fields (R288), with the bytes before its signature. -/
structure Container where
  model : Nat
  digest : BitVec 256
  xid : Nat
  signer : BitVec 256
  formed : Bool                      -- MAGIC, VERSION, MBZ fields, lengths and image are correct (R264)
  modulus : List Byte
  code : List Half
  sites : List Nat
  imports : List (BitVec 256)
  templates : List (BitVec 128)      -- the booking descriptors of its template section
  signed : List Byte
  signature : List Byte
deriving DecidableEq, Repr

/-- Reads a container. -/
def parseContainer (b : List Byte) : Container :=
  let q0 := bval b 0 8
  let q6 := bval b 48 8
  let q7 := bval b 56 8
  let imgLen := bits q6 17 0
  let cend := bits q6 34 18
  let ns := bits q6 47 35
  let ni := bits q6 56 48
  let t0 := up32 (640 + imgLen)
  let tlen := bits q7 15 0
  let g0 := up32 (t0 + tlen)
  let img := (b.drop 640).take imgLen
  let s0 := up32 (2 * (cend + 1))
  let i0 := up32 (s0 + 4 * ns)
  let words := (List.range ns).map (fun i => bval img (s0 + 4 * i) 4)
  let sites := words.map (fun w => bits w 16 0)
  let code := halvesOf (img.take (2 * (cend + 1)))
  let imports := digestsAt img i0 ni
  let least := if 0 < ni then i0 + 32 * ni else if 0 < ns then s0 + 4 * ns else 2 * (cend + 1)
  { model := bits q0 63 48, digest := BitVec.ofNat 256 (bval b 8 32), xid := bval b 40 8, signer := BitVec.ofNat 256 (bval b 96 32),
    formed := bits q0 31 0 == 0x584E5956 && bits q0 47 32 == 1 && bits q6 63 57 == 0 && bits q7 63 16 == 0 && b.length == g0 + 512 &&
      decide (1 ≤ imgLen) && decide (imgLen ≤ 131072) && decide (least ≤ imgLen) && decide (imgLen ≤ i0 + 32 * ni) && words.all (fun w => w / 2 ^ 17 == 0) && imageFits code sites imports,
    modulus := (b.drop 128).take 512, code := code, sites := sites, imports := imports,
    templates := (List.range (tlen / 32)).map (fun i => BitVec.ofNat 128 (bval b (t0 + 32 * i) 16)), signed := b.take g0, signature := b.drop g0 }

/-- The module's MODEL (R1, R77). -/
def modelB2 : Nat := 0x0B02

/-- The cause with which a container offered for a digest is rejected (R291), 0 for none; `known` tells that its key stands in the
cache of verified containers (R292). -/
def Container.cause (c : Container) (d : BitVec 256) (anchors : List (BitVec 256)) (known : Bool) : Nat :=
  if c.model ≠ modelB2 then 1
  else if !c.formed || c.digest != d || xidOf c.code != c.xid || c.signer != digestBytes c.modulus then 2
  else if !anchors.contains c.signer then 3
  else if !known && !rsaVerifies c.modulus c.signature c.signed then 4
  else 0

/-- The image that an accepted container gives (R264). -/
def Container.image (c : Container) (segs : List Seg) : DEntry :=
  { DEntry.none with
    xid := BitVec.ofNat 64 c.xid
    isLocal := false
    code := c.code
    sites := c.sites
    imports := c.imports
    segs := segs
    templates := c.templates }

end Sys2Proof.Machine
end

