-- ==== Sys2Proof/Machine/Barrier.lean ====
section
/-! DEFINITION. BAR and the barrier channels (09_barrier): arming, arrivals, releases and departures. -/

namespace Sys2Proof.Machine

/-! ### Channels -/

/-- A channel: of a core, or of a cluster. -/
def Hw.chan (h : Hw) (clu : Bool) (at_ ch : Nat) : Chan :=
  SMap.get Chan.idle (if clu then (h.cluster at_).chans else (h.core at_).chans) ch

/-- Replaces a channel. -/
def Hw.setChan (h : Hw) (clu : Bool) (at_ ch : Nat) (c : Chan) : Hw :=
  if clu then h.modCluster at_ (fun k => { k with chans := SMap.set k.chans ch c })
  else h.modCore at_ (fun k => { k with chans := SMap.set k.chans ch c })

/-- The member for which a context arrives: its slot, or its core (R196). -/
def BarWait.member (w : BarWait) (clu : Bool) : Nat := if clu then w.core % 16 else w.slot

/-- Where the channel of an arrival stands. -/
def barPlace (clu : Bool) (core : Nat) : Nat := if clu then clusterOf core else core

/-! ### Combining (R205) -/

/-- An FP32 pattern that is a NaN. -/
def isNan32 (v : Nat) : Bool := decide (0x7F800000 < v % 2 ^ 31)

/-- The order of FP32 patterns that are no NaN, with −0 below +0. -/
def key32 (v : Nat) : Int := if bitAt v 31 then -((v % 2 ^ 31 : Nat) : Int) - 1 else ((v % 2 ^ 31 : Nat) : Int)

/-- The greater of two FP32 patterns; a NaN gives the canonical quiet NaN. -/
def fmax32 (a b : Nat) : Nat :=
  if isNan32 a || isNan32 b then 0x7FC00000 else if key32 a < key32 b then b else a

/-- The value of a phase with one arrival more. -/
def combine (kind : Nat) (old : Option Nat) (v : Nat) : Option Nat :=
  let v := v % 2 ^ 32
  if kind = 3 then some (fmax32 (old.getD v) v)
  else if kind = 4 then some (let o := old.getD v; if sext o 32 < sext v 32 then v else o)
  else old

/-- The combining kind that an arrival fixes. -/
def combOf (kind : Nat) (c : Comb) : Comb := if kind = 3 then .fmax else if kind = 4 then .imax else c

/-- A channel that is not Idle has a member (R202). -/
def Chan.has (c : Chan) (m : Nat) : Bool := c.active && c.mask.getLsbD m

/-- An arrival of a member counts in the next phase (R199, R203). -/
def Chan.holds (c : Chan) (m : Nat) : Bool := c.arrived.getLsbD m || c.releasing

/-- An arrival names the other combining kind than the phase's (R202). -/
def Chan.clashes (c : Chan) (kind : Nat) : Bool := (kind == 3 && c.comb == .imax) || (kind == 4 && c.comb == .fmax)

/-- Every member of the mask has arrived. -/
def Chan.complete (c : Chan) : Bool := c.mask != 0 && (c.arrived &&& c.mask) == c.mask

/-- The release word of the phase in progress (R207). -/
def Chan.word (c : Chan) : Nat := bit c.dep * 2 ^ 63 + (c.phase + 1).toNat * 2 ^ 32 + c.val.getD 0

/-! ### Waiting -/

/-- A chain parks its context with reason barrier; the chain ends with the release. -/
def Hw.parkBar (h : Hw) (c : Cur) (sw clu : Bool) (ch : Nat) : Hw :=
  (h.parkChain c (.barrier clu ch)).modCur c (fun x => { x with plainSw := sw, swWait := false })

/-- The register of a release becomes empty (R203). -/
def Hw.barAwait (h : Hw) (core slot reg txn : Nat) : Hw :=
  if reg = 0 then h.modCtx core slot (fun x => { x with waiting := some (0, txn, false) })
  else
    let full := h.isFull core slot reg
    (h.awaitG core slot reg txn).modCtx core slot (fun x => { x with waiting := some (reg, txn, full) })

/-- The chain at which a context is parked ends, and the next may issue at a cycle. -/
def Hw.endParked (h : Hw) (core slot cyc : Nat) : Hw :=
  h.modCtx core slot (fun x =>
    match x.parkCur with
    | some c =>
      if x.st = .parked then
        ({ x.advance c.pc c.len with st := .ready, park := none, waiting := none, notBefore := cyc, swWait := x.plainSw }).settle
      else x
    | none => x)

/-- The context waits for the result of a transaction. -/
def Ctx.waitsFor (x : Ctx) (txn : Nat) : Bool :=
  x.st == .parked && (match x.waiting with | some (_, t, _) => t == txn | none => false)

/-- The result of a chain at which a context is parked is written, and the chain ends. -/
def Hw.endWaiting (h : Hw) (core slot txn : Nat) (v : Word) : Hw :=
  match (h.ctx core slot).waiting with
  | some (r, _, _) => (if r = 0 then h else h.landG core slot r txn v).endParked core slot h.now
  | none => h

/-! ### Arrivals and releases -/

/-- A release is decided (R207): it is written at cycle `due`, and the next phase begins. -/
def Hw.decide_ (h : Hw) (clu : Bool) (at_ ch due : Nat) : Hw :=
  let c := h.chan clu at_ ch
  (h.setChan clu at_ ch { c with
    arrived := 0, comb := .plain, val := none, dep := false, phase := c.phase + 1, releasing := true, waiters := [], splits := [],
    rels := c.rels ++ [⟨c.word, c.waiters, c.splits⟩] }).schedule due .barrierRelease (.nats [bit clu, at_, ch])

/-- An admitted arrival is recorded (R203): the member has arrived, its value is combined, a split arrival or a waiter is
noted. -/
def Hw.record (h : Hw) (clu : Bool) (at_ ch : Nat) (w : BarWait) : Hw :=
  let c := h.chan clu at_ ch
  let c1 := { c with
    arrived := c.arrived ||| BitVec.ofNat 64 (2 ^ w.member clu), comb := combOf w.kind c.comb, val := combine w.kind c.val w.val,
    splits := if w.kind = 1 then c.splits ++ [(w.core, w.slot, w.uid)] else c.splits,
    waiters := if w.kind = 1 then c.waiters else c.waiters ++ [w] }
  let h1 := h.setChan clu at_ ch c1
  if w.kind = 1 then
    if !h1.alive w.core w.slot w.uid then h1
    else
      h1.modCtx w.core w.slot (fun x =>
        let r : SplitRec := if clu then x.split else { SplitRec.none with valid := true, chan := ch }
        { x with arrHeld := false, split := if r.reld then r else { r with phase := c.phase.toNat } })
  else if ((h1.ctx w.core w.slot).waiting).isNone ∧ h1.alive w.core w.slot w.uid then h1.barAwait w.core w.slot w.reg w.txn
  else h1

/-- The cycle at which a release that an arrival completes is written (R207): an arrival of a core-scope channel is recorded in
the cycle of its issue, one of a cluster-scope channel by the step that stands at the beginning of the next cycle. -/
def relDelay (clu : Bool) : Nat := if clu then 5 else 2

/-- An arrival that its channel refuses (R202): precise, or deferred for a cluster-scope `.arr`. -/
def State.barRefuse (s : State) (clu : Bool) (w : BarWait) : State :=
  if !s.hw.alive w.core w.slot w.uid then s
  else
    let f := w.chain.fault .reservedValue 8 0
    if clu && w.kind == 1 then
      s.onHw fun h =>
        (h.modCtx w.core w.slot (fun x => if x.split.reld then x else { x with split := .none, arrHeld := false })).deferFault w.core w.slot f
    else s.onHw fun h => h.raise w.core w.slot f

/-- An arrival that counts in the next phase is held until then (R203); the context of a cluster-scope `.arr`, which has gone on, waits
from its next chain on. A wait is no part of a booking, so that of a booked context is a deferred fault (R316; log 109). -/
def State.barHold (s : State) (clu : Bool) (at_ ch : Nat) (w : BarWait) : State :=
  let x := s.hw.ctx w.core w.slot
  if w.kind = 1 ∧ s.hw.alive w.core w.slot w.uid ∧ x.booked then
    s.onHw fun h => (h.modCtx w.core w.slot (fun x => { x with split := .none })).deferFault w.core w.slot (w.chain.fault .calendarViolation 4 0)
  else s.onHw fun h =>
    let c := h.chan clu at_ ch
    let h1 := h.setChan clu at_ ch { c with held := c.held ++ [w] }
    if clu ∧ w.kind = 1 ∧ h.alive w.core w.slot w.uid then h1.modCtx w.core w.slot (fun x => { x with arrHeld := true }) else h1

/-- The release word that a split record keeps (R204, R246). -/
def SplitRec.word (r : SplitRec) : Nat := bit r.dep * 2 ^ 63 + r.phase % 65536 * 2 ^ 32 + r.val.toNat

/-- The split record as an image holds it (R246). -/
def SplitRec.quad (r : SplitRec) : Nat :=
  if r.valid then
    2 ^ 63 + bit r.clu * 2 ^ 62 + bit r.reld * 2 ^ 61 + bit r.dep * 2 ^ 60 + r.chan % 16 * 2 ^ 48 + r.phase % 65536 * 2 ^ 32 +
      r.val.toNat
  else 0

/-- The image of a Spilled context shows its split record as it is (R246, R250). -/
def State.mirrorSplit (s : State) (w : BarWait) : State :=
  let x := s.hw.ctx w.core w.slot
  if x.uid = w.uid ∧ w.kind = 1 ∧ x.st = .spilled ∧ x.imaged then
    s.onMem (fun m => m.putN (s.hw.imageKey w.core w.slot + 0x1E8) (bytesLE 8 x.split.quad))
  else s

/-- The arrivals that counted in no phase while a channel was Released are made again (R199, R203). -/
def State.retryHeld (s : State) (clu : Bool) (at_ ch : Nat) : List BarWait → State
  | [] => s
  | w :: r =>
    let c := s.hw.chan clu at_ ch
    let s1 :=
      if !s.hw.alive w.core w.slot w.uid then s
      else if !c.has (w.member clu) then s.barRefuse clu w
      else if c.holds (w.member clu) then s.barHold clu at_ ch w
      else if c.clashes w.kind then s.barRefuse clu w
      else
        s.onHw fun h =>
          let h1 := h.record clu at_ ch w
          let h2 := if (h1.chan clu at_ ch).complete then h1.decide_ clu at_ ch (h1.now + relDelay clu) else h1
          if w.kind = 1 ∧ !clu then h2.endParked w.core w.slot h2.now else h2
    (s1.mirrorSplit w).retryHeld clu at_ ch r

/-! ### BAR (R200 to R204, R209) -/

/-- A chain of BAR as its channel sees it. -/
def Hw.barWait (h : Hw) (c : Cur) (sw : Bool) (kind reg val : Nat) : BarWait :=
  ⟨c.core, c.slot, (h.curCtx c).uid, kind, val, reg, h.nextTxn, c, sw⟩

/-- An arrival of kind 0, 1, 3 or 4 at a core-scope channel (R203, R207). -/
def State.barCore (s : State) (c : Cur) (sw : Bool) (kind reg val ch : Nat) : State :=
  let w := s.hw.barWait c sw kind reg val
  let k := s.hw.chan false c.core ch
  if !k.has c.slot then s.faultWith c .reservedValue 8 0
  else if k.holds c.slot then
    if (s.hw.curCtx c).booked then s.faultWith c .calendarViolation 4 0
    else (s.onHw fun h => ({ h with nextTxn := h.nextTxn + 1 } : Hw).parkBar c sw false ch).barHold false c.core ch w
  else if k.clashes kind then s.faultWith c .reservedValue 8 0
  else
    s.onHw fun h =>
      let h0 : Hw := { h with nextTxn := h.nextTxn + 1 }
      if kind = 1 then
        let h1 := h0.record false c.core ch w
        (if (h1.chan false c.core ch).complete then h1.decide_ false c.core ch (h1.now + 2) else h1).retire c sw 1
      else
        let arr := { k with
          arrived := k.arrived ||| BitVec.ofNat 64 (2 ^ c.slot), comb := combOf kind k.comb, val := combine kind k.val val }
        if arr.complete then
          (((h0.setChan false c.core ch arr).decide_ false c.core ch (h0.now + 2)).setG c.core c.slot reg
            (BitVec.ofNat 64 arr.word) 2).retire c sw 2
        else (h0.parkBar c sw false ch).record false c.core ch w

/-- An arrival at a cluster-scope channel: the node records it at the end of cycle 4 (R207). -/
def State.barClu (s : State) (c : Cur) (sw : Bool) (kind reg val ch : Nat) : State :=
  s.onHw fun h =>
    let w := h.barWait c sw kind reg val
    let h0 : Hw := { h with nextTxn := h.nextTxn + 1 }
    let h1 :=
      if kind = 1 then
        (h0.modCur c (fun x => { x with split := { SplitRec.none with valid := true, clu := true, chan := ch } })).retire c sw 1
      else (h0.parkBar c sw true ch).barAwait c.core c.slot reg w.txn
    h1.after 5 .barrierArrivalAtNode (.words [w.core, w.slot, w.uid, kind, val, reg, w.txn, bit sw, ch, c.entry, c.pc, c.page, c.op,
      c.len, c.words, c.codeEnd] [])

/-- An arrival of a BAR (R203). -/
def State.barArrival (s : State) (c : Cur) (sw clu : Bool) (kind reg val ch : Nat) : State :=
  let x := s.hw.curCtx c
  if x.booked ∧ kind ≠ 1 then s.faultWith c .calendarViolation 4 0
  else if kind = 1 ∧ x.split.valid then s.faultWith c .reservedValue 11 0
  else if x.fenced .w then s.onHw (fun h => h.parkChain c .fence)
  else if clu then s.barClu c sw kind reg val ch
  else s.barCore c sw kind reg val ch

/-- BAR of kind 0. -/
def execBar (sw clu : Bool) (a : GReg) (ch : BitVec 4) (s : State) : Res :=
  s.withCur fun c => s.barArrival c sw clu 0 a.toNat 0 ch.toNat

/-- BAR of kind `.arr`. -/
def execBarArr (sw clu : Bool) (ch : BitVec 4) (s : State) : Res :=
  s.withCur fun c => s.barArrival c sw clu 1 0 0 ch.toNat

/-- BAR of kind `.fmax`. -/
def execBarFmax (sw clu : Bool) (a : GReg) (ch : BitVec 4) (s : State) : Res :=
  s.withCur fun c =>
    if (s.hw.curCtx c).booked then s.faultWith c .calendarViolation 4 0
    else s.reads c [a.toNat] (s.barArrival c sw clu 3 a.toNat (s.hw.cg c a).toNat ch.toNat)

/-- BAR of kind `.imax`. -/
def execBarImax (sw clu : Bool) (a : GReg) (ch : BitVec 4) (s : State) : Res :=
  s.withCur fun c =>
    if (s.hw.curCtx c).booked then s.faultWith c .calendarViolation 4 0
    else s.reads c [a.toNat] (s.barArrival c sw clu 4 a.toNat (s.hw.cg c a).toNat ch.toNat)

/-- BAR of kind `.wt` (R204). -/
def execBarWt (sw clu : Bool) (a : GReg) (ch : BitVec 4) (s : State) : Res :=
  s.withCur fun c =>
    let x := s.hw.curCtx c
    if !x.split.valid ∨ x.split.clu ≠ clu ∨ x.split.chan ≠ ch.toNat then s.faultWith c .reservedValue 11 0
    else if x.split.reld then
      s.onHw fun h =>
        ((h.modCur c (fun y => { y with split := .none })).setG c.core c.slot a.toNat (BitVec.ofNat 64 x.split.word) 2).retire c sw 1
    else if x.booked then s.faultWith c .calendarViolation 4 0
    else s.onHw fun h =>
      ((({ h with nextTxn := h.nextTxn + 1 } : Hw).parkBar c sw clu ch.toNat).barAwait c.core c.slot a.toNat h.nextTxn).modCur c
        (fun y => { y with split := { y.split with wt := some h.nextTxn } })

/-- A new mask is set, or the channel is disarmed (R201). -/
def Hw.arm (h : Hw) (clu : Bool) (at_ ch mk due : Nat) : Hw :=
  let c := h.chan clu at_ ch
  if mk ≠ 0 then
    h.setChan clu at_ ch { c with
      active := true, mask := BitVec.ofNat 64 mk, arrived := 0, dep := false, comb := .plain, val := none, releasing := false }
  else
    let h1 := if c.active ∧ c.arrived ≠ 0 ∧ !c.releasing then (h.setChan clu at_ ch { c with dep := true }).decide_ clu at_ ch due else h
    h1.setChan clu at_ ch { h1.chan clu at_ ch with active := false, mask := 0, arrived := 0, dep := false, releasing := false }

/-- The channel is Gathering (R199). -/
def Chan.gathering (c : Chan) : Bool := c.active && c.arrived != 0 && !c.releasing

/-- Why an `.arm` is refused: FRA.SUB and FRB (R201). -/
def Hw.armRefused (h : Hw) (clu : Bool) (at_ ch mk : Nat) : Option (Nat × Nat) :=
  let c := h.chan clu at_ ch
  if clu ∧ (bits mk 63 16 ≠ 0 ∨ (List.range 16).any (fun i => bitAt mk i && h.coreDisabled (at_ * 16 + i))) then some (8, mk)
  else if !clu ∧ (h.core at_).wheel ∧ bits mk 63 16 ≠ 0 then some (8, mk)
  else if c.gang then some (9, ch)
  else if c.gathering ∧ mk ≠ 0 then some (10, ch)
  else none

/-- BAR of kind `.arm` (R201). -/
def execBarArm (sw clu : Bool) (a : GReg) (ch : BitVec 4) (s : State) : Res :=
  s.withCur fun c =>
    if clu ∧ (s.hw.curCtx c).booked then s.faultWith c .calendarViolation 4 0
    else s.reads c [a.toNat] <|
      let mk := (s.hw.cg c a).toNat
      if clu then
        s.onHw fun h => (h.parkBar c sw true ch.toNat).after 5 .barrierArmApplied (.nats [c.core, c.slot, (h.curCtx c).uid, ch.toNat, mk])
      else
        match s.hw.armRefused false c.core ch.toNat mk with
        | some (sub, frb) => s.faultWith c .reservedValue sub frb
        | none => s.onHw fun h => (h.arm false c.core ch.toNat mk (h.now + 2)).retire c sw 1

/-! ### The steps of a channel -/

/-- The node applies a cluster-scope `.arm` (R201). -/
def execBarrierArmApplied (s : State) : Res :=
  match s.hw.arg with
  | .nats [core, slot, uid, ch, mk] =>
    .next <|
      let clu := clusterOf core
      if !s.hw.alive core slot uid then s
      else
        match s.hw.armRefused true clu ch mk, (s.hw.ctx core slot).parkCur with
        | some (sub, frb), some c => s.onHw (fun h => h.raise core slot (c.fault .reservedValue sub frb))
        | _, _ => s.onHw (fun h => (h.arm true clu ch mk (h.now + 5)).endParked core slot (h.now + 3))
  | _ => .fault .noArgument

/-- The node records an arrival, or refuses it (R202, R203, R208). -/
def execBarrierArrivalAtNode (s : State) : Res :=
  match s.hw.arg with
  | .words [core, slot, uid, kind, val, reg, txn, sw, ch, entry, pc, page, op, len, words, codeEnd] _ =>
    .next <|
      let w : BarWait := ⟨core, slot, uid, kind, val, reg, txn, ⟨core, slot, entry, pc, page, op, len, words, codeEnd⟩, sw == 1⟩
      let clu := clusterOf core
      let c := s.hw.chan true clu ch
      if kind ≠ 1 ∧ !s.hw.alive core slot uid then s
      else if !c.has (core % 16) then s.barRefuse true w
      else if c.holds (core % 16) then s.barHold true clu ch w
      else if c.clashes kind then s.barRefuse true w
      else
        (s.onHw fun h =>
          let h1 := h.record true clu ch w
          if (h1.chan true clu ch).complete then h1.decide_ true clu ch (h1.now + 5) else h1).mirrorSplit w
  | _ => .fault .noArgument

/-- A split arrival's phase is released (R204, R250): the record keeps the word, or the `.wt` that waits for it ends. -/
def State.splitReleased (s : State) (clu : Bool) (ch word : Nat) (p : Nat × Nat × Nat) : State :=
  let x := s.hw.ctx p.1 p.2.1
  if !s.hw.alive p.1 p.2.1 p.2.2 ∨ !x.split.valid ∨ x.split.clu ≠ clu ∨ x.split.chan ≠ ch then s
  else if x.split.wt.any (fun t => x.waitsFor t) then
    s.onHw fun h => (h.modCtx p.1 p.2.1 (fun y => { y with split := .none })).endWaiting p.1 p.2.1 (x.split.wt.getD 0) (BitVec.ofNat 64 word)
  else
    let r : SplitRec :=
      { x.split with reld := true, dep := bitAt word 63, phase := bits word 47 32, val := BitVec.ofNat 32 word, wt := none }
    let s1 := s.onHw (fun h => h.modCtx p.1 p.2.1 (fun y => { y with split := r }))
    if x.st = .spilled ∧ x.imaged then
      s1.onMem (fun m => m.putN (s.hw.imageKey p.1 p.2.1 + 0x1E8)
        (bytesLE 8 r.quad))
    else s1

/-- The waiters of a phase and its split records receive the release word (R207). -/
def execBarrierRelease (s : State) : Res :=
  match s.hw.arg with
  | .nats [b, at_, ch] =>
    .next <|
      let clu := b == 1
      let c := s.hw.chan clu at_ ch
      match c.rels with
      | [] => s
      | r :: rest =>
        let s1 := s.onHw (fun h => h.setChan clu at_ ch { c with
          rels := rest, releasing := c.releasing && rest != [], held := if rest = [] then [] else c.held })
        let s2 := r.waiters.foldl (fun s w =>
          if s.hw.alive w.core w.slot w.uid && (s.hw.ctx w.core w.slot).waitsFor w.txn then
            s.onHw (fun h => h.endWaiting w.core w.slot w.txn (BitVec.ofNat 64 r.word))
          else s) s1
        let s3 := r.splits.foldl (fun s p => s.splitReleased clu ch r.word p) s2
        if rest = [] then s3.retryHeld clu at_ ch c.held else s3
  | _ => .fault .noArgument

/-- A slot departs from one channel of its core (R206). -/
def Hw.departChan (h : Hw) (core slot ch : Nat) : Hw :=
  let c := h.chan false core ch
  if !c.active ∨ !c.mask.getLsbD slot then h
  else
    let mask := c.mask &&& ~~~(BitVec.ofNat 64 (2 ^ slot))
    if mask = 0 then
      h.setChan false core ch { c with active := false, mask := 0, arrived := 0, dep := false, releasing := false }
    else
      let c1 := { c with mask := mask, dep := true }
      let h1 := h.setChan false core ch c1
      if c1.complete ∧ !c.releasing then h1.decide_ false core ch (h.now + 3) else h1

/-- A member departs (R206). -/
def execBarrierDeparture (s : State) : Res :=
  match s.hw.arg with
  | .nats [core, slot] => .next (s.onHw fun h => (List.range 8).foldl (fun h ch => h.departChan core slot ch) h)
  | _ => .fault .noArgument

end Sys2Proof.Machine
end

