-- ==== Sys2Proof/Machine/Group.lean ====
section
/-! DEFINITION. Gangs and pipes (16_group). -/

namespace Sys2Proof.Machine

/-! ### The gang word (R330, R332) -/

/-- Columns and rows of a shape (R330). -/
def gangShape : Nat → Option (Nat × Nat)
  | 0 => some (1, 1) | 1 => some (1, 2) | 2 => some (2, 1) | 3 => some (2, 2) | 4 => some (1, 4) | 5 => some (4, 1)
  | 6 => some (2, 4) | 7 => some (4, 2) | 8 => some (4, 4) | _ => none

/-- Core fields of a rectangle, by member index (R17, R330). -/
def rectFields (x0 y0 w h : Nat) : List Nat :=
  (List.range h).flatMap (fun y => (List.range w).map (fun x => 4 * (y0 + y) + (x0 + x)))

/-- The members that a gang word names in a cluster, none where R330 or R332 refuses it. -/
def Hw.gangRect (h : Hw) (clu w : Nat) : Option (List Nat) :=
  if bits w 63 32 ≠ 0 ∨ bits w 7 4 ≠ 0 then none
  else
    match gangShape (bits w 11 8) with
    | none => none
    | some (cw, ch) =>
      if 4 < bits w 13 12 + cw ∨ 4 < bits w 15 14 + ch then none
      else
        let ms := (rectFields (bits w 13 12) (bits w 15 14) cw ch).map (fun f => clu * 16 + f)
        if ms.any (fun m => h.coreDisabled m) then none else some ms

/-- The status word (R335). -/
def gangStatus (cancel : Bool) (chan gid count index : Nat) : Word :=
  BitVec.ofNat 64 (bit cancel * 2 ^ 63 + chan % 16 * 2 ^ 32 + gid % 65536 * 65536 + count % 16 * 16 + index % 16)

/-- The index of a core in a list of members. -/
def indexOf (l : List Nat) (m : Nat) : Nat := (l.takeWhile (fun x => x != m)).length

/-- A gang. -/
def Hw.gang (h : Hw) (clu g : Nat) : Option Gang := SMap.find? (h.cluster clu).gangs g

/-- Replaces a gang. -/
def Hw.setGang (h : Hw) (clu g : Nat) (x : Gang) : Hw := h.modCluster clu (fun c => { c with gangs := SMap.set c.gangs g x })

/-- The status word of a member. -/
def Gang.status (x : Gang) (g core : Nat) (cancel : Bool) : Word :=
  gangStatus cancel g x.gid (x.members.length - 1) (if x.members.contains core then indexOf x.members core else 0)

/-! ### Pipe tables (R333) -/

/-- An entry of a pipe table: EP, DIR, PEER, BUF, WIDTH, DEPTH. -/
structure PipeEntry where
  ep : Nat
  read : Bool
  peer : Nat
  buf : Nat
  width : Nat
  depth : Nat
deriving DecidableEq, Repr

/-- Reads an entry. -/
def pipeEntry (q : Nat) : PipeEntry :=
  ⟨bits q 2 0, bitAt q 3, bits q 7 4, bits q 27 8, 32 * (bits q 32 28 + 1), bits q 38 33 + 1⟩

/-- A table as the node checks it: the header and the entries are well formed. -/
def tableFormed (t : List Nat) : Bool :=
  match t with
  | [] => true
  | hd :: es => decide (hd ≤ 8) && decide (es.length = hd) && es.all (fun q => bits q 63 39 == 0 && bits q 12 8 == 0)

/-- Entries of a joined member's table. -/
def GangJoin.entries (j : GangJoin) : List PipeEntry := (j.table.drop 1).map pipeEntry

/-- An entry at one end matches one at the other. -/
def pipeMatch (i j : Nat) (e f : PipeEntry) : Bool :=
  e.ep == f.ep && e.read != f.read && e.peer == j && f.peer == i && e.buf == f.buf && e.width == f.width && e.depth == f.depth

/-- A ring lies where R333 lets it, in the reader's scratchpad. -/
def Core.ringOk (k : Core) (e : PipeEntry) : Bool :=
  let top := e.buf + e.width * e.depth
  decide (e.width * e.depth ≤ 65536) && decide (top ≤ 0x5C000) && (k.deqb == k.deql || decide (top ≤ k.deqb)) &&
    (k.ovfb == k.ovfl || decide (top ≤ k.ovfb))

/-- The tables of a gang are valid (R333). -/
def Hw.gangValid (h : Hw) (x : Gang) : Bool :=
  let idx (j : GangJoin) : Nat := indexOf x.members j.core
  x.joins.all (fun j =>
    tableFormed j.table &&
      j.entries.all (fun e =>
        decide ((j.entries.filter (fun f => f.ep == e.ep)).length = 1) &&
          decide (((x.joins.filter (fun o => idx o == e.peer)).flatMap (fun o =>
            o.entries.filter (fun f => pipeMatch (idx j) (idx o) e f))).length = 1) &&
          (h.core (if e.read then j.core else x.members.getD e.peer 0)).ringOk e))

/-- The endpoints that a table gives its core (R338). -/
def GangJoin.pipes (j : GangJoin) (members : List Nat) : SMap Pipe :=
  j.entries.foldl (fun m e => SMap.set m e.ep ⟨!e.read, members.getD e.peer 0, e.buf, e.width, e.depth, 0, 0, 0, false⟩) []

/-! ### Forming and retiring (R334, R336, R337) -/

/-- The channel of a gang that has retired is Idle, and its endpoints are cleared. -/
def Hw.gangRetire (h : Hw) (clu g : Nat) : Hw :=
  match h.gang clu g with
  | none => h
  | some x =>
    let h1 := h.modCluster clu (fun c => { c with gangs := SMap.erase c.gangs g })
    let k := h1.chan true clu g
    let h2 := h1.setChan true clu g { k with active := false, mask := 0, arrived := 0, dep := false, releasing := false, gang := false }
    let h3 := x.members.foldl (fun h m => h.modCore m (fun c => { c with pipes := [] })) h2
    x.joins.foldl (fun h j =>
      if h.alive j.core j.slot j.uid then
        h.modCtx j.core j.slot (fun y => if y.gang = some (clu, g) then { y with gang := none } else y)
      else h) h3

/-- Contexts parked on a pipe of a core go on in the next cycle (R341). -/
def Hw.wakePipes (h : Hw) (core : Nat) (p : Nat → Bool) : Hw :=
  (h.core core).slots.foldl (fun h (e : Nat × Ctx) =>
    match e.2.park with
    | some (.pipe ep) => if p ep then h.wakeAt core e.1 (h.now + 1) else h
    | _ => h) h

/-- A member leaves its gang (R336, R339): the last one retires it; the peers of its pipes see that it has gone. -/
def Hw.gangLeave (h : Hw) (core slot : Nat) : Hw :=
  match (h.ctx core slot).gang with
  | none => h
  | some (clu, g) =>
    let h0 := h.modCtx core slot (fun x => { x with gang := none })
    match h0.gang clu g with
    | none => h0
    | some x =>
      let y := { x with left := core :: x.left }
      let h1 := h0.setGang clu g y
      if x.members.all (fun m => y.left.contains m) then h1.gangRetire clu g
      else x.members.foldl (fun h m => h.wakePipes m (fun ep =>
        match SMap.find? (h.core m).pipes ep with | some p => p.peer == core | none => false)) h1

/-- Every member has joined: the gang is Formed, with its endpoints, and the members' status comes at `due`; or its tables are
invalid, every member faults, and the channel is Idle (R333, R334). -/
def Hw.gangFormed (h : Hw) (clu g due : Nat) : Hw :=
  match h.gang clu g with
  | none => h
  | some x =>
    if h.gangValid x then
      let h1 := x.joins.foldl (fun h j =>
        let h2 := h.modCore j.core (fun k => { k with pipes := j.pipes x.members })
        if h2.alive j.core j.slot j.uid then h2.modCtx j.core j.slot (fun y => { y with gang := some (clu, g) }) else h2) h
      (h1.setGang clu g { x with state := .formed, formedAt := h.now }).schedule due .gangRelease (.nats [clu, g, x.word, x.booking])
    else
      (x.joins.foldl (fun h j =>
        if h.alive j.core j.slot j.uid then h.raise j.core j.slot (j.chain.fault .reservedValue 27 0) else h) h).gangRetire clu g

/-- Every member has joined. -/
def Gang.joined (x : Gang) : Bool := x.members.all (fun m => x.joins.any (fun o => o.core == m))

/-- A member joins (R334); the release that the last one lets go is decided a cycle later. -/
def Hw.gangJoin (h : Hw) (clu g : Nat) (x : Gang) (j : GangJoin) : Hw :=
  let y := { x with joins := x.joins ++ [j] }
  let h1 := (h.setGang clu g y).modCtx j.core j.slot (fun y => { y with gang := some (clu, g) })
  if y.joined then h1.after 1 .gangRelease (.nats [clu, g, x.word, x.booking]) else h1

/-- A channel that a gang can hold. -/
def Chan.idleNow (c : Chan) : Bool := !c.active && !c.gang && !c.releasing

/-- A gang holds a channel: its mask is the rectangle. -/
def Hw.holdChan (h : Hw) (clu g : Nat) (members : List Nat) : Hw :=
  let k := h.chan true clu g
  let mask := members.foldl (fun m c => m ||| BitVec.ofNat 64 (2 ^ (c % 16))) 0
  h.setChan true clu g { k with active := true, mask := mask, arrived := 0, dep := false, comb := .plain, val := none, gang := true }

/-- The gang that a booking's staging holds for it (R337). -/
def Hw.bookedGang (h : Hw) (clu num : Nat) : Option (Nat × Gang) :=
  List.find? (fun (e : Nat × Gang) => e.2.booking == num) (h.cluster clu).gangs

/-! ### GANG (R334) -/

/-- Reads the pipe table of a GANG: none named, or its header and entries. -/
def State.gangTable (s : State) (c : Cur) (off : Nat) (k : List Nat → State → State) : State :=
  if off = 0 then k [] s
  else
    s.scratchCheck c 0 off 8 { r := true } 32 0 fun a =>
      s.plainRead c a 8 fun hb s1 =>
        let hd := valLE hb
        let n := if hd ≤ 8 then hd else 0
        s1.scratchCheck c 0 off (8 + 8 * n) { r := true } 32 0 fun a =>
          s1.plainRead c (a + 8) (8 * n) fun bs s2 =>
            k (hd :: (List.range n).map (fun i => valLE ((bs.drop (8 * i)).take 8))) s2

/-- The common course of GANG and GANG.cancel. -/
def State.gangForm (s : State) (c : Cur) (sw cancel : Bool) (a b : GReg) : State :=
  s.window c (b.toNat + 1) <| s.reads c [b.toNat, b.toNat + 1] <|
    let x := s.hw.curCtx c
    let clu := clusterOf c.core
    let w := (s.hw.cg c b).toNat
    let off := (s.hw.cgn c (b.toNat + 1)).toNat
    if x.booked then
      match s.hw.bookedGang clu x.bookid.toNat with
      | none => s.faultWith c .calendarViolation 4 w
      | some (g, gang) =>
        if cancel ∨ w ≠ 0 then s.faultWith c .calendarViolation 4 w
        else
          s.gangTable c off fun t s1 =>
            if gang.state ≠ .forming ∨ gang.joins.any (fun o => o.core == c.core) then s1.faultWith c .reservedValue 26 w
            else
              s1.onHw fun h => (((h.setG c.core c.slot a.toNat (gang.status g c.core false) 2).retire c sw 1).gangJoin clu g gang
                ⟨c.core, c.slot, x.uid, a.toNat, 0, c, sw, t⟩)
    else
      match s.hw.gangRect clu w with
      | none => s.faultWith c .reservedValue 25 w
      | some ms =>
        if !ms.contains c.core then s.faultWith c .reservedValue 25 w
        else
          s.gangTable c off fun t s1 =>
            s1.onHw fun h =>
              let txn := h.nextTxn
              let h1 := (({ h with nextTxn := txn + 1 } : Hw).parkBar c sw false 0).barAwait c.core c.slot a.toNat txn
              let h2 := h1.modCur c (fun y => { y with park := some (.barrier true (bits w 3 0)) })
              let d := if off = 0 then 4 else 7 + (8 + 8 * (t.length - 1) + 31) / 32
              h2.after (d + 1) .gangJoinAtNode
                (.words ([c.core, c.slot, x.uid, w, a.toNat, txn, bit sw, bit cancel, c.entry, c.pc, c.page, c.op, c.len, c.words, c.codeEnd] ++
                  t) [])

/-- GANG joins a gang. -/
def execGang (sw : Bool) (a b : GReg) (s : State) : Res := s.withCur fun c => s.gangForm c sw false a b

/-- GANG.cancel dissolves a gang that is still forming. -/
def execGangCancel (sw : Bool) (a b : GReg) (s : State) : Res := s.withCur fun c => s.gangForm c sw true a b

/-- The results of a cancelled gang are on their way (R334). -/
def Hw.gangCancelled (h : Hw) (g : Nat) (x : Gang) (j : GangJoin) : Hw :=
  h.after 5 .gangRelease (.nats [j.core, j.slot, j.uid, j.txn, (x.status g j.core true).toNat])

/-- The node records a join or a cancellation (R334). -/
def execGangJoinAtNode (s : State) : Res :=
  match s.hw.arg with
  | .words (core :: slot :: uid :: w :: reg :: txn :: sw :: cancel :: entry :: pc :: page :: op :: len :: words :: codeEnd :: table) _ =>
    .next <|
      let clu := clusterOf core
      let g := bits w 3 0
      let j : GangJoin := ⟨core, slot, uid, reg, txn, ⟨core, slot, entry, pc, page, op, len, words, codeEnd⟩, sw == 1, table⟩
      if !s.hw.alive core slot uid then s
      else s.onHw fun h =>
        match h.gang clu g, h.gangRect clu w with
        | some x, _ =>
          if x.state = .forming ∧ x.booking = 0 ∧ x.word = w then
            if cancel = 1 then
              (x.joins.foldl (fun h o => h.gangCancelled g x o) ((h.gangRetire clu g).gangCancelled g x j))
            else if x.joins.any (fun o => o.core == core) then h.raise core slot (j.chain.fault .reservedValue 26 w)
            else h.gangJoin clu g x j
          else if cancel = 1 then h.after 5 .gangRelease (.nats [core, slot, uid, txn, 2 ^ 63])
          else h.raise core slot (j.chain.fault .reservedValue 26 w)
        | none, some ms =>
          if cancel = 1 then h.after 5 .gangRelease (.nats [core, slot, uid, txn, 2 ^ 63])
          else if (h.chan true clu g).idleNow then
            (h.holdChan clu g ms).gangJoin clu g ⟨w, bits w 31 16, 0, ms, [], [], .forming, 0, 0⟩ j
          else h.raise core slot (j.chain.fault .reservedValue 26 w)
        | none, none => h.raise core slot (j.chain.fault .reservedValue 26 w)
  | _ => .fault .noArgument

/-- The members of a gang receive their status (R334, R335); a booked gang becomes Formed (R337). -/
def execGangRelease (s : State) : Res :=
  match s.hw.arg with
  | .nats [clu, g, w, booking] =>
    .next (s.onHw fun h =>
      match h.gang clu g with
      | none => h
      | some x =>
        if x.word ≠ w ∨ x.booking ≠ booking then h
        else if x.state = .forming then (if x.joined then h.gangFormed clu g (h.now + 4) else h)
        else if booking ≠ 0 then h
        else
          x.joins.foldl (fun h j =>
            if h.alive j.core j.slot j.uid && (h.ctx j.core j.slot).waitsFor j.txn then
              h.endWaiting j.core j.slot j.txn (x.status g j.core false)
            else h) h)
  | .nats [core, slot, uid, txn, v] =>
    .next (s.onHw fun h =>
      if h.alive core slot uid && (h.ctx core slot).waitsFor txn then h.endWaiting core slot txn (BitVec.ofNat 64 v) else h)
  | _ => .fault .noArgument

/-! ### A member's fault (R339) -/

/-- A plain access of a context is given up: its registers are as they were. -/
def Hw.dropAccess (h : Hw) (core slot : Nat) : Hw :=
  let x := h.ctx core slot
  ((h.core core).out.filter (fun o => o.uid == x.uid && !o.acc.relaxed)).foldl (fun h o =>
    h.undoAwait core slot o.acc.txn (accRegs o.acc.op) o.wasFull) h

/-- A member takes GangMember: at once where it is parked, else before its next chain. -/
def Hw.takeGangMember (h : Hw) (core slot first : Nat) : Hw :=
  let x := h.ctx core slot
  let f : FaultRec := { cause := .gangMember, sub := 0, frb := first, ahi := 0, pc := x.pc, entry := x.entry, page := 0, op := 0, widx := 0 }
  if x.st = .parked then
    (h.dropAccess core slot).raise core slot (match x.parkCur with | some c => c.fault .gangMember 0 first | none => f)
  else if x.st = .ready then h.modCtx core slot (fun x => { x with deferred := f :: x.deferred })
  else h

/-- The `.g` commands of a gang that have not started fail when it breaks (R410). -/
def Hw.matBreak (h : Hw) (clu g : Nat) (x : Gang) : Hw :=
  let mine (m : MCmd) : Bool := match m.gang with | some (ch, formed, _) => ch == g && formed == x.formedAt | none => false
  let h1 := h.modCluster clu (fun c => { c with mphases := c.mphases.filter (fun p => !(p.chan == g && p.formed == x.formedAt)) })
  x.members.foldl (fun h core =>
    let h2 := h.modCore core (fun k => { k with
      aq := k.aq.map (fun m => if mine m then { m with broken := true } else m),
      arun := k.arun.map (fun m => if mine m then { m with broken := true } else m) })
    match (h2.core core).arun with
    | some m => if mine m && !m.computing && decide (m.start ≤ h.now) then h2.schedule h.now .mmaExec (.nats [core, m.txn, 6]) else h2
    | none => h2) h1

/-- A member of a Formed gang has moved to Faulted: the gang is Broken, and the others take GangMember (R339). -/
def execGangMemberFault (s : State) : Res :=
  match s.hw.arg with
  | .nats [clu, g, core] =>
    .next (s.onHw fun h =>
      match h.gang clu g with
      | none => h
      | some x =>
        if x.state ≠ .formed then h
        else
          let h1 := (h.setGang clu g { x with state := .broken, faulted := core }).matBreak clu g x
          x.joins.foldl (fun h j =>
            if j.core ≠ core && h.alive j.core j.slot j.uid && (h.ctx j.core j.slot).gang == some (clu, g) then
              h.takeGangMember j.core j.slot core
            else h) h1)
  | _ => .fault .noArgument

/-! ### Pipes (R340, R341) -/

/-- The Formed gang of a core. -/
def Hw.formedGang (h : Hw) (core : Nat) : Option Gang :=
  (List.find? (fun (e : Nat × Gang) => e.2.state == .formed && e.2.members.contains core) (h.cluster (clusterOf core)).gangs).map
    (fun e => e.2)

/-- Hops of the gang links between two cores of a cluster (R331). -/
def gangHops (a b : Nat) : Nat :=
  let d (x y : Nat) : Nat := (x - y) + (y - x)
  d (a % 4) (b % 4) + d (a / 4 % 4) (b / 4 % 4)

/-- The endpoint of a pipe form, or its fault (R340), which has no detail (R82). -/
def State.endpoint (s : State) (c : Cur) (ep : Nat) (write : Bool) (k : Gang → Pipe → State) : State :=
  if 8 ≤ ep then s.faultWith c .reservedValue 29 0
  else
    match s.hw.formedGang c.core, SMap.find? (s.hw.core c.core).pipes ep with
    | some g, some p => if p.write = write then k g p else s.faultWith c .reservedValue 28 0
    | _, _ =>
      if (s.hw.curCtx c).booked ∧ (s.hw.bookedGang (clusterOf c.core) (s.hw.curCtx c).bookid.toNat).any (fun e => e.2.state == .forming) then
        s.faultWith c .calendarViolation 6 0
      else s.faultWith c .reservedValue 28 0

/-- Replaces an endpoint. -/
def Hw.setPipe (h : Hw) (core ep : Nat) (p : Pipe) : Hw := h.modCore core (fun k => { k with pipes := SMap.set k.pipes ep p })

/-- PIPEW (R340, R341): a release, so that its entry is read and sent once the earlier stores of its context have been performed. -/
def execPipew (sw : Bool) (a : GReg) (ep : BitVec 4) (s : State) : Res :=
  s.withCur fun c =>
    s.endpoint c ep.toNat true fun g p =>
      s.reads c [a.toNat] <|
        s.scratchCheck c 0 (s.hw.cg c a).toNat p.width { r := true } 32 0 fun src =>
          if (s.hw.curCtx c).fenced .w then s.onHw (fun h => h.parkChain c .fence)
          else if g.left.contains p.peer then s.onHw (fun h => h.retire c sw 1)
          else if (p.wc - p.fc).toNat = p.depth then
            if (s.hw.curCtx c).booked then s.faultWith c .calendarViolation 6 0
            else s.onHw (fun h => h.parkChain c (.pipe ep.toNat))
          else
            s.onHw fun h =>
              let txn := h.nextTxn
              let uid := (h.curCtx c).uid
              let send : HeldSend := ⟨none, some (1, .pipeEntryArrival,
                .nats [c.core, c.slot, uid, txn, ep.toNat, p.peer, p.buf + p.width * (p.wc.toNat % p.depth), src, p.width]), h.earlierStores c⟩
              ((((({ h with nextTxn := txn + 1 } : Hw).setPipe c.core ep.toNat { p with wc := p.wc + 1 }).modCore c.core (fun k =>
                { k with pipeq := k.pipeq ++ [(uid, txn)], sends := k.sends ++ [send] })).sendKick c.core)).retire c sw 1

/-- A pipe entry is sent (first form): its bytes, tags and poison leave in the order of the `PIPEW` chains (R331), to be written after the
context's earlier entries (R342). -/
def State.pipeSend (s : State) (core slot uid txn ep peer off src width : Nat) : State :=
  let tags := (piecesOf src width).map (fun q => s.mem.tagOf q.key + 4096 * bit (s.mem.isPoison q.key))
  let bs := s.mem.readN src width
  s.onHw fun h =>
    let k := h.core core
    let start := max h.now k.pipeLink
    let rows := (width + 127) / 128
    let at_ := max (start + 3 + 2 * gangHops core peer + rows) (SMap.get 0 k.pipeLast slot)
    (h.modCore core (fun k => { k with pipeLink := start + rows, pipeLast := SMap.set k.pipeLast slot at_ })).schedule at_ .pipeEntryArrival
      (.blob ([core, slot, uid, txn, ep, peer, off] ++ tags) bs)

/-- A pipe entry leaves its writer, or is written at the reader: whole, sector by sector, with the source sectors' tags, and counts in the
reader's Wc (R340, R341); at a core whose image is taken it is held (R262). -/
def execPipeEntryArrival (s : State) : Res :=
  match s.hw.arg with
  | .nats [core, slot, uid, txn, ep, peer, off, src, width] => .next (s.pipeSend core slot uid txn ep peer off src width)
  | .blob (core :: slot :: uid :: txn :: ep :: peer :: off :: tags) bs =>
    .next <|
      if (s.hw.core peer).imaging then s.onHw (fun h => h.holdIn peer .pipeEntryArrival s.hw.arg)
      else
        let ended (s : State) : State := s.onHw fun h =>
          (h.modCore core (fun k => { k with pipeq := k.pipeq.filter (fun e => e.2 != txn) })).opDone core slot uid txn
        match SMap.find? (s.hw.core peer).pipes ep with
        | none => ended s
        | some p =>
          let key := scratchKey peer off
          let s1 := (tags.zip (List.range tags.length)).foldl (fun s t =>
            (s.bankWrite (key + 32 * t.2) ((bs.drop (32 * t.2)).take 32) (some (t.1 % 4096))).onMem (fun m =>
              m.setPoison (key + 32 * t.2) (4096 ≤ t.1))) s
          (ended s1).onHw fun h => (h.setPipe peer ep { p with wc := p.wc + 1 }).wakePipes peer (fun e => e == ep)
  | _ => .fault .noArgument

/-- A PIPER frees the entry taken before (R340): the writer's count follows 2 + 2h cycles later (R341). -/
def Hw.pipeFree (h : Hw) (core ep : Nat) (p : Pipe) : Hw :=
  if p.held then
    (h.setPipe core ep { p with held := false, fc := p.fc + 1 }).after (2 + 2 * gangHops core p.peer) .pipeFreeReport (.nats [p.peer, ep])
  else h

/-- PIPER takes the next entry (R340). -/
def execPiper (sw : Bool) (a : GReg) (ep : BitVec 4) (s : State) : Res :=
  s.withCur fun c =>
    s.endpoint c ep.toNat false fun g p =>
      let ended := g.left.contains p.peer && ((SMap.find? (s.hw.core p.peer).pipes ep.toNat).map (fun q => q.wc) == some p.wc)
      let h1 := s.hw.pipeFree c.core ep.toNat p
      if p.tc = p.wc then
        if ended then { s with hw := (h1.setG c.core c.slot a.toNat (BitVec.allOnes 64) 2).retire c sw 1 }
        else if (s.hw.curCtx c).booked then s.faultWith c .calendarViolation 6 0
        else { s with hw := h1.parkChain c (.pipe ep.toNat) }
      else
        let q : Pipe := { p with held := true, tc := p.tc + 1, fc := if p.held then p.fc + 1 else p.fc }
        { s with hw := ((h1.setPipe c.core ep.toNat q).setG c.core c.slot a.toNat
            (BitVec.ofNat 64 (p.buf + p.width * (p.tc.toNat % p.depth))) 2).retire c sw 1 }

/-- PIPER.done frees the held entry (R340). -/
def execPiperDone (sw : Bool) (ep : BitVec 4) (s : State) : Res :=
  s.withCur fun c => s.endpoint c ep.toNat false fun _ p => s.onHw (fun h => (h.pipeFree c.core ep.toNat p).retire c sw 1)

/-- A freed entry reaches the writer's Fc (R341). -/
def execPipeFreeReport (s : State) : Res :=
  match s.hw.arg with
  | .nats [core, ep] =>
    .next (s.onHw fun h =>
      match SMap.find? (h.core core).pipes ep with
      | some p => (h.setPipe core ep { p with fc := p.fc + 1 }).wakePipes core (fun e => e == ep)
      | none => h)
  | _ => .fault .noArgument

end Sys2Proof.Machine
end

