-- ==== Sys2Proof/Machine/Numbers.lean ====
section
/-! DEFINITION. Number formats, rounding, blocks and scales, fixed orders of summation (17_numbers), and the special functions
(18_vector R385). -/

namespace Sys2Proof.Machine

/-! ### Values and formats (R344, R345) -/

/-- The value of a floating-point operand: a NaN, an infinity, or a fraction with a sign of its own; `den` is not 0. -/
inductive FV where
  | nan
  | inf (neg : Bool)
  | fin (neg : Bool) (num den : Nat)
deriving DecidableEq, Repr

/-- A floating-point format (R344): bits, mantissa bits, bias, code of the largest finite magnitude, canonical NaN, and whether it
has infinities. -/
structure FFmt where
  width : Nat
  m : Nat
  bias : Nat
  top : Nat
  nan : Nat
  hasInf : Bool
deriving DecidableEq, Repr

/-- FP32. -/
def fp32 : FFmt := ⟨32, 23, 127, 0x7F7FFFFF, 0x7FC00000, true⟩
/-- FP16. -/
def fp16 : FFmt := ⟨16, 10, 15, 0x7BFF, 0x7E00, true⟩
/-- BF16. -/
def bf16 : FFmt := ⟨16, 7, 127, 0x7F7F, 0x7FC0, true⟩
/-- FP8 E5M2. -/
def e5m2 : FFmt := ⟨8, 2, 15, 0x7B, 0x7E, true⟩
/-- FP8 E4M3. -/
def e4m3 : FFmt := ⟨8, 3, 7, 0x7E, 0x7F, false⟩
/-- FP4 E2M1; a NaN becomes +0 (R348). -/
def e2m1 : FFmt := ⟨4, 1, 1, 0x7, 0, false⟩

/-- The format of a type of R361; integer types have none. -/
def ETy.fmt : ETy → Option FFmt
  | .f32 => some fp32 | .f16 => some fp16 | .bf16 => some bf16 | .e4m3 => some e4m3 | .e5m2 => some e5m2 | .e2m1 => some e2m1
  | _ => none

/-- The integer kind of a type of R361. -/
def ETy.signed : ETy → Bool
  | .s8 => true | .s16 => true | .s32 => true | .s64 => true | _ => false

/-- A fraction `n * 2 ^ e`. -/
def FV.scaled (neg : Bool) (n : Nat) (e : Int) : FV := if 0 ≤ e then .fin neg (n * 2 ^ e.toNat) 1 else .fin neg n (2 ^ (-e).toNat)

/-- The value of a code (R344). -/
def FFmt.value (f : FFmt) (code : Nat) : FV :=
  let neg := bitAt code (f.width - 1)
  let mag := code % 2 ^ (f.width - 1)
  let e := mag / 2 ^ f.m
  let man := mag % 2 ^ f.m
  if f.top < mag then (if f.hasInf && mag == f.top + 1 then .inf neg else .nan)
  else if e = 0 then FV.scaled neg man (1 - (f.bias : Int) - f.m)
  else FV.scaled neg (2 ^ f.m + man) ((e : Int) - f.bias - f.m)

/-- A code with its sign. -/
def FFmt.signed (f : FFmt) (neg : Bool) (mag : Nat) : Nat := bit neg * 2 ^ (f.width - 1) + mag

/-! ### Rounding (R346 to R348) -/

/-- The floor of the base-2 logarithm of a fraction that is not 0. -/
def flog2 (n d : Nat) : Int :=
  let e : Int := (n.log2 : Int) - d.log2
  let up := if 0 ≤ e then decide (d * 2 ^ e.toNat ≤ n) else decide (d ≤ n * 2 ^ (-e).toNat)
  if up then e else e - 1

/-- A magnitude `n / d` rounded to a whole number, under the sign of its value (R346). -/
def roundMag (r : Rnd) (neg : Bool) (n d : Nat) : Nat :=
  let lo := n / d
  let rest := n % d
  if rest = 0 then lo
  else
    match r with
    | .rtz => lo
    | .rup => if neg then lo else lo + 1
    | .rdn => if neg then lo + 1 else lo
    | .rna => if d ≤ 2 * rest then lo + 1 else lo
    | .rne => if 2 * rest < d then lo else if d < 2 * rest then lo + 1 else lo + lo % 2

/-- Overflow (R347). -/
def FFmt.overflow (f : FFmt) (r : Rnd) (nsat neg : Bool) : Nat :=
  if f.width = 8 then (if nsat then (if f.hasInf then f.signed neg (f.top + 1) else f.nan) else f.signed neg f.top)
  else if f.width = 4 then f.signed neg f.top
  else
    let away := match r with | .rne => true | .rna => true | .rup => !neg | .rdn => neg | .rtz => false
    f.signed neg (if away then f.top + 1 else f.top)

/-- Round of R346. -/
def FFmt.round (f : FFmt) (r : Rnd) (nsat : Bool) : FV → Nat
  | .nan => f.nan
  | .inf neg => if 16 ≤ f.width then f.signed neg (f.top + 1) else f.overflow r nsat neg
  | .fin neg n d =>
    if n = 0 then f.signed neg 0
    else
      let emin : Int := 1 - f.bias
      let e := max (flog2 n d) emin
      let sh : Int := f.m - e
      let q := if 0 ≤ sh then roundMag r neg (n * 2 ^ sh.toNat) d else roundMag r neg n (d * 2 ^ (-sh).toNat)
      let mag := (e - emin).toNat * 2 ^ f.m + q
      if f.top < mag then f.overflow r nsat neg else f.signed neg mag

/-- The integer conversion of R348, to a range. -/
def FV.toInt (r : Rnd) (lo hi : Int) : FV → Int
  | .nan => 0
  | .inf neg => if neg then lo else hi
  | .fin neg n d =>
    let q : Int := roundMag r neg n d
    max lo (min hi (if neg then -q else q))

/-- The least value of an integer type. -/
def intLow (signed : Bool) (w : Nat) : Int := if signed then -(2 ^ (w - 1) : Nat) else 0
/-- The greatest value of an integer type. -/
def intHigh (signed : Bool) (w : Nat) : Int := if signed then (2 ^ (w - 1) : Nat) - 1 else (2 ^ w : Nat) - 1

/-- An integer as a value. -/
def FV.ofInt (x : Int) : FV := .fin (decide (x < 0)) x.natAbs 1

/-! ### Arithmetic (R349, R350) -/

/-- The opposite. -/
def FV.neg : FV → FV
  | .nan => .nan
  | .inf s => .inf (!s)
  | .fin s n d => .fin (!s) n d

/-- The magnitude. -/
def FV.abs : FV → FV
  | .nan => .nan
  | .inf _ => .inf false
  | .fin _ n d => .fin false n d

/-- The exact sum (R349); an exact zero from operands that are not both zeros of one sign is -0 only under RDN. -/
def FV.add (r : Rnd) (x y : FV) : FV :=
  match x, y with
  | .nan, _ => .nan
  | _, .nan => .nan
  | .inf s, .inf t => if s = t then .inf s else .nan
  | .inf s, _ => .inf s
  | _, .inf t => .inf t
  | .fin s n d, .fin t m e =>
    let a : Int := (if s then -(n : Int) else n) * e
    let b : Int := (if t then -(m : Int) else m) * d
    if a + b = 0 then .fin (if n = 0 ∧ m = 0 ∧ s = t then s else r == .rdn) 0 1
    else .fin (decide (a + b < 0)) (a + b).natAbs (d * e)

/-- The exact product (R349). -/
def FV.mul (x y : FV) : FV :=
  match x, y with
  | .nan, _ => .nan
  | _, .nan => .nan
  | .inf s, .inf t => .inf (s != t)
  | .inf s, .fin t m _ => if m = 0 then .nan else .inf (s != t)
  | .fin s n _, .inf t => if n = 0 then .nan else .inf (s != t)
  | .fin s n d, .fin t m e => .fin (s != t) (n * m) (d * e)

/-- The exact quotient by a positive fraction. -/
def FV.divBy (x : FV) (num den : Nat) : FV :=
  match x with
  | .fin s n d => .fin s (n * den) (d * num)
  | x => x

/-- `x < y` by value, both not NaN; `zeros` puts -0 below +0 (R350). -/
def FV.lt (zeros : Bool) (x y : FV) : Bool :=
  match x, y with
  | .nan, _ => false
  | _, .nan => false
  | .inf s, .inf t => s && !t
  | .inf s, .fin _ _ _ => s
  | .fin _ _ _, .inf t => !t
  | .fin s n d, .fin t m e =>
    let a : Int := (if s then -(n : Int) else n) * e
    let b : Int := (if t then -(m : Int) else m) * d
    if n = 0 ∧ m = 0 then zeros && s && !t else decide (a < b)

/-- The maximum of R350. -/
def FV.max (x y : FV) : FV := if x = .nan ∨ y = .nan then .nan else if x.lt true y then y else x
/-- The minimum of R350. -/
def FV.min (x y : FV) : FV := if x = .nan ∨ y = .nan then .nan else if y.lt true x then y else x

/-- The value is a NaN or an infinity. -/
def FV.special : FV → Bool
  | .fin _ _ _ => false
  | _ => true

/-! ### Blocks and scales (R351 to R353) -/

/-- An E3M5 scale as a multiple of 2^-7 (R344); code 0xFF is the NaN scale. -/
def scaleUnits (code : Nat) : Nat := if code / 32 = 0 then code % 32 else (32 + code % 32) * 2 ^ (code / 32 - 1)

/-- The value of a scale. -/
def scaleValue (code : Nat) : FV := if code % 256 = 0xFF then .nan else .fin false (scaleUnits (code % 256)) 128

/-- The format of a block's elements, none for INT8. -/
def QFmt.fmt : QFmt → Option FFmt
  | .e4m3 => some e4m3 | .e5m2 => some e5m2 | .e2m1 => some e2m1 | .s8 => none

/-- Fmax of R353. -/
def QFmt.top : QFmt → Nat
  | .e4m3 => 448 | .e5m2 => 57344 | .e2m1 => 6 | .s8 => 127

/-- Elements of a block (R351). -/
def QFmt.block : QFmt → Nat
  | .e2m1 => 8 | _ => 16

/-- An element as a value. -/
def QFmt.value (q : QFmt) (code : Nat) : FV :=
  match QFmt.fmt q with
  | some f => f.value code
  | none => .ofInt (sext code 8)

/-- A value as an element; INT8 quantisation never gives -128 (R353). -/
def QFmt.round (q : QFmt) (r : Rnd) (nsat : Bool) (x : FV) : Nat :=
  match QFmt.fmt q with
  | some f => f.round r nsat x
  | none => wrap (x.toInt r (-127) 127) 8

/-- The smallest scale at or above `n / d` over Fmax, 0xFE where none is (R353). -/
def scaleFor (top n d : Nat) : Nat :=
  ((List.range 255).find? (fun c => decide (n * 128 ≤ scaleUnits c * top * d))).getD 0xFE

/-- A block is quantised: its scale and elements (R353). -/
def quantise (q : QFmt) (r : Rnd) (nsat : Bool) (xs : List FV) : Nat × List Nat :=
  if xs.any (fun x => x == .nan) then (0xFF, xs.map (fun _ => 0))
  else
    match xs.foldl (fun a x => FV.max a x.abs) (.fin false 0 1) with
    | .fin _ n d =>
      if n = 0 then (0, xs.map (fun x => QFmt.round q r nsat x))
      else
        let c := scaleFor (QFmt.top q) n d
        (c, xs.map (fun x => QFmt.round q r nsat (x.divBy (scaleUnits c) 128)))
    | _ => (0xFE, xs.map (fun x => QFmt.round q r nsat (x.divBy (scaleUnits 0xFE) 128)))

/-- An element with its scale (R351, R352): under a finite scale, the scale 0 included, an infinity or a NaN stands for itself. -/
def dequantise (q : QFmt) (code scale : Nat) : FV :=
  match scaleValue scale, QFmt.value q code with
  | .nan, _ => .nan
  | _, .inf s => .inf s
  | v, x => x.mul v

/-! ### The A128 accumulator (R354 to R356) -/

/-- A product in units of 2^-64 (R355), none where it makes the entry invalid. -/
def a128Product (a b : FV) (sa sb : Nat) : Option Int :=
  match a, b, scaleValue sa, scaleValue sb with
  | .fin s n d, .fin t m e, .fin _ u v, .fin _ w z =>
    let p : Int := (n * m * u * w * 2 ^ 64 / (d * e * v * z) : Nat)
    some (if s = t then p else -p)
  | _, _, _, _ => none

/-- An entry read out with a band scale (R356). -/
def a128Value (n : BitVec 128) (inv : Bool) (band : FV) : FV :=
  if inv then .nan
  else
    let v := n.toInt
    match band with
    | .nan => .nan
    | .inf s => if v = 0 then .nan else .inf (s != decide (v < 0))
    | .fin s m d => if v = 0 then .fin false 0 1 else .fin (s != decide (v < 0)) (v.natAbs * m) (2 ^ 64 * d)

/-! ### Trees and scans (R357 to R359) -/

/-- Pairs of a level (R358). -/
def pairUp {α : Type} (f : α → α → α) : List (Option α) → List (Option α)
  | a :: b :: r =>
    (match a, b with
     | some x, some y => some (f x y)
     | some x, none => some x
     | none, y => y) :: pairUp f r
  | l => l

/-- Tree of R358: the value that is left, none where no lane takes part. -/
def tree {α : Type} (f : α → α → α) : Nat → List (Option α) → Option α
  | 0, l => l.head?.join
  | n + 1, l => if l.length ≤ 1 then l.head?.join else tree f n (pairUp f l)

/-- One step of a scan (R359). -/
def scanStep {α : Type} (f : α → α → α) (d : Nat) (l : List α) : List α := l.take d ++ List.zipWith f l (l.drop d)

/-- Scan of R359, inclusive. -/
def scan_ {α : Type} (f : α → α → α) : Nat → Nat → List α → List α
  | 0, _, l => l
  | n + 1, d, l => if l.length ≤ d then l else scan_ f n (2 * d) (scanStep f d l)

/-- A sum rounded to FP32. -/
def add32 (r : Rnd) (x y : Nat) : Nat := fp32.round r false ((fp32.value x).add r (fp32.value y))

/-- A chunk of products added to an FP32 accumulator entry (R357). -/
def chunkSum (acc : Nat) (ps : List Nat) : Nat :=
  match tree (add32 .rne) 4 (ps.map some) with
  | none => acc
  | some t => add32 .rne acc t

/-! ### Special functions (R385; notes/assumptions/9.md) -/

/-- Fraction bits of the fixed-point evaluation of the functions that have no exact form. -/
def sfuBits : Nat := 768

/-- The integer square root, bit by bit. -/
def isqrt (n : Nat) : Nat → Nat → Nat
  | 0, r => r
  | k + 1, r => let t := r + 2 ^ k; isqrt n k (if t * t ≤ n then t else r)

/-- A square root of a fraction: exact, or a value that lies between the same neighbours of every format. -/
def rootOf (n d : Nat) : FV :=
  let k := 96
  let big := n * d * 4 ^ k
  let r := isqrt big (big.log2 / 2 + 1) 0
  if r * r = big then .fin false r (d * 2 ^ k) else .fin false (2 * r + 1) (2 * d * 2 ^ k)

/-- The sum of a power series of `x` (fixed point): term k + 1 is term k times `x / 2^sfuBits` times a factor `p k / q k`. -/
def series (x : Nat) (p q : Nat → Nat) : Nat → Nat → Nat → Nat
  | 0, _, _ => 0
  | fuel + 1, k, t => t + series x p q fuel (k + 1) (t * x / 2 ^ sfuBits * p k / q k)

/-- Pairs of an alternating series: the sum of the even terms less the sum of the odd ones. -/
def alternating (x : Nat) (q : Nat → Nat) : Nat → Nat → Nat → Int
  | 0, _, _ => 0
  | fuel + 1, k, t => (t : Int) - alternating x q fuel (k + 1) (t * x / 2 ^ sfuBits / q k)

/-- 1 in fixed point. -/
def fixOne : Nat := 2 ^ sfuBits

/-- `atanh (1 / m)`-like series: the sum of z^(2k+1) / (2k+1). -/
def atanhFix (z : Nat) : Nat :=
  let z2 := z * z / fixOne
  let rec go : Nat → Nat → Nat → Nat
    | 0, _, _ => 0
    | fuel + 1, k, t => t / (2 * k + 1) + go fuel (k + 1) (t * z2 / fixOne)
  go 260 0 z

/-- The sum of (-1)^k z^(2k+1) / (2k+1). -/
def atanFix (z : Nat) : Int :=
  let z2 := z * z / fixOne
  let rec go : Nat → Nat → Nat → Int
    | 0, _, _ => 0
    | fuel + 1, k, t => (t / (2 * k + 1) : Nat) - go fuel (k + 1) (t * z2 / fixOne)
  go 260 0 z

/-- ln 2. -/
def ln2Fix : Nat := 2 * atanhFix (fixOne / 3)

/-- π, by Machin's formula. -/
def piFix : Nat := (16 * atanFix (fixOne / 5) - 4 * atanFix (fixOne / 239)).toNat

/-- e^x for 0 ≤ x < 1. -/
def expFix (x : Nat) : Nat := series x (fun _ => 1) (fun k => k + 1) 160 0 fixOne

/-- A fixed-point value that no format represents, times a power of two; the last place stands for what lies beyond it. -/
def FV.ofFix (neg : Bool) (x : Nat) (e : Int) : FV := FV.scaled neg (2 * x + 1) (e - sfuBits - 1)

/-- A fraction in fixed point. -/
def toFix (n d : Nat) : Nat := n * fixOne / d

/-- 2^x for x = ± n / d. -/
def exp2Of (neg : Bool) (n d : Nat) : FV :=
  if 4096 * d ≤ n then FV.scaled false 1 (if neg then -4096 else 4096)
  else
    let fl : Int := if neg then -(((n + d - 1) / d : Nat) : Int) else ((n / d : Nat) : Int)
    let frac : Int := (if neg then -(n : Int) else n) - fl * d
    if frac = 0 then FV.scaled false 1 fl else .ofFix false (expFix (toFix frac.toNat d * ln2Fix / fixOne)) fl

/-- The base-2 logarithm of n / d, which is not 0. -/
def log2Of (n d : Nat) : FV :=
  let e := flog2 n d
  let u := if 0 ≤ e then toFix n (d * 2 ^ e.toNat) else toFix (n * 2 ^ (-e).toNat) d
  let exact := if 0 ≤ e then decide (n = d * 2 ^ e.toNat) else decide (n * 2 ^ (-e).toNat = d)
  if exact then (if e = 0 then .fin false 0 1 else .ofInt e)
  else
    let l := 2 * atanhFix ((u - fixOne) * fixOne / (u + fixOne)) * fixOne / ln2Fix
    let t : Int := e * fixOne + l
    .ofFix (decide (t < 0)) t.natAbs 0

/-- sin (π y) or cos (π y) for 0 < y < 1/2. -/
def trigFix (cos : Bool) (y : Nat) : Nat :=
  let x := y * piFix / fixOne
  let x2 := x * x / fixOne
  (if cos then alternating x2 (fun k => (2 * k + 1) * (2 * k + 2)) 160 0 fixOne
   else alternating x2 (fun k => (2 * k + 2) * (2 * k + 3)) 160 0 x).toNat

/-- sin (π n / d) for n / d ≥ 0: its sign and magnitude. -/
def sinpiOf (n d : Nat) : FV :=
  let r := n % (2 * d)
  let neg := decide (d ≤ r)
  let h := if neg then r - d else r
  let y := if d < 2 * h then d - h else h
  if y = 0 then .fin neg 0 1
  else if 2 * y = d then .fin neg 1 1
  else if 4 * y ≤ d then .ofFix neg (trigFix false (toFix y d)) 0
  else .ofFix neg (trigFix true (toFix (d - 2 * y) (2 * d))) 0

/-- e^-y for y > 0 in fixed point, below 2^-256 the least value. -/
def expNegFix (n d : Nat) : Nat :=
  if 200 * d ≤ n then 2 ^ 256
  else
    let y := toFix n d
    let k := y / ln2Fix + 1
    expFix (k * ln2Fix - y) / 2 ^ k

/-- tanh of n / d > 0. -/
def tanhOf (n d : Nat) : FV :=
  let t := expNegFix (2 * n) d
  .ofFix false ((fixOne - t) * fixOne / (fixOne + t)) 0

/-- The logistic function of ± n / d. -/
def sigmOf (neg : Bool) (n d : Nat) : FV :=
  if n = 0 then .fin false 1 2
  else
    let t := expNegFix n d
    if neg then (if 200 * d ≤ n then FV.scaled false 1 (-4096) else .ofFix false (t * fixOne / (fixOne + t)) 0)
    else .ofFix false (fixOne * fixOne / (fixOne + t)) 0

/-- A special function, before it is rounded (R385). -/
def sfuValue (f : SfuFn) : FV → FV
  | .nan => .nan
  | .inf neg =>
    match f with
    | .rcp => .fin neg 0 1
    | .rsqrt => if neg then .nan else .fin false 0 1
    | .sqrt => if neg then .nan else .inf false
    | .exp2 => if neg then .fin false 0 1 else .inf false
    | .log2 => if neg then .nan else .inf false
    | .sinpi => .nan
    | .cospi => .nan
    | .tanh => .fin neg 1 1
    | .sigm => if neg then .fin false 0 1 else .fin false 1 1
  | .fin neg n d =>
    if n = 0 then
      match f with
      | .rcp => .inf neg
      | .rsqrt => .inf neg
      | .sqrt => .fin neg 0 1
      | .exp2 => .fin false 1 1
      | .log2 => .inf true
      | .sinpi => .fin neg 0 1
      | .cospi => .fin false 1 1
      | .tanh => .fin neg 0 1
      | .sigm => .fin false 1 2
    else
      match f with
      | .rcp => .fin neg d n
      | .rsqrt => if neg then .nan else rootOf d n
      | .sqrt => if neg then .nan else rootOf n d
      | .exp2 => exp2Of neg n d
      | .log2 => if neg then .nan else log2Of n d
      | .sinpi =>
        match sinpiOf n d with
        | .fin s m e => if m = 0 then .fin neg 0 1 else .fin (s != neg) m e
        | v => v
      | .cospi =>
        match sinpiOf (2 * n + d) (2 * d) with
        | .fin s m e => if m = 0 then .fin false 0 1 else .fin s m e
        | v => v
      | .tanh =>
        match tanhOf n d with
        | .fin _ m e => .fin neg m e
        | v => v
      | .sigm => sigmOf neg n d

end Sys2Proof.Machine
end

