-- ==== Sys2Proof/Machine/Lanes.lean ====
section
/-! DEFINITION. What the vector forms compute on the lanes of their rows (18_vector R361, R362, R372 to R382, R385). -/

namespace Sys2Proof.Machine

/-! ### Rows and lanes (R361, R362) -/

/-- A lane's bits. -/
def lane (t : ETy) (row i : Nat) : Nat := row / 2 ^ (t.bits * i) % 2 ^ t.bits

/-- A row from its lanes, the first lowest. -/
def rowOf (w : Nat) (l : List Nat) : Nat := l.foldr (fun v n => v % 2 ^ w + 2 ^ w * n) 0

/-- The enable bits of a row's bytes: byte j is written when the lane that holds its low bits is (R362). -/
def enOf (t : ETy) (on : Nat → Bool) : BitVec 128 :=
  BitVec.ofNat 128 (rowOf 1 ((List.range 128).map (fun j => bit (on (8 * j / t.bits)))))

/-- A lane's integer value (R112). -/
def laneInt (t : ETy) (v : Nat) : Int := inAt (ETy.signed t) t.bits v

/-- A lane's floating-point value. -/
def laneVal (t : ETy) (v : Nat) : FV :=
  match ETy.fmt t with
  | some f => f.value v
  | none => .ofInt (laneInt t v)

/-- A value as a lane of a float type, rounded once. -/
def toLane (t : ETy) (r : Rnd) (nsat : Bool) (x : FV) : Nat :=
  match ETy.fmt t with
  | some f => f.round r nsat x
  | none => wrap (x.toInt r (intLow (ETy.signed t) t.bits) (intHigh (ETy.signed t) t.bits)) t.bits

/-- What a form computes: destination rows with their enable bits, A first, or a mask. -/
structure VOut where
  rows : List (BitVec 1024 × BitVec 128)
  mask : BitVec 256
deriving DecidableEq, Repr

/-- A row whose lanes are computed one by one, enabled by byte (R362). -/
def lanesOut (t : ETy) (on : Nat → Bool) (f : Nat → Nat) : VOut :=
  let per := max 1 (8 / t.bits)
  ⟨[(BitVec.ofNat 1024 (rowOf t.bits ((List.range t.lanes).map (fun i => if on (i / per * per) then f i else 0))), enOf t on)], 0⟩

/-- A row of which a run of bytes is written. -/
def bytesOut (off len v : Nat) : BitVec 1024 × BitVec 128 :=
  (BitVec.ofNat 1024 (v % 2 ^ (8 * len) * 2 ^ (8 * off)), BitVec.ofNat 128 ((2 ^ len - 1) * 2 ^ off))

/-! ### Lane operations (R372 to R375) -/

/-- A two-operand form: by the exact operation on F types, rounded once, and on integers. -/
def arith (t : ETy) (r : Rnd) (f : FV → FV → FV) (g : Int → Int → Int) (c b : Nat) : Nat :=
  if t.isF then toLane t r false (f (laneVal t c) (laneVal t b)) else wrap (g (laneInt t c) (laneInt t b)) t.bits

/-- VFMA and VFMS (R373). -/
def fused (t : ETy) (r : Rnd) (minus : Bool) (a c b : Nat) : Nat :=
  if t.isF then
    let p := (laneVal t c).mul (laneVal t b)
    toLane t r false ((laneVal t a).add r (if minus then p.neg else p))
  else
    let p := laneInt t c * laneInt t b
    wrap (if minus then laneInt t a - p else laneInt t a + p) t.bits

/-- VSHL, VSHR and VSAR (R372). -/
def laneShift (k : ShKind) (w c b : Nat) : Nat :=
  match k with
  | .shl => if w ≤ b then 0 else wrap (c * 2 ^ b : Nat) w
  | .shr => if w ≤ b then 0 else c / 2 ^ b
  | _ => wrap (sext c w / (2 ^ min b w : Nat)) w

/-- VCLAMP (R374). -/
def laneClamp (t : ETy) (c b : Nat) : Nat :=
  if t.isF then
    let h := (laneVal t b).abs
    toLane t .rne false (((laneVal t c).max h.neg).min h)
  else if ETy.signed t then
    let h := min ((laneInt t b).natAbs : Int) (intHigh true t.bits)
    wrap (max (min (laneInt t c) h) (-h)) t.bits
  else min c b

/-- VABS and VNEG (R372). -/
def laneAbs (t : ETy) (c : Nat) : Nat :=
  if t.isF then toLane t .rne false (laneVal t c).abs else wrap ((laneInt t c).natAbs : Int) t.bits

/-- See `laneAbs`. -/
def laneNeg (t : ETy) (c : Nat) : Nat := if t.isF then toLane t .rne false (laneVal t c).neg else wrap (-laneInt t c) t.bits

/-- The condition of VCMP (R375): a NaN makes every condition but `.ne` false. -/
def laneCond (t : ETy) (k : Cond) (c b : Nat) : Bool :=
  if t.isF then
    let x := laneVal t c
    let y := laneVal t b
    let nan := x == .nan || y == .nan
    let lt := x.lt false y
    let gt := y.lt false x
    match k with
    | .eq => !nan && !lt && !gt | .ne => nan || lt || gt | .lt => lt | .gt => gt | .ge => !nan && !lt | .le => !nan && !gt
  else condHolds k (laneInt t c) (laneInt t b)

/-! ### Conversion (R377 to R379) -/

/-- `Conv` of R377. -/
def conv (from_ to_ : ETy) (r : Rnd) (nsat : Bool) (v : Nat) : Nat :=
  if to_.isI && from_.isI then wrap (laneInt from_ v) to_.bits else toLane to_ r nsat (laneVal from_ v)

/-- VCVT (R377). -/
def cvtOut (t to_ : ETy) (r : Rnd) (nsat : Bool) (part : Nat) (mask : BitVec 256) (row : Nat) : VOut :=
  let ns := t.lanes
  let nd := to_.lanes
  let l := min ns nd
  let first := if ns ≤ nd then part * l else 0
  let src (d : Nat) : Nat := if ns ≤ nd then d - first else part * l + d
  lanesOut to_ (fun d => decide (first ≤ d) && decide (d < first + l) && mask.getLsbD d) (fun d => conv t to_ r nsat (lane t row (src d)))

/-- Splits a list into blocks. -/
def blocks {α : Type} (n : Nat) : Nat → List α → List (List α)
  | 0, _ => []
  | fuel + 1, l => if l.isEmpty then [] else l.take n :: blocks n fuel (l.drop n)

/-- VQNT (R378): the bytes of row A, then those of row B. -/
def qntOut (t : ETy) (q : QFmt) (r : Rnd) (nsat : Bool) (part row : Nat) : VOut :=
  let l := t.lanes
  let bs := QFmt.block q
  let nb := l / bs
  let qs := (blocks bs l ((List.range l).map (fun i => laneVal t (lane t row i)))).map (quantise q r nsat)
  let len := l * q.bits / 8
  ⟨[bytesOut (part * len) len (rowOf q.bits (qs.flatMap Prod.snd)), bytesOut (part * nb) nb (rowOf 8 (qs.map Prod.fst))], 0⟩

/-- VDQNT (R379). -/
def dqntOut (t : ETy) (q : QFmt) (r : Rnd) (part : Nat) (mask : BitVec 256) (elems scales : Nat) : VOut :=
  let l := t.lanes
  let bs := QFmt.block q
  let nb := l / bs
  lanesOut t mask.getLsbD (fun i =>
    toLane t r false
      (dequantise q (elems / 2 ^ (q.bits * (part * l + i)) % 2 ^ q.bits) (scales / 2 ^ (8 * (part * nb + i / bs)) % 256)))

/-! ### Reductions, scans, dots (R380, R381) -/

/-- The identity of an operation at a type (R358). -/
def redId (t : ETy) (op : RedOp) : Nat :=
  match op with
  | .add => 0
  | .max => if t.isF then toLane t .rne false (.inf true) else wrap (intLow (ETy.signed t) t.bits) t.bits
  | .min => if t.isF then toLane t .rne false (.inf false) else wrap (intHigh (ETy.signed t) t.bits) t.bits

/-- `a op b` at a type (R358). -/
def redPair (t : ETy) (r : Rnd) (op : RedOp) (a b : Nat) : Nat :=
  match op with
  | .add => arith t r (FV.add r) (· + ·) a b
  | .max => arith t .rne FV.max max a b
  | .min => arith t .rne FV.min min a b

/-- A lane as it enters a reduction: a NaN is the canonical one (R345). -/
def canon (t : ETy) (v : Nat) : Nat := if t.isF then toLane t .rne false (laneVal t v) else v

/-- The lanes of a row that take part. -/
def parts (t : ETy) (mask : BitVec 256) (row : Nat) : List (Option Nat) :=
  (List.range t.lanes).map (fun i => if mask.getLsbD i then some (canon t (lane t row i)) else none)

/-- VRED (R380). -/
def redOut (t : ETy) (r : Rnd) (op : RedOp) (mask : BitVec 256) (row : Nat) : VOut :=
  ⟨[bytesOut 0 (t.bits / 8) ((tree (redPair t r op) 8 (parts t mask row)).getD (redId t op))], 0⟩

/-- VSCAN (R381). -/
def scanOut (t : ETy) (r : Rnd) (op : RedOp) (excl : Bool) (mask : BitVec 256) (row : Nat) : VOut :=
  let y := scan_ (redPair t r op) 8 1 ((parts t mask row).map (fun v => v.getD (redId t op)))
  let z := if excl then redId t op :: y.take (t.lanes - 1) else y
  ⟨[(BitVec.ofNat 1024 (rowOf t.bits z), BitVec.allOnes 128)], 0⟩

/-- VAMAX (R380). -/
def amaxOut (t : ETy) (mask : BitVec 256) (row : Nat) : VOut :=
  let vs := ((List.range t.lanes).filter (fun i => mask.getLsbD i)).map (fun i => (laneVal t (lane t row i)).abs)
  ⟨[bytesOut 0 4 (fp32.round .rne false (vs.foldl FV.max (.fin false 0 1)))], 0⟩

/-- VDOT (R380). -/
def dotOut (t : ETy) (r : Rnd) (mask : BitVec 256) (c b : Nat) : VOut :=
  let on := (List.range t.lanes).map (fun i => (mask.getLsbD i, i))
  if t.isI then
    let sum : Int := on.foldl (fun n p => if p.1 then n + laneInt t (lane t c p.2) * laneInt t (lane t b p.2) else n) 0
    ⟨[bytesOut 0 8 (wrap sum 64)], 0⟩
  else
    let ps := on.map (fun p =>
      if p.1 then some (fp32.round r false ((laneVal t (lane t c p.2)).mul (laneVal t (lane t b p.2)))) else none)
    ⟨[bytesOut 0 4 ((tree (add32 r) 8 ps).getD 0)], 0⟩

/-- VCMP (R375). -/
def cmpOut (t : ETy) (k : Cond) (mask : BitVec 256) (c b : Nat) : VOut :=
  ⟨[], BitVec.ofNat 256 (rowOf 1 ((List.range t.lanes).map (fun i =>
    bit (mask.getLsbD i && laneCond t k (lane t c i) (lane t b i)))))⟩

/-! ### Every form -/

/-- What a form computes from its rows (C, B, A) and its register; the element forms have rules of their own (R383). -/
def vecOut (op : VOp) (t : ETy) (r : Rnd) (nsat : Bool) (mask : BitVec 256) (reg c b a : Nat) : VOut :=
  let two (f : Nat → Nat → Nat) : VOut := lanesOut t mask.getLsbD (fun i => f (lane t c i) (lane t b i))
  let one (f : Nat → Nat) : VOut := lanesOut t mask.getLsbD (fun i => f (lane t c i))
  let ones := 2 ^ t.bits - 1
  match op with
  | .add => two (arith t r (FV.add r) (· + ·))
  | .sub => two (arith t r (fun x y => FV.add r x y.neg) (· - ·))
  | .mul => two (arith t r FV.mul (· * ·))
  | .fma => lanesOut t mask.getLsbD (fun i => fused t r false (lane t a i) (lane t c i) (lane t b i))
  | .fms => lanesOut t mask.getLsbD (fun i => fused t r true (lane t a i) (lane t c i) (lane t b i))
  | .min => two (arith t .rne FV.min min)
  | .max => two (arith t .rne FV.max max)
  | .abs => one (laneAbs t)
  | .neg => one (laneNeg t)
  | .and => two (fun x y => x &&& y)
  | .or => two (fun x y => x ||| y)
  | .xor => two (fun x y => x ^^^ y)
  | .not => one (fun x => ones - x)
  | .shl => two (laneShift .shl t.bits)
  | .shr => two (laneShift .shr t.bits)
  | .sar => two (laneShift .sar t.bits)
  | .cmp k => cmpOut t k mask c b
  | .sel => lanesOut t (fun _ => true) (fun i => if mask.getLsbD i then lane t c i else lane t b i)
  | .cvt to_ part => cvtOut t to_ r nsat part mask c
  | .qnt q part => qntOut t q r nsat part c
  | .dqnt q part => dqntOut t q r part mask c b
  | .red k => redOut t r k mask c
  | .scan k excl => scanOut t r k excl mask c
  | .bcast k => one (fun _ => lane t c k)
  | .bcreg => one (fun _ => reg % 2 ^ t.bits)
  | .iota => lanesOut t mask.getLsbD (fun i => i % 2 ^ t.bits)
  | .perm => lanesOut t mask.getLsbD (fun i => lane t c (lane t b i % t.lanes))
  | .sfu f => one (fun x => toLane t r false (sfuValue f (laneVal t x)))
  | .dot => dotOut t r mask c b
  | .clamp => two (laneClamp t)
  | .amax => amaxOut t mask c
  | .gath => ⟨[], 0⟩
  | .scat => ⟨[], 0⟩

end Sys2Proof.Machine
end

