-- ==== Sys2Proof/Machine/Tiles.lean ====
section
/-! DEFINITION. What the matrix unit computes on its latches and tiles (19_matrix R388 to R390, R398, R403 to R406;
17_numbers R354 to R357). -/

namespace Sys2Proof.Machine

/-! ### Formats (R389) -/

/-- Bits of an element of a latch format. -/
def latchBits : Nat → Nat
  | 0 => 4 | 1 => 8 | 2 => 8 | 3 => 8 | _ => 16

/-- Scale bytes of a row. -/
def latchScales : Nat → Nat
  | 0 => 32 | 1 => 8 | 2 => 8 | 3 => 8 | _ => 0

/-- An element's value. -/
def latchValue (fmt code : Nat) : FV :=
  match fmt with
  | 0 => e2m1.value code
  | 1 => e4m3.value code
  | 2 => e5m2.value code
  | 3 => .ofInt (sext code 8)
  | 4 => bf16.value code
  | _ => fp16.value code

/-- Elements for every 32 bytes of K. -/
def latchPer (fmt : Nat) : Nat := 256 / latchBits fmt

/-- Element k of a row. -/
def latchElem (fmt row k : Nat) : Nat := row / 2 ^ (latchBits fmt * k) % 2 ^ latchBits fmt

/-- The scale byte of element k of a row: blocks of 8 for E2M1, of 16 otherwise (R351). -/
def latchScale (fmt scales k : Nat) : Nat := scales / 2 ^ (8 * (k / (if fmt = 0 then 8 else 16))) % 256

/-- An element with its scale in units of 2^-23, none where it makes an entry invalid (R354, R355). -/
def unitsOf (v : FV) (scale : Nat) : Option Int :=
  if scale = 0xFF then none
  else
    match v with
    | .fin s n d =>
      let u : Int := (n * 2 ^ 16 / d * scaleUnits scale : Nat)
      some (if s then -u else u)
    | _ => none

/-- A row's first K elements in units of 2^-23. -/
def rowUnits (fmt row scales n : Nat) : List (Option Int) :=
  (List.range n).map (fun k => unitsOf (latchValue fmt (latchElem fmt row k)) (latchScale fmt scales k))

/-! ### MMA (R398) -/

/-- The pair of formats multiplies, and the mode that it needs: true for FP32. -/
def pairMode (a b : Nat) : Option Bool :=
  match a, b with
  | 0, 0 => some false
  | 1, 1 => some false | 1, 2 => some false | 2, 1 => some false | 2, 2 => some false
  | 3, 3 => some false
  | 4, 4 => some true
  | 5, 5 => some true
  | _, _ => none

/-- Cycles of an MMA (R398). -/
def mmaCycles (fmt ks : Nat) : Nat := ks * (if 4 ≤ fmt then 128 else 64)

/-- The sum of the valid products of two rows, in units of 2^-46, and whether any product was invalid. -/
def rowDot : List (Option Int) → List (Option Int) → Int × Bool
  | a :: r, b :: q =>
    let t := rowDot r q
    match a, b with
    | some x, some y => (x * y + t.1, t.2)
    | _, _ => (t.1, true)
  | _, _ => (0, false)

/-- Products of two rows, each rounded to FP32 (R357). -/
def rowProducts (fmt a b n : Nat) : List Nat :=
  (List.range n).map (fun k => fp32.round .rne false ((latchValue fmt (latchElem fmt a k)).mul (latchValue fmt (latchElem fmt b k))))

/-- An FP32 entry after the products of a row pair (R357). -/
def sum32 (acc : Nat) (ps : List Nat) : Nat := (blocks 8 (ps.length + 1) ps).foldl chunkSum acc

/-- An entry of a tile. -/
def Tile.entry (t : Tile) (i : Nat) : BitVec 128 := SMap.get 0 t.entries i

/-- INV of an entry. -/
def Tile.isInv (t : Tile) (i : Nat) : Bool := (SMap.find? t.inv i).isSome

/-- A tile from a function of its entries: value and INV. -/
def Tile.build (f32 : Bool) (f : Nat → BitVec 128 × Bool) : Tile :=
  let es := (List.range 1024).map (fun i => (i, f i))
  ⟨f32, (es.filter (fun e => e.2.1 != 0)).map (fun e => (e.1, e.2.1)), (es.filter (fun e => e.2.2)).map (fun e => (e.1, ()))⟩

/-- The tile after an MMA (R398). -/
def mmaTile (a b : Latch) (ks : Nat) (z f32 : Bool) (t : Tile) : Tile :=
  let t0 : Tile := if z then ⟨f32, [], []⟩ else t
  let n := ks * latchPer a.fmt
  let row (l : Latch) (i : Nat) : Nat := (SMap.get 0 l.rows i).toNat
  if f32 then
    Tile.build true (fun i => (BitVec.ofNat 128 (sum32 ((t0.entry i).toNat % 2 ^ 32) (rowProducts a.fmt (row a (i / 32)) (row b (i % 32)) n)), false))
  else
    let us (l : Latch) : List (List (Option Int)) :=
      (List.range 32).map (fun i => rowUnits l.fmt (row l i) (SMap.get 0 l.scales i).toNat n)
    let ua := us a
    let ub := us b
    Tile.build false (fun i =>
      let d := rowDot (ua.getD (i / 32) []) (ub.getD (i % 32) [])
      (t0.entry i + BitVec.ofInt 128 (d.1 * 2 ^ 18), t0.isInv i || d.2))

/-! ### Reading tiles out and writing them (R402 to R404) -/

/-- Bytes of a row of an output format. -/
def outBytes : Nat → Nat
  | 0 => 128 | 1 => 64 | 2 => 64 | 3 => 32 | 4 => 32 | 5 => 128 | 6 => 16 | _ => 512

/-- A value in an output format (R356, R403). -/
def outCode (ofmt : Nat) (r : Rnd) (nsat : Bool) (v : FV) : Nat :=
  match ofmt with
  | 0 => fp32.round r false v
  | 1 => fp16.round r false v
  | 2 => bf16.round r false v
  | 3 => e4m3.round r nsat v
  | 4 => e5m2.round r nsat v
  | 5 => wrap (v.toInt r (intLow true 32) (intHigh true 32)) 32
  | _ => e2m1.round r false v

/-- The raw code of an invalid entry (R390). -/
def rawInvalid : BitVec 128 := BitVec.ofNat 128 (2 ^ 127)

/-- The bits of an entry as MRD writes them. -/
def Tile.readOut (t : Tile) (ofmt band : Nat) (r : Rnd) (nsat : Bool) (i : Nat) : Nat :=
  if ofmt = 7 then (if !t.f32 && t.isInv i then rawInvalid else t.entry i).toNat
  else if t.f32 then outCode ofmt r nsat ((fp32.value ((t.entry i).toNat % 2 ^ 32)).mul (bf16.value band))
  else outCode ofmt r nsat (a128Value (t.entry i) (t.isInv i) (bf16.value band))

/-- The bytes of a tile row as MRD writes them. -/
def Tile.rowBytes (t : Tile) (ofmt band : Nat) (r : Rnd) (nsat : Bool) (m : Nat) : List Byte :=
  let b := outBytes ofmt
  bytesLE b (rowOf (b / 4) ((List.range 32).map (fun j => t.readOut ofmt band r nsat (32 * m + j))))

/-- MWR's tile (R404): `got` gives the bytes of an entry of a row that the command writes, with its sector's poison. -/
def mwrTile (raw : Bool) (t : Tile) (got : Nat → Nat → Option (Nat × Bool)) : Tile :=
  let keep := t.f32 == !raw
  Tile.build (!raw) (fun i =>
    match got (i / 32) (i % 32) with
    | none => if keep then (t.entry i, t.isInv i) else (0, false)
    | some (v, bad) =>
      if raw then
        (if bad then (t.entry i, true) else if BitVec.ofNat 128 v = rawInvalid then (0, true) else (BitVec.ofNat 128 v, false))
      else (BitVec.ofNat 128 (if bad then fp32.nan else v % 2 ^ 32), false))

/-- BADDQ's tile (R406). -/
def baddTile (r : Rnd) (bias : Nat) (t : Tile) : Tile :=
  Tile.build t.f32 (fun i =>
    let b := fp32.value (bias / 2 ^ (32 * (i % 32)) % 2 ^ 32)
    if t.f32 then (BitVec.ofNat 128 (fp32.round r false ((fp32.value ((t.entry i).toNat % 2 ^ 32)).add r b)), false)
    else if b.special then (t.entry i, true)
    else
      let n := (b.divBy 1 (2 ^ 64)).toInt r (-(2 ^ 127 : Nat)) ((2 ^ 127 : Nat) - 1)
      (t.entry i + BitVec.ofInt 128 n, t.isInv i))

/-- MSCL's latch (R405). -/
def msclLatch (v : Nat) (l : Latch) : Latch :=
  let n := latchScales l.fmt
  let row := BitVec.ofNat 256 (rowOf 8 (List.replicate n v))
  { l with scales := if row = 0 then [] else (List.range 32).map (fun i => (i, row)) }

/-- A latch row whose error cannot be corrected (R389). -/
def latchError (l : Latch) (row : Nat) : Latch :=
  if l.fmt < 4 then
    { l with scales := SMap.set l.scales row (BitVec.ofNat 256 (2 ^ (8 * latchScales l.fmt) - 1)) }
  else
    { l with rows := SMap.set l.rows row (BitVec.ofNat 1024 (rowOf 16 (List.replicate 64 (if l.fmt = 4 then bf16.nan else fp16.nan)))) }

/-- An entry whose error cannot be corrected (R389). -/
def tileError (t : Tile) (i : Nat) : Tile :=
  if t.f32 then { t with entries := SMap.set t.entries i (BitVec.ofNat 128 fp32.nan) } else { t with inv := SMap.set t.inv i () }

end Sys2Proof.Machine
end

