-- ==== Sys2Proof/Machine/Matrix.lean ====
section
/-! DEFINITION. The matrix unit (19_matrix R388 to R410): the issue of its commands, how each runs on its path, the gathers of the
gather unit, the forwarding in a gang, completions and failures. -/

namespace Sys2Proof.Machine

/-! ### The state of a path -/

/-- The array path runs a command. -/
def MOp.array : MOp → Bool
  | .gath _ => true | .ald => true | .bld => true | .mma _ _ _ => true | .mscl _ _ => true | _ => false

/-- The code of a command (R391, R408). -/
def MOp.code : MOp → Nat
  | .gath _ => 0 | .ald => 1 | .bld => 2 | .mma _ _ _ => 3 | .mzero _ => 4 | .mrd _ _ => 5 | .mwr => 6 | .mscl _ _ => 7 | .baddq _ _ => 9

/-- A load fills latch B. -/
def MOp.toB : MOp → Bool
  | .gath b => b | .bld => true | .mscl b _ => b | _ => false

/-- The command that runs, by its transaction. -/
def Core.running (k : Core) (txn : Nat) : Option MCmd :=
  (k.arun.toList ++ k.trun.toList).find? (fun m => m.txn == txn)

/-- Changes the command that runs. -/
def Hw.modRun (h : Hw) (core txn : Nat) (f : MCmd → MCmd) : Hw :=
  let g (m : MCmd) : MCmd := if m.txn = txn then f m else m
  h.modCore core (fun k => { k with arun := k.arun.map g, trun := k.trun.map g })

/-- A latch. -/
def Core.latch (k : Core) (b : Bool) : Latch := if b then k.latB else k.latA
/-- Replaces a latch. -/
def Core.setLatch (k : Core) (b : Bool) (l : Latch) : Core := if b then { k with latB := l } else { k with latA := l }
/-- A tile. -/
def Core.tile (k : Core) (n : Nat) : Tile := SMap.get Tile.reset k.acc n
/-- Replaces a tile. -/
def Core.setTile (k : Core) (n : Nat) (t : Tile) : Core := { k with acc := SMap.set k.acc n t }

/-- An MMA locks a tile from its issue to its last cycle (R401). -/
def Core.mmaLocks (k : Core) (t : Nat) : Bool :=
  (k.arun.toList ++ k.aq).any (fun m => m.tile == t && (match m.op with | .mma _ _ _ => true | _ => false))

/-- A tile-path command locks its tile in the same way (R401). -/
def Core.tileLocks (k : Core) (t : Nat) : Bool := (k.trun.toList ++ k.tq).any (fun m => m.tile == t)

/-! ### Issue (R392) -/

/-- The chain finds a command slot and a completion entry, or is not eligible (R392 steps 1 and 2). `compl` is the FIFO of its
completion, `tile` the tile that it names, with whether it is an MMA. -/
def State.matReady (s : State) (c : Cur) (array gath : Bool) (compl : Option Nat) (tile : Option (Nat × Bool)) (go : State) : State :=
  s.unit c 0 <| (fun go => if gath then s.unit c 1 go else go) <|
    let k := s.hw.core c.core
    let queued := if array then k.aq.length + bit (k.arun.any (fun m => decide (s.hw.now < m.start)))
      else k.tq.length + bit (k.trun.any (fun m => decide (s.hw.now < m.start)))
    let full := match compl with
      | some 3 => decide (16 ≤ k.e3.length + k.e3Resv)
      | some _ => decide (16 ≤ k.e2.length + k.e2Resv)
      | none => false
    let locked := match tile with
      | some (t, true) => k.tileLocks t
      | some (t, false) => k.mmaLocks t
      | none => false
    if full && (s.hw.curCtx c).booked then s.faultWith c .calendarViolation 6 0
    else if decide (8 ≤ queued) || full || locked then s.notYet c
    else go

/-- A plain, tag-checked read of the core's own scratchpad through `sg0` (R392 step 3). -/
def State.ownRead (s : State) (c : Cur) (off len : Nat) (k : List Byte → State → State) : State :=
  let x := s.hw.curCtx c
  let sg := x.seg 0
  if sg.virt then s.onHw (fun h => h.faultChain c (c.faultAt .segmentRights 2 (wrap ((sg.base : Int) + off) 72) true))
  else
    s.check c 0 off len { r := true } len fun a _ =>
      if keyCore a ≠ c.core then s.faultWith c .segmentBounds 1 a
      else if x.fenced .plain then s.onHw (fun h => h.parkChain c .fence)
      else if (s.hw.core c.core).out.any (fun o =>
          o.uid == x.uid && AccOp.writes o.acc.op && !o.performed && !o.acc.virt && sectorsMeet o.acc.addr o.acc.size a len) then s.notYet c
      else s.plainRead c a len k

/-- Checks a list of ranges, each a segment number, an offset, a size and what it needs, and gathers what they are. -/
def State.checkRanges (s : State) (c : Cur) : List (Nat × Int × Nat × Need) → List (Bool × Nat × Nat) →
    (List (Bool × Nat × Nat) → State) → State
  | [], acc, k => k acc
  | (n, o, size, need) :: r, acc, k =>
    s.check c n o size need 1 fun a sg => s.checkRanges c r (acc ++ [(sg.virt, a, size)]) k

/-- A booked chain reaches only its own scratchpad and its windows (R392 step 4). -/
def State.bookedRanges (s : State) (c : Cur) (l : List (Bool × Nat × Nat)) (go : State) : State :=
  match l.find? (fun r => (s.hw.bookedSub c false r.1 r.2.1 r.2.2).isSome || (!r.1 && decide (0x90000 < r.2.1 % 2 ^ 20 + r.2.2) && (s.hw.curCtx c).booked)) with
  | some _ => s.faultWith c .calendarViolation 2 0
  | none => go

/-- A command without operands of its own. -/
def Hw.newCmd (h : Hw) (c : Cur) (op : MOp) (tile ident : Nat) (cq : Bool) (enter : Nat) : MCmd :=
  { txn := h.nextTxn, slot := c.slot, uid := (h.curCtx c).uid, chain := c,
    acc := h.mkAcc c (.vrow false) true false (scratchKey c.core 0) 0 0 0, op := op, tile := tile, ident := ident, cq := cq, enter := enter,
    start := 0, waits := if op.memory then h.earlierStores c else [], gang := none, broken := false, computing := false, fmt := 0,
    last := 0, trow := 0, band := 0, seg := 0, dseg := .none, cseg := .none, doff := 0, dstr := 0, coff := 0, cstr := 0, ranges := [],
    todo := [], flight := [], rows := [], scales := [], buf := [], bad := [], denied := [], addrs := [], poison := none, fail := none, held := none,
    sig := [] }

/-- A command goes to its path (R392 step 5), and the context's next chain may issue `d` cycles later. -/
def Hw.matPush (h : Hw) (c : Cur) (sw : Bool) (m : MCmd) (d : Nat) : Hw :=
  let h1 := ({ h with nextTxn := h.nextTxn + 1 } : Hw).modCore c.core (fun k =>
    let k1 := if m.op.array then { k with aq := k.aq ++ [m] } else { k with tq := k.tq ++ [m] }
    if !m.cq then k1
    else match m.op with
      | .gath _ => { k1 with e3Resv := k1.e3Resv + 1 }
      | _ => { k1 with e2Resv := k1.e2Resv + 1 })
  let h2 := h1.modCur c (fun x =>
    let y := match m.op with | .mrd _ _ => x.signWrite m.txn none | _ => x
    if m.ranges.any (fun r => r.1 || keyCore r.2.1 != c.core || keyCore (r.2.1 + r.2.2 - 1) != c.core) then
      { y with region := y.region.map (fun r => { r with ops := r.ops ++ [m.txn] }) }
    else y)
  (h2.matKick c.core).retire c sw d

/-- A quadword of a descriptor. -/
def descQuad (bs : List Byte) (i : Nat) : Nat := valLE ((bs.drop (8 * i)).take 8)

/-- A pending fence holds the accesses of a command (R188). -/
def State.engineFence (s : State) (c : Cur) (go : State) : State :=
  if (s.hw.curCtx c).fenced .e then s.onHw (fun h => h.parkChain c .fence) else go

/-- The common course of MGATH, MALD and MBLD (R392, R394, R395). -/
def State.loadForm (s : State) (c : Cur) (sw : Bool) (op : MOp) (b : GReg) : State :=
  let gath := match op with | .gath _ => true | _ => false
  s.reads c [b.toNat] <| s.matReady c true gath (some (if gath then 3 else 2)) none <| s.engineFence c <|
    s.ownRead c (s.hw.cg c b).toNat 64 fun bs s1 =>
      let q := descQuad bs
      let fmt := bits (q 0) 38 36
      let n := bits (q 0) 35 31
      let sseg := bits (q 0) 28 26
      let cseg := bits (q 0) 25 23
      let sb := latchScales fmt
      let wide (i : Nat) : Bool := bits (q i) 63 40 != 0
      if bits (q 0) 47 40 ≠ 0 || bits (q 0) 30 29 ≠ 0 || bits (q 0) 22 0 ≠ 0 || wide 1 || wide 2 || wide 3 || wide 4 ||
          bits (q 5) 63 20 ≠ 0 || (!gath && q 5 ≠ 0) || q 6 ≠ 0 || q 7 ≠ 0 || decide (6 ≤ fmt) || q 1 % 128 ≠ 0 || q 2 % 128 ≠ 0 ||
          (if sb = 0 then cseg ≠ 0 || q 3 ≠ 0 || q 4 ≠ 0 else q 3 % sb ≠ 0 || q 4 % sb ≠ 0) then
        s1.faultWith c .reservedValue 32 0
      else
        let x := s1.hw.curCtx c
        let push (l : List (Bool × Nat × Nat)) : State :=
          s1.bookedRanges c l <| s1.onHw fun h =>
            h.matPush c sw
              { h.newCmd c op 0 (bits (q 0) 63 48) (bitAt (q 0) 39) (h.now + 5) with
                fmt := fmt, last := n, seg := sseg, dseg := x.seg sseg, cseg := x.seg cseg, doff := q 1, dstr := q 2, coff := q 3,
                cstr := q 4, ranges := l } 5
        if gath then
          s1.check c 0 (q 5 : Nat) 128 { r := true } 128 fun a _ =>
            let d := x.seg sseg
            let e := x.seg cseg
            push ([(false, a, 128), (d.virt, d.base, d.len)] ++ (if sb = 0 then [] else [(e.virt, e.base, e.len)]))
        else
          s1.checkRanges c ((List.range (n + 1)).flatMap (fun i =>
            (sseg, ((q 1 + i * q 2 : Nat) : Int), 128, ({ r := true } : Need)) ::
              (if sb = 0 then [] else [(cseg, ((q 3 + i * q 4 : Nat) : Int), sb, ({ r := true } : Need))]))) [] push

/-- MGATH gathers rows into a latch (R392 to R397). -/
def execMgath (sw : Bool) (toB : Bool) (b : GReg) (s : State) : Res := s.withCur fun c => s.loadForm c sw (.gath toB) b
/-- MALD loads latch A (R392 to R397). -/
def execMald (sw : Bool) (b : GReg) (s : State) : Res := s.withCur fun c => s.loadForm c sw .ald b
/-- MBLD loads latch B (R392 to R397). -/
def execMbld (sw : Bool) (b : GReg) (s : State) : Res := s.withCur fun c => s.loadForm c sw .bld b

/-- MMA (R391, R392, R398, R399). -/
def execMma (sw : Bool) (g z cq : Bool) (acc : BitVec 2) (ks : BitVec 4) (s : State) : Res :=
  s.withCur fun c =>
    if 4 ≤ ks.toNat then s.faultWith c .reservedValue 34 0
    else
      s.matReady c true false (if cq then some 2 else none) (some (acc.toNat, true)) <| s.engineFence c <|
        let push (gang : Option (Nat × Nat × List Nat)) : State := s.onHw fun h =>
          h.matPush c sw { h.newCmd c (.mma g z (ks.toNat + 1)) acc.toNat 0 cq (h.now + 1) with gang := gang } 1
        if !g then push none
        else
          match (s.hw.curCtx c).gang with
          | none => s.faultWith c .reservedValue 33 0
          | some (clu, ch) =>
            match s.hw.gang clu ch with
            | none => s.faultWith c .reservedValue 33 0
            | some y => if y.state = .formed then push (some (ch, y.formedAt, y.members)) else s.faultWith c .reservedValue 33 0

/-- MZERO (R405). -/
def execMzero (sw : Bool) (f32 cq : Bool) (acc : BitVec 2) (s : State) : Res :=
  s.withCur fun c =>
    s.matReady c false false (if cq then some 2 else none) (some (acc.toNat, false)) <| s.onHw fun h =>
      h.matPush c sw (h.newCmd c (.mzero f32) acc.toNat 0 cq (h.now + 1)) 1

/-- The common course of MRD and MWR (R392, R402). -/
def State.tileForm (s : State) (c : Cur) (sw : Bool) (op : MOp) (acc : BitVec 2) (b : GReg) : State :=
  let rd := match op with | .mrd _ _ => true | _ => false
  s.reads c [b.toNat] <| s.matReady c false false (some 2) (some (acc.toNat, false)) <| s.engineFence c <|
    s.ownRead c (s.hw.cg c b).toNat 64 fun bs s1 =>
      let q := descQuad bs
      let ofmt := bits (q 0) 38 36
      let n := bits (q 0) 35 31
      let dseg := bits (q 0) 28 26
      let trow := bits (q 0) 22 18
      let by_ := outBytes ofmt
      let al := min by_ 32
      if bits (q 0) 47 40 ≠ 0 || bits (q 0) 30 29 ≠ 0 || bits (q 0) 25 23 ≠ 0 || bits (q 0) 17 0 ≠ 0 || bits (q 1) 63 40 ≠ 0 ||
          bits (q 2) 63 40 ≠ 0 || bits (q 3) 63 17 ≠ 0 || (!rd && q 3 ≠ 0) || q 4 ≠ 0 || q 5 ≠ 0 || q 6 ≠ 0 || q 7 ≠ 0 ||
          decide (31 < trow + n) || q 1 % al ≠ 0 || q 2 % al ≠ 0 || (!rd && ofmt ≠ 0 && ofmt ≠ 7) then
        s1.faultWith c .reservedValue 32 0
      else
        s1.checkRanges c ((List.range (n + 1)).map (fun i =>
            (dseg, ((q 1 + i * q 2 : Nat) : Int), by_, ({ r := !rd, w := rd } : Need)))) [] fun l =>
          s1.bookedRanges c l <| s1.onHw fun h =>
            h.matPush c sw
              { h.newCmd c op acc.toNat (bits (q 0) 63 48) (bitAt (q 0) 39) (h.now + 5) with
                fmt := ofmt, last := n, trow := trow, band := if bitAt (q 3) 16 then bits (q 3) 15 0 else 0x3F80, seg := dseg,
                doff := q 1, dstr := q 2, ranges := l } 5

/-- MRD writes tile rows to memory (R403). -/
def execMrd (sw : Bool) (rnd : Rnd) (nsat : Bool) (acc : BitVec 2) (b : GReg) (s : State) : Res :=
  s.withCur fun c => s.tileForm c sw (.mrd rnd nsat) acc b

/-- MWR reads tile rows from memory (R404). -/
def execMwr (sw : Bool) (acc : BitVec 2) (b : GReg) (s : State) : Res := s.withCur fun c => s.tileForm c sw .mwr acc b

/-- MSCL sets the scales of a latch (R405). -/
def execMscl (sw : Bool) (toB : Bool) (b : GReg) (s : State) : Res :=
  s.withCur fun c =>
    s.reads c [b.toNat] <| s.matReady c true false none none <|
      let v := (s.hw.cg c b).toNat
      if 255 < v then s.faultWith c .reservedValue 35 0
      else s.onHw fun h => h.matPush c sw (h.newCmd c (.mscl toB v) 0 0 false (h.now + 1)) 1

/-- BADDQ adds a bias row to a tile (R392, R406). -/
def execBaddq (sw : Bool) (rnd : Rnd) (acc : BitVec 2) (b : GReg) (s : State) : Res :=
  s.withCur fun c =>
    s.reads c [b.toNat] <| s.matReady c false false none (some (acc.toNat, false)) <|
      s.ownRead c (s.hw.cg c b).toNat 128 fun bs s1 => s1.onHw fun h =>
        h.matPush c sw (h.newCmd c (.baddq rnd (BitVec.ofNat 1024 (valLE bs))) acc.toNat 0 false (h.now + 1)) 4

/-- A load of a latch is under way since before this cycle (R396). -/
def Core.loading (k : Core) (now : Nat) (b : Bool) : Bool :=
  k.arun.any (fun m => decide (m.start < now) && m.op.toB == b &&
    (match m.op with | .gath _ => true | .ald => true | .bld => true | _ => false))

/-- The word of MSTAT (R407). -/
def Core.mstat (k : Core) (now : Nat) : Nat :=
  let each (f : Nat → Bool) : Nat := (List.range 4).foldl (fun n t => n + bit (f t) * 2 ^ t) 0
  let waiting (q : List MCmd) (r : Option MCmd) : Nat :=
    (q.filter (fun m => decide (m.enter < now))).length + bit (r.any (fun m => decide (m.enter < now) && decide (now ≤ m.start)))
  each (fun t => (k.tile t).inv != []) * 2 ^ 52 + each (fun t => (k.tile t).f32) * 2 ^ 48 +
    each (fun t => k.mmaLocks t || k.tileLocks t) * 2 ^ 44 + bit (k.latB.valid && !k.loading now true) * 2 ^ 39 + k.latB.fmt % 8 * 2 ^ 36 +
    bit (k.latA.valid && !k.loading now false) * 2 ^ 35 + k.latA.fmt % 8 * 2 ^ 32 + min 15 (waiting k.tq k.trun) * 2 ^ 16 +
    min 15 (waiting k.aq k.arun) * 2 ^ 12

/-- MSTAT reads the state of the unit (R407). -/
def execMstat (sw : Bool) (a : GReg) (s : State) : Res :=
  s.withCur fun c => s.onHw fun h =>
    (h.setG c.core c.slot a.toNat (BitVec.ofNat 64 ((h.core c.core).mstat h.now)) 2).retire c sw 1

/-! ### Completion and failure (R393, R408, R410) -/

/-- The completion word (R408). -/
def MCmd.word (m : MCmd) (status : Nat) : Word :=
  let tile := match m.op with | .mma _ _ _ => m.tile | .mzero _ => m.tile | .mrd _ _ => m.tile | .mwr => m.tile | _ => 0
  BitVec.ofNat 64 (m.ident % 2 ^ 16 * 2 ^ 48 + status % 16 * 2 ^ 44 + m.op.code * 2 ^ 40 + tile % 4 * 2 ^ 32 +
    ((m.denied.map Prod.fst).eraseDups).foldl (fun n i => n + 2 ^ i) 0 % 2 ^ 32)

/-- What a failed command charges its issuer (R408): a Poisoned or EngineCommand fault before its next chain, a fence or a region
for a remote failure, an orphan record after `QUIT`. -/
def Hw.matCharge (h : Hw) (core : Nat) (m : MCmd) (status addr : Nat) (remote : Option (Nat × Nat)) : Hw :=
  if status = 1 then
    let f := m.chain.fault .poisoned 0 addr
    if h.isQuiet core m.slot m.txn && h.alive core m.slot m.uid then h
    else if h.alive core m.slot m.uid then h.deferFault core m.slot f else h.orphan core m.slot (2 * bit m.acc.svc) kindOrphan f.deferred
  else h.engineFails core m.slot m.uid m.txn m.chain m.acc.svc false status 0 false remote

/-- A command ends (R393): its completion, its failure, and the next command of its path. -/
def State.matEnd (s : State) (core txn status : Nat) : State :=
  match (s.hw.core core).running txn with
  | none => s
  | some m =>
    s.onHw fun h =>
      let live := h.alive core m.slot m.uid && !h.isQuiet core m.slot m.txn
      let f := match m.op with | .gath _ => 3 | _ => 2
      let h1 := h.modCore core (fun k =>
        let k1 := if m.op.array then { k with arun := none } else { k with trun := none }
        if !m.cq then k1
        else if f = 3 then { k1 with e3Resv := k1.e3Resv - 1, e3 := if live then k1.e3 ++ [⟨m.uid, m.word status⟩] else k1.e3 }
        else { k1 with e2Resv := k1.e2Resv - 1, e2 := if live then k1.e2 ++ [⟨m.uid, m.word status⟩] else k1.e2 })
      let h2 :=
        match status, m.fail with
        | 0, _ => h1
        | _, some (_, addr, remote) => h1.matCharge core m status addr remote
        | _, none => h1.matCharge core m status (m.poison.getD 0) none
      let h3 := h2.signFill core m.slot m.uid m.txn m.sig
      let h4 := if m.cq && live then h3.wakeEngine core f (fun x => x.uid == m.uid) else h3
      (h4.opDone core m.slot m.uid m.txn).matKick core

/-- A command fails in this cycle: it ends with it. -/
def Hw.matFail (h : Hw) (core : Nat) (m : MCmd) (status addr : Nat) (remote : Option (Nat × Nat)) : Hw :=
  if m.fail.isSome then h
  else
    (h.modRun core m.txn (fun m => { m with fail := some (status, addr, remote), todo := [], flight := [], held := none })).after 1 m.op.step
      (.nats [core, m.txn, 4, status])

/-! ### Requests (R396, R397, R403, R404, R409) -/

/-- A request not yet sent. -/
def mreq (row part : Nat) (virt : Bool) (addr len due : Nat) : MReq := ⟨row, part, virt, addr, len, due, false, [], 0, false, [], [], none, []⟩

/-- Two ranges share a sector. -/
def rangesMeet (a b : Bool × Nat × Nat) : Bool := a.1 == b.1 && sectorsMeet a.2.1 a.2.2 b.2.1 b.2.2

/-- What a command may still access. -/
def MCmd.ahead (m : MCmd) (now : Nat) : List (Bool × Nat × Nat) :=
  let open_ := match m.op with | .gath _ => m.todo.any (fun r => r.part == 2) || m.flight.any (fun r => r.part == 2) | _ => false
  if m.start = 0 || decide (now ≤ m.start) || open_ then m.ranges
  else (m.todo ++ m.flight.filter (fun r => !r.performed)).map (fun r => (r.virt, r.addr, r.len))

/-- Runs of keys that two ranges reach meet in a sector. -/
def keysMeet (a b : List (Option Nat × Nat)) : Bool :=
  a.any (fun x => b.any (fun y =>
    match x.1, y.1 with
    | some p, some q => decide (p / 32 ≤ (q + y.2 - 1) / 32) && decide (q / 32 ≤ (p + x.2 - 1) / 32)
    | _, _ => false))

/-- An earlier command of the core is still to access a sector of a request, by the same address or through another page of its frame
(R409). -/
def State.commandAhead (s : State) (core : Nat) (m : MCmd) (r : MReq) : Bool :=
  let keys (n : MCmd) (q : Bool × Nat × Nat) : List (Option Nat × Nat) := s.keyRuns core n.acc.tenant q.1 (q.2.2 / 4096 + 2) q.2.1 q.2.2
  let mine := (r.virt, r.addr, r.len)
  (s.hw.core core).matCmds.any (fun n => decide (n.txn < m.txn) && n.op.memory &&
    (n.ahead s.hw.now).any (fun q => rangesMeet q mine || ((q.1 || r.virt) && keysMeet (keys n q) (keys m mine))))

/-- The pieces of a request, translated, with the cycles added and the first thing that stands in the way: its address and what it
is. -/
def State.reachAll (s : State) (core : Nat) (m : MCmd) (need : Need) (brings : Option Nat) (virt : Bool) (addr : Nat) :
    List Piece → List Piece → Nat → (List Piece × Nat × Option (Nat × Reach)) × State
  | [], acc, cyc => ((acc, cyc, none), s)
  | p :: r, acc, cyc =>
    let extra := s.xlateCycles core m.acc.tenant virt (addr + p.off)
    match s.reach core m.acc.tenant m.acc.svc need brings virt (addr + p.off) with
    | (.ok key leaf, s1) => s1.reachAll core m need brings virt addr r (acc ++ [{ p with key := key, leaf := leaf }]) (max cyc extra)
    | (e, s1) => ((acc, max cyc extra, some (addr + p.off, e)), s1)

/-- What a request needs of a leaf (R174, R420). -/
def MCmd.need (m : MCmd) (r : MReq) : Need :=
  match m.op with
  | .mrd _ _ => { w := true }
  | .gath _ => if r.part = 2 then { r := true } else { g := true }
  | _ => { r := true }

/-- The bytes that MRD writes to a sector (R403). -/
def Core.mrdBytes (k : Core) (m : MCmd) (r : MReq) : List Byte :=
  match m.op with
  | .mrd rnd nsat => (((k.tile m.tile).rowBytes m.fmt m.band rnd nsat (m.trow + r.row)).drop (32 * r.part)).take r.len
  | _ => []

/-- The next request of a command leaves (R397, R403, R404). -/
def State.matSend (s : State) (core txn : Nat) : State :=
  match (s.hw.core core).running txn with
  | none => s
  | some m =>
    match m.todo with
    | [] => s
    | r :: rest =>
      let now := s.hw.now
      let next (l : List MReq) (h : Hw) : Hw :=
        match l with
        | [] => h
        | q :: _ => h.schedule (max (now + 1) q.due) m.op.step (.nats [core, txn, 1])
      if m.fail.isSome || m.held.isSome || decide (now < r.due) then s
      else if r.bad then s.onHw (fun h => h.matFail core m 6 r.addr none)
      else if s.commandAhead core m r then
        let l := m.todo.map (fun q => { q with due := max q.due now + 1 })
        s.onHw (fun h => next l (h.modRun core txn (fun m => { m with todo := l })))
      else
        let brings := match m.op with | .mrd _ _ => some m.acc.otag | _ => none
        match s.reachAll core m (m.need r) brings r.virt r.addr (piecesOf r.addr r.len) [] 0 with
        | ((ps, cyc, none), s1) =>
          let lat := ps.foldl (fun n p => max n (s1.hw.latency core p.key)) 4
          let own := ps.all (fun p => !keyDram p.key && keyCore p.key == core)
          let bank := if own then 1 else cyc + lat / 2
          let q := { r with pieces := ps, reply := now + cyc + lat, data := (s1.hw.core core).mrdBytes m r }
          let moved := rest.map (fun e => if e.due ≤ now then { e with due := now + 1 } else e)
          s1.onHw fun h =>
            next moved ((((h.modRun core txn (fun m => { m with todo := moved, flight := m.flight ++ [q], sig :=
              match m.op with | .mrd _ _ => m.sig ++ sigMessage m.seg (m.doff + r.row * m.dstr + 32 * r.part) q.data | _ => m.sig })).after bank
                m.op.step (.nats [core, txn, 2, r.row, r.part])).schedule q.reply m.op.step (.nats [core, txn, 3, r.row, r.part])))
        | ((_, _, some (va, .absent w)), s1) =>
          let kind := match m.op with | .gath _ => 3 | _ => 4
          s1.onHw fun h => (h.modRun core txn (fun m => { m with held := some va })).askPage core m.slot m.acc.tenant kind va w
        | ((_, _, some (va, .remote cause t)), s1) =>
          let lat := s1.hw.scratchLatency core t
          let d := match s1.hw.routeFails core m.acc.tenant m.acc.svc t lat with | some (_, d) => d | none => lat
          s1.onHw fun h => (h.modRun core txn (fun m => { m with todo := [], flight := m.flight ++ [r] })).after d m.op.step (.nats [core, txn, 5, 2, va, cause, t])
        | ((_, _, some (va, _)), s1) =>
          s1.onHw fun h => (h.modRun core txn (fun m => { m with todo := [], flight := m.flight ++ [r] })).after 4 m.op.step (.nats [core, txn, 5, 3, va, 0, core])

/-- A request in flight. -/
def MCmd.inFlight (m : MCmd) (row part : Nat) : Option MReq := m.flight.find? (fun r => r.row == row && r.part == part)

/-- Changes a request in flight. -/
def Hw.modReq (h : Hw) (core txn row part : Nat) (f : MReq → MReq) : Hw :=
  h.modRun core txn (fun m => { m with flight := m.flight.map (fun r => if r.row = row ∧ r.part = part then f r else r) })

/-- A request is performed at its banks: MRD writes, the others read. -/
def State.matBank (s : State) (core txn row part : Nat) : State :=
  match (s.hw.core core).running txn with
  | none => s
  | some m =>
    match m.inFlight row part with
    | none => s
    | some r =>
      match m.op with
      | .mrd _ _ =>
        let s1 := r.pieces.foldl (fun s p => s.bankWrite p.key ((r.data.drop p.off).take p.len) (some m.acc.otag)) s
        s1.onHw (fun h => h.modReq core txn row part (fun r => { r with performed := true }))
      | _ =>
        let a : Acc := { m.acc with virt := r.virt, addr := r.addr, size := r.len, pieces := r.pieces }
        s.onHw (fun h => h.modReq core txn row part (fun r => { r with performed := true, got := r.pieces.map (s.pieceRead a) }))

/-- What the banks found for a request, with the tag checks that fall to the requester on the reply (R418). -/
def State.matTake (s : State) (m : MCmd) (r : MReq) : MReq :=
  let ok (p : PieceRes) : Bool := s.admitted m.acc p
  { r with
    data := if r.got = [] then r.data else r.got.flatMap (fun p => if ok p then p.bytes else p.bytes.map (fun _ => 0))
    den := (r.got.filter (fun p => !ok p)).map (fun p => (p.sector, p.tag))
    poison := (r.got.find? (fun p => ok p && p.poison)).map (fun p => r.addr + p.piece.off) }

/-- The requests of the rows of a gather, once its indices are known (R396, R397): a zeroed row keeps its place. -/
def MCmd.gathered (m : MCmd) (now : Nat) (idx : Nat) : List MReq :=
  let sb := latchScales m.fmt
  let per := if sb = 0 then 1 else 2
  (List.range (m.last + 1)).flatMap (fun i =>
    let x := idx / 2 ^ (32 * i) % 2 ^ 32
    if x = 0xFFFFFFFF then []
    else
      let one (sg : Seg) (off len part : Nat) : MReq :=
        match segCheck sg (off : Int) len { g := true } 1 with
        | .ok a => mreq i part sg.virt a len (now + per * i + part)
        | .bad _ a => { mreq i part sg.virt a len (now + per * i + part) with bad := true }
      let d := one m.dseg (m.doff + x * m.dstr) 128 0
      if sb = 0 then [d]
      else
        let c := one m.cseg (m.coff + x * m.cstr) sb 1
        [{ d with bad := d.bad || c.bad }, c])

/-- The last request of a command has its reply: the command ends with this cycle. -/
def State.matLast (s : State) (core txn : Nat) : State :=
  match (s.hw.core core).running txn with
  | none => s
  | some m =>
    if m.todo.isEmpty && m.flight.isEmpty && m.fail.isNone then
      s.onHw (fun h => h.after 1 m.op.step (.nats [core, txn, 4, 0]))
    else s

/-- Posts the audit record of a matrix read and sets TS.AUD (R421). -/
def State.matAudit (s : State) (core : Nat) (m : MCmd) (kind addr : Nat) (virt : Bool) (tag : Nat) : State :=
  let s1 := s.onHw (fun h => h.audit core m.slot kind m.acc.prin addr virt m.acc.gset tag)
  if s.hw.alive core m.slot m.uid then s1.flagTs core m.slot tsAUD else s1

/-- Rows whose denial has no record yet, where a command stops (R142, R421): those that wait for their other part, and those that the banks
have read. -/
def State.matOwes (s : State) (m : MCmd) : List (Nat × Nat) :=
  let waits := m.denied.filter (fun d => (m.todo ++ m.flight).any (fun q => q.row == d.1))
  let read := (m.flight.filter (fun q => q.performed && q.part != 2)).flatMap (fun q => (((s.matTake m q).den.take 1).map (fun d => (q.row, d.2))))
  read.foldl (fun l d => if l.any (fun e => e.1 == d.1) then l else l ++ [d]) waits

/-- The address of a row's first byte. -/
def MCmd.rowAddr (m : MCmd) (row : Nat) : Nat :=
  match (m.todo ++ m.flight).find? (fun q => q.row == row && q.part == 0) with
  | some q => q.addr
  | none => SMap.get 0 m.addrs row

/-- A reply of a load (R396): a denied row is zeros with one record when its last reply is in; poison fails the command; the index
row gives the rows. -/
def State.loadReply (s : State) (core : Nat) (m : MCmd) (r : MReq) : State :=
  let txn := m.txn
  let s := if r.part = 2 then r.den.foldl (fun s d => s.matAudit core m 1 d.1 r.virt d.2) s else s
  match r.poison with
  | some a =>
    ((s.matOwes m).foldl (fun s d => s.matAudit core m 5 (m.rowAddr d.1) m.dseg.virt d.2) s).onHw (fun h => h.matFail core m 1 a none)
  | none =>
    if r.part = 2 then
      let s1 := s
      let l := m.gathered s.hw.now (valLE r.data)
      let s2 := s1.onHw fun h =>
        let h1 := h.modRun core txn (fun m => { m with flight := [], todo := l })
        match l with
        | [] => h1
        | q :: _ => h1.schedule q.due m.op.step (.nats [core, txn, 1])
      s2.matLast core txn
    else
      let others := (m.todo ++ m.flight).filter (fun q => q.row == r.row && q.part != r.part)
      let s1 := s.onHw fun h => h.modRun core txn (fun m => { m with
        flight := m.flight.filter (fun q => !(q.row == r.row && q.part == r.part)),
        rows := if r.part = 0 then SMap.set m.rows r.row (BitVec.ofNat 1024 (valLE r.data)) else m.rows,
        scales := if r.part = 1 then SMap.set m.scales r.row (BitVec.ofNat 256 (valLE r.data)) else m.scales,
        denied := match r.den with | d :: _ => m.denied ++ [(r.row, d.2)] | [] => m.denied,
        addrs := if r.part = 0 then SMap.set m.addrs r.row r.addr else m.addrs })
      let s2 :=
        match (s1.hw.core core).running txn with
        | some n =>
          match n.denied.find? (fun (d : Nat × Nat) => d.1 == r.row) with
          | some d => if others.isEmpty then s1.matAudit core m 5 (SMap.get 0 n.addrs r.row) m.dseg.virt d.2 else s1
          | none => s1
        | none => s1
      s2.matLast core txn

/-- A reply of MWR (R404): a denied sector reads as zeros with one record. -/
def State.mwrReply (s : State) (core : Nat) (m : MCmd) (r : MReq) : State :=
  let s1 := r.den.foldl (fun s d => s.matAudit core m 1 d.1 r.virt d.2) s
  let key := 16 * r.row + r.part
  let s2 := s1.onHw fun h => h.modRun core m.txn (fun m => { m with
    flight := m.flight.filter (fun q => !(q.row == r.row && q.part == r.part)),
    buf := SMap.set m.buf key r.data,
    bad := if r.poison.isSome then key :: m.bad else m.bad,
    poison := if m.poison.isSome then m.poison else r.poison })
  s2.matLast core m.txn

/-- A reply reaches its command. -/
def State.matReply (s : State) (core txn row part : Nat) : State :=
  match (s.hw.core core).running txn with
  | none => s
  | some m =>
    match m.inFlight row part with
    | none => s
    | some r =>
      match m.op with
      | .mrd _ _ =>
        (s.onHw fun h => h.modRun core txn (fun m => { m with flight := m.flight.filter (fun q => !(q.row == row && q.part == part)) })).matLast
          core txn
      | .mwr => s.mwrReply core m (s.matTake m r)
      | _ => s.loadReply core m (s.matTake m r)

/-- A request has failed (R408). -/
def State.matRefused (s : State) (core txn status addr cause target : Nat) : State :=
  match (s.hw.core core).running txn with
  | none => s
  | some m => s.onHw (fun h => h.matFail core m status addr (if status = 2 then some (cause, target) else none))

/-- The requests of a command that starts (R397, R403, R404). -/
def MCmd.plan (m : MCmd) (c0 : Nat) : List MReq :=
  let each (l : List (Bool × Nat × Nat)) (f : Nat → Bool × Nat × Nat → List MReq) : List MReq := (l.zipIdx).flatMap (fun e => f e.2 e.1)
  let sectors (i0 : Nat) (gap : Nat) : List MReq :=
    let l := each m.ranges (fun i r =>
      (List.range ((r.2.2 + 31) / 32)).map (fun j => mreq i j r.1 (r.2.1 + 32 * j) (min 32 (r.2.2 - 32 * j)) 0))
    (l.zipIdx).map (fun e => { e.1 with due := i0 + gap + e.2 })
  match m.op with
  | .gath _ =>
    match m.ranges with
    | (v, a, n) :: _ => [mreq 0 2 v a n c0]
    | [] => []
  | .mrd _ _ => sectors c0 5
  | .mwr => sectors c0 0
  | _ =>
    if latchScales m.fmt = 0 then each m.ranges (fun i r => [mreq i 0 r.1 r.2.1 r.2.2 (c0 + i)])
    else each m.ranges (fun i r => [mreq (i / 2) (i % 2) r.1 r.2.1 r.2.2 (c0 + i)])

/-- A memory command starts. -/
def State.matStart (s : State) (core txn : Nat) : State :=
  match (s.hw.core core).running txn with
  | none => s
  | some m =>
    let l := m.plan s.hw.now
    s.onHw fun h =>
      let h1 := h.modRun core txn (fun m => { m with todo := l })
      match l with
      | [] => h1.after 1 m.op.step (.nats [core, txn, 4, 0])
      | r :: _ => h1.schedule r.due m.op.step (.nats [core, txn, 1])

/-- A command that was held at a page goes on at the sector that missed (R178). -/
def State.matResume (s : State) (core : Nat) (m : MCmd) : State :=
  s.onHw fun h =>
    let d := match m.todo with | r :: _ => h.now - r.due | [] => 0
    (h.modRun core m.txn (fun m => { m with held := none, todo := m.todo.map (fun r => { r with due := r.due + d }) })).schedule h.now m.op.step
      (.nats [core, m.txn, 1])

/-- The steps that the memory commands share; `done` is what the command leaves when it ends with a status. -/
def State.matStep (s : State) (done : State → Nat → MCmd → Nat → State) : Res :=
  match s.hw.arg with
  | .nats [core, txn, 0] => .next (s.matStart core txn)
  | .nats [core, txn, 1] => .next (s.matSend core txn)
  | .nats [core, txn, 2, row, part] => .next (s.matBank core txn row part)
  | .nats [core, txn, 3, row, part] => .next (s.matReply core txn row part)
  | .nats [core, txn, 4, status] =>
    .next <|
      match (s.hw.core core).running txn with
      | none => s
      | some m => done s core m status
  | .nats [core, txn, 5, status, addr, cause, target] => .next (s.matRefused core txn status addr cause target)
  | _ => .fault .noArgument

/-- A load leaves its latch (R396). -/
def MCmd.latch (m : MCmd) (ok : Bool) (l : Latch) : Latch :=
  let keep (i : Nat) : Bool := m.denied.all (fun d => d.1 != i)
  let rows := m.rows.filter (fun (e : Nat × BitVec 1024) => keep e.1)
  let scales := m.scales.filter (fun (e : Nat × BitVec 256) => keep e.1)
  if ok then
    { valid := true, fmt := m.fmt, rows := rows.filter (fun (e : Nat × BitVec 1024) => e.2 != 0),
      scales := scales.filter (fun (e : Nat × BitVec 256) => e.2 != 0) }
  else
    { l with valid := false, rows := rows.foldl (fun a e => SMap.set a e.1 e.2) l.rows,
             scales := scales.foldl (fun a e => SMap.set a e.1 e.2) l.scales }

/-- A step of MGATH, MALD or MBLD (R396, R397). -/
def execMatrixLoadExec (s : State) : Res :=
  s.matStep fun s core m status =>
    (s.onHw fun h => h.modCore core (fun k => k.setLatch m.op.toB (m.latch (status == 0) (k.latch m.op.toB)))).matEnd core m.txn status

/-- A step of MRD (R403). -/
def execMrdExec (s : State) : Res := s.matStep fun s core m status => s.matEnd core m.txn status

/-- What MWR has read for an entry. -/
def MCmd.gotEntry (m : MCmd) (row col : Nat) : Option (Nat × Bool) :=
  if row < m.trow ∨ m.trow + m.last < row then none
  else
    let eb := if m.fmt = 7 then 16 else 4
    let key := 16 * (row - m.trow) + col * eb / 32
    (SMap.find? m.buf key).map (fun bs => (valLE ((bs.drop (col * eb % 32)).take eb), m.bad.contains key))

/-- A step of MWR (R404). -/
def execMwrExec (s : State) : Res :=
  s.matStep fun s core m status =>
    let st := if status = 0 ∧ m.poison.isSome then 1 else status
    (s.onHw fun h => h.modCore core (fun k => k.setTile m.tile (mwrTile (m.fmt == 7) (k.tile m.tile) m.gotEntry))).matEnd core m.txn st

/-- MZERO runs for 32 cycles (R405). -/
def execMzeroExec (s : State) : Res :=
  match s.hw.arg with
  | .nats [core, txn, 0] => .next (s.onHw fun h => h.after 32 .mzeroExec (.nats [core, txn, 4, 0]))
  | .nats [core, txn, 4, _] =>
    .next <|
      match (s.hw.core core).running txn with
      | none => s
      | some m =>
        let f32 := match m.op with | .mzero f => f | _ => false
        (s.onHw fun h => h.modCore core (fun k => k.setTile m.tile ⟨f32, [], []⟩)).matEnd core txn 0
  | _ => .fault .noArgument

/-- MSCL runs in one cycle (R405). -/
def execMsclExec (s : State) : Res :=
  match s.hw.arg with
  | .nats [core, txn, 0] =>
    .next (s.onHw fun h =>
      match (h.core core).running txn with
      | none => h
      | some m =>
        let l := (h.core core).latch m.op.toB
        if l.valid && decide (l.fmt < 4) then h.after 1 .msclExec (.nats [core, txn, 4, 0]) else h.matFail core m 4 0 none)
  | .nats [core, txn, 4, status] =>
    .next <|
      match (s.hw.core core).running txn with
      | none => s
      | some m =>
        let v := match m.op with | .mscl _ v => v | _ => 0
        (if status = 0 then s.onHw fun h => h.modCore core (fun k => k.setLatch m.op.toB (msclLatch v (k.latch m.op.toB))) else s).matEnd core txn
          status
  | _ => .fault .noArgument

/-- BADDQ runs for 32 cycles (R406). -/
def execBaddqExec (s : State) : Res :=
  match s.hw.arg with
  | .nats [core, txn, 0] => .next (s.onHw fun h => h.after 32 .baddqExec (.nats [core, txn, 4, 0]))
  | .nats [core, txn, 4, _] =>
    .next <|
      match (s.hw.core core).running txn with
      | none => s
      | some m =>
        match m.op with
        | .baddq r bias => (s.onHw fun h => h.modCore core (fun k => k.setTile m.tile (baddTile r bias.toNat (k.tile m.tile)))).matEnd core txn 0
        | _ => s
  | _ => .fault .noArgument

/-! ### MMA (R398 to R400) -/

/-- An MMA begins to compute: it checks its operands, and runs for its cycles, or fails. -/
def Hw.mmaCompute (h : Hw) (core : Nat) (m : MCmd) : Hw :=
  let k := h.core core
  match m.op, pairMode k.latA.fmt k.latB.fmt with
  | .mma _ z ks, some f32 =>
    if k.latA.valid && k.latB.valid && (z || (k.tile m.tile).f32 == f32) then
      (h.modRun core m.txn (fun m => { m with computing := true })).after (mmaCycles k.latA.fmt ks) .mmaExec (.nats [core, m.txn, 4, 0])
    else h.matFail core m 4 0 none
  | _, _ => h.matFail core m 4 0 none

/-- A step of MMA: its start, the first compute cycle after the forwarding of a gang, its end, or the break of its gang (R410). -/
def execMmaExec (s : State) : Res :=
  match s.hw.arg with
  | .nats [core, txn, 0] =>
    .next (s.onHw fun h =>
      match (h.core core).running txn with
      | none => h
      | some m =>
        match m.gang with
        | none => h.mmaCompute core m
        | some (ch, formed, _) =>
          if m.broken then h.matFail core m 5 0 none
          else h.after 5 .mmaGangStart (.nats [0, clusterOf core, ch, formed, core, txn, h.now]))
  | .nats [core, txn, 1] =>
    .next (s.onHw fun h =>
      match (h.core core).running txn with
      | none => h
      | some m => h.mmaCompute core m)
  | .nats [core, txn, 6] =>
    .next (s.onHw fun h =>
      match (h.core core).running txn with
      | none => h
      | some m => if m.computing then h else h.matFail core m 5 0 none)
  | .nats [core, txn, 4, status] =>
    .next <|
      match (s.hw.core core).running txn with
      | none => s
      | some m =>
        let s1 := if status ≠ 0 then s
          else s.onHw fun h => h.modCore core (fun k =>
            match m.op with
            | .mma _ z ks => k.setTile m.tile (mmaTile k.latA k.latB ks z (4 ≤ k.latA.fmt) (k.tile m.tile))
            | _ => k)
        s1.matEnd core txn status
  | _ => .fault .noArgument

/-- The phase of a gang's matrix commands that is gathering. -/
def Cluster.mphase (c : Cluster) (ch formed : Nat) : Option MPhase := c.mphases.find? (fun p => p.chan == ch && p.formed == formed)

/-- Drops a phase. -/
def Hw.dropMphase (h : Hw) (clu ch formed : Nat) : Hw :=
  h.modCluster clu (fun c => { c with mphases := c.mphases.filter (fun p => !(p.chan == ch && p.formed == formed)) })

/-- A member's arrival at the node (R400). -/
def Hw.mmaArrive (h : Hw) (clu ch formed core txn a : Nat) : Hw :=
  match (h.core core).running txn with
  | none => h
  | some m =>
    if m.fail.isSome then h
    else if m.broken then h.matFail core m 5 0 none
    else
      let members := match m.gang with | some (_, _, l) => l | none => []
      let p := ((h.cluster clu).mphase ch formed).getD ⟨ch, formed, members, []⟩
      let p1 := { p with arrived := p.arrived ++ [(core, txn, a)] }
      let h1 := (h.dropMphase clu ch formed).modCluster clu (fun c => { c with mphases := c.mphases ++ [p1] })
      if members.all (fun m => p1.arrived.any (fun e => e.1 == m)) then h1.after 1 .mmaGangStart (.nats [1, clu, ch, formed]) else h1

/-- The first member of a member's row (A) or column (B) (R400). -/
def leadOf (members : List Nat) (core : Nat) (b : Bool) : Nat :=
  let same := members.filter (fun m => if b then m % 4 == core % 4 else m % 16 / 4 == core % 16 / 4)
  same.foldl min core

/-- Columns plus rows of a rectangle of members, less 2. -/
def spanOf (members : List Nat) : Nat :=
  (members.map (fun m => m % 4)).eraseDups.length + (members.map (fun m => m % 16 / 4)).eraseDups.length - 2

/-- The latches of a gang are forwarded: A east along each row, B south along each column (R400). -/
def Hw.mmaForward (h : Hw) (members : List Nat) : Hw :=
  members.foldl (fun (g : Hw) m => g.modCore m (fun k =>
    { k with latA := (h.core (leadOf members m false)).latA, latB := (h.core (leadOf members m true)).latB })) h

/-- A gang's matrix phase (R400): 0 an arrival is recorded, 1 the start is decided, 2 forwarding; each member then computes. -/
def execMmaGangStart (s : State) : Res :=
  match s.hw.arg with
  | .nats [0, clu, ch, formed, core, txn, a] => .next (s.onHw fun h => h.mmaArrive clu ch formed core txn a)
  | .nats [1, clu, ch, formed] =>
    .next (s.onHw fun h =>
      match (h.cluster clu).mphase ch formed with
      | none => h
      | some p =>
        let z := p.arrived.foldl (fun n e => max n e.2.2) 0
        let h1 := p.arrived.foldl (fun h e => h.modRun e.1 e.2.1 (fun m => { m with computing := true })) (h.dropMphase clu ch formed)
        h1.schedule (z + 10) .mmaGangStart (.words (2 :: p.arrived.flatMap (fun e => [e.1, e.2.1])) []))
  | .words (2 :: l) _ =>
    .next (s.onHw fun h =>
      let ps := pairsOf l
      let members := ps.map Prod.fst
      let f := if members.length ≤ 1 then 0 else 32 + 2 * spanOf members
      ps.foldl (fun h p => h.after f .mmaExec (.nats [p.1, p.2, 1])) (h.mmaForward members))
  | _ => .fault .noArgument

/-! ### Errors in latches and tiles (R389) -/

/-- An error is found: an uncorrectable one in a latch row or a tile entry (R389), in a sector or a kernel image that is handed over
(R38, R272), or one that is corrected (R37). Each is counted. -/
def execLatchEccError (s : State) : Res :=
  match s.hw.arg with
  | .ecc core site =>
    match site with
    | .latch b row => .next (s.onHw fun h => (h.modCore core (fun k => k.setLatch b (latchError (k.latch b) row))).countEcc core 3 1)
    | .entry t row col => .next (s.onHw fun h => (h.modCore core (fun k => k.setTile t (tileError (k.tile t) (32 * row + col)))).countEcc core 3 1)
    | .sector key => .next ((s.onMem (fun m => m.setPoison (key / 32 * 32) true)).onHw fun h => h.countEcc core 3 1)
    | .corrected place => .next (s.onHw fun h => if place < 3 ∨ place = 4 then h.countEcc core place 1 else h)
    | .image e => .next (s.onHw fun h => (h.modEntry (clusterOf core) e (fun d => if d.st = .loading then { d with poisoned := true } else d)).countEcc core 3 1)
  | _ => .fault .noArgument

end Sys2Proof.Machine
end

