-- ==== Sys2Proof/Machine/Tensor.lean ====
section
/-! DEFINITION. The counted tensor (21_tensor R425 to R445): records, returns, death, and the tensor forms. -/

namespace Sys2Proof.Machine

/-! ### Handles and records (R425 to R429) -/

/-- Fields of a handle (R426). -/
def handleW (h : Nat) : Nat := bits h 63 58
/-- See `handleW`. -/
def handleHome (h : Nat) : Nat := bits h 57 37
/-- See `handleW`. -/
def handleGen (h : Nat) : Nat := bits h 36 24
/-- See `handleW`. -/
def handleIdx (h : Nat) : Nat := bits h 23 0

/-- A handle of its fields (R426). -/
def handleOf (w home gen idx : Nat) : Nat := w % 64 * 2 ^ 58 + home % 2 ^ 21 * 2 ^ 37 + gen % 2 ^ 13 * 2 ^ 24 + idx % 2 ^ 24

/-- A handle is well formed (R426). -/
def handleOk (h : Nat) : Bool := handleIdx h != 0 && decide (handleIdx h ≤ 131071)

/-- The key of a record (R425). -/
def recordKey (core idx : Nat) : Nat := dramKeyOf (core % 2 ^ 21 * 2 ^ 28 + Config.recordArea + 32 * idx)

/-- The key of the record that a handle names. -/
def handleKey (h : Nat) : Nat := recordKey (handleHome h) (handleIdx h)

/-- A record (R427). -/
structure TRec where
  kind : Nat
  gen : Nat
  bound : Bool
  w0 : Nat
  cell : Nat
  retd : Nat
  q2 : Nat
  q3 : Nat
deriving DecidableEq, Repr

/-- The record at a key. -/
def Mem.trec (m : Mem) (key : Nat) : TRec :=
  let q0 := m.val key 8
  ⟨bits q0 63 62, bits q0 61 49, bitAt q0 48, bits q0 47 42, bits q0 40 0, bits (m.val (key + 8) 8) 47 0, m.val (key + 16) 8, m.val (key + 24) 8⟩

/-- The bytes of a record (R427). -/
def TRec.bytes (r : TRec) : List Byte :=
  bytesLE 8 (r.kind % 4 * 2 ^ 62 + r.gen % 2 ^ 13 * 2 ^ 49 + bit r.bound * 2 ^ 48 + r.w0 % 64 * 2 ^ 42 + r.cell % 2 ^ 41) ++
    bytesLE 8 (r.retd % 2 ^ 48) ++ bytesLE 8 r.q2 ++ bytesLE 8 r.q3

/-- The record names the handle's tensor (R432, R441). -/
def Mem.names (m : Mem) (h : Nat) : Bool :=
  handleOk h && (m.trec (handleKey h)).kind != 0 && (m.trec (handleKey h)).gen == handleGen h

/-- The lowest-numbered free record of a core, from index `i` on (R429). -/
def Mem.freeRecord (m : Mem) (core : Nat) : Nat → Nat → Option Nat
  | 0, _ => none
  | n + 1, i => if (m.read (recordKey core i + 7)).toNat / 64 = 0 then some i else m.freeRecord core n (i + 1)

/-- Allocates a record and gives its handle, of weight `w` (R429); 0 where none is free. -/
def State.allocRecord (s : State) (core w : Nat) (r : TRec) : Nat × State :=
  match s.mem.freeRecord core 131071 1 with
  | none => (0, s)
  | some i =>
    let gen := ((s.mem.trec (recordKey core i)).gen + 1) % 8192
    (handleOf w core gen i, s.writeKeep (recordKey core i) { r with gen := gen }.bytes)

/-! ### The record unit (R432, R433, R443) -/

/-- The order in which accesses reach a record in a cycle (R443): the binding first, then by arrival and sending core. -/
def Due.recordTurn (d : Due) : Option (Nat × Nat) :=
  let turn (arrival core : Nat) : Nat := arrival * 2 ^ 22 + core + 1
  match d.instr, d.arg with
  | .tensorReturn, .acc a due => some (a.addr, turn (due - 2) a.core)
  | .tensorReturn, .nats [core, _, h, _, arrival] => some (handleKey h, turn arrival core)
  | .remoteAccessAtBank, .acc a due =>
    match a.op with
    | .hbind _ _ _ _ _ => some (a.addr, 0)
    | .haddr _ _ _ _ _ _ _ _ => some (a.addr, turn (due - 2) a.core)
    | _ => none
  | _, _ => none

/-- Another access to the record comes first in this cycle. -/
def Hw.recordBehind (h : Hw) (key turn : Nat) : Bool :=
  h.agenda.any (fun d => decide (d.at_ ≤ h.now) && (match d.recordTurn with | some (k, t) => k == key && decide (t < turn) | none => false))

/-- What a return of `r` scruples under a handle does (R432): it fails, it would pass the issued weight, it is added, it completes
the weight. -/
inductive RetKind where
  | invalid | over | added | dies
deriving DecidableEq, Repr

/-- See `RetKind`. -/
def Mem.retKind (m : Mem) (h r : Nat) : RetKind :=
  let t := m.trec (handleKey h)
  if !m.names h then .invalid
  else if 2 ^ t.w0 < t.retd + r then .over
  else if t.retd + r = 2 ^ t.w0 then .dies
  else .added

/-- Death (R433): KIND 0; in the cycle after, the finaliser's cell is published, or the held handle returned. -/
def State.recordDies (s : State) (h : Nat) (t : TRec) : State :=
  let core := handleHome h
  let s1 := s.writeKeep (handleKey h) { t with kind := 0 }.bytes
  if t.kind = 1 ∧ t.bound then s1.onHw (fun h => h.after 1 .deathAction (.nats [0, core, t.cell]))
  else if t.kind = 2 then s1.onHw (fun h => h.after 1 .deathAction (.nats [2, core, t.q2]))
  else s1

/-- A return is performed at its record, as one sector access. -/
def State.recordReturn (s : State) (h r : Nat) : RetKind × State :=
  let k := s.mem.retKind h r
  let t := s.mem.trec (handleKey h)
  let t1 := { t with retd := t.retd + r }
  match k with
  | .added => (k, s.writeKeep (handleKey h) t1.bytes)
  | .dies => (k, s.recordDies h t1)
  | _ => (k, s)

/-- The kind of a WeightOverflow record (R434). -/
def kindWeight : Nat := 0x0006

/-- A return takes its turn at its record, one per cycle (R432): `go` where it is performed now. -/
def State.recordTurn (s : State) (i : Instr) (arg : Arg) (h turn : Nat) (go : State → State) : State :=
  let home := handleHome h
  if SMap.find? (s.hw.core home).retAt (handleIdx h) = some s.hw.now then s.onHw (fun w => w.after 1 i arg)
  else if s.hw.recordBehind (handleKey h) turn then s.onHw (fun w => w.schedule w.now i arg)
  else go (s.onHw (fun w => w.modCore home (fun k => { k with retAt := SMap.set k.retAt (handleIdx h) w.now })))

/-- A return is performed at its record (R432, R434). -/
def execTensorReturn (s : State) : Res :=
  match s.hw.arg with
  | .acc a due =>
    .next <|
      match a.op with
      | .tret h r =>
        s.recordTurn .tensorReturn (.acc a due) h ((due - 2) * 2 ^ 22 + a.core + 1) fun s =>
          let s0 := s.onHw (fun w => w.modOut a.core a.txn (fun o => { o with performed := true }))
          let reply (s : State) (x : AccRes) : State := s.onHw (fun w => w.after 2 .returnReply (.accRes a x))
          if s0.mem.isPoison (handleKey h) then reply s0 (.fail .poisoned 0 (handleKey h))
          else
            let p := s0.recordReturn h r
            match p.1 with
            | .invalid => reply s0 (.fail .handleInvalid 1 h)
            | .over =>
              let live := s0.hw.alive a.core a.slot (s0.hw.uidOf a.core a.txn)
              let flags := if live then (s0.hw.ctx a.core a.slot).flags else 1 + 2 * bit a.svc
              reply (s0.onHw (fun w => w.post a.core (eventRecord (w.count a.core) a.core a.slot 1 flags kindWeight h r))) (.data 0 [])
            | _ => reply p.2 (.data 0 [])
      | _ => s
  | .nats [core, tenant, h, r, arrival] =>
    .next <|
      s.recordTurn .tensorReturn (.nats [core, tenant, h, r, arrival]) h (arrival * 2 ^ 22 + core + 1) fun s =>
        let p := s.recordReturn h r
        match p.1 with
        | .invalid => s.onHw (fun w => w.post core (eventRecord (w.count core) core 0 (Cause.code .handleInvalid) 1 kindOrphan 0 h))
        | .over => s.onHw (fun w => w.post core (eventRecord (w.count core) core 0 1 1 kindWeight h r))
        | _ => p.2
  | _ => .fault .noArgument

/-- In the cycle after death (R433): step 0 publishes the finaliser's cell, which step 1 performs; step 2 returns the held handle,
and step 3 reports that this has failed. -/
def execDeathAction (s : State) : Res :=
  match s.hw.arg with
  | .nats [0, core, cell] =>
    .next <|
      if (s.hw.routeFails core ((s.hw.tenantOf core).getD 0) false (keyCore cell) 0).isSome then s
      else s.onHw (fun h => h.after (h.scratchLatency core (keyCore cell)) .deathAction (.nats [1, core, cell]))
  | .nats [1, _, cell] =>
    .next (if (scratchHole cell 32).isSome ∨ cell % 32 ≠ 0 ∨ s.mem.isPoison cell then s else s.cellStep (.deppub 0 0) cell)
  | .nats [2, core, held] =>
    .next <|
      s.onHw fun h =>
        let tenant := (h.tenantOf core).getD 0
        let lat := h.dramLatency core (handleHome held)
        match h.routeFails core tenant false (handleHome held) lat with
        | some (_, d) => h.after d .deathAction (.nats [3, core, held])
        | none => h.after lat .tensorReturn (.nats [core, tenant, held, 1, h.now + lat])
  | .nats [3, core, held] =>
    .next (s.onHw (fun h => h.post core (eventRecord (h.count core) core 0 (Cause.code .handleInvalid) 1 kindOrphan 0 held)))
  | _ => .fault .noArgument

/-- The reply of a return reaches its sender (R438). -/
def execReturnReply (s : State) : Res :=
  match s.hw.arg with
  | .accRes a r => .next (s.answer a.core a.txn r)
  | _ => .fault .noArgument

/-! ### Allocation, binding and reads at the record -/

/-- An access of a tensor form is performed at its record (R436, R437, R439, R441). -/
def State.recordAt (s : State) (a : Acc) (due : Nat) : State :=
  let s0 := s.onHw (fun w => w.modOut a.core a.txn (fun o => { o with performed := true }))
  let named (h : Nat) (go : State) : State :=
    if s0.mem.isPoison (handleKey h) then s0.reply a due (.fail .poisoned 0 (handleKey h))
    else if !s0.mem.names h then s0.reply a due (.fail .handleInvalid 1 h)
    else go
  match a.op with
  | .hnew _ q0 q2 q3 =>
    let p := s0.allocRecord a.core (bits q0 47 42) ⟨1, 0, false, bits q0 47 42, 0, 0, q2, q3⟩
    p.2.reply a due (.data p.1 [])
  | .hindir _ _ h _ =>
    let p := s0.allocRecord a.core 46 ⟨2, 0, false, 47, 0, 0, h, 0⟩
    p.2.reply a due (.data p.1 [])
  | .hbind _ cell _ h _ =>
    named h <|
      let t := s0.mem.trec (handleKey h)
      if t.kind ≠ 1 then s0.reply a due (.data (2 ^ 64 + t.q2) [])
      else if t.bound then s0.reply a due (.data 1 [])
      else (s0.writeKeep (handleKey h) { t with bound := true, cell := cell }.bytes).reply a due (.data 0 [])
  | .haddr _ _ _ h _ _ _ _ =>
    if s.hw.recordBehind a.addr ((due - 2) * 2 ^ 22 + a.core + 1) then s.onHw (fun w => w.schedule w.now .remoteAccessAtBank (.acc a due))
    else named h (s0.reply a due (.data (s0.mem.val (handleKey h) 32) []))
  | _ => s0

/-- An access ends with values for its registers. -/
def State.endWith (s : State) (o : Outst) (l : List (Nat × Word)) : State :=
  let a := o.acc
  let s0 := s.onHw (fun h => h.modCore a.core (fun k => { k with out := k.out.filter (fun e => e.acc.txn != a.txn) }))
  let s1 :=
    if s0.hw.alive a.core a.slot o.uid then
      (s0.deliverAll a.core a.slot a.txn l).onHw (fun h => h.endPlain a.core a.slot h.now)
    else s0
  (s1.onHw (fun h => h.opDone a.core a.slot o.uid a.txn)).pump a.core

/-- The form goes on to the next record of a chain of indirections (R441). -/
def State.nextRecord (s : State) (o : Outst) (h : Nat) (op : AccOp) : State :=
  let a := o.acc
  (s.onHw fun w =>
    (w.modOut a.core a.txn (fun o => { o with acc := { o.acc with op := op, addr := handleKey h, pieces := [] }, sent := false, performed := false })).modCtx
      a.core a.slot (fun x => { x with region := x.region.map (fun r =>
        if handleHome h = a.core ∨ r.ops.contains a.txn then r else { r with ops := r.ops ++ [a.txn] }) })).pump a.core

/-- HADDR stands at the home record (R441). -/
def State.haddrEnd (s : State) (o : Outst) (v reg m base len : Nat) (virt : Bool) : State :=
  let a := o.acc
  let q3 := bits v 255 192
  let tlen := bits q3 63 32
  let addr := bits v 191 128 + (if bitAt q3 8 then bits q3 7 0 * 2 ^ 64 else 0)
  let bad (c : Cause) (sub : Nat) : State :=
    (s.onHw (fun h => h.modOut a.core a.txn (fun o => { o with acc := { o.acc with virt := bitAt q3 8 } }))).answer a.core a.txn (.fail c sub addr)
  if m = 1 then s.endWith o [(reg, BitVec.ofNat 64 tlen)]
  else if bitAt q3 8 ≠ virt then bad .segmentRights 1
  else if addr < base ∨ len < addr - base + tlen then bad .segmentBounds 0
  else s.endWith o [(reg, BitVec.ofNat 64 (addr - base))]

/-- The half of a handle that an `HSEND` sends, with the return that would bring it home. -/
def handHalf (m : Msg) (a : Acc) (half : Nat) : Msg × Acc :=
  ({ m with val := BitVec.ofNat 64 half }, { a with op := .tret half (2 ^ handleW half), addr := handleKey half })

/-- The transmission of an `HSEND` after its indirection step (R440). -/
def State.handSend (s : State) (o : Outst) (owed v : Nat) : State :=
  let core := o.acc.core
  match (s.hw.core core).owed.find? (fun e => e.txn == owed) with
  | none => s
  | some e =>
    match e.hand with
    | none => s
    | some (m, a) =>
      let setHand (p : Option (Msg × Acc)) (h : Hw) : Hw :=
        h.modCore core (fun k => { k with owed := k.owed.map (fun e => if e.txn = owed then { e with hand := p } else e) })
      if v = 0 then (s.onHw (setHand none)).payOwed core owed 2
      else
        let p := handHalf m a v
        let waits := (s.hw.allWaits o.chain).filter (fun t => t != owed)
        s.onHw (fun h => ((setHand (some p) h).modCore core (fun k => { k with sends := k.sends ++ [⟨some p.1, none, waits⟩] })).sendKick core)

/-- The reply of an access of a tensor form. -/
def State.recordReply (s : State) (o : Outst) (v : Nat) : State :=
  let a := o.acc
  let w (n : Nat) : Word := BitVec.ofNat 64 n
  match a.op with
  | .hnew r _ _ _ => s.endWith o [(r, w v)]
  | .hindir ra rb h none => s.endWith o (if v = 0 then [(ra, 0), (rb, w h)] else [(ra, w v), (rb, w v)])
  | .hindir _ rb h (some t) => (s.endWith o [(rb, w (if v = 0 then h else v))]).handSend o t v
  | .hbind r cell h0 _ n =>
    if v < 2 ^ 64 then s.endWith o [(r, w v)]
    else if n = 16 then s.answer a.core a.txn (.fail .handleInvalid 3 h0)
    else s.nextRecord o (v - 2 ^ 64) (.hbind r cell h0 (v - 2 ^ 64) (n + 1))
  | .haddr r m h0 _ n base len virt =>
    let q0 := bits v 63 0
    if m = 2 then
      s.endWith o [(r, w (2 ^ bits q0 47 42 - bits v 111 64 + bits q0 47 42 * 2 ^ 48 + bits q0 63 62 * 2 ^ 54 + bit (bitAt q0 48) * 2 ^ 56))]
    else if bits q0 63 62 = 1 then s.haddrEnd o v r m base len virt
    else if n = 16 then s.answer a.core a.txn (.fail .handleInvalid 3 h0)
    else s.nextRecord o (bits v 191 128) (.haddr r m h0 (bits v 191 128) (n + 1) base len virt)
  | _ => s.answer a.core a.txn (.data v [])

/-! ### The forms (R435 to R441, R444) -/

/-- The check of a handle (R426). -/
def State.handle (s : State) (c : Cur) (h : Nat) (k : State) : State := if handleOk h then k else s.faultWith c .handleInvalid 2 h

/-- An access to a record. -/
def Hw.recAcc (h : Hw) (c : Cur) (op : AccOp) (relaxed : Bool) (key : Nat) : Acc := h.mkAcc c op relaxed false key 32 0 0

/-- A plain access of a tensor form: its context parks. -/
def State.recordAccess (s : State) (c : Cur) (sw : Bool) (op : AccOp) (key : Nat) : State :=
  s.mayAccess c false .plain <| s.access c sw (s.hw.recAcc c op false key)

/-- HNEW (R436). -/
def execHnew (sw : Bool) (a b : GReg) (s : State) : Res :=
  s.withCur fun c => s.unbooked c <| s.unpaired c <| s.window c (b.toNat + 1) <| s.reads c [b.toNat, b.toNat + 1] <|
    let v := (s.hw.cg c b).toNat
    let addr := (s.hw.cgn c (b.toNat + 1)).toNat
    let w0 := bits v 5 0
    if bits v 31 16 ≠ 0 ∨ bitAt v 7 ∨ 47 < w0 ∨ (!bitAt v 6 ∧ (bits v 15 8 ≠ 0 ∨ bits addr 63 41 ≠ 0)) then s.faultWith c .reservedValue 36 v
    else
      s.recordAccess c sw
        (.hnew a.toNat (w0 * 2 ^ 42) addr (bits v 63 32 * 2 ^ 32 + bit (bitAt v 6) * 2 ^ 8 + bits v 15 8)) (recordKey c.core 0)

/-- A form whose handle, in a register, has weight 0 makes a record, which a service core does not hold: its first action there is this
fault, once the register can be read (R32, R52). -/
def State.computeCore (s : State) (c : Cur) (b : GReg) (k : State) : State :=
  if (s.hw.core c.core).svc then
    s.reads c [b.toNat] (if handleW (s.hw.cg c b).toNat = 0 then s.faultWith c .undefinedInstruction 44 c.words else k)
  else k

/-- HCOPY (R437). -/
def execHcopy (sw : Bool) (a b : GReg) (s : State) : Res :=
  s.withCur fun c =>
    s.computeCore c b <|
    if a = b then s.faultWith c .reservedValue 38 0
    else s.reads c [b.toNat] <|
      let h := (s.hw.cg c b).toNat
      s.handle c h <|
        if handleW h ≠ 0 then
          let v : Word := BitVec.ofNat 64 (h - 2 ^ 58)
          s.onHw (fun w => ((w.setG c.core c.slot b.toNat v 1).setG c.core c.slot a.toNat v 1).retire c sw 1)
        else
          s.unbooked c <| s.unpaired c <| s.recordAccess c sw (.hindir a.toNat b.toNat h none) (recordKey c.core 0)

/-- A return of a chain is sent (R438, R442); `zero` empties the handle's register first. -/
def State.hreturn (s : State) (c : Cur) (sw : Bool) (h r : Nat) (zero : Option Nat) : State :=
  s.mayAccess c true .w <|
    let s1 := match zero with | some n => s.onHw (fun w => w.setG c.core c.slot n 0 1) | none => s
    s1.access c sw (s.hw.recAcc c (.tret h r) true (handleKey h))

/-- HDROP (R438). -/
def execHdrop (sw : Bool) (a : GReg) (s : State) : Res :=
  s.withCur fun c => s.unbooked c <| s.unpaired c <| s.reads c [a.toNat] <|
    let h := (s.hw.cg c a).toNat
    s.handle c h <| s.hreturn c sw h (2 ^ handleW h) (some a.toNat)

/-- HDROP.lost (R438, R445). -/
def execHdropLost (sw : Bool) (a : GReg) (s : State) : Res :=
  s.withCur fun c => s.unbooked c <| s.unpaired c <| s.reads c [a.toNat] <|
    let h := (s.hw.cg c a).toNat
    s.handle c h <| s.window c (a.toNat + 1) <| s.reads c [a.toNat + 1] <|
      let r := (s.hw.cgn c (a.toNat + 1)).toNat
      if r = 0 ∨ 2 ^ 47 < r then s.faultWith c .reservedValue 36 r else s.hreturn c sw h r none

/-- HBIND (R439). -/
def execHbind (sw : Bool) (a b : GReg) (s : State) : Res :=
  s.withCur fun c => s.unbooked c <| s.unpaired c <| s.window c (b.toNat + 1) <| s.reads c [b.toNat, b.toNat + 1] <|
    let cell := (s.hw.cgn c (b.toNat + 1)).toNat
    let h := (s.hw.cg c b).toNat
    if bits cell 63 41 ≠ 0 ∨ bits cell 4 0 ≠ 0 then s.faultWith c .reservedValue 37 cell
    else s.handle c h <| s.recordAccess c sw (.hbind a.toNat cell h h 0) (handleKey h)

/-- HSEND (R440). -/
def execHsend (sw : Bool) (a c b : GReg) (s : State) : Res :=
  s.withCur fun cu => s.computeCore cu b <|
    if a = b then s.faultWith cu .reservedValue 38 0
    else s.unbooked cu <| s.unpaired cu <| s.reads cu (regs [c, b]) <|
      let x := s.hw.curCtx cu
      let w := (s.hw.cg cu c).toNat
      let h := (s.hw.cg cu b).toNat
      if badTarget w then s.faultWith cu .reservedValue 0 0
      else s.handle cu h <|
        if x.fenced .w then s.onHw (fun h => h.parkChain cu .fence)
        else
          let target := bits w 36 16
          let txn := s.hw.nextTxn
          let half := if handleW h = 0 then 0 else h - 2 ^ 58
          let m : Msg :=
            { txn := txn, core := target, slot := bits w 13 8, reg := bits w 6 0, val := 0, tenant := (s.hw.tenantOf cu.core).getD 0,
              sender := cu.core, senderSlot := cu.slot, svc := x.service, mc := false, handle := true }
          let ret := s.hw.recAcc cu (.tret 0 0) true 0
          let p := handHalf m ret half
          let owes (s : State) (p : Msg × Acc) : State := s.onHw fun h =>
            (({ h with nextTxn := txn + 1 } : Hw).owe cu txn a.toNat target .w).modCore cu.core (fun k =>
              { k with owed := k.owed.map (fun e => if e.txn = txn then { e with hand := some p } else e) })
          if half ≠ 0 ∨ handleW h ≠ 0 then
            let waits := s.hw.allWaits cu
            (owes s p).onHw fun w =>
              ((((w.setG cu.core cu.slot b.toNat (BitVec.ofNat 64 half) 1).modCore cu.core (fun k => { k with sends := k.sends ++ [⟨some p.1, none, waits⟩] })).sendKick
                cu.core).retire cu sw 1)
          else
            s.mayAccess cu false .plain <|
              let s1 := owes s p
              s1.access cu sw (s1.hw.recAcc cu (.hindir a.toNat b.toNat h (some txn)) false (recordKey cu.core 0))

/-- HADDR of a handle; `m` is 0 for the offset, 1 for the length, 2 for the weight (R441). -/
def State.haddrForm (s : State) (c : Cur) (sw : Bool) (m : Nat) (a r : GReg) (g : Seg) : State :=
  s.unbooked c <| s.reads c [r.toNat] <|
    let h := (s.hw.cg c r).toNat
    s.handle c h <| s.recordAccess c sw (.haddr a.toNat m h h 0 g.base g.len g.virt) (handleKey h)

/-- HADDR. -/
def execHaddr (sw : Bool) (a c : GReg) (sg : BitVec 3) (s : State) : Res :=
  s.withCur fun cu => s.haddrForm cu sw 0 a c ((s.hw.curCtx cu).seg sg.toNat)
/-- HADDR.len. -/
def execHaddrLen (sw : Bool) (a c : GReg) (s : State) : Res := s.withCur fun cu => s.haddrForm cu sw 1 a c .none
/-- HADDR.wt. -/
def execHaddrWt (sw : Bool) (a c : GReg) (s : State) : Res := s.withCur fun cu => s.haddrForm cu sw 2 a c .none

end Sys2Proof.Machine
end

