-- ==== Sys2Proof/Machine/Vector.lean ====
section
/-! DEFINITION. The vector unit (18_vector R360 to R387): the issue of a vector form, the reads and writes of its rows in their
bank cycles, gather and scatter, the special-function unit, and the mask forms. -/

namespace Sys2Proof.Machine

/-! ### Rows in memory -/

/-- The bytes of a sector after a write of some of them. -/
def mergeBytes : List Byte → Nat → Nat → List Byte
  | [], _, _ => []
  | o :: r, data, en => (if en % 2 = 1 then BitVec.ofNat 8 data else o) :: mergeBytes r (data / 256) (en / 2)

/-- Writes the enabled bytes of one sector with a tag (R141, R366): a write that covers the sector clears its poison bit. -/
def State.sectorMasked (s : State) (key data en tag : Nat) : State :=
  if en % 2 ^ 32 = 0 then s
  else
    let old := if s.mem.tagOf key = tag then s.mem.readN key 32 else bytesLE 32 0
    let s1 := s.onMem (fun m =>
      let m1 := (m.setTag key tag).putN key (mergeBytes old data en)
      if en % 2 ^ 32 = 2 ^ 32 - 1 then m1.setPoison key false else m1)
    s1.onHw (fun h => h.wakeMonitors key 32)

/-- Writes the enabled bytes of a row in one bank cycle (R371). -/
def State.rowMasked (s : State) (key : Nat) (data : BitVec 1024) (en : BitVec 128) (tag : Nat) : State :=
  [0, 1, 2, 3].foldl (fun s i =>
    s.sectorMasked (key + 32 * i) (data.toNat / 2 ^ (256 * i) % 2 ^ 256) (en.toNat / 2 ^ (32 * i) % 2 ^ 32) tag) s

/-- The bank of a scratch address (R23). -/
def bankOf (key : Nat) : Nat := key % 2 ^ 20 / 128 % 3

/-! ### Jobs -/

/-- A vector form under way. -/
def Hw.vjob (h : Hw) (core id : Nat) : Option VJob := (h.core core).vjobs.find? (fun j => j.id == id)

/-- Changes a job. -/
def Hw.modJob (h : Hw) (core id : Nat) (f : VJob → VJob) : Hw :=
  h.modCore core (fun k => { k with vjobs := k.vjobs.map (fun j => if j.id = id then f j else j) })

/-- A job with nothing left to do ends. -/
def Hw.sweepJob (h : Hw) (core id : Nat) : Hw :=
  match h.vjob core id with
  | none => h
  | some j =>
    if j.reads.isEmpty && j.dests.isEmpty && j.elem.isNone && j.writes.isEmpty && j.elems.isEmpty && (h.core core).vread != some id then
      h.modCore core (fun k => { k with vjobs := k.vjobs.filter (fun j => j.id != id) })
    else h

/-- An access of a job has been performed, or will not be made: a fence, a retirement and the port see it. -/
def State.rowDone (s : State) (core slot uid txn : Nat) : State :=
  (s.onHw fun h =>
    (h.modCore core (fun k => { k with out := k.out.filter (fun o => o.acc.txn != txn) })).opDone core slot uid txn).pump core

/-- The accesses of a job that are not yet made. -/
def VJob.txns (j : VJob) : List Nat :=
  j.reads.map VRead.txn ++ j.dests.map Prod.snd ++ j.elem.toList ++ j.writes.map VWrite.txn

/-- The masks that a job was to write stay as they are. -/
def Hw.dropMask (h : Hw) (core slot uid id : Nat) : Hw :=
  if h.alive core slot uid then h.modCtx core slot (fun x => { x with maskPend := x.maskPend.filter (fun p => p.job != some id) }) else h

/-- A job writes nothing more (R366, R367). -/
def State.stopJob (s : State) (core id : Nat) : State :=
  match s.hw.vjob core id with
  | none => s
  | some j =>
    let s1 := s.onHw fun h =>
      (h.modJob core id (fun j => { j with reads := [], dests := [], elem := none, writes := [], stop := true })).dropMask core j.slot
        j.uid id
    (j.txns.foldl (fun s t => s.rowDone core j.slot j.uid t) s1).onHw (fun h => h.sweepJob core id)

/-- A fault of a vector form that is known only after its reads (R367); after `QUIT` it is an orphan record (R371). -/
def State.rowFault (s : State) (core : Nat) (j : VJob) (cause : Cause) (addr : Nat) : State :=
  let f := j.chain.fault cause 0 addr
  s.onHw fun h =>
    if h.alive core j.slot j.uid then h.deferFault core j.slot f
    else h.orphan core j.slot (2 * bit j.acc.svc) kindFault f.deferred

/-! ### Bank cycles (R369) -/

/-- A vector row write takes a bank in this cycle before a form. -/
def Core.bankTaken (k : Core) (now id bank : Nat) : Bool :=
  k.vwrote.contains (bank, now) ||
    k.vjobs.any (fun j => decide (j.id < id) && j.writes.any (fun w => w.due == now && bankOf w.key == bank))

/-- An earlier store or atomic of the context to the sectors of a range is not yet performed; a row that an earlier form of the
context has yet to write counts as one (R145, R369). -/
def Core.storeAhead (k : Core) (uid txn : Nat) (mine : List Nat) (key len : Nat) : Bool :=
  k.out.any (fun o => decide (o.acc.txn < txn) && o.uid == uid && AccOp.writes o.acc.op && !o.performed && !mine.contains o.acc.txn &&
    !o.acc.virt && sectorsMeet o.acc.addr o.acc.size key len)

/-- The scrub takes the bank of a row in this cycle (R161, R369); a booked context never meets it (R40). -/
def Hw.rowScrubbed (h : Hw) (core : Nat) (j : VJob) (key : Nat) : Bool :=
  !(h.alive core j.slot j.uid && (h.ctx core j.slot).booked) && h.scrubRow core (bankOf key) h.now

/-- A read of a job must wait for the next cycle. -/
def Core.readWaits (k : Core) (now : Nat) (j : VJob) (txn key len : Nat) : Bool :=
  k.bankTaken now j.id (bankOf key) || k.storeAhead j.uid txn j.txns key len

/-! ### Issue (R360, R364, R370) -/

/-- A row operand: which (0 C, 1 B, 2 A), its pointer, whether it is read or written. -/
structure VOpd where
  arg : Nat
  ptr : Nat
  r : Bool
  w : Bool
deriving DecidableEq, Repr

/-- A row that is read. -/
def srcRow (arg : Nat) (p : BitVec 3) : VOpd := ⟨arg, p.toNat, true, false⟩
/-- A row that is written. -/
def dstRow (p : BitVec 3) : VOpd := ⟨2, p.toNat, false, true⟩

/-- The row checks of R360, in the order of the operands. -/
def State.checkRows (s : State) (c : Cur) : List VOpd → List (VOpd × Nat) → (List (VOpd × Nat) → State) → State
  | [], acc, k => k acc
  | o :: r, acc, k =>
    let sg := (s.hw.curCtx c).seg 0
    let off : Int := ((s.hw.curCtx c).ptr o.ptr).off.toNat
    if sg.virt then s.onHw (fun h => h.faultChain c (c.faultAt .segmentRights 2 (wrap ((sg.base : Int) + off) 72) true))
    else
      s.check c 0 off 128 { r := o.r, w := o.w } 128 fun a _ =>
        if keyCore a ≠ c.core then s.faultWith c .segmentBounds 1 a else s.checkRows c r (acc ++ [(o, a)]) k

/-- The rows to read: each row once, in the order C, B, A, with the cycle in which its bank is taken (R368). -/
def planReads (issue : Nat) : List (VOpd × Nat) → List VRead → List VRead
  | [], acc => acc
  | (o, a) :: r, acc =>
    if !o.r then planReads issue r acc
    else if acc.any (fun e => e.key == a) then
      planReads issue r (acc.map (fun e => if e.key = a then { e with args := e.args ++ [o.arg] } else e))
    else
      planReads issue r (acc ++ [⟨[o.arg], a, 0, issue + 1 + (acc.filter (fun e => bankOf e.key == bankOf a)).length⟩])

/-- The occupancy that a form has where nothing delays it (R368). -/
def planned (issue : Nat) (l : List VRead) : Nat := l.foldl (fun n e => max n (e.due - issue)) 1

/-- Cycles from its issue for which a form that nothing delays holds the vector unit (R368, R384): at least one request follows the reads
of an element form. -/
def VOp.holds (op : VOp) (n : Nat) : Nat := match op with | .qnt _ _ => n + 1 | .gath => n + 5 | .scat => n + 5 | _ => n

/-- A booking on a core, one that runs or that starts by then, reserves the vector unit in one of the next cycles (R314). -/
def Hw.vecBarred (h : Hw) (core n : Nat) : Bool :=
  let from_ (b : Booking) : Nat := match b.state with | .running => 0 | .booked => b.s | .staging => b.s | _ => h.count core + n + 1
  (h.cluster (clusterOf core)).bookings.any (fun (e : Nat × Booking) =>
    e.2.members.any (fun m => m.core == core && m.stop.isNone) &&
      (List.range n).any (fun i => let t := h.count core + i; decide (from_ e.2 ≤ t / 16) && decide (t % 4 < bits e.2.q1 5 4)))

/-- The special-function unit is asked for. -/
def VOp.special (op : VOp) : Bool := match op with | .sfu _ => true | _ => false

/-- A chain is eligible only in a cycle in which its units take a form (R211, R220, R314, R370, R385). -/
def State.vecIssue (s : State) (c : Cur) (op : VOp) (n : Nat) (go : State) : State :=
  let k := s.hw.core c.core
  let share :=
    if (s.hw.curCtx c).booked then (s.hw.ownBooking c).any (fun b => b.has 4 && decide (bits b.q1 5 4 ≤ s.hw.count c.core % 4))
    else s.hw.vecBarred c.core (op.holds n) || (op.special && s.hw.unitBarred c.core 6)
  let full := op.special && decide (8 ≤ (k.sfuq.filter (fun q => decide (s.hw.now + n + 1 ≤ q))).length)
  if k.vread.isSome || decide (s.hw.now < k.vecFree) || share || full then s.notYet c else go

/-- A booked form needs its units booked (R316). -/
def State.vecOwn (s : State) (c : Cur) (op : VOp) (go : State) : State :=
  if !(s.hw.curCtx c).booked || (s.hw.ownBooking c).any (fun b => b.has 4 && (!op.special || b.has 6)) then go
  else s.faultWith c .calendarViolation 3 0

/-- Pointers named by a list of row operands, each once. -/
def ptrsOf (l : List VOpd) : List Nat := (l.map VOpd.ptr).eraseDups

/-- An advance of a pointer (R360). -/
def Ctx.advancePtr (x : Ctx) (p : Nat) : Ctx :=
  let v := x.ptr p
  { x with p := SMap.set x.p p { v with off := v.off + v.inc.signExtend 20 } }

/-- The access of a row of a form. -/
def rowAcc (a : Acc) (txn key len : Nat) (w : Bool) : Acc := { a with txn := txn, op := .vrow w, addr := key, size := len }

/-- An outstanding row or element. -/
def rowOut (a : Acc) (uid : Nat) (c : Cur) (w : Bool) : Outst := ⟨a, uid, if w then .w else .r, c, [], true, false, [], false, [], []⟩

/-- A vector form issues (R366): its reads, its rows and its elements become outstanding, its pointers advance. -/
def State.vecStart (s : State) (c : Cur) (h : VHdr) (op : VOp) (rows : List (VOpd × Nat)) (seg : Seg) (mdst : Nat) (reg : Word) :
    State :=
  s.onHw fun hw =>
    let x := hw.curCtx c
    let id := hw.nextTxn
    let reads := (planReads hw.now rows []).zipIdx.map (fun (e : VRead × Nat) => { e.1 with txn := id + 1 + e.2 })
    let d0 := id + 1 + reads.length
    let dests := (rows.filter (fun e => e.1.w)).reverse.zipIdx.map (fun (e : (VOpd × Nat) × Nat) => (e.1.2, d0 + e.2))
    let e0 := d0 + dests.length          -- and up to 32 sectors of elements
    let elem := match op with | .gath => some e0 | .scat => some e0 | _ => none
    let a : Acc := { hw.mkAcc c (.vrow false) true false (scratchKey c.core 0) 128 0 0 with txn := id }
    let scat := op == .scat
    let outs :=
      reads.map (fun e => rowOut (rowAcc a e.txn e.key 128 false) x.uid c false) ++
      dests.map (fun e => rowOut (rowAcc a e.2 e.1 128 true) x.uid c true) ++
      elem.toList.map (fun t => rowOut (rowAcc a t seg.base (max 129 seg.len) scat) x.uid c scat)
    let job : VJob :=
      { id := id, slot := c.slot, uid := x.uid, chain := c, op := op, ty := h.ty, rnd := h.rnd, nsat := h.nsat,
        mask := x.mask h.mask.toNat, reg := reg, acc := a, seg := seg, reads := reads, rows := [], poison := none, dests := dests,
        elem := elem, writes := [], elems := [], n := 0, stop := false, sfuEnd := 0 }
    let h1 := ({ hw with nextTxn := e0 + 33 } : Hw).modCore c.core (fun k =>
      { k with out := k.out ++ outs, vjobs := k.vjobs ++ [job], vread := some id,
               vwrote := k.vwrote.filter (fun e => e.2 == hw.now), sfuq := k.sfuq.filter (fun q => decide (hw.now ≤ q)) })
    let h2 := h1.modCur c (fun x =>
      let y := (ptrsOf (rows.map Prod.fst)).foldl Ctx.advancePtr x
      { y with
        maskPend := if mdst = 0 then y.maskPend else y.maskPend ++ [⟨mdst, 0, 0, some id⟩],
        region := y.region.map (fun r => { r with ops := r.ops ++ elem.toList }) })
    (h2.after 1 .vectorRowWrite (.nats [c.core, id, 0])).retire c h.sw 1

/-- The segment of an element form (R383), checked at issue. -/
def State.elemSeg (s : State) (c : Cur) (sg : Option (BitVec 3)) (go : Seg → State) : State :=
  match sg with
  | none => go Seg.none
  | some n =>
    let g := (s.hw.curCtx c).seg n.toNat
    if g.virt then s.faultWith c .segmentRights 2 n.toNat
    else if (s.hw.curCtx c).booked && g.len != 0 && !(g.base / 2 ^ 20 == c.core && decide (g.base % 2 ^ 20 + g.len ≤ 0x90000)) then
      s.faultWith c .calendarViolation 2 n.toNat
    else go g

/-- Reads several pointers (R101). -/
def State.readsPtrs (s : State) (c : Cur) (l : List Nat) (k : State) : State := l.foldr (fun p k => s.readsPtr c p k) k

/-- A pending fence holds the accesses of a form (R188, R371). -/
def State.vecFence (s : State) (c : Cur) (op : VOp) (rows : List VOpd) (go : State) : State :=
  let x := s.hw.curCtx c
  let r := rows.any VOpd.r || op == .gath
  let w := rows.any VOpd.w || op == .scat
  if (r && x.fenced .r) || (w && x.fenced .w) then s.onHw (fun h => h.parkChain c .fence) else go

/-- The common course of the vector forms (R360 to R371). `rows` are the row operands in the order C, B, A. -/
def State.vecForm (s : State) (c : Cur) (h : VHdr) (op : VOp) (rows : List VOpd) (sg : Option (BitVec 3)) (mdst : Nat)
    (reg : Option GReg) : State :=
  s.readsPtrs c (ptrsOf rows) <|
    let sg0 := (s.hw.curCtx c).seg 0
    let guess := rows.map (fun o => (o, sg0.base + ((s.hw.curCtx c).ptr o.ptr).off.toNat))
    s.vecIssue c op (planned s.hw.now (planReads s.hw.now guess [])) <| s.checkRows c rows [] fun (keyed : List (VOpd × Nat)) =>
      let ws := keyed.filter (fun (e : VOpd × Nat) => e.1.w)
      let cmp := match op with | .cmp _ => true | _ => false
      if cmp && mdst == 0 then s.faultWith c .reservedValue 30 0
      else if decide (ws.length = 2) && decide ((ws.map Prod.snd).eraseDups.length = 1) then
        s.faultWith c .reservedValue 31 ((ws.map (fun (e : VOpd × Nat) => e.1.ptr)).getLastD 0)
      else
        s.vecOwn c op <| s.readsMasks c [h.mask.toNat, mdst] <| s.reads c (regs reg.toList) <| s.vecFence c op rows <|
          s.elemSeg c sg fun seg => s.vecStart c h op keyed seg mdst ((reg.map (s.hw.cg c)).getD 0)

/-! ### Elements of `VGATH` and `VSCAT` (R383, R384) -/

/-- The lanes that move: enabled lanes below G with the index of each. -/
def VJob.movers (j : VJob) : List (Nat × Nat) :=
  ((List.range (min 32 j.ty.lanes)).filter (fun i => j.mask.getLsbD i)).map (fun i =>
    (i, (SMap.get 0 j.rows 1).toNat / 2 ^ (32 * i) % 2 ^ 32))

/-- The checks of the elements in lane order: the addresses, or the lowest failure. -/
def checkElems (seg : Seg) (eb : Nat) (w : Bool) : List (Nat × Nat) → Except (Cause × Nat) (List (Nat × Nat))
  | [] => .ok []
  | (i, x) :: r =>
    match segCheck seg ((x * eb : Nat) : Int) eb { r := !w, w := w } eb with
    | .bad cause a => .error (cause, a)
    | .ok a => (checkElems seg eb w r).map (fun l => (i, a) :: l)

/-- Elements by sector, in the order of the lowest lane that uses each. -/
def groupElems : List (Nat × Nat) → List VElem → List VElem
  | [], acc => acc
  | (i, a) :: r, acc =>
    let key := a / 32 * 32
    if acc.any (fun e => e.key == key) then
      groupElems r (acc.map (fun e => if e.key = key then { e with lanes := e.lanes ++ [(i, a)] } else e))
    else groupElems r (acc ++ [⟨0, key, [(i, a)], false, none⟩])

/-- The access that stood for a form's elements gives way to those of its sectors, in a fence, a region and the lists of what
waits for it. -/
def Hw.splitTxn (h : Hw) (core slot uid old : Nat) (new remote : List Nat) (outs : List Outst) : Hw :=
  let swap (b l : List Nat) : List Nat := if l.contains old then l.filter (fun t => t != old) ++ b else l
  let h1 := h.modCore core (fun k => { k with
    out := (k.out.flatMap (fun o => if o.acc.txn = old then outs else [o])).map (fun o => { o with waits := swap new o.waits }),
    e0 := k.e0.map (fun m => { m with waits := swap new m.waits }),
    aq := k.aq.map (fun m => { m with waits := swap new m.waits }), tq := k.tq.map (fun m => { m with waits := swap new m.waits }),
    sends := k.sends.map (fun m => { m with waits := swap new m.waits }) })
  if h.alive core slot uid then
    h1.modCtx core slot (fun x => { x with
      fence := x.fence.map (fun f => { f with set := swap new f.set }),
      region := x.region.map (fun r => { r with ops := swap remote r.ops }) })
  else h1

/-- The elements of a form are known (R383): its requests begin at n + 4. -/
def State.elemsKnown (s : State) (core : Nat) (j : VJob) (old : Nat) (l : List (Nat × Nat)) : State :=
  let w := j.op == .scat
  let first := old + 1
  let es := (groupElems l []).zipIdx.map (fun (e : VElem × Nat) => { e.1 with txn := first + e.2 })
  let outs := es.map (fun e => rowOut (rowAcc j.acc e.txn e.key 32 w) j.uid j.chain w)
  let remote := (es.filter (fun e => keyCore e.key != core)).map VElem.txn
  let s1 := s.onHw fun h =>
    (h.splitTxn core j.slot j.uid old (es.map VElem.txn) remote outs).modJob core j.id
      (fun j => { j with elem := none, elems := es, n := h.now })
  if es.isEmpty then
    let s2 := (s1.rowDone core j.slot j.uid old).onHw fun h => h.modCore core (fun k => { k with vread := none, vecFree := h.now })
    s2.onHw fun h =>
      match j.dests with
      | (key, t) :: _ =>
        (h.modJob core j.id (fun j => { j with dests := [], writes := [⟨key, t, 0, 0, h.now + 7⟩] })).after 7 .vectorRowWrite
          (.nats [core, j.id, 1, t])
      | [] => h.sweepJob core j.id
  else
    s1.onHw fun h => h.after 4 .gatherElementReply (.nats [core, j.id, 0])

/-- The bytes and lanes of a scatter's write to one sector, lanes ascending (R383). -/
def VJob.sectorData (j : VJob) (e : VElem) : Nat × Nat :=
  let eb := j.ty.bits / 8
  e.lanes.foldl (fun (v : Nat × Nat) (l : Nat × Nat) =>
    let o := l.2 - e.key
    let d := lane j.ty (SMap.get 0 j.rows 2).toNat l.1
    (v.1 - bits v.1 (8 * (o + eb) - 1) (8 * o) * 2 ^ (8 * o) + d * 2 ^ (8 * o), v.2 ||| ((2 ^ eb - 1) * 2 ^ o))) (0, 0)

/-- What a gather's element access has read reaches its lanes: a denied sector is zeros with its record, poison is kept (R142, R418). -/
def State.elemTake (s : State) (core : Nat) (j : VJob) (e : VElem) (r : PieceRes) : State :=
  let a := rowAcc j.acc e.txn e.key 32 false
  let ok := s.admitted a r
  let v := if ok then valLE r.bytes else 0
  let got := e.lanes.map (fun l => (l.1, v / 2 ^ (8 * (l.2 - e.key)) % 2 ^ j.ty.bits))
  (if ok then s else s.auditAll a j.uid [(r.sector, r.tag)]).onHw fun h => h.modJob core j.id (fun j => { j with
    poison := if ok && r.poison && j.poison.isNone then some e.key else j.poison
    rows := got.foldl (fun m l => SMap.set m (16 + l.1) (BitVec.ofNat 1024 l.2)) j.rows })

/-- An element access is performed at its bank: a scatter writes; a gather reads, and what another core's bank has found is checked on the
reply (R418). -/
def State.elemPerform (s : State) (core : Nat) (j : VJob) (e : VElem) : State :=
  let s0 := s.onHw (fun h => h.modOut core e.txn (fun o => { o with performed := true }))
  if j.op == .scat then
    let d := j.sectorData e
    s0.sectorMasked e.key d.1 d.2 j.acc.otag
  else
    let r := s0.pieceRead (rowAcc j.acc e.txn e.key 32 false) ⟨e.key, 32, 0, 0⟩
    if keyCore e.key = core then s0.elemTake core j e r
    else s0.onHw fun h => h.modJob core j.id (fun j =>
      { j with elems := j.elems.map (fun f => if f.txn = e.txn then { f with got := some r } else f) })

/-- The last reply of a form has come: `VGATH` writes its row at the later of n + 7 and the next cycle (R384); a poisoned sector
is a deferred fault. -/
def State.elemsDone (s : State) (core id : Nat) : State :=
  match s.hw.vjob core id with
  | none => s
  | some j =>
    if j.elems ≠ [] ∨ (s.hw.core core).vread = some id then s
    else
      match j.poison, j.dests with
      | some a, _ => if j.stop then s.onHw (fun h => h.sweepJob core id) else (s.rowFault core j .poisoned a).stopJob core id
      | none, (key, t) :: _ =>
        let got (i : Nat) : Bool := (SMap.find? j.rows (16 + i)).isSome
        let out := lanesOut j.ty got (fun i => (SMap.get 0 j.rows (16 + i)).toNat)
        match out.rows with
        | (d, en) :: _ =>
          s.onHw fun h =>
            let due := max (j.n + 7) (h.now + 1)
            (h.modJob core id (fun j => { j with dests := [], writes := [⟨key, t, d, en, due⟩] })).schedule due .vectorRowWrite
              (.nats [core, id, 1, t])
        | [] => s
      | none, [] => s.onHw (fun h => h.sweepJob core id)

/-- An element request has its reply. -/
def State.elemReply (s : State) (core id txn : Nat) : State :=
  match s.hw.vjob core id with
  | none => s
  | some j =>
    let s0 := match j.elems.find? (fun e => e.txn == txn) with
      | some e => (match e.got with | some r => s.elemTake core j e r | none => s)
      | none => s
    let s1 := s0.onHw (fun h => h.modJob core id (fun j => { j with elems := j.elems.filter (fun e => e.txn != txn) }))
    (s1.rowDone core j.slot j.uid txn).elemsDone core id

/-- An element request failed on its way (R367, R456): inside a region the region has failed and its lanes are 0; outside, the
form writes nothing more. -/
def State.elemFails (s : State) (core id txn cause : Nat) : State :=
  match s.hw.vjob core id, s.hw.findOut core txn with
  | some j, some o =>
    let x := s.hw.ctx core j.slot
    let kept := s.hw.alive core j.slot j.uid && (x.regionOp txn || (x.fenceOp txn && moduleOf (keyCore o.acc.addr) != moduleOf core && decide (cause ≤ 2)))
    let s1 := s.accRemote o cause (keyCore o.acc.addr)
    let lanes := ((j.elems.find? (fun e => e.txn == txn)).map VElem.lanes).getD []
    let s2 :=
      if kept then s1.onHw (fun h => h.modJob core id (fun j => { j with
        rows := lanes.foldl (fun m l => SMap.set m (16 + l.1) 0) j.rows }))
      else s1.stopJob core id
    s2.elemReply core id txn
  | _, _ => s

/-- The next sector request of a form (R369, R384). -/
def State.elemRequest (s : State) (core id : Nat) : State :=
  match s.hw.vjob core id with
  | none => s
  | some j =>
    let k := s.hw.core core
    let now := s.hw.now
    match j.elems.find? (fun e => !e.sent) with
    | none => s
    | some e =>
      let own := keyCore e.key == core
      if own && (k.readWaits now j e.txn e.key 32 || s.hw.rowScrubbed core j e.key) then
        s.onHw (fun h => h.after 1 .gatherElementReply (.nats [core, id, 0]))
      else
        let left := (j.elems.filter (fun f => !f.sent)).length
        let s1 := s.onHw fun h =>
          let h1 := h.modJob core id (fun j => { j with elems := j.elems.map (fun f => if f.txn = e.txn then { f with sent := true } else f) })
          if left = 1 then h1.modCore core (fun k => { k with vread := none, vecFree := now + 1 })
          else h1.after 1 .gatherElementReply (.nats [core, id, 0])
        if own then
          let s2 := s1.elemPerform core j e
          if j.op == .scat then s2.elemReply core id e.txn
          else s2.onHw (fun h => h.after 3 .gatherElementReply (.nats [core, id, 2, e.txn]))
        else
          let lat := s.hw.scratchLatency core (keyCore e.key)
          match s.hw.routeFails core j.acc.tenant j.acc.svc (keyCore e.key) lat with
          | some (cause, d) => s1.onHw (fun h => h.after d .gatherElementReply (.nats [core, id, 3, e.txn, cause]))
          | none => s1.onHw (fun h =>
              (h.after (lat / 2) .gatherElementReply (.nats [core, id, 1, e.txn])).after lat .gatherElementReply
                (.nats [core, id, 2, e.txn]))

/-- A step of a gather or scatter (R384): a request leaves, a remote bank performs it, its reply comes, or it has failed. -/
def execGatherElementReply (s : State) : Res :=
  match s.hw.arg with
  | .nats [core, id, 0] => .next (s.elemRequest core id)
  | .nats [core, id, 1, txn] =>
    .next <|
      match s.hw.vjob core id with
      | none => s
      | some j =>
        match j.elems.find? (fun e => e.txn == txn) with
        | none => s
        | some e => s.elemPerform core j e
  | .nats [core, id, 2, txn] => .next (s.elemReply core id txn)
  | .nats [core, id, 3, txn, cause] => .next (s.elemFails core id txn cause)
  | _ => .fault .noArgument

/-! ### Reads, results, writes (R366, R368, R369) -/

/-- Cycles for which a function holds the special-function unit (R385). -/
def sfuCycles : SfuFn → Nat
  | .rcp => 2 | .rsqrt => 3 | .sqrt => 3 | .exp2 => 4 | .log2 => 4 | _ => 5

/-- A row of a job, as a number. -/
def VJob.row (j : VJob) (i : Nat) : Nat := (SMap.get 0 j.rows i).toNat

/-- What a job computes. -/
def VJob.out (j : VJob) : VOut := vecOut j.op j.ty j.rnd j.nsat j.mask j.reg.toNat (j.row 0) (j.row 1) (j.row 2)

/-- The rows of a job go to its destinations, the first at a cycle and each later one a cycle after. -/
def Hw.vecWrites (h : Hw) (core : Nat) (j : VJob) (due : Nat) : Hw :=
  let ws := (j.dests.zip j.out.rows).zipIdx.map (fun (e : ((Nat × Nat) × (BitVec 1024 × BitVec 128)) × Nat) =>
    (⟨e.1.1.1, e.1.1.2, e.1.2.1, e.1.2.2, due + e.2⟩ : VWrite))
  let h1 := h.modJob core j.id (fun j => { j with dests := [], writes := ws })
  ws.zipIdx.foldl (fun h (e : VWrite × Nat) => h.schedule e.1.due .vectorRowWrite (.nats [core, j.id, 1, e.1.txn])) h1

/-- The last read of a form is done in this cycle: the unit is free again, and the results are on their way. -/
def State.vecCompute (s : State) (core id : Nat) : State :=
  match s.hw.vjob core id with
  | none => s
  | some j0 =>
    let now := s.hw.now
    let two := match j0.op with | .qnt _ _ => 1 | _ => 0
    let held := match j0.op with | .gath => true | .scat => true | _ => false
    let free (h : Hw) : Hw := h.modCore core (fun k => { k with vread := none, vecFree := now + two })
    let j := { j0 with n := now }
    match j.poison with
    | some a => ((s.onHw free).rowFault core j .poisoned a).stopJob core id
    | none =>
      if held then
        match checkElems j.seg (j.ty.bits / 8) (j.op == .scat) j.movers with
        | .error (cause, a) => ((s.onHw free).rowFault core j cause a).stopJob core id
        | .ok l => s.elemsKnown core j (j.elem.getD 0) l
      else
        s.onHw fun h =>
          let h1 := (free h).modJob core id (fun j => { j with n := now })
          match j.op with
          | .cmp _ =>
            let h2 :=
              if h1.alive core j.slot j.uid then
                h1.modCtx core j.slot (fun x => { x with
                  maskPend := x.maskPend.map (fun p => if p.job = some id then ⟨p.mask, now + 7, j.out.mask, none⟩ else p) })
              else h1
            h2.sweepJob core id
          | .sfu f =>
            let q := max (now + 1) (h1.core core).sfuFree
            let fin := q + sfuCycles f
            let h2 := h1.modCore core (fun k => { k with sfuFree := fin, sfuq := k.sfuq ++ [q] })
            (h2.modJob core id (fun j => { j with sfuEnd := fin })).schedule fin .sfuRequestDone (.nats [core, id])
          | _ => h1.vecWrites core j (now + 7)

/-- The reads of a form that fall in this cycle (R368, R369): a delayed read moves itself and every later one. -/
def State.vecRead (s : State) (core id : Nat) : State :=
  match s.hw.vjob core id with
  | none => s
  | some j =>
    let k := s.hw.core core
    let now := s.hw.now
    let due := j.reads.filter (fun e => decide (e.due ≤ now))
    let held := due.filter (fun e => k.readWaits now j e.txn e.key 128 || s.hw.rowScrubbed core j e.key)
    let go := due.filter (fun e => !held.contains e)
    let late (e : VRead) : VRead := if held.isEmpty then e else { e with due := max e.due now + 1 }
    let rest := (j.reads.filter (fun e => !go.contains e)).map late
    let s1 := go.foldl (fun s e =>
      let a := { rowAcc j.acc e.txn e.key 128 false with pieces := piecesOf e.key 128 }
      let r := s.readPieces a a.pieces
      let bad := (a.pieces.find? (fun p => s.granted a p && s.mem.isPoison p.key)).map Piece.key
      let s1 := s.auditAll a j.uid r.denied
      (s1.onHw fun h => h.modJob core id (fun j => { j with
        reads := j.reads.filter (fun f => f.txn != e.txn),
        rows := e.args.foldl (fun m i => SMap.set m i (BitVec.ofNat 1024 (valLE r.bytes))) j.rows,
        poison := if j.poison.isNone then bad else j.poison })).rowDone core j.slot j.uid e.txn) s
    if rest.isEmpty then s1.vecCompute core id
    else s1.onHw fun h => (h.modJob core id (fun j => { j with reads := rest })).after 1 .vectorRowWrite (.nats [core, id, 0])

/-- A row write falls in this cycle (R369): it waits where an earlier form takes the bank, and every later write of its form with
it. -/
def State.vecWrite (s : State) (core id txn : Nat) : State :=
  match s.hw.vjob core id with
  | none => s
  | some j =>
    let k := s.hw.core core
    let now := s.hw.now
    match j.writes.find? (fun w => w.txn == txn) with
    | none => s
    | some w =>
      if w.due ≠ now then s
      else if k.bankTaken now id (bankOf w.key) || k.storeAhead j.uid w.txn j.txns w.key 128 || s.hw.rowScrubbed core j w.key then
        let moved := j.writes.map (fun v => if now ≤ v.due then { v with due := v.due + 1 } else v)
        s.onHw fun h =>
          moved.foldl (fun h v => h.schedule v.due .vectorRowWrite (.nats [core, id, 1, v.txn]))
            (h.modJob core id (fun j => { j with writes := moved }))
      else
        let s1 := s.rowMasked w.key w.data w.en j.acc.otag
        let s2 := s1.onHw fun h =>
          (h.modJob core id (fun j => { j with writes := j.writes.filter (fun v => v.txn != txn) })).modCore core (fun k =>
            { k with vwrote := (bankOf w.key, now) :: k.vwrote.filter (fun e => e.2 == now) })
        (s2.rowDone core j.slot j.uid txn).onHw (fun h => h.sweepJob core id)

/-- A bank cycle of a vector form: the reads of a cycle (R368), or a row write (R366). -/
def execVectorRowWrite (s : State) : Res :=
  match s.hw.arg with
  | .nats [core, id, 0] => .next (s.vecRead core id)
  | .nats [core, id, 1, txn] => .next (s.vecWrite core id txn)
  | _ => .fault .noArgument

/-- The special-function unit ends a request (R220, R385): its row is written at the later of n + 7 and 3 cycles on; the result of
a context that has quit is discarded. -/
def execSfuRequestDone (s : State) : Res :=
  match s.hw.arg with
  | .nats [core, id] =>
    .next <|
      match s.hw.vjob core id with
      | none => s
      | some j =>
        if s.hw.alive core j.slot j.uid then s.onHw (fun h => h.vecWrites core j (max (j.n + 7) (h.now + 3)))
        else s.stopJob core id
  | _ => .fault .noArgument

/-! ### The forms -/

/-- The row operands of a form with A, C and B. -/
def rows3 (a c b : BitVec 3) : List VOpd := [srcRow 0 c, srcRow 1 b, dstRow a]
/-- The row operands of a form with A and C. -/
def rows2 (a c : BitVec 3) : List VOpd := [srcRow 0 c, dstRow a]

/-- VADD (R372). -/
def execVadd (h : VHdr) (a c b : BitVec 3) (s : State) : Res := s.withCur fun k => s.vecForm k h .add (rows3 a c b) none 0 none
/-- VSUB (R372). -/
def execVsub (h : VHdr) (a c b : BitVec 3) (s : State) : Res := s.withCur fun k => s.vecForm k h .sub (rows3 a c b) none 0 none
/-- VMUL (R372). -/
def execVmul (h : VHdr) (a c b : BitVec 3) (s : State) : Res := s.withCur fun k => s.vecForm k h .mul (rows3 a c b) none 0 none
/-- VFMA (R373). -/
def execVfma (h : VHdr) (a c b : BitVec 3) (s : State) : Res :=
  s.withCur fun k => s.vecForm k h .fma [srcRow 0 c, srcRow 1 b, ⟨2, a.toNat, true, true⟩] none 0 none
/-- VFMS (R373). -/
def execVfms (h : VHdr) (a c b : BitVec 3) (s : State) : Res :=
  s.withCur fun k => s.vecForm k h .fms [srcRow 0 c, srcRow 1 b, ⟨2, a.toNat, true, true⟩] none 0 none
/-- VMIN (R374). -/
def execVmin (h : VHdr) (a c b : BitVec 3) (s : State) : Res := s.withCur fun k => s.vecForm k h .min (rows3 a c b) none 0 none
/-- VMAX (R374). -/
def execVmax (h : VHdr) (a c b : BitVec 3) (s : State) : Res := s.withCur fun k => s.vecForm k h .max (rows3 a c b) none 0 none
/-- VABS (R372). -/
def execVabs (h : VHdr) (a c : BitVec 3) (s : State) : Res := s.withCur fun k => s.vecForm k h .abs (rows2 a c) none 0 none
/-- VNEG (R372). -/
def execVneg (h : VHdr) (a c : BitVec 3) (s : State) : Res := s.withCur fun k => s.vecForm k h .neg (rows2 a c) none 0 none
/-- VAND (R372). -/
def execVand (h : VHdr) (a c b : BitVec 3) (s : State) : Res := s.withCur fun k => s.vecForm k h .and (rows3 a c b) none 0 none
/-- VOR (R372). -/
def execVor (h : VHdr) (a c b : BitVec 3) (s : State) : Res := s.withCur fun k => s.vecForm k h .or (rows3 a c b) none 0 none
/-- VXOR (R372). -/
def execVxor (h : VHdr) (a c b : BitVec 3) (s : State) : Res := s.withCur fun k => s.vecForm k h .xor (rows3 a c b) none 0 none
/-- VNOT (R372). -/
def execVnot (h : VHdr) (a c : BitVec 3) (s : State) : Res := s.withCur fun k => s.vecForm k h .not (rows2 a c) none 0 none
/-- VSHL (R372). -/
def execVshl (h : VHdr) (a c b : BitVec 3) (s : State) : Res := s.withCur fun k => s.vecForm k h .shl (rows3 a c b) none 0 none
/-- VSHR (R372). -/
def execVshr (h : VHdr) (a c b : BitVec 3) (s : State) : Res := s.withCur fun k => s.vecForm k h .shr (rows3 a c b) none 0 none
/-- VSAR (R372). -/
def execVsar (h : VHdr) (a c b : BitVec 3) (s : State) : Res := s.withCur fun k => s.vecForm k h .sar (rows3 a c b) none 0 none

/-- VCMP (R375); `m0` as its destination is a fault (R362). -/
def execVcmp (h : VHdr) (k : Cond) (a : BitVec 2) (c b : BitVec 3) (s : State) : Res :=
  s.withCur fun cur => s.vecForm cur h (.cmp k) [srcRow 0 c, srcRow 1 b] none a.toNat none

/-- VSEL (R376). -/
def execVsel (h : VHdr) (a c b : BitVec 3) (s : State) : Res := s.withCur fun k => s.vecForm k h .sel (rows3 a c b) none 0 none
/-- VCVT (R377). -/
def execVcvt (h : VHdr) (tgt : ETy) (part : BitVec 3) (a c : BitVec 3) (s : State) : Res :=
  s.withCur fun k => s.vecForm k h (.cvt tgt part.toNat) (rows2 a c) none 0 none
/-- VQNT (R378): A holds the elements, B the scales. -/
def execVqnt (h : VHdr) (tgt : QFmt) (part : BitVec 3) (a c b : BitVec 3) (s : State) : Res :=
  s.withCur fun k => s.vecForm k h (.qnt tgt part.toNat) [srcRow 0 c, ⟨1, b.toNat, false, true⟩, dstRow a] none 0 none
/-- VDQNT (R379). -/
def execVdqnt (h : VHdr) (frm : QFmt) (part : BitVec 3) (a c b : BitVec 3) (s : State) : Res :=
  s.withCur fun k => s.vecForm k h (.dqnt frm part.toNat) (rows3 a c b) none 0 none
/-- VRED (R380). -/
def execVred (h : VHdr) (op : RedOp) (a c : BitVec 3) (s : State) : Res :=
  s.withCur fun k => s.vecForm k h (.red op) (rows2 a c) none 0 none
/-- VSCAN (R381). -/
def execVscan (h : VHdr) (op : RedOp) (excl : Bool) (a c : BitVec 3) (s : State) : Res :=
  s.withCur fun k => s.vecForm k h (.scan op excl) (rows2 a c) none 0 none
/-- VBCAST (R382). -/
def execVbcast (h : VHdr) (a : BitVec 3) (src : BcSrc) (s : State) : Res :=
  s.withCur fun k =>
    match src with
    | .lane c i => s.vecForm k h (.bcast i.toNat) (rows2 a c) none 0 none
    | .reg b => s.vecForm k h .bcreg [dstRow a] none 0 (some b)
/-- VIOTA (R382). -/
def execViota (h : VHdr) (a : BitVec 3) (s : State) : Res := s.withCur fun k => s.vecForm k h .iota [dstRow a] none 0 none
/-- VPERM (R382). -/
def execVperm (h : VHdr) (a c b : BitVec 3) (s : State) : Res := s.withCur fun k => s.vecForm k h .perm (rows3 a c b) none 0 none
/-- VGATH (R383). -/
def execVgath (h : VHdr) (a b : BitVec 3) (sg : BitVec 3) (s : State) : Res :=
  s.withCur fun k => s.vecForm k h .gath [srcRow 1 b, dstRow a] (some sg) 0 none
/-- VSCAT (R383). -/
def execVscat (h : VHdr) (a b : BitVec 3) (sg : BitVec 3) (s : State) : Res :=
  s.withCur fun k => s.vecForm k h .scat [srcRow 1 b, srcRow 2 a] (some sg) 0 none
/-- VSFU (R385). -/
def execVsfu (h : VHdr) (f : SfuFn) (a c : BitVec 3) (s : State) : Res :=
  s.withCur fun k => s.vecForm k h (.sfu f) (rows2 a c) none 0 none
/-- VDOT (R380). -/
def execVdot (h : VHdr) (a c b : BitVec 3) (s : State) : Res := s.withCur fun k => s.vecForm k h .dot (rows3 a c b) none 0 none
/-- VCLAMP (R374). -/
def execVclamp (h : VHdr) (a c b : BitVec 3) (s : State) : Res := s.withCur fun k => s.vecForm k h .clamp (rows3 a c b) none 0 none
/-- VAMAX (R380). -/
def execVamax (h : VHdr) (a c : BitVec 3) (s : State) : Res := s.withCur fun k => s.vecForm k h .amax (rows2 a c) none 0 none

/-! ### Mask forms (R386, R387) -/

/-- A mask result of latency 2. -/
def Hw.setMaskLater (h : Hw) (c : Cur) (n : Nat) (v : BitVec 256) : Hw :=
  h.modCur c (fun x => { x with maskPend := x.maskPend ++ [⟨n, h.now + 2, v, none⟩] })

/-- VMSK (R386). -/
def execVmsk (sw : Bool) (op : MskOp) (a c b : BitVec 2) (s : State) : Res :=
  s.withCur fun k =>
    if a = 0 then s.faultWith k .reservedValue 30 0
    else s.readsMasks k [c.toNat, b.toNat, a.toNat] <|
      let x := s.hw.curCtx k
      let p := x.mask c.toNat
      let q := x.mask b.toNat
      let v := match op with
        | .and => p &&& q | .or => p ||| q | .xor => p ^^^ q | .andn => p &&& ~~~q | .not => ~~~p
      s.onHw fun h => (h.setMaskLater k a.toNat v).retire k sw 1

/-- VMOVM (R387). -/
def execVmovm (sw : Bool) (op : MovmOp) (s : State) : Res :=
  s.withCur fun k =>
    match op with
    | .put m b =>
      if m = 0 then s.faultWith k .reservedValue 30 0
      else s.window k (b.toNat + 3) <| s.readsMasks k [m.toNat] <| s.reads k (regRun b.toNat 4) <| s.onHw fun h =>
        let v := (List.range 4).foldl (fun n i => n + (h.cgn k (b.toNat + i)).toNat * 2 ^ (64 * i)) 0
        (h.setMaskLater k m.toNat (BitVec.ofNat 256 v)).retire k sw 1
    | .get a m =>
      s.window k (a.toNat + 3) <| s.readsMasks k [m.toNat] <| s.onHw fun h =>
        let v := ((h.curCtx k).mask m.toNat).toNat
        ((List.range 4).foldl (fun h i =>
          h.setG k.core k.slot (a.toNat + i) (BitVec.ofNat 64 (bits v (64 * i + 63) (64 * i))) 2) h).retire k sw 1
    | .cnt a m =>
      s.readsMasks k [m.toNat] <| s.onHw fun h =>
        (h.setG k.core k.slot a.toNat (BitVec.ofNat 64 (popcount 256 ((h.curCtx k).mask m.toNat).toNat)) 2).retire k sw 1

end Sys2Proof.Machine
end

