-- ==== Sys2Proof/Machine/Link.lean ====
section
/-! DEFINITION. The link and the Filxis tree (22_link): multicast, reduction slots, uplinks, down and up notices. -/

namespace Sys2Proof.Machine

/-! ### The tree (R446) -/

/-- One-way transit from a core to its node; level 0 is the cluster node, 3 the module node (R446). -/
def transit (lvl : Nat) : Nat := [10, 18, 30, 70].getD lvl 70

/-- Low bits of a core number below its node at a level (R466). -/
def levelBits (lvl : Nat) : Nat := [4, 7, 10, 13].getD lvl 13

/-- The first core below the node of a core at a level. -/
def nodeOf (lvl core : Nat) : Nat := core / 2 ^ levelBits lvl * 2 ^ levelBits lvl

/-- Bytes of a member bitmap at a level (R466). -/
def bitmapLen (lvl : Nat) : Nat := 2 ^ levelBits lvl / 8

/-- The members that a bitmap names. -/
def membersOf (n v : Nat) : List Nat := (List.range n).filter (fun i => bitAt v i)

/-- The bitmap of a set of members. -/
def bitmapOf (n : Nat) (l : List Nat) : List Byte :=
  (List.range (n / 8)).map (fun i => BitVec.ofNat 8 ((List.range 8).foldl (fun v j => v + bit (l.contains (8 * i + j)) * 2 ^ j) 0))

/-- Every core is enabled and belongs to a tenant. -/
def Hw.heldBy (h : Hw) (tenant : Nat) (l : List Nat) : Bool := l.all (fun c => !h.coreDisabled c && h.tenantOf c == some tenant)

/-- A page-6 form in a booked context (R316, R453, R465). -/
def State.page6 (s : State) (c : Cur) (k : State) : State :=
  if (s.hw.curCtx c).booked then s.faultWith c .calendarViolation 2 0 else k

/-- The first core of a module. -/
def moduleBase (m : Nat) : Nat := m * 8192

/-! ### MCW (R461, R462) -/

/-- MCW: its operands, the wait behind an earlier one for the group, the read of its bitmap. -/
def execMcw (sw : Bool) (a b : GReg) (s : State) : Res :=
  s.withCur fun c => s.window c (b.toNat + 1) <| s.reads c [b.toNat, b.toNat + 1] <|
    let w := (s.hw.cg c b).toNat
    let addr := (s.hw.cgn c (b.toNat + 1)).toNat
    let m := s.hw.mod (moduleOf c.core)
    if bits w 63 17 ≠ 0 ∨ bits w 15 14 ≠ 0 ∨ addr % 32 ≠ 0 ∨ (scratchHole addr 1024).isSome then s.faultWith c .reservedValue 42 0
    else if m.mcws.any (fun q => q.group == bits w 7 0) then s.onHw (fun h => h.parkChain c .other)
    else
      s.mayAccess c false .plain <|
        s.access c sw (s.hw.mkAcc c (.bitmap true a.toNat w) false false addr 1024 0 0)

/-- The bitmap of an MCW has been read (R462): the new version is on its way to the nodes. -/
def State.mcwRead (s : State) (o : Outst) (reg w v : Nat) : State :=
  let a := o.acc
  let md := moduleOf a.core
  let clear := bitAt w 16
  let l := (membersOf 8192 v).map (fun i => moduleBase md + i)
  if !clear ∧ !s.hw.heldBy (bits w 13 8) l then s.answer a.core a.txn (.fail .reservedValue 42 0)
  else
    let s1 := s.endWith o []
    s1.onHw fun h =>
      let txn := h.nextTxn
      let h1 := ({ h with nextTxn := txn + 1 } : Hw).owe o.chain txn reg a.core .plain
      (h1.modMod md (fun m => { m with mcws := m.mcws ++ [⟨bits w 7 0, a.core, a.slot, o.uid, txn⟩] })).after 70 .mcwComplete
        (.nats ([0, md, bits w 7 0, bit clear, bits w 13 8] ++ l))

/-- The source cluster nodes switch to the new version of a group (step 0); every packet of the old one has left (step 1), and chains
that wait behind it go on (R462). -/
def execMcwComplete (s : State) : Res :=
  match s.hw.arg with
  | .nats (0 :: md :: g :: clear :: tenant :: l) =>
    .next (s.onHw fun h =>
      (h.modMod md (fun m => { m with groups := if clear = 1 then SMap.erase m.groups g else SMap.set m.groups g ⟨tenant, l⟩ })).after 140
        .mcwComplete (.nats [1, md, g]))
  | .nats [1, md, g] =>
    .next <|
      match (s.hw.mod md).mcws.find? (fun q => q.group == g) with
      | none => s
      | some q =>
        let s1 := (s.onHw (fun h => h.modMod md (fun m => { m with mcws := m.mcws.erase q }))).payOwed q.core q.txn 0
        (s1.hw.cores.filter (fun (e : Nat × Core) => moduleOf e.1 == md)).foldl (fun s e =>
          e.2.slots.foldl (fun s (x : Nat × Ctx) => if x.2.park == some .other then s.wake e.1 x.1 else s) s) s1
  | _ => .fault .noArgument

/-! ### MCSEND (R463) -/

/-- MCSEND. -/
def execMcsend (sw : Bool) (a c b : GReg) (s : State) : Res :=
  s.withCur fun cu => s.page6 cu <| s.reads cu (regs [c, b]) <|
    let x := s.hw.curCtx cu
    let w := (s.hw.cg cu c).toNat
    let md := moduleOf cu.core
    let tenant := (s.hw.tenantOf cu.core).getD 0
    if bits w 63 24 ≠ 0 ∨ bits w 15 14 ≠ 0 ∨ bitAt w 7 then s.faultWith cu .reservedValue 0 0
    else if x.fenced .w then s.onHw (fun h => h.parkChain cu .fence)
    else s.onHw fun h =>
      let txn := h.nextTxn
      let h0 : Hw := { h with nextTxn := txn + 1 }
      match SMap.find? (h.mod md).groups (bits w 23 16) with
      | none => ((h0.owe cu txn a.toNat cu.core .w).after 20 .mcsendResult (.nats [cu.core, txn, 1])).retire cu sw 1
      | some g =>
        if g.tenant ≠ tenant ∧ !x.service then ((h0.owe cu txn a.toNat cu.core .w).after 20 .mcsendResult (.nats [cu.core, txn, 1])).retire cu sw 1
        else
          let lat (t : Nat) : Nat := h.scratchLatency cu.core t
          let near := g.cores.foldl (fun n t => if lat t < lat n then t else n) (g.cores.headD cu.core)
          let far := g.cores.foldl (fun n t => max n (lat t)) 0
          let h1 := h0.owe cu txn a.toNat near .w
          let h2 := h1.modCur cu (fun x => { x with region := x.region.map (fun r =>
            if r.ops.contains txn ∨ g.cores.all (fun t => t == cu.core) then r else { r with ops := r.ops ++ [txn] }) })
          let h3 := h2.modCore cu.core (fun k => { k with mcs := k.mcs ++ [⟨txn, g.cores.length, 0, 0, 0, h.now + far + 2⟩] })
          let h4 := g.cores.foldl (fun h' t =>
            let m : Msg :=
              { txn := txn, core := t, slot := bits w 13 8, reg := bits w 6 0, val := h.cg cu b, tenant := tenant, sender := cu.core,
                senderSlot := cu.slot, svc := x.service, mc := true, handle := false }
            h'.after (lat t / 2 + 1) .multicastCopyArrival (.msg m (h.now + lat t))) h3
          let h5 := if g.cores = [] then h4.after 20 .mcsendResult (.nats [cu.core, txn, 0]) else h4
          h5.retire cu sw 1

/-- A copy arrives at one of its targets (R463); while the target's image is taken it is held (R262). -/
def execMulticastCopyArrival (s : State) : Res :=
  match s.hw.arg with
  | .msg m due =>
    .next <|
      if (s.hw.core m.core).imaging then s.onHw (fun h => h.holdIn m.core .multicastCopyArrival s.hw.arg)
      else
        let r := s.arrive m
        r.2.onHw fun h =>
          match (h.core m.sender).mcs.find? (fun q => q.txn == m.txn) with
          | none => h
          | some q =>
            let st := r.1.1
            let q1 := { q with
              left := q.left - 1, held := q.held + bit (st == 1), fail := q.fail + bit (decide (2 ≤ st)),
              failCore := if 2 ≤ st ∧ q.fail = 0 then m.core else q.failCore }
            let h1 := h.modCore m.sender (fun k => { k with mcs := k.mcs.map (fun e => if e.txn = m.txn then q1 else e) })
            if q1.left = 0 then h1.schedule (max q1.due (due + 2)) .mcsendResult (.nats [m.sender, m.txn, 0]) else h1
  | _ => .fault .noArgument

/-- The result of an MCSEND, every target having replied (R463). -/
def execMcsendResult (s : State) : Res :=
  match s.hw.arg with
  | .nats [core, txn, nogrp] =>
    .next <|
      if nogrp = 1 then s.payOwed core txn (BitVec.ofNat 64 (2 ^ 63))
      else
        match (s.hw.core core).mcs.find? (fun q => q.txn == txn) with
        | none => s.payOwed core txn 0
        | some q =>
          let s1 := s.onHw (fun h =>
            (if q.fail ≠ 0 then h.owedFails core txn 3 q.failCore else h).modCore core (fun k => { k with mcs := k.mcs.filter (fun e => e.txn != txn) }))
          s1.payOwed core txn (BitVec.ofNat 64 (q.held % 65536 * 65536 + q.fail % 65536))
  | _ => .fault .noArgument

/-! ### Reduction slots (R464 to R468) -/

/-- A slot's place in the state. -/
def redKey (lvl node slot : Nat) : Nat := 32 * (2 ^ 21 * lvl + node) + slot

/-- A slot. -/
def Hw.red (h : Hw) (key : Nat) : RedSlot := SMap.get .reset h.reds key

/-- Replaces a slot. -/
def Hw.setRed (h : Hw) (key : Nat) (r : RedSlot) : Hw := { h with reds := SMap.set h.reds key r }

/-- Fields of a slot handle (R466). -/
def redLevel (v : Nat) : Nat := bits v 47 46
/-- See `redLevel`. -/
def redGen (v : Nat) : Nat := bits v 63 48
/-- The place of the slot that a handle names; none where the handle is malformed. -/
def redPlace (v : Nat) : Option Nat :=
  if bits v 40 21 ≠ 0 ∨ bits v 20 0 % 2 ^ levelBits (redLevel v) ≠ 0 ∨ redGen v = 0 then none
  else some (redKey (redLevel v) (bits v 20 0) (bits v 45 41))

/-- RSLOT: its operands, the read of its bitmap (R466). -/
def execRslot (sw : Bool) (a b : GReg) (s : State) : Res :=
  s.withCur fun c => s.page6 c <| s.window c (b.toNat + 1) <| s.reads c [b.toNat, b.toNat + 1] <|
    let w := (s.hw.cg c b).toNat
    let off := (s.hw.cgn c (b.toNat + 1)).toNat
    if bits w 47 11 ≠ 0 ∨ bits w 7 2 ≠ 0 ∨ bits w 63 48 = 0 then s.faultWith c .reservedValue 43 0
    else
      s.check c 0 off (bitmapLen (bits w 1 0)) { r := true } 32 fun addr sg =>
        s.mayAccess c false .plain <|
          s.access c sw (s.hw.mkAcc c (.bitmap false a.toNat w) false sg.virt addr (bitmapLen (bits w 1 0)) 0 off)

/-- The bitmap of an RSLOT has been read: the request goes to the node. -/
def State.rslotRead (s : State) (o : Outst) (reg w v : Nat) : State :=
  let a := o.acc
  let lvl := bits w 1 0
  let ms := membersOf (2 ^ levelBits lvl) v
  if ms = [] ∨ !s.hw.heldBy a.tenant (ms.map (fun i => nodeOf lvl a.core + i)) then s.answer a.core a.txn (.fail .reservedValue 43 0)
  else
    (s.endWith o []).onHw fun h =>
      let txn := h.nextTxn
      (({ h with nextTxn := txn + 1 } : Hw).owe o.chain txn reg a.core .plain).after (transit lvl) .reductionContribution
        (.nats ([2, a.core, txn, a.tenant, w] ++ ms))

/-- A bitmap has been read (R462, R466). -/
def State.bitmapReply (s : State) (o : Outst) (v : Nat) : State :=
  match o.acc.op with
  | .bitmap mc reg w => if mc then s.mcwRead o reg w v else s.rslotRead o reg w v
  | _ => s

/-- The identity of an operation (R467). -/
def redIdentity (op : Nat) : BitVec 64 :=
  if op = 1 then BitVec.ofNat 64 (2 ^ 63)
  else if op = 2 then BitVec.ofNat 64 (2 ^ 63 - 1)
  else if op = 3 then 0xFF800000
  else if op = 4 then 0x7F800000
  else if op = 5 then BitVec.allOnes 64
  else 0

/-- The lesser of two FP32 patterns (R350). -/
def fmin32 (a b : Nat) : Nat := if isNan32 a || isNan32 b then 0x7FC00000 else if key32 b < key32 a then b else a

/-- Combine (R467). -/
def redCombine (op : Nat) (a v : BitVec 64) : BitVec 64 :=
  let fp (f : Nat → Nat → Nat) : BitVec 64 := BitVec.ofNat 64 (f (a.toNat % 2 ^ 32) (v.toNat % 2 ^ 32))
  match op with
  | 0 => a + v
  | 1 => if a.toInt < v.toInt then v else a
  | 2 => if v.toInt < a.toInt then v else a
  | 3 => fp fmax32
  | 4 => fp fmin32
  | 5 => a &&& v
  | 6 => a ||| v
  | _ => a ^^^ v

/-- The accumulator as `REDW` gives it. -/
def RedSlot.result (r : RedSlot) : Nat := if r.op = 3 ∨ r.op = 4 then r.acc.toNat % 2 ^ 32 else r.acc.toNat

/-- The status word of a collected slot (R468). -/
def RedSlot.status (r : RedSlot) : Nat :=
  let missing := r.members.length - r.done.length
  bit (missing == 0) * 2 ^ 63 + missing % 2 ^ 14 * 2 ^ 16 + r.done.length % 2 ^ 14

/-- A `REDW` gets its results; `from_` is the slot that it collects, one higher, or 0. -/
def Hw.redAnswer (h : Hw) (w : RedWait) (due from_ : Nat) (acc status : Nat) (bs : List Byte) : Hw :=
  h.schedule (max w.due due) .redwResult (.blob [1, w.core, w.slot, w.uid, w.txn, from_, acc, status] bs)

/-- INVAL of the status word (R468). -/
def redInval : Nat := 2 ^ 62

/-- A Closed slot is collected by the first of its waiters that is still there, which frees it with its results; the others find no slot
(R464, R468). `due` is the closure's cycle and the way back. -/
def Hw.redCollect (h : Hw) (key lvl due : Nat) : Hw :=
  let r := h.red key
  match r.waits.filter (fun w => h.alive w.core w.slot w.uid) with
  | [] => h
  | w :: ws =>
    let bs := bitmapOf (2 ^ levelBits lvl) (r.members.filter (fun i => !r.done.contains i))
    let h1 := h.redAnswer w due (key + 1) r.result r.status bs
    (ws.foldl (fun h w => h.redAnswer w due 0 0 redInval []) h1).setRed key { r with waits := [], taken := true }

/-- A slot closes at a cycle (R464). -/
def Hw.redClose (h : Hw) (key cyc : Nat) : Hw :=
  let r := h.red key
  let lvl := key / 2 ^ 26 % 4
  let h1 := h.setRed key { r with st := .closed }
  let h2 := h1.redCollect key lvl (cyc + transit lvl)
  if (h2.red key).st = .closed then h2.schedule (cyc + 2 ^ 22) .reductionSlotExpiry (.nats [key, r.gen]) else h2

/-- A contribution is combined at its node (R467): its status. -/
def Hw.redContribute (h : Hw) (core tenant handle : Nat) (v : BitVec 64) : Nat × Hw :=
  match redPlace handle with
  | none => (3, h)
  | some key =>
    let r := h.red key
    let lvl := redLevel handle
    let i := core % 2 ^ levelBits lvl
    if r.st ≠ .opened ∨ r.gen ≠ redGen handle ∨ r.tenant ≠ tenant then (3, h)
    else if nodeOf lvl core ≠ bits handle 20 0 ∨ !r.members.contains i then (2, h)
    else if r.done.contains i then (1, h)
    else
      let r1 := { r with acc := redCombine r.op r.acc v, done := i :: r.done }
      let h1 := h.setRed key r1
      (0, if r1.done.length = r1.members.length then h1.redClose key h.now else h1)

/-- RSLOT at its node: the lowest Free slot opens (R464, R466); its handle, 0 for none. -/
def Hw.redOpen (h : Hw) (core tenant w : Nat) (ms : List Nat) : Nat × Hw :=
  let lvl := bits w 1 0
  let node := nodeOf lvl core
  match (List.range 32).find? (fun i => (h.red (redKey lvl node i)).st == .free) with
  | none => (0, h)
  | some i =>
    let key := redKey lvl node i
    let gen := (h.red key).gen % 65535 + 1
    let r : RedSlot := ⟨.opened, gen, bits w 10 8, tenant, ms, [], redIdentity (bits w 10 8), [], false⟩
    (gen * 2 ^ 48 + lvl * 2 ^ 46 + i * 2 ^ 41 + node % 2 ^ 21,
      (h.setRed key r).schedule (h.now + bits w 63 48 * 1024 + 1) .reductionSlotTimeout (.nats [key, gen]))

/-- REDC (R467): a release. -/
def execRedc (sw : Bool) (a c b : GReg) (s : State) : Res :=
  s.withCur fun cu => s.page6 cu <| s.reads cu (regs [c, b]) <|
    let handle := (s.hw.cg cu c).toNat
    let v := (s.hw.cg cu b).toNat
    s.onHw fun h =>
      let txn := h.nextTxn
      let waits := h.releaseWaits cu
      let h1 := ({ h with nextTxn := txn + 1 } : Hw).owe cu txn a.toNat (nodeOf 3 cu.core + (cu.core + 1) % 8192) .plain
      let arg : Arg := .nats [0, cu.core, txn, (h.tenantOf cu.core).getD 0, handle, v]
      ((h1.modCore cu.core (fun k => { k with
        sends := k.sends ++ [⟨none, some (transit (redLevel handle), .reductionContribution, arg), waits⟩] })).sendKick cu.core).retire cu sw 1

/-! ### Uplinks (R451, R453, R454) -/

/-- An uplink. -/
def Module.link (m : Module) (u : Nat) : Uplink := SMap.get .reset m.uplinks u

/-- Codes of the states (R454). -/
def LinkState.code : LinkState → Nat
  | .off => 0 | .training => 1 | .up => 2 | .degraded => 3 | .down => 4

/-- The LNKST status word (R454). -/
def Uplink.word (u : Uplink) : Nat :=
  u.st.code * 2 ^ 61 + u.lanes % 16 * 2 ^ 57 + u.replay % 65536 * 2 ^ 32 + u.corr % 65536 * 2 ^ 16 + u.poisn % 65536

/-- An uplink changes state (R451): the timers of Training and Down, the notice that a module without uplinks gives itself (R452). -/
def Hw.linkTo (h : Hw) (m u : Nat) (st : LinkState) (lanes : Nat) : Hw :=
  let l := (h.mod m).link u
  let was := (h.mod m).linked
  let h1 := h.modMod m (fun md =>
    let md1 := { md with uplinks := SMap.set md.uplinks u { l with st := st, lanes := lanes, refused := 0, epoch := l.epoch + 1 } }
    if md1.linked then { md1 with ownDown := false } else if was then { md1 with lastUp := h.now } else md1)
  let h2 := if was ∧ !(h1.mod m).linked then h1.after 65536 .ownUplinksDown (.nats [m]) else h1
  match st with
  | .training => h2.after 65536 .linkTrainingTimeout (.nats [m, u, l.epoch + 1])
  | .down => h2.after (2 ^ 20) .linkRetrainTimer (.nats [m, u, l.epoch + 1])
  | _ => h2

/-- A command of `LNKST.ctl` is applied (R451, R453): 0 where it applies to the link's state, 1 otherwise. -/
def Hw.linkCommand (h : Hw) (m u cmd : Nat) : Nat × Hw :=
  let st := ((h.mod m).link u).st
  match cmd, st with
  | 0, .off => (0, h.linkTo m u .training 0)
  | 1, .up => (0, h.linkTo m u .off 0)
  | 1, .degraded => (0, h.linkTo m u .off 0)
  | 1, .down => (0, h.linkTo m u .off 0)
  | 2, .up => (0, h.linkTo m u .training 0)
  | 2, .degraded => (0, h.linkTo m u .training 0)
  | _, _ => (1, h)

/-- The common course of the LNKST forms. -/
def State.lnkstForm (s : State) (c : Cur) (sw ctl : Bool) (a b : GReg) : State :=
  s.page6 c <| s.reads c [b.toNat] <|
    let w := (s.hw.cg c b).toNat
    let u := bits w 5 0
    if bits w 63 10 ≠ 0 ∨ bits w 7 6 ≠ 0 ∨ (!ctl ∧ bits w 9 8 ≠ 0) ∨ 48 ≤ u ∨ bits w 9 8 = 3 then s.faultWith c .reservedValue 39 0
    else
      s.onHw fun h =>
        let txn := h.nextTxn
        ((({ h with nextTxn := txn + 1 } : Hw).owe c txn a.toNat c.core .plain).after 70 .reductionContribution
          (.nats [3, c.core, txn, u, bit ctl, bits w 9 8])).retire c sw 1

/-- LNKST. -/
def execLnkst (sw : Bool) (a b : GReg) (s : State) : Res := s.withCur fun c => s.lnkstForm c sw false a b
/-- LNKST.ctl. -/
def execLnkstCtl (sw : Bool) (a b : GReg) (s : State) : Res := s.withCur fun c => s.lnkstForm c sw true a b

/-! ### A node acts on a request of page 6 -/

/-- A contribution reaches its node (step 0; one per cycle at a node, R467), a status or result comes back (1), an RSLOT reaches its
node (2; R466), an LNKST the module node (3; R453). -/
def execReductionContribution (s : State) : Res :=
  match s.hw.arg with
  | .nats [0, core, txn, tenant, handle, v] =>
    .next <| s.onHw fun h =>
      let lvl := redLevel handle
      let node := redKey lvl (bits handle 20 0) 0
      if SMap.find? h.nodeAt node = some h.now then h.after 1 .reductionContribution (.nats [0, core, txn, tenant, handle, v])
      else
        let r := ({ h with nodeAt := SMap.set h.nodeAt node h.now } : Hw).redContribute core tenant handle (BitVec.ofNat 64 v)
        r.2.after (transit lvl) .reductionContribution (.nats [1, core, txn, r.1])
  | .nats [1, core, txn, v] =>
    .next ((s.onHw (fun h => if v = 2 ∨ v = 3 then h.owedFails core txn 3 core else h)).payOwed core txn (BitVec.ofNat 64 v))
  | .nats (2 :: core :: txn :: tenant :: w :: ms) =>
    .next <| s.onHw fun h =>
      let r := h.redOpen core tenant w ms
      r.2.after (transit (bits w 1 0)) .reductionContribution (.nats [1, core, txn, r.1])
  | .nats [3, core, txn, u, ctl, cmd] =>
    .next <| s.onHw fun h =>
      let m := moduleOf core
      let r := if ctl = 1 then h.linkCommand m u cmd else (((h.mod m).link u).word, h)
      r.2.after 70 .reductionContribution (.nats [1, core, txn, r.1])
  | _ => .fault .noArgument

/-- A slot's time is over (R464). -/
def execReductionSlotTimeout (s : State) : Res :=
  match s.hw.arg with
  | .nats [key, gen] =>
    .next (s.onHw fun h => if (h.red key).gen = gen ∧ (h.red key).st = .opened then h.redClose key (h.now - 1) else h)
  | _ => .fault .noArgument

/-- A Closed slot that nothing has collected is Free (R464). -/
def execReductionSlotExpiry (s : State) : Res :=
  match s.hw.arg with
  | .nats [key, gen] =>
    .next (s.onHw fun h => if (h.red key).gen = gen ∧ (h.red key).st = .closed then h.setRed key { RedSlot.reset with gen := gen } else h)
  | _ => .fault .noArgument

/-! ### REDW (R468) -/

/-- REDW: its operands; the context parks with reason barrier. -/
def execRedw (sw : Bool) (a b : GReg) (s : State) : Res :=
  s.withCur fun c => s.page6 c <| s.window c (a.toNat + 1) <| s.window c (b.toNat + 1) <| s.reads c [b.toNat, b.toNat + 1] <|
    let handle := (s.hw.cg c b).toNat
    let off := (s.hw.cgn c (b.toNat + 1)).toNat
    let lvl := redLevel handle
    let go (virt : Bool) (addr : Nat) : State :=
      s.mayAccess c false .plain <|
        let acc := s.hw.mkAcc c (.redw a.toNat) false virt addr (if addr = 0 then 0 else bitmapLen lvl) 0 off
        let full := [a.toNat, a.toNat + 1].filter (fun n => s.hw.isFull c.core c.slot n)
        let o : Outst := ⟨acc, (s.hw.curCtx c).uid, .plain, c, full, true, true, [], false, [], []⟩
        s.onHw fun h =>
          let h1 := ((({ h with nextTxn := h.nextTxn + 1 } : Hw).awaitGs c.core c.slot [a.toNat, a.toNat + 1] acc.txn).parkMemory c sw).modCore
            c.core (fun k => { k with out := k.out ++ [o] })
          let h2 := h1.modCur c (fun x => { x with park := some (.barrier true 64) })
          h2.after (transit lvl) .redwResult
            (.nats [0, c.core, c.slot, o.uid, acc.txn, acc.tenant, handle, h.now + 2 * transit lvl])
    if off = 0 then go false 0
    else s.check c 0 off (bitmapLen lvl) { w := true } 32 fun addr sg => go sg.virt addr

/-- The bitmap of missing members is written at its place (R468), or the address that something stands in the way of. -/
def State.redWrite (s : State) (a : Acc) (bs : List Byte) : Except (Nat × Reach) State :=
  (piecesOf a.addr bs.length).foldl (fun r p =>
    match r with
    | .ok s =>
      match s.reach a.core a.tenant a.svc { w := true } (some a.otag) a.virt p.key with
      | (.ok key _, s1) => .ok (s1.bankWrite key ((bs.drop p.off).take p.len) (some a.otag))
      | (e, _) => .error (p.key, e)
    | r => r) (.ok s)

/-- A REDW reaches its node (step 0); its results reach the context (step 1), which frees the slot. Where the bitmap's page is not
resident the context parks on it, and the slot stays for the chain's reissue (R177, R468). -/
def execRedwResult (s : State) : Res :=
  match s.hw.arg with
  | .nats [0, core, slot, uid, txn, tenant, handle, due] =>
    .next <| s.onHw fun h =>
      let w : RedWait := ⟨core, slot, uid, txn, due⟩
      match redPlace handle with
      | none => h.redAnswer w 0 0 0 redInval []
      | some key =>
        let r := h.red key
        if r.st = .free ∨ r.gen ≠ redGen handle ∨ r.tenant ≠ tenant ∨ r.taken then h.redAnswer w 0 0 0 redInval []
        else
          let h1 := h.setRed key { r with waits := r.waits ++ [w] }
          if r.st = .closed then h1.redCollect key (redLevel handle) 0 else h1
  | .blob [1, core, _, _, txn, from_, acc, status] bs =>
    .next <|
      let keeps (s : State) : State :=
        if from_ = 0 then s else s.onHw (fun h => h.setRed (from_ - 1) { h.red (from_ - 1) with taken := false })
      let frees (s : State) : State :=
        if from_ = 0 ∨ !(s.hw.red (from_ - 1)).taken then s else s.onHw (fun h => h.setRed (from_ - 1) { RedSlot.reset with gen := (h.red (from_ - 1)).gen })
      match s.hw.findOut core txn with
      | none => frees s
      | some o =>
        let a := o.acc
        let reg := (accRegs a.op).headD 0
        let done (s : State) : State := (frees s).endWith o [(reg, BitVec.ofNat 64 acc), (reg + 1, BitVec.ofNat 64 status)]
        if a.addr = 0 ∨ bs = [] then done s
        else
          match s.redWrite a bs with
          | .ok s1 => done s1
          | .error (va, .absent w) => (keeps s).noPage o va w
          | .error (va, .refused sub) => (keeps s).answer core txn (.fail .pageDenied sub va)
          | .error (_, .remote cause t) => (keeps s).answer core txn (.remote cause t)
          | .error _ => s
  | _ => .fault .noArgument

/-! ### What happens on an uplink (R450, R451) -/

/-- Changes an uplink's counters. -/
def Hw.modLink (h : Hw) (m u : Nat) (f : Uplink → Uplink) : Hw :=
  h.modMod m (fun md => { md with uplinks := SMap.set md.uplinks u (f (md.link u)) })

/-- A saturating count of 16 bits (R454). -/
def sat16 (n : Nat) : Nat := min n 65535

/-- The uplink carries traffic. -/
def Uplink.carries (u : Uplink) : Bool := u.st == .up || u.st == .degraded

/-- A header flit is refused and replayed (R450): `first` is 1 for a header not refused before; the fourth refusal in a row takes the
link Down. -/
def execHeaderFlitRefused (s : State) : Res :=
  match s.hw.arg with
  | .nats [m, u, first] =>
    .next <| s.onHw fun h =>
      if !((h.mod m).link u).carries then h
      else
        let h1 := h.modLink m u (fun l => { l with replay := sat16 (l.replay + 1), refused := if first = 1 then 1 else l.refused + 1 })
        if 4 ≤ ((h1.mod m).link u).refused then h1.linkTo m u .down 0 else h1
  | _ => .fault .noArgument

/-- Data flits on an uplink (R450): an error that the check corrects is counted; data with an uncorrectable one is delivered poisoned,
in a sector that it writes or in the reply of an access. -/
def execDataFlitPoisoned (s : State) : Res :=
  let count (s : State) (m u : Nat) : State := s.onHw (fun h => h.modLink m u (fun l => { l with poisn := sat16 (l.poisn + 1) }))
  match s.hw.arg with
  | .nats [m, u] => .next (s.onHw (fun h => h.modLink m u (fun l => { l with corr := sat16 (l.corr + 1) })))
  | .nats [m, u, key] => .next ((count s m u).onMem (fun k => k.setPoison key true))
  | .nats [m, u, core, txn] =>
    .next <|
      let s1 := count s m u
      match s1.hw.findOut core txn with
      | some o => s1.answer core txn (.fail .poisoned 0 o.acc.addr)
      | none => s1
  | _ => .fault .noArgument

/-- An uplink fails (R451). -/
def execLinkDown (s : State) : Res :=
  match s.hw.arg with
  | .nats [m, u] => .next (s.onHw fun h => if ((h.mod m).link u).carries then h.linkTo m u .down 0 else h)
  | _ => .fault .noArgument

/-- An uplink loses a lane (R451). -/
def execLaneLost (s : State) : Res :=
  match s.hw.arg with
  | .nats [m, u] =>
    .next <| s.onHw fun h =>
      let l := (h.mod m).link u
      match l.st with
      | .up => h.linkTo m u .degraded (l.lanes - 1)
      | .degraded => if l.lanes ≤ 2 then h.linkTo m u .down 0 else h.modLink m u (fun l => { l with lanes := l.lanes - 1 })
      | _ => h
  | _ => .fault .noArgument

/-- 2^20 cycles after it entered Down an uplink trains again (R451). -/
def execLinkRetrainTimer (s : State) : Res :=
  match s.hw.arg with
  | .nats [m, u, epoch] =>
    .next (s.onHw fun h =>
      let l := (h.mod m).link u
      if l.epoch = epoch ∧ l.st = .down then h.linkTo m u .training 0 else h)
  | _ => .fault .noArgument

/-- Training succeeds with a number of lanes (R451). -/
def execLinkTrainingDone (s : State) : Res :=
  match s.hw.arg with
  | .nats [m, u, lanes] =>
    .next (s.onHw fun h =>
      if ((h.mod m).link u).st ≠ .training then h
      else if lanes = 8 then h.linkTo m u .up 8
      else if 4 ≤ lanes ∧ lanes < 8 then h.linkTo m u .degraded lanes
      else h)
  | _ => .fault .noArgument

/-- Training has not succeeded within 65,536 cycles (R451). -/
def execLinkTrainingTimeout (s : State) : Res :=
  match s.hw.arg with
  | .nats [m, u, epoch] =>
    .next (s.onHw fun h =>
      let l := (h.mod m).link u
      if l.epoch = epoch ∧ l.st = .training then h.linkTo m u .down 0 else h)
  | _ => .fault .noArgument

/-! ### Peer failure (R452, R456) -/

/-- Steps that would answer an operation of a core are lost. -/
def Due.answers (d : Due) (core txn : Nat) : Bool :=
  match d.instr, d.arg with
  | .sendStatus, .nats (c :: t :: _) => c == core && t == txn
  | _, .accRes a _ => a.core == core && a.txn == txn
  | _, _ => false

/-- Steps that would perform an operation at its target. -/
def Due.performs (d : Due) (core txn : Nat) : Bool :=
  match d.arg with
  | .acc a _ => a.core == core && a.txn == txn
  | .msg m _ => m.sender == core && m.txn == txn
  | .words (c :: t :: _) _ => d.instr == .spawnArrival && c == core && t == txn
  | _ => false

/-- A request outstanding to a failed module fails: its report is 70 cycles away; whether it is still performed is open (R455). -/
def Hw.loseRequest (h : Hw) (core txn : Nat) (i : Instr) (a : Arg) : Hw :=
  let r := h.drawBool
  let h1 := r.2.unschedule (fun d => d.answers core txn || (r.1 && d.performs core txn))
  h1.after 70 i a

/-- The target core of an access. -/
def Acc.target (a : Acc) : Nat := match a.pieces with | p :: _ => keyCore p.key | [] => keyCore a.addr

/-- The vector form that an element request belongs to. -/
def Core.elemJob (k : Core) (txn : Nat) : Option VJob := k.vjobs.find? (fun j => j.elems.any (fun e => e.txn == txn))

/-- Every outstanding request of a core to modules that a test names fails (R452). -/
def Hw.loseCore (h : Hw) (core : Nat) (p : Nat → Bool) : Hw :=
  let k := h.core core
  let lost (t : Nat) : Bool := moduleOf t != moduleOf core && p (moduleOf t)
  let h1 := k.out.foldl (fun h o =>
    let a := o.acc
    if !o.sent || !lost (Acc.target a) then h
    else
      match k.elemJob a.txn with
      | some j =>
        (h.unschedule (fun d => d.instr == .gatherElementReply &&
          (match d.arg with | .nats (c :: id :: _ :: t :: _) => c == core && id == j.id && t == a.txn | _ => false))).after 70 .gatherElementReply
            (.nats [core, j.id, 3, a.txn, 2])
      | none => h.loseRequest core a.txn .remoteFailureReport (.acc a 2)) h
  let h2 := k.owed.foldl (fun h o =>
    if !lost o.target || h.agenda.any (fun d => d.instr == .remoteFailureReport && d.performs core o.txn) then h
    else
      let m : Msg :=
        { txn := o.txn, core := o.target, slot := 0, reg := o.reg, val := 0, tenant := 0, sender := core, senderSlot := o.slot, svc := false,
          mc := false, handle := false }
      h.loseRequest core o.txn .remoteFailureReport (.msg m 2)) h1
  (k.arun.toList ++ k.trun.toList).foldl (fun h m =>
    match m.flight.find? (fun q => q.pieces.any (fun (x : Piece) => lost (keyCore x.key))) with
    | some q => h.matFail core m 2 q.addr (some (2, (q.pieces.map (fun (x : Piece) => keyCore x.key)).headD 0))
    | none => h) h2

/-- The same of every core of a module. -/
def Hw.loseAll (h : Hw) (m : Nat) (p : Nat → Bool) : Hw :=
  (h.cores.filter (fun (e : Nat × Core) => moduleOf e.1 == m)).foldl (fun h e => h.loseCore e.1 p) h

/-- A down notice for a module reaches a module node (R452). -/
def execDownNotice (s : State) : Res :=
  match s.hw.arg with
  | .nats [m, x] =>
    .next (s.onHw fun h =>
      (h.modMod m (fun md => { md with downs := if md.downs.contains x then md.downs else x :: md.downs })).loseAll m (fun t => t == x))
  | _ => .fault .noArgument

/-- An up notice ends the failing of new requests (R452). -/
def execUpNotice (s : State) : Res :=
  match s.hw.arg with
  | .nats [m, x] => .next (s.onHw fun h => h.modMod m (fun md => { md with downs := md.downs.filter (fun t => t != x) }))
  | _ => .fault .noArgument

/-- The module's own uplinks have all been down for 65,536 cycles (R452). -/
def execOwnUplinksDown (s : State) : Res :=
  match s.hw.arg with
  | .nats [m] =>
    .next (s.onHw fun h =>
      let md := h.mod m
      if md.linked ∨ h.now < md.lastUp + 65536 ∨ md.ownDown then h
      else (h.modMod m (fun md => { md with ownDown := true })).loseAll m (fun _ => true))
  | _ => .fault .noArgument

end Sys2Proof.Machine
end

