-- ==== Sys2Proof/Machine/Region.lean ====
section
/-! DEFINITION. Remote-failure regions (22_link R457 to R460): FBEGIN, FCOMMIT, FABORT. -/

namespace Sys2Proof.Machine

/-! ### Images of a context's registers (R246, R457) -/

/-- The full bits of a window, as two quadwords (R246). -/
def Core.fullMask (k : Core) (x : Ctx) : Nat :=
  (List.range x.wsize).foldl (fun m i => if k.fullBit x i then m + 2 ^ i else m) 0

/-- Loop levels as an image holds them (R246). -/
def Ctx.loopBytes (x : Ctx) : List Byte :=
  (List.range 3).flatMap (fun i =>
    let l := x.loopLv i
    bytesLE 8 (l.lc.toNat + bit l.active * 2 ^ 63) ++ bytesLE 8 (l.start % 2 ^ 17 + l.fin % 2 ^ 17 * 2 ^ 32))

/-- Pointers as PMOV.get reads them (R101, R246). -/
def Ctx.ptrBytes (x : Ctx) : List Byte :=
  (List.range 8).flatMap (fun i => bytesLE 8 ((x.ptr i).off.toNat + (x.ptr i).inc.toNat * 2 ^ 32))

/-- The registers of a window. -/
def Core.regBytes (k : Core) (x : Ctx) : List Byte := (List.range x.wsize).flatMap (fun i => bytesLE 8 (k.g x i).toNat)

/-- A checkpoint (R457). -/
def Core.checkpoint (k : Core) (x : Ctx) : List Byte := bytesLE 16 (k.fullMask x) ++ x.loopBytes ++ x.ptrBytes ++ k.regBytes x

/-- Loop levels read from an image at a key. -/
def Mem.loops (m : Mem) (key : Nat) : SMap LoopLv :=
  (List.range 3).map (fun i =>
    let q := m.val (key + 16 * i) 8
    let r := m.val (key + 16 * i + 8) 8
    (i, ⟨bitAt q 63, bits r 16 0, bits r 48 32, BitVec.ofNat 32 q⟩))

/-- Pointers read from an image at a key. -/
def Mem.ptrs (m : Mem) (key : Nat) : SMap Ptr :=
  (List.range 8).map (fun i =>
    let q := m.val (key + 8 * i) 8
    (i, ⟨BitVec.ofNat 20 q, BitVec.ofNat 16 (bits q 47 32)⟩))

/-- Registers and full bits of a window loaded from an image. -/
def Core.loadRegs (k : Core) (x : Ctx) (m : Mem) (fullKey regKey : Nat) : Core :=
  let full := m.val fullKey 16
  (List.range x.wsize).foldl (fun k i => (k.putG x i (BitVec.ofNat 64 (m.val (regKey + 8 * i) 8))).putFull x i (bitAt full i)) k

/-! ### Regions -/

/-- Sectors of a checkpoint (R458). -/
def Ctx.ckptSectors (x : Ctx) : Nat := 4 + x.wsize / 4

/-- The memory key of a context's checkpoint area (R457). -/
def Ctx.ckptKey (x : Ctx) (core : Nat) : Nat := scratchKey core x.ckptb.toNat

/-- Sets TS.RBC and TS.RBT (R79). -/
def Ctx.rolledBack (x : Ctx) (cause target : Nat) : Ctx := { x with ts := putBits (putBits x.ts 39 4 cause) 43 21 target }

/-- FBEGIN (R458). -/
def execFbegin (sw : Bool) (imm : BitVec 31) (s : State) : Res :=
  s.withCur fun c =>
    let x := s.hw.curCtx c
    let t := (c.pc : Int) + sbv imm
    if x.inRegion then s.faultWith c .reservedValue 40 0
    else if t < 0 ∨ (c.codeEnd : Int) < t then s.faultWith c .reservedValue 1 (wrap t 64)
    else
      let s1 := s.bankWrite (x.ckptKey c.core) ((s.hw.core c.core).checkpoint x) (some x.otag.toNat)
      let s2 := s1.onHw (fun h => h.modCur c (fun x =>
        { (x.setTs tsFREG true).rolledBack 0 0 with region := some ⟨t.toNat, [], [], none⟩ }))
      s2.timedPlain c sw (x.ckptSectors + 4) 0 0

/-- The sectors of a checkpoint that are poisoned. -/
def Mem.poisonIn (m : Mem) (key len : Nat) : Option Nat := ((piecesOf key len).find? (fun p => m.isPoison p.key)).map (fun p => p.key)

/-- Rollback (R460): the registers, full bits, loops and pointers of the checkpoint, execution at the region's target; results
still outstanding are discarded, and failures of the region's operations mark nothing further (R195). A poisoned checkpoint is a fault of the chain. -/
def State.rollback (s : State) (c : Cur) (cause target : Nat) : State :=
  let x := s.hw.curCtx c
  let key := x.ckptKey c.core
  match s.mem.poisonIn key (32 * x.ckptSectors) with
  | some a => s.onHw (fun h => h.raise c.core c.slot (c.fault .poisoned 0 a))
  | none =>
    s.onHw fun h =>
      h.modCore c.core (fun k =>
        let y := ({ x with
          lp := s.mem.loops (key + 0x10), p := s.mem.ptrs (key + 0x40), ptrAt := [], pend := [], late := x.late, hazOn := none,
          pc := (x.region.map (fun r => r.target)).getD x.pc, region := none,
          quiet := x.quiet ++ (x.region.map (fun r => r.ops ++ r.own)).getD [], st := .ready, park := none, swWait := false,
          notBefore := h.now + x.ckptSectors + 4 } : Ctx)
        (k.loadRegs x s.mem key (key + 0x80)).setCtx c.slot (((y.setTs tsFREG false).rolledBack cause target).settle))

/-- FCOMMIT (R460): it waits for the remote operations of its region. -/
def execFcommit (sw : Bool) (s : State) : Res :=
  s.withCur fun c =>
    let x := s.hw.curCtx c
    if !x.inRegion then s.faultWith c .reservedValue 41 0
    else
      s.onHw fun h =>
        let k := h.core c.core
        let local_ (t : Nat) : Bool :=
          k.out.any (fun o => o.acc.txn == t && o.acc.pieces != [] && o.acc.pieces.all (fun p => keyCore p.key == c.core))
        let region := x.region.map (fun r => { r with ops := r.ops.filter (fun t => !local_ t) })
        let h1 := (h.parkChain c .commit).modCur c (fun y => { y with region := region, plainSw := sw, swWait := false })
        if (match region with | some r => r.ops == [] | none => true) then
          h1.schedule h1.now .fcommitDecision (.nats [c.core, c.slot, x.uid])
        else h1

/-- FCOMMIT's decision (R460): the context continues, or the region is rolled back; a Spilled context decides again after its
restore. -/
def execFcommitDecision (s : State) : Res :=
  match s.hw.arg with
  | .nats [core, slot, uid] =>
    .next <|
      let x := s.hw.ctx core slot
      if x.uid ≠ uid ∨ x.park ≠ some .commit then s
      else if x.st = .spilled then s.setWoke core slot
      else
        match x.parkCur, x.region with
        | some c, some r =>
          match r.failed with
          | some (_, cause, target) => s.rollback c cause target
          | none =>
            s.onHw fun h => h.setCtx core slot
              ((({ x.advance c.pc c.len with
                st := .ready, park := none, region := none, notBefore := h.now + 1, swWait := x.plainSw } : Ctx).setTs tsFREG false).settle)
        | some c, none =>
          s.onHw fun h => h.setCtx core slot
            ((({ x.advance c.pc c.len with
              st := .ready, park := none, notBefore := h.now + 1, swWait := x.plainSw } : Ctx).setTs tsFREG false).settle)
        | none, _ => s
  | _ => .fault .noArgument

/-- FABORT (R460). -/
def execFabort (_sw : Bool) (s : State) : Res :=
  s.withCur fun c =>
    if !(s.hw.curCtx c).inRegion then s.faultWith c .reservedValue 41 0
    else (s.onHw (fun h => h.issued c)).rollback c 0 0

end Sys2Proof.Machine
end

