-- ==== Sys2Proof/Machine/Spill.lean ====
section
/-! DEFINITION. The spill engine (12_preempt): slot images, spills, restores, the forward-progress rule, SPILL, checkpoints, and
the resumption of a Faulted context (04_context R86). -/

namespace Sys2Proof.Machine

/-! ### Slot images (R245 to R247) -/

/-- The status registers of a context, in number order (R77, R246). -/
def imageStatus : List Nat := [0x00, 0x01, 0x02, 0x03, 0x04, 0x05, 0x07, 0x08, 0x09, 0x0A, 0x0B, 0x0E, 0x11, 0x14, 0x16]

/-- STATE of the control quad (R247): a Spilled context keeps the reason for which it was parked. -/
def Ctx.imageState (x : Ctx) : Nat := if x.st = .faulted then 3 else if x.park.isSome then 2 else 1

/-- The park detail (R246). -/
def Ctx.imageDetail (x : Ctx) : Nat :=
  if x.st = .faulted then 0
  else
    match x.park with
    | some (.fullBit n) => n
    | some (.monitor a) => a % 2 ^ 64
    | some (.page a) => a % 2 ^ 64
    | some (.code e) => e % 64
    | some .fence => 1
    | some .commit => 1
    | some .other => 1
    | _ => 0

/-- The control quad (R247). -/
def Ctx.control (x : Ctx) (trig hold : Nat) : Nat :=
  let st := x.imageState
  st * 2 ^ 60 + (if st = 2 then (x.park.map Park.num).getD 0 else 0) * 2 ^ 56 + hold % 4 * 2 ^ 54 +
    bit (st != 3 && (x.woke || st == 1)) * 2 ^ 53 + (x.wsize / 8 - 1) % 16 * 2 ^ 49 + x.entry % 64 * 2 ^ 34 + x.pc % 2 ^ 17 * 2 ^ 17 +
    trig % 4

/-- The fence record (R246). -/
def Ctx.fenceQuad (x : Ctx) : Nat := match x.fence with | some f => 2 ^ 63 + f.imm % 2 ^ 13 | none => 0

/-- A slot image (R246). -/
def Hw.slotImage (h : Hw) (core slot trig hold : Nat) : List Byte :=
  let k := h.core core
  let x := k.ctx slot
  let bs :=
    bytesLE 8 (x.control trig hold) ++ bytesLE 8 x.imageDetail ++ bytesLE 16 (k.fullMask x) ++ x.loopBytes ++ x.ptrBytes ++
      ((List.range 8).flatMap (fun i => bytesLE 8 ((x.seg i).base % 2 ^ 64) ++ bytesLE 8 (x.seg i).word1)) ++
      ([1, 2, 3].flatMap (fun i => bytesLE 32 (x.mask i).toNat)) ++
      (imageStatus.flatMap (fun n => bytesLE 8 ((h.status core slot n).getD 0).toNat)) ++
      bytesLE 8 x.split.quad ++ bytesLE 8 x.fenceQuad ++ bytesLE 8 0 ++ k.regBytes x
  bs ++ bytesLE (0x800 - bs.length) 0

/-- The image of a slot is not one that the part writes (R247). -/
def badControl (q : Nat) : Bool :=
  let st := bits q 63 60
  let r := bits q 59 56
  !(st == 1 || st == 2 || st == 3) || decide (8 < r) || (decide (st = 2) != decide (r ≠ 0)) || bits q 55 54 == 3 || bits q 48 40 != 0 ||
    bits q 16 2 != 0

/-- The status registers of a context as an image gives them. -/
def Ctx.loadStatus (x : Ctx) (m : Mem) (key : Nat) : Ctx :=
  let q (i : Nat) : Nat := m.val (key + 0x170 + 8 * i) 8
  { x with
    ts := BitVec.ofNat 64 (q 0), fra := BitVec.ofNat 64 (q 1), frb := BitVec.ofNat 64 (q 2), xstep := BitVec.ofNat 64 (q 3),
    role := BitVec.ofNat 64 (q 4), prio := BitVec.ofNat 2 (q 5), otag := BitVec.ofNat 12 (q 6), gset := BitVec.ofNat 3 (q 7),
    prin := BitVec.ofNat 32 (q 8), linksp := BitVec.ofNat 20 (q 9), ckptb := BitVec.ofNat 20 (q 10), steald := BitVec.ofNat 2 (q 11),
    taskr := BitVec.ofNat 20 (q 12), bookid := BitVec.ofNat 16 (q 14) }

/-- The split record as an image gives it. -/
def splitOf (q : Nat) : SplitRec :=
  if bitAt q 63 then ⟨true, bitAt q 62, bitAt q 61, bitAt q 60, bits q 51 48, bits q 47 32, BitVec.ofNat 32 q, none⟩ else .none

/-- Every register of a context loaded from its image (R252), into the window that it holds. -/
def State.loadImage (s : State) (core slot : Nat) : State :=
  let key := s.hw.imageKey core slot
  let m := s.mem
  s.onHw fun h => h.modCore core fun k =>
    let x := k.ctx slot
    let q0 := m.val key 8
    let y := { x.loadStatus m key with
      entry := bits q0 39 34, pc := bits q0 33 17, lp := m.loops (key + 0x20), p := m.ptrs (key + 0x50), ptrAt := [],
      sg := (List.range 8).map (fun i => (i, Seg.ofWords (m.val (key + 0x90 + 16 * i) 8) (m.val (key + 0x98 + 16 * i) 8))),
      m := [1, 2, 3].map (fun i => (i, BitVec.ofNat 256 (m.val (key + 0xF0 + 32 * i) 32))),
      split := splitOf (m.val (key + 0x1E8) 8) }
    (k.loadRegs y m (key + 0x10) (key + 0x200)).setCtx slot y

/-! ### What the engine may take (R248, R254) -/

/-- How the engine takes a context for a `SPILL` request (R248): not at all, by a spill, by a copy of its image, or it is already
Spilled. -/
inductive SpillHow where
  | refused | take | copy | already
deriving DecidableEq, Repr

/-- The chain of the context is held, and not for the reply of its own request (R246, R248). -/
def Ctx.held (x : Ctx) : Bool := x.park == some .fence || x.park == some .commit || x.park == some .other

/-- See `SpillHow`. -/
def Ctx.spillHow (x : Ctx) : SpillHow :=
  match x.st with
  | .spilled => .already
  | .faulted => .copy
  | .ready => if x.booked || x.gang.isSome || x.arrHeld then .refused else .take
  | .parked =>
    if x.booked || x.gang.isSome then .refused
    else
      match x.park with
      | some (.fullBit _) => .take
      | some (.monitor _) => .take
      | some (.page _) => .take
      | some (.code _) => .take
      | _ => if x.held then .take else .refused
  | _ => .refused

/-- The forward-progress rule may choose the context (R248, R254). -/
def Ctx.yieldsWindow (x : Ctx) : Bool :=
  x.st == .parked && !x.booked && x.gang.isNone && (x.held || (match x.park with | some (.fullBit _) => true | some (.monitor _) => true | _ => false))

/-- A Spilled slot that may be restored but for room (R252). -/
def State.wantsRestore (s : State) (core slot : Nat) : Bool :=
  let k := s.hw.core core
  let x := k.ctx slot
  let q := s.mem.val (s.hw.imageKey core slot) 8
  x.st == .spilled && x.imaged && !k.restoring slot && bits q 55 54 != 1 && bits q 55 54 != 2 &&
    (bitAt q 53 || bits q 63 60 == 3 || badControl q) &&
    (if x.noGrant then s.hw.grantNeed core x.gset.toNat x.prin.toNat != .refused else (k.grantSet x.gset.toNat).state != 1)

/-- Slots that may be restored, in the order in which they became so, lowest first among equals (R253). -/
def State.restoreOrder (s : State) (core : Nat) : List Nat :=
  let k := s.hw.core core
  let want (i : Nat) : Bool := s.wantsRestore core i
  k.restores.filter want ++ (k.slotNums.filter (fun i => want i && !k.restores.contains i))

/-- The window size that a slot's image gives (R247). -/
def State.imageWindow (s : State) (core slot : Nat) : Nat := (bits (s.mem.val (s.hw.imageKey core slot) 8) 52 49 + 1) * 8

/-- The contexts that R254 spills for a window, in ascending base order. -/
def Core.makeWay (k : Core) (now size : Nat) : List Nat :=
  let may := k.slotNums.filter (fun i => (k.ctx i).yieldsWindow)
  match ((List.range 256).map (fun i => 8 * i)).find? (fun b => k.runFree now b size may) with
  | none => []
  | some b =>
    let inside := may.filter (fun i => decide ((k.ctx i).wbase < b + size) && decide (b < (k.ctx i).wbase + (k.ctx i).wsize))
    inside.foldr (insLevel (fun i => 2048 - (k.ctx i).wbase)) []

/-- A restore is pending: the dispatcher starts no new task (R228, R252). -/
def State.restorePending (s : State) (core : Nat) : Bool :=
  let k := s.hw.core core
  k.slotNums.any (fun i => k.restoring i || s.wantsRestore core i)

/-! ### The order of the engine (R253) -/

/-- The operation that a free engine takes next, as the step that begins it. -/
def State.enginePick (s : State) (core : Nat) : Option (Instr × Arg) :=
  let k := s.hw.core core
  let now := s.hw.now
  let rs := s.restoreOrder core
  let way := match rs with
    | r :: _ => if (k.findWindow now (s.imageWindow core r)).isNone then k.makeWay now (s.imageWindow core r) else []
    | [] => []
  match way with
  | c :: _ => some (.forwardProgressSpill, .nats [core, c])
  | [] =>
    match rs.find? (fun r => (k.findWindow now (s.imageWindow core r)).isSome) with
    | some r => some ((if (SMap.find? k.saved r).isSome then .checkpointRestore else .contextRestore), .nats [core, r])
    | none =>
      match k.overruns, k.ckpts, k.spillReqs with
      | c :: _, _, _ => some (.contextSpill, .nats [core, c])
      | [], _ :: _, _ => some (.checkpointSave, .nats [core])
      | [], [], _ :: _ => some (.contextSpill, .nats [core])
      | [], [], [] => none

/-- The slots that have become restorable join the order of R253, and a free engine looks for its next operation, at the end of the cycle's
steps. -/
def State.enginePoll (s : State) (core : Nat) : State :=
  let k := s.hw.core core
  if k.imaging then s
  else
    let s1 := s.onHw (fun h => h.modCore core (fun k => { k with restores := s.restoreOrder core }))
    if k.engine.isSome then s1
    else
      match s1.enginePick core with
      | some (i, a) => s1.onHw (fun h => h.schedule h.now i a)
      | none => s1

/-- The engine of a core may have something to do. -/
def Core.spillWork (k : Core) : Bool :=
  k.slots.any (fun (e : Nat × Ctx) => e.2.st == .spilled) || (k.engine.isNone && (k.overruns != [] || k.ckpts != [] || k.spillReqs != []))

/-! ### A spill (R249 to R251) -/

/-- The first cycle at which no result of fixed latency of a context is outstanding (R249). -/
def Ctx.quietAt (x : Ctx) (now : Nat) : Nat :=
  let a := x.pend.foldl (fun m p => match p with | .fixed _ c _ => max m c | _ => m) now
  let b := x.maskPend.foldl (fun m p => max m p.cycle) a
  x.ptrAt.foldl (fun m (e : Nat × Nat) => max m e.2) b

/-- Sectors of a list of ranges. -/
def rangeSectors (l : List (Nat × Nat)) : Nat := l.foldl (fun n r => n + r.2 / 32) 0

/-- The engine that has accepted a context writes its image once nothing of fixed latency and none of its special-function requests is
outstanding, those that the unit has not yet been given included (R220, R249). -/
def Hw.runSpill (h : Hw) (core : Nat) : Hw :=
  match (h.core core).engine with
  | none => h
  | some o =>
    let x := h.ctx core o.slot
    let mine := (h.core core).vjobs.filter (fun j => j.uid == x.uid && (match j.op with | .sfu _ => true | _ => false))
    if mine.any (fun j => j.sfuEnd == 0) then h.after 1 .spillComplete (.nats [2, core, o.slot, o.uid])
    else
      let quiet := mine.foldl (fun n j => max n j.sfuEnd) (x.quietAt h.now)
      let due := quiet + 3 * (16 + x.wsize / 4) + 96 + 3 * rangeSectors o.ranges
      (h.modCore core (fun k => { k with engine := some { o with due := due } })).schedule due .spillComplete (.nats [0, core, o.slot, o.uid])

/-- The engine accepts a context: a spill, or a copy of the image of a Faulted one. -/
def State.takeSpill (s : State) (core slot trig hold : Nat) (answer : Option (Nat × Nat)) (ranges : List (Nat × Nat)) : State :=
  s.onHw fun h =>
    let x := h.ctx core slot
    let h1 := h.modCore core (fun k => { k with engine := some ⟨slot, x.uid, trig, hold, false, answer, ranges, 0⟩ })
    let h2 :=
      if x.st = .faulted then h1
      else
        h1.setCtx core slot
          ({ x with st := .spilled, imaged := false, woke := x.park.isNone, yieldWait := none, hazOn := none, limWait := false }.settle)
    h2.runSpill core

/-- The figure of a request of `SPILL` (R257). -/
def spillFigure (src dst : Nat) : Nat := if dieOf src = dieOf dst then 60 else 140

/-- A request of `SPILL` is answered, half its figure after a cycle (R257). -/
def State.spillAnswerFrom (s : State) (core : Nat) (dest : Option (Nat × Nat)) (status cyc : Nat) : State :=
  match dest with
  | none => s
  | some (rc, txn) => s.onHw (fun h => h.schedule (cyc + spillFigure rc core / 2) .spillComplete (.nats [1, rc, txn, status]))

/-- A request that its target decides at the end of a cycle, which the agenda holds under the next one, is answered (R257). -/
def State.spillAnswer (s : State) (core : Nat) (dest : Option (Nat × Nat)) (status : Nat) : State :=
  s.spillAnswerFrom core dest status (s.hw.now - 1)

/-- The engine takes a request that has waited (R248, R253). -/
def State.takeRequest (s : State) (core : Nat) : State :=
  match (s.hw.core core).spillReqs with
  | [] => s
  | q :: r =>
    let s1 := s.onHw (fun h => h.modCore core (fun k => { k with spillReqs := r }))
    let x := s1.hw.ctx core q.slot
    match x.spillHow with
    | .refused => (s1.spillAnswer core (some (q.core, q.txn)) 1).enginePoll core
    | .already =>
      let s2 := if q.hold then s1.onMem (fun m =>
          let key := s1.hw.imageKey core q.slot
          m.putN key (bytesLE 8 (putBits (BitVec.ofNat 64 (m.val key 8)) 54 2 1).toNat)) else s1
      (s2.spillAnswer core (some (q.core, q.txn)) 0).enginePoll core
    | _ => s1.takeSpill core q.slot 1 (bit q.hold) (some (q.core, q.txn)) []

/-- The engine takes the spill of an overrun (R244, R319). -/
def State.takeOverrun (s : State) (core slot : Nat) : State :=
  let s1 := s.onHw (fun h => h.modCore core (fun k => { k with overruns := k.overruns.filter (fun i => i != slot) }))
  let x := s1.hw.ctx core slot
  if x.st = .ready ∨ x.st = .parked then
    (s1.onHw (fun h => h.setCtx core slot ({ x with park := none, deferred := x.deferred }.setTs tsOVR true))).takeSpill core slot 3 (if x.taskr = 0 then 0 else 1) none []
  else s1.enginePoll core

/-! ### SPILL (R256, R257) -/

/-- `spill.rel` at its target: a Spilled slot is held no longer. -/
def State.releaseHold (s : State) (core slot : Nat) : Nat × State :=
  let k := s.hw.core core
  let x := k.ctx slot
  let key := s.hw.imageKey core slot
  if x.st ≠ .spilled then (1, s)
  else if x.imaged then
    let q := s.mem.val key 8
    if bits q 55 54 = 0 then (1, s)
    else (0, s.onMem (fun m => m.putN key (bytesLE 8 (putBits (BitVec.ofNat 64 q) 54 2 0).toNat)))
  else
    match k.engine with
    | some o =>
      if o.slot = slot ∧ o.hold ≠ 0 then (0, s.onHw (fun h => h.modCore core (fun k => { k with engine := some { o with hold := 0 } })))
      else (1, s)
    | none => (1, s)

/-- A request of `SPILL` is applied at its target (R257). -/
def State.spillRequest (s : State) (m core slot rc txn base : Nat) : State :=
  let k := s.hw.core core
  let dest := some (rc, txn)
  let foreign := (s.hw.tenantOf rc).isSome && s.hw.tenantOf rc != s.hw.tenantOf core
  if s.hw.coreDisabled core || foreign || (m != 3 && k.saveBase.isNone) then s.spillAnswer core dest 3
  else
    let x := k.ctx slot
    match m with
    | 2 =>
      let r := s.releaseHold core slot
      (r.2.spillAnswer core dest r.1).enginePoll core
    | 3 =>
      if k.slots.all (fun (e : Nat × Ctx) => e.2.st == .free) then
        (s.onHw (fun h => h.modCore core (fun k => { k with saveBase := some base }))).spillAnswer core dest 0
      else s.spillAnswer core dest 1
    | 4 =>
      let may := match x.st with | .ready => true | .parked => true | .spilled => true | _ => false
      if may && !x.booked && x.gang.isNone && x.ckptMark.isNone then
        s.onHw (fun h => h.modCtx core slot (fun x => { x with ckptMark := some (rc, 0, txn) }))
      else s.spillAnswer core dest 1
    | _ =>
      if 4 ≤ k.spillReqs.length then s.spillAnswer core dest 2
      else
        (s.onHw (fun h => h.modCore core (fun k => { k with spillReqs := k.spillReqs ++ [⟨slot, m == 1, rc, txn⟩] }))).enginePoll core

/-- The common course of the SPILL forms (R257). -/
def State.spillForm (s : State) (c : Cur) (sw : Bool) (m : Nat) (a b : GReg) : State :=
  s.reads c [b.toNat] <|
    let w := (s.hw.cg c b).toNat
    let send (s : State) (base : Nat) : State :=
      s.onHw fun h =>
        let txn := h.nextTxn
        let core := bits w 36 16
        let h1 := ({ h with nextTxn := txn + 1 } : Hw).owe c txn a.toNat core .plain
        let msg : Msg :=
          { txn := txn, core := core, slot := 0, reg := a.toNat, val := 0, tenant := 0, sender := c.core, senderSlot := c.slot, svc := true,
            mc := false, handle := false }
        let h2 :=
          match h1.routeFails c.core 0 true core (spillFigure c.core core) with
          | some (cause, d) => h1.after d (if cause = 1 then .fabricTimeout else .remoteFailureReport) (.msg msg cause)
          | none => h1.after (spillFigure c.core core / 2 + 1) .contextSpill (.nats [m, core, bits w 13 8, c.core, txn, base])
        h2.retire c sw 1
    if bits w 63 37 ≠ 0 ∨ bits w 15 14 ≠ 0 ∨ bits w 7 0 ≠ 0 ∨ (m = 3 ∧ bits w 13 8 ≠ 0) then s.faultWith c .reservedValue 15 w
    else if m = 3 then
      s.window c (b.toNat + 1) <| s.reads c [b.toNat + 1] <|
        let base := (s.hw.cgn c (b.toNat + 1)).toNat
        if base % 65536 ≠ 0 ∨ 0xBC00000 < base + 0x420000 then s.faultWith c .reservedValue 15 base else send s base
    else send s 0

/-- SPILL. -/
def execSpill (sw : Bool) (a b : GReg) (s : State) : Res := s.withCur fun c => s.spillForm c sw 0 a b
/-- SPILL.hold. -/
def execSpillHold (sw : Bool) (a b : GReg) (s : State) : Res := s.withCur fun c => s.spillForm c sw 1 a b
/-- SPILL.rel. -/
def execSpillRel (sw : Bool) (a b : GReg) (s : State) : Res := s.withCur fun c => s.spillForm c sw 2 a b
/-- SPILL.base. -/
def execSpillBase (sw : Bool) (a b : GReg) (s : State) : Res := s.withCur fun c => s.spillForm c sw 3 a b
/-- SPILL.ckpt. -/
def execSpillCkpt (sw : Bool) (a b : GReg) (s : State) : Res := s.withCur fun c => s.spillForm c sw 4 a b

/-- A request of `SPILL` arrives, or a free engine takes an overrun or a request that waits (R253, R257). -/
def execContextSpill (s : State) : Res :=
  match s.hw.arg with
  | .nats [m, core, slot, rc, txn, base] => .next (s.spillRequest m core slot rc txn base)
  | .nats [core, slot] => .next (if (s.hw.core core).engine.isSome then s else s.takeOverrun core slot)
  | .nats [core] => .next (if (s.hw.core core).engine.isSome then s else s.takeRequest core)
  | _ => .fault .noArgument

/-- The forward-progress rule spills a context for the oldest pending restore (R254). -/
def execForwardProgressSpill (s : State) : Res :=
  match s.hw.arg with
  | .nats [core, slot] =>
    .next (if (s.hw.core core).engine.isSome ∨ !(s.hw.ctx core slot).yieldsWindow then s else s.takeSpill core slot 0 0 none [])
  | _ => .fault .noArgument

/-! ### The image is written (R249, R259) -/

/-- The key of a slot's checkpoint area (R245). -/
def Hw.ckptArea (h : Hw) (core slot : Nat) : Nat :=
  dramKeyOf (core % 2 ^ 21 * 2 ^ 28 + (h.core core).saveBase.getD 0 + 0x20000 + 0x10000 * slot)

/-- Copies a sector with its tag and its poison bit. -/
def State.copySector (s : State) (src dst : Nat) : State :=
  let p := s.mem.isPoison src
  (s.bankWrite dst (s.mem.readN src 32) (some (s.mem.tagOf src))).onMem (fun m => m.setPoison dst p)

/-- The sectors of a list of ranges. -/
def rangeKeys (l : List (Nat × Nat)) : List Nat := l.flatMap (fun r => (List.range (r.2 / 32)).map (fun i => r.1 + 32 * i))

/-- The saved ranges are copied into the checkpoint area, packed in table order, or back (R259, R260). -/
def State.copyRanges (s : State) (area : Nat) (back : Bool) (l : List (Nat × Nat)) : State :=
  let ks := rangeKeys l
  (ks.zip (List.range ks.length)).foldl (fun s p => if back then s.copySector (area + 32 * p.2) p.1 else s.copySector p.1 (area + 32 * p.2)) s

/-- The kind of the record of a spill of a Parked context (R102, R251). -/
def kindSpill : Nat := 0x0007

/-- The engine has written an image (R249): the window is free, what the request waited for is answered. -/
def State.imageDone (s : State) (o : SpillOp) (core : Nat) : State :=
  let s1 := s.onHw (fun h => h.modCore core (fun k => { k with engine := none }))
  let x := s1.hw.ctx core o.slot
  let key := s1.hw.imageKey core o.slot
  if x.uid ≠ o.uid ∨ (x.st ≠ .spilled ∧ x.st ≠ .faulted) then s1.spillAnswerFrom core o.answer 1 s.hw.now
  else
    let s2 := s1.bankWrite key (s1.hw.slotImage core o.slot o.trig o.hold) none
    let s3 := s2.onHw (fun h => h.modCtx core o.slot (fun y => { y with imaged := true }))
    let s4 :=
      if o.ranges ≠ [] then
        (s3.copyRanges (s3.hw.ckptArea core o.slot) false o.ranges).onHw (fun h => h.modCore core (fun k =>
          { k with saved := SMap.set k.saved o.slot o.ranges }))
      else s3
    let s5 :=
      if x.st = .spilled ∧ x.park.isSome then
        s4.onHw (fun h => h.post core (eventRecord (h.count core) core o.slot ((x.park.map Park.num).getD 0) x.flags kindSpill
          (x.control o.trig o.hold) x.imageDetail))
      else s4
    s5.spillAnswerFrom core o.answer 0 s.hw.now

/-- An image is performed, or a status of `SPILL` reaches its requester (R249, R257). -/
def execSpillComplete (s : State) : Res :=
  match s.hw.arg with
  | .nats [0, core, slot, uid] =>
    .next <|
      match (s.hw.core core).engine with
      | some o =>
        if o.slot = slot ∧ o.uid = uid ∧ !o.restore then
          -- the masks are saved once no mask result is outstanding (R371)
          if (s.hw.ctx core slot).maskPend.isEmpty then s.imageDone o core
          else s.onHw (fun h =>
            (h.modCore core (fun k => { k with engine := some { o with due := h.now + 1 } })).after 1 .spillComplete (.nats [0, core, slot, uid]))
        else s
      | none => s
  | .nats [2, core, slot, uid] =>
    .next <|
      match (s.hw.core core).engine with
      | some o => if o.slot = slot ∧ o.uid = uid ∧ !o.restore then s.onHw (fun h => h.runSpill core) else s
      | none => s
  | .nats [1, core, txn, status] => .next (s.payOwed core txn (BitVec.ofNat 64 status))
  | _ => .fault .noArgument

/-! ### Restoring (R252, R260) -/

/-- A restore begins: a slot made by `CLOAD` acquires its use of a grant set and waits for its load (R416), the window is placed; an image
that the part would not write faults the context (R247, R252). -/
def State.beginRestore (s : State) (core slot : Nat) : State :=
  let k := s.hw.core core
  let x := k.ctx slot
  let size := s.imageWindow core slot
  match k.findWindow s.hw.now size with
  | none => s
  | some base =>
    let ranges := (SMap.find? k.saved slot).getD []
    let due := s.hw.now + 96 + 3 * (16 + size / 4) + 3 * rangeSectors ranges
    let s0 := if x.noGrant then
        (s.grantTake core x.gset.toNat x.prin.toNat).onHw (fun h => h.modCtx core slot (fun y => { y with noGrant := false }))
      else s
    if ((s0.hw.core core).grantSet x.gset.toNat).state = 1 then s0 else
    let s1 := s0.onHw (fun h => h.modCtx core slot (fun y => { y with wbase := base, wsize := size }))
    if badControl (s.mem.val (s.hw.imageKey core slot) 8) then
      s1.onHw (fun h => h.raise core slot
        { cause := .reservedValue, sub := 16, frb := 0, ahi := 0, pc := x.pc, entry := x.entry, page := 0, op := 0, widx := 0 })
    else
      s1.onHw fun h =>
        (h.modCore core (fun k => { k with
          engine := some ⟨slot, x.uid, 0, 0, true, none, ranges, due⟩, restores := k.restores.filter (fun i => i != slot) })).schedule due
          .restoreComplete (.nats [core, slot, x.uid])

/-- A restore begins. -/
def execContextRestore (s : State) : Res :=
  match s.hw.arg with
  | .nats [core, slot] =>
    .next (if (s.hw.core core).engine.isSome ∨ !s.wantsRestore core slot then s else s.beginRestore core slot)
  | _ => .fault .noArgument

/-- The restore of a checkpointed slot begins (R260). -/
def execCheckpointRestore (s : State) : Res :=
  match s.hw.arg with
  | .nats [core, slot] =>
    .next (if (s.hw.core core).engine.isSome ∨ !s.wantsRestore core slot then s else s.beginRestore core slot)
  | _ => .fault .noArgument

/-- The park reason that an image gives (R246, R247); a context that was parked for that reason keeps what it waits for. -/
def Ctx.parkOf (x : Ctx) (reason detail : Nat) : Park :=
  if (x.park.map Park.num) = some reason then x.park.getD .memory
  else
    match reason with
    | 2 => .fullBit (detail % 128) | 3 => .code (detail % 64) | 4 => .page detail | 6 => .monitor detail
    | 5 => .barrier false 0 | 7 => .pipe 0 | 8 => .engine 0 | _ => .fence

/-- Held entries of the overflow deque reach the registers that can take them, oldest first (R92). -/
def Hw.deliverAllHeld (h : Hw) (core slot : Nat) : Hw :=
  (h.core core).ovf.foldl (fun h e => if e.slot = slot then h.deliverHeld core slot e.reg else h) h

/-- A restore is complete (R252): the saved ranges, the image, the state of the context. -/
def State.restored (s : State) (o : SpillOp) (core : Nat) : State :=
  let s1 := s.onHw (fun h => h.modCore core (fun k => { k with engine := none, saved := SMap.erase k.saved o.slot }))
  let x := s1.hw.ctx core o.slot
  if x.uid ≠ o.uid ∨ x.st ≠ .spilled then s1
  else
    let key := s1.hw.imageKey core o.slot
    let q := s1.mem.val key 8
    let s2 := s1.copyRanges (s1.hw.ckptArea core o.slot) true o.ranges
    let s3 := s2.loadImage core o.slot
    if bits q 63 60 = 3 then
      s3.onHw fun h =>
        (((h.modCtx core o.slot (fun y => { y with st := .faulted, park := none, imaged := false }.settle)).departs core o.slot).dropCkpt core
          o.slot).deliverAllHeld core o.slot
    else
      let s4 := s3.onHw (fun h => h.modCtx core o.slot (fun y =>
        if bitAt q 53 ∨ bits q 63 60 = 1 then
          { y with st := .ready, park := none, imaged := false, woke := false, notBefore := h.now }.settle
        else
          { y with st := .parked, park := some (y.parkOf (bits q 59 56) (s1.mem.val (key + 8) 8)), imaged := false }.settle))
      s4.onHw (fun h => h.deliverAllHeld core o.slot)

/-- A restore ends. -/
def execRestoreComplete (s : State) : Res :=
  match s.hw.arg with
  | .nats [core, slot, uid] =>
    .next <|
      match (s.hw.core core).engine with
      | some o => if o.slot = slot ∧ o.uid = uid ∧ o.restore then s.restored o core else s
      | none => s
  | _ => .fault .noArgument

/-! ### Checkpoints (R258, R259) -/

/-- CKPT: its operand is checked on every issue; it acts only where a `spill.ckpt` is pending. -/
def execCkpt (sw : Bool) (m : MemOp) (s : State) : Res :=
  s.withCur fun c => s.reads c [m.idx.toNat] <|
    s.check c m.sg.toNat (s.hw.memOffset c m) 8 { r := true } 8 fun a sg =>
      let x := s.hw.curCtx c
      if x.booked || x.ckptMark.isNone then s.onHw (fun h => h.retire c sw 1)
      else
        s.mayAccess c false .plain <|
          s.access c sw (s.hw.mkAcc c .ckptHead false sg.virt a 8 m.sg.toNat (s.hw.memOffset c m).toNat)

/-- An entry of a live-range table: the key and length of its range, none where it fails its check (R259). -/
def Ctx.liveRange (x : Ctx) (core q : Nat) : Option (Nat × Nat) :=
  let sg := x.seg (bits q 63 61)
  let n := 32 * bits q 60 40
  if n = 0 ∨ sg.virt then none
  else
    match segCheck sg (bits q 39 0) n { r := true } 32 with
    | .ok a => if bits q 39 0 % 32 = 0 ∧ keyCore a = core then some (a, n) else none
    | .bad _ _ => none

/-- An outstanding access of a chain is over, and what waited for it sees it done; the chain goes on. -/
def State.accOver (s : State) (o : Outst) : State :=
  s.onHw fun h =>
    (h.modCore o.acc.core (fun k => { k with out := k.out.filter (fun e => e.acc.txn != o.acc.txn) })).opDone o.acc.core o.acc.slot o.uid
      o.acc.txn

/-- A live-range table at an address fails its check (R258): the mark stays. -/
def State.ckptFails (s : State) (o : Outst) (addr : Nat) : State :=
  let a := o.acc
  let mark := (s.hw.ctx a.core a.slot).ckptMark
  s.onHw fun h =>
    ((h.modCtx a.core a.slot (fun x => { x with ckptMark := none })).raise a.core a.slot (o.chain.fault .reservedValue 14 addr)).modCtx
      a.core a.slot (fun x => { x with ckptMark := mark })

/-- A chain makes a further access. -/
def State.follow (s : State) (o : Outst) (a : Acc) : State :=
  let txn := s.hw.nextTxn
  let b : Acc := { a with txn := txn, pieces := [], sent := s.hw.now }
  (s.onHw fun h => ({ h with nextTxn := txn + 1 } : Hw).modCore a.core (fun k => { k with
    out := k.out ++ [{ o with acc := b, sent := false, performed := false }] })).pump a.core

/-- The live-range table has been read (R258): its context waits, at the chain after CKPT, for the save of its checkpoint. -/
def State.ckptReply (s : State) (o : Outst) (v : Nat) : State :=
  let a := o.acc
  let s0 := s.accOver o
  match a.op with
  | .ckptHead =>
    if v = 0 ∨ 15 < v then s0.ckptFails o a.addr
    else s0.follow o { a with op := .ckptBody v, addr := a.addr + 8, size := 8 * v }
  | .ckptBody n =>
    let x := s0.hw.ctx a.core a.slot
    let es := (List.range n).map (fun i => x.liveRange a.core (bits v (64 * i + 63) (64 * i)))
    let rs := es.filterMap id
    if es.any Option.isNone ∨ 65536 < rs.foldl (fun n r => n + r.2) 0 then s0.ckptFails o (a.addr - 8)
    else
      (s0.onHw fun h =>
        (h.modCore a.core (fun k => { k with ckpts := k.ckpts ++ [(a.slot, rs)] })).modCtx a.core a.slot (fun x =>
          { x.advance o.chain.pc o.chain.len with access := none, swWait := x.plainSw })).enginePoll a.core
  | _ => s0

/-- The save of a checkpoint begins (R258, R259). -/
def execCheckpointSave (s : State) : Res :=
  match s.hw.arg with
  | .nats [core] =>
    .next <|
      match (s.hw.core core).engine, (s.hw.core core).ckpts with
      | none, (slot, rs) :: r =>
        let s1 := s.onHw (fun h => h.modCore core (fun k => { k with ckpts := r }))
        let x := s1.hw.ctx core slot
        match x.st, x.ckptMark with
        | .parked, some (rc, _, txn) =>
          (s1.onHw (fun h => h.setCtx core slot { x with park := none, ckptMark := none })).takeSpill core slot 2 2 (some (rc, txn)) rs
        | _, _ => s1.enginePoll core
      | _, _ => s
  | _ => .fault .noArgument

/-! ### BRS resumes a Faulted context (R86) -/

/-- A resume: from the chain of FRA.PCOFF, or the next one after Breakpoint; an image written while the context was Faulted is
loaded first. -/
def execBrsResume (s : State) : Res :=
  match s.hw.arg with
  | .nats [core, slot] =>
    .next <|
      if (s.hw.ctx core slot).st ≠ .faulted then s
      else
        let s1 := if (s.hw.ctx core slot).imaged then s.loadImage core slot else s
        s1.onHw fun h => h.modCtx core slot (fun x =>
          let pc := bits x.fra.toNat 55 39
          let y := { x with st := .ready, park := none, imaged := false, notBefore := h.now, pc := pc }
          (if bits x.fra.toNat 7 0 = Cause.code .breakpoint then y.advance pc (bits x.fra.toNat 22 20 + 1) else y).settle)
  | _ => .fault .noArgument

end Sys2Proof.Machine
end

