-- ==== Sys2Proof/Machine/Queue.lean ====
section
/-! DEFINITION. Tasks (11_queue): the launch hierarchy with its pecks, the dispatcher, deques and stealing, FORK, JOIN, DEPNEW,
DEPPUB, SIGNAL, ENQ, TASKID, STEAL, the release of cells, and retirement. -/

namespace Sys2Proof.Machine

/-! ### Queues (R225 to R227) -/

/-- An entry as an argument carries it. -/
def QEntry.pack (e : QEntry) : BitVec 1024 × List Nat :=
  (e.rec_, [e.order, match e.requeue with | some (c, i) => 64 * c + i + 1 | none => 0, match e.half with | some (i, _) => i + 1 | none => 0,
    match e.half with | some (_, c) => c | none => 0])

/-- See `QEntry.pack`. -/
def QEntry.unpack (p : BitVec 1024 × List Nat) : QEntry :=
  let n (i : Nat) : Nat := p.2.getD i 0
  ⟨p.1, n 0, 0, 0, if n 1 = 0 then none else some ((n 1 - 1) / 64, (n 1 - 1) % 64), if n 2 = 0 then none else some (n 2 - 1, n 3)⟩

/-- The path of an entry includes a cluster (R227, R237). -/
def QEntry.forCluster (e : QEntry) (clu : Nat) : Bool :=
  (!recPin e.rec_ || clusterOf (recPcore e.rec_) == clu) && (match e.half with | some (_, c) => c == clu | none => true)

/-- The path of an entry includes a core. -/
def QEntry.forCore (e : QEntry) (core : Nat) : Bool :=
  e.forCluster (clusterOf core) && (!recPin e.rec_ || recPcore e.rec_ == core)

/-- An entry stands before another (R226). -/
def QEntry.before (e f : QEntry) : Bool :=
  recLevel e.rec_ < recLevel f.rec_ || (recLevel e.rec_ == recLevel f.rec_ && decide (e.order < f.order))

/-- Inserts an entry by R226. -/
def insEntry (e : QEntry) : List QEntry → List QEntry
  | [] => [e]
  | f :: r => if e.before f then e :: f :: r else f :: insEntry e r

/-- The entries of a queue in order (R226). -/
def inOrder (l : List QEntry) : List QEntry := l.foldr insEntry []

/-- Removes entries by their order of entry. -/
def without (l got : List QEntry) : List QEntry := l.filter (fun e => !got.any (fun g => g.order == e.order && g.half == e.half))

/-- Entries that a hand-out leaves behind have been passed over, those of the requester's path with a greater E than the greatest
handed out (R226). -/
def passOver (l got : List QEntry) (p : QEntry → Bool) : List QEntry :=
  let top := got.foldl (fun m e => max m (recLevel e.rec_)) 0
  l.map (fun e => if got ≠ [] ∧ p e ∧ top < recLevel e.rec_ then { e with rec_ := recPassed e.rec_ } else e)

/-- A peck: up to 8 first entries among those that a test admits, and the queue that is left (R225). -/
def peck (l : List QEntry) (p : QEntry → Bool) : List QEntry × List QEntry :=
  let got := (inOrder (l.filter p)).take 8
  (got, passOver (without l got) got p)

/-- Inserts an entry so that the one that entered a queue last comes first. -/
def insYoung (e : QEntry) : List QEntry → List QEntry
  | [] => [e]
  | f :: r => if f.entered ≤ e.entered then e :: f :: r else f :: insYoung e r

/-- The 8 youngest entries of a queue (R225). -/
def youngest (l : List QEntry) : List QEntry := (l.foldr insYoung []).take 8

/-- The entry enters a queue now. -/
def QEntry.enters (e : QEntry) (n : Nat) : QEntry := { e with entered := n, skips := 0 }

/-- Clusters of a tenant on a die (R225). -/
def Hw.dieClusters (h : Hw) (die : Nat) (t : Option Nat) : List Nat :=
  (h.clusters.filter (fun (c : Nat × Cluster) => c.1 / 64 == die && t.isSome && c.2.owner == t)).map (fun c => c.1)

/-- The die queue of a tenant (R225). -/
def Hw.dieQueue (h : Hw) (die tenant : Nat) : DieQueue :=
  let n := 32 * (1 + (h.dieClusters die (some tenant)).length)
  SMap.get ⟨n, n, [], []⟩ (h.die die).queues tenant

/-- Replaces a die queue. -/
def Hw.setDieQueue (h : Hw) (die tenant : Nat) (q : DieQueue) : Hw := h.modDie die (fun d => { d with queues := SMap.set d.queues tenant q })

/-- The die queue has fewer free entries than its minimum (R225). -/
def Hw.headroomShort (h : Hw) (die tenant : Nat) : Bool :=
  let q := h.dieQueue die tenant
  decide (q.cap - q.entries.length < 8 * (1 + (h.dieClusters die (some tenant)).length))

/-- A core asks its cluster queue, `d` cycles from now, where its condition holds (R225). -/
def Hw.askCore (h : Hw) (core d : Nat) : Hw :=
  let k := h.core core
  if k.queue.length ≤ 4 ∧ k.peckOut = false ∧ h.coreDisabled core = false ∧
      ((h.cluster (clusterOf core)).queue.any (fun e => e.forCore core)) = true then
    (h.modCore core (fun k => { k with peckOut := true })).after d .corePeckRequest (.nats [core])
  else h

/-- BRS clears a cluster (R36, R475). -/
def Hw.isClearing (h : Hw) (clu : Nat) : Bool := (h.mod (clu / 512)).clearing.contains clu

/-- A cluster asks the tenant's die queue, where its condition holds (R225); one that is being cleared takes no record (R475). -/
def Hw.askCluster (h : Hw) (clu d : Nat) : Hw :=
  let c := h.cluster clu
  match c.owner with
  | none => h
  | some t =>
    if h.isClearing clu = false ∧ c.queue.length ≤ 32 ∧ c.peckOut = false ∧ ((h.dieQueue (clu / 64) t).entries.any (fun e => e.forCluster clu)) = true then
      (h.modCluster clu (fun c => { c with peckOut := true })).after d .clusterPeckRequest (.nats [clu])
    else h

/-- An insertion into a die queue (R225): one that finds it full is held. -/
def Hw.insertDie (h : Hw) (die tenant : Nat) (e : QEntry) : Hw :=
  let q := h.dieQueue die tenant
  let n := h.nextTxn
  let h1 : Hw := { h with nextTxn := n + 1 }
  if q.cap ≤ q.entries.length then h1.setDieQueue die tenant { q with held := q.held ++ [e] }
  else
    (h1.dieClusters die (some tenant)).foldl (fun h c => h.askCluster c 0) (h1.setDieQueue die tenant { q with entries := q.entries ++ [e.enters n] })

/-- An insertion into a cluster queue (R225): a full one sends its 8 youngest up first. -/
def Hw.insertCluster (h : Hw) (clu : Nat) (e : QEntry) : Hw :=
  let c := h.cluster clu
  let n := h.nextTxn
  let h1 : Hw := { h with nextTxn := n + 1 }
  if 128 ≤ c.queue.length then
    let up := youngest c.queue
    (h1.modCluster clu (fun c => { c with queue := without c.queue up })).after 156 .clusterPeckArrival
      (.recs [clu, 1] ((e :: up).map QEntry.pack))
  else
    (List.range 16).foldl (fun h i => h.askCore (16 * clu + i) 0) (h1.modCluster clu (fun c => { c with queue := c.queue ++ [e.enters n] }))

/-- An insertion into a core queue (R225): a full one sends its 8 youngest up first. The dispatcher looks for work. -/
def Hw.insertCore (h : Hw) (core : Nat) (e : QEntry) : Hw :=
  let k := h.core core
  let up := if 16 ≤ k.queue.length then youngest k.queue else []
  let h1 := up.foldl (fun h u => h.insertCluster (clusterOf core) u) (h.modCore core (fun k => { k with queue := without k.queue up }))
  let n := h1.nextTxn
  (({ h1 with nextTxn := n + 1 } : Hw).modCore core (fun k =>
    { k with queue := k.queue ++ [e.enters n], walk := { k.walk with until_ := 0 } })).schedule h.now .dispatcherStart (.nats [core])

/-- A record enters the hierarchy (R225): at a level, on its path (R227). -/
def Hw.enterRecord (h : Hw) (core tenant : Nat) (l : EnqLevel) (r : BitVec 1024) : Hw :=
  let place := if recPin r then recPcore r else core
  let e : QEntry := ⟨r, h.nextTxn, 0, 0, none, none⟩
  let h1 : Hw := { h with nextTxn := h.nextTxn + 1 }
  match l with
  | .core => h1.insertCore place e
  | .clu => h1.insertCluster (clusterOf place) e
  | .die => h1.insertDie (dieOf place) tenant e

/-- A core asks its cluster queue for a peck (R225, R226). -/
def execCorePeckRequest (s : State) : Res :=
  match s.hw.arg with
  | .nats [core] =>
    .next <| s.onHw fun h =>
      let clu := clusterOf core
      match peck (h.cluster clu).queue (fun e => e.forCore core) with
      | ([], _) => h.modCore core (fun k => { k with peckOut := false })
      | (got, rest) =>
        ((h.modCluster clu (fun c => { c with queue := rest })).after 20 .corePeckArrival (.recs [core, 0] (got.map QEntry.pack))).askCluster clu 1
  | _ => .fault .noArgument

/-- A peck arrives at a core queue, or a half that the die queue sends (R225, R237). -/
def execCorePeckArrival (s : State) : Res :=
  match s.hw.arg with
  | .recs [core, sent] es =>
    .next <| s.onHw fun h =>
      let h1 := if sent = 0 then h.modCore core (fun k => { k with peckOut := false }) else h
      ((es.map QEntry.unpack).foldl (fun h e => h.insertCore core e) h1).askCore core 1
  | _ => .fault .noArgument

/-- The other cluster of a paired task (R237): the first on the die, else the first in the module. -/
def Hw.partner (h : Hw) (clu : Nat) : Option Nat :=
  let t := (h.cluster clu).owner
  match (h.dieClusters (clu / 64) t).find? (fun c => c != clu) with
  | some c => some c
  | none => ((h.clusters.filter (fun (c : Nat × Cluster) => c.1 / 512 == clu / 512 && c.1 != clu && t.isSome && c.2.owner == t)).map
      (fun c => c.1)).head?

/-- The core of a cluster whose queue is the shortest, the lowest among equals. -/
def Hw.shortestCore (h : Hw) (clu : Nat) : Nat :=
  (((List.range 16).map (fun i => 16 * clu + i)).filter (fun c => !h.coreDisabled c)).foldl (fun m c =>
    if (h.core c).queue.length < (h.core m).queue.length ∨ h.coreDisabled m then c else m) (16 * clu)

/-- The die queue sends the halves of a paired task to core queues of two clusters (R237). -/
def Hw.sendHalves (h : Hw) (clu other : Nat) (e : QEntry) : Hw :=
  let one (h : Hw) (i c : Nat) : Hw := h.after 156 .corePeckArrival (.recs [h.shortestCore c, 1] [({ e with half := some (i, c) } : QEntry).pack])
  one (one h 0 clu) 1 other

/-- A cluster asks the tenant's die queue for a peck (R225, R226, R237). -/
def execClusterPeckRequest (s : State) : Res :=
  match s.hw.arg with
  | .nats [clu] =>
    .next <| s.onHw fun h =>
      let t := (h.cluster clu).owner.getD 0
      let q := h.dieQueue (clu / 64) t
      let other := h.partner clu
      match peck q.entries (fun e => e.forCluster clu && (!recPaired e.rec_ || e.half.isSome || other.isSome)) with
      | ([], _) => h.modCluster clu (fun c => { c with peckOut := false })
      | (got, rest) =>
        let whole (e : QEntry) : Bool := recPaired e.rec_ && e.half.isNone
        let h1 := h.setDieQueue (clu / 64) t { q with entries := rest }
        let h2 := (got.filter whole).foldl (fun h e => h.sendHalves clu (other.getD clu) e) h1
        h2.after 156 .clusterPeckArrival (.recs [clu, 0] ((got.filter (fun e => !whole e)).map QEntry.pack))
  | _ => .fault .noArgument

/-- A peck arrives at a cluster queue; or its 8 youngest have reached the die queue, and the entry that waited for them goes in
(R225). -/
def execClusterPeckArrival (s : State) : Res :=
  match s.hw.arg with
  | .recs [clu, mode] es =>
    .next <| s.onHw fun h =>
      let l := es.map QEntry.unpack
      if mode = 0 then
        ((l.foldl (fun h e => h.insertCluster clu e) (h.modCluster clu (fun c => { c with peckOut := false })))).askCluster clu 1
      else
        match l with
        | [] => h
        | e :: up => (up.foldl (fun h u => h.insertDie (clu / 64) ((h.cluster clu).owner.getD 0) u) h).insertCluster clu e
  | _ => .fault .noArgument

/-- BRS enlarges a die queue by its set-up size (R225): the insertions that it held go in. -/
def execDieQueueEnlarge (s : State) : Res :=
  match s.hw.arg with
  | .nats [die, tenant] =>
    .next <| s.onHw fun h =>
      let q := h.dieQueue die tenant
      q.held.foldl (fun h e => h.insertDie die tenant e) (h.setDieQueue die tenant { q with cap := q.cap + q.setup, held := [] })
  | _ => .fault .noArgument

/-! ### Starting a task (R224, R228) -/

/-- A core can take a task of a record: a slot, a window, and a grant set that is not refused (R228, R416). -/
def Hw.room (h : Hw) (core : Nat) (r : BitVec 1024) : Option (Nat × Nat) :=
  let k := h.core core
  match k.findSlot h.now, k.findWindow h.now (recWindow r) with
  | some slot, some base => if h.grantNeed core (recGset r) (recPrin r) = .refused then none else some (slot, base)
  | _, _ => none

/-- The context of a task of a record (R76, R224): the copy of the record stands in the core's record area. -/
def Core.taskCtx (k : Core) (uid slot base : Nat) (r : BitVec 1024) (origin half booked : Nat) : Ctx :=
  let y := { k.fresh uid slot base (recWindow r) with
    otag := BitVec.ofNat 12 (recOtag r), gset := BitVec.ofNat 3 (recGset r), prin := BitVec.ofNat 32 (recPrin r),
    prio := BitVec.ofNat 2 (recPrio r), steald := BitVec.ofNat 2 (recSteald r), role := BitVec.ofNat 64 (recDecl r * 5),
    kernel := BitVec.ofNat 256 r.toNat, taskr := BitVec.ofNat 20 (0x8E000 + 128 * slot),
    task := ⟨true, recTid r, origin, recJoina r, recSlist r, recSuccn r, half, recRun r, 0, [], r, booked⟩ }
  (y.setTs tsPAIRED (recPaired r)).setTs tsOVR (recOvr r)

/-- The argument words of a record (R221). -/
def recArgs (r : BitVec 1024) : List Word := (List.range 4).map (fun i => BitVec.ofNat 64 (recQuad r (4 + i)))

/-- A task is chosen (R224, R228): its context, the copy of its record, and Ready 8 cycles later. -/
def State.startTask (s : State) (core slot base : Nat) (r : BitVec 1024) (origin : Nat) (half : Nat) (bytes : List Byte) : State :=
  let s1 := s.grantTake core (recGset r) (recPrin r)
  let uid := s1.hw.nextTxn
  let x : Ctx := { (s1.hw.core core).taskCtx uid slot base r origin half 0 with notBefore := s.hw.now + 8 }
  let s2 := s1.onHw fun h =>
    ((({ h with nextTxn := uid + 1 } : Hw).modCore core (fun k =>
      { k.place slot x (recArgs r) with nextStart := h.now + 8 }))).schedule (h.now + 8) .taskReady (.nats [core, slot, uid])
  s2.bankWrite (scratchKey core (0x8E000 + 128 * slot)) bytes (some (recOtag r))

/-! ### Deques (R222, R230) -/

/-- Entries that a core's deque holds. -/
def Core.deqCap (k : Core) : Nat := (k.deql - k.deqb) / 96

/-- The deque is empty or absent. -/
def Core.deqEmpty (k : Core) : Bool := k.deqCap == 0 || decide (k.deque.owner ≤ k.deque.thief)

/-- The memory key of a place in the ring. -/
def Hw.deqKey (h : Hw) (core i : Nat) : Nat := scratchKey core ((h.core core).deqb + 96 * (i % max 1 (h.core core).deqCap))

/-- The entry at a place, read without a tag check. -/
def State.deqEntry (s : State) (core i : Nat) : BitVec 768 := BitVec.ofNat 768 (s.mem.val (s.hw.deqKey core i) 96)

/-- An entry is pushed at the owner end, with its TID (R222, R223, R230). -/
def State.deqPush (s : State) (core : Nat) (e : BitVec 768) (otag : Nat) : State :=
  let t := s.hw.newTid (clusterOf core)
  let i := (s.hw.core core).deque.owner
  let s1 : State := { s with hw := t.2 }
  (s1.bankWrite (s.hw.deqKey core i) (bytesLE 96 (putBits e 512 64 t.1).toNat) (some otag)).onHw fun h =>
    h.modCore core (fun k => { k with deque := { k.deque with owner := i + 1, next := h.now + 1 }, walk := { k.walk with until_ := 0 } })

/-- A steal, or the return of a stolen entry, has its turn at a deque, one operation a cycle in order of arrival (R230): `again` is the step
that takes a turn in a later cycle, for which `turn` is set. -/
def State.deqTurn (s : State) (core : Nat) (turn : Bool) (again : Arg) (go : State → State) : State :=
  if turn then go s
  else
    let t := max s.hw.now (s.hw.core core).deque.next
    let s1 := s.onHw (fun h => h.modCore core (fun k => { k with deque := { k.deque with next := t + 1 } }))
    if t = s.hw.now then go s1 else s1.onHw (fun h => h.schedule t .stealRequest again)

/-- The stealing domain of an entry covers a thief (R231): domain, forking core, thief. -/
def domainCovers (d home thief : Nat) : Bool :=
  match d with
  | 0 => home == thief
  | 1 => clusterOf home == clusterOf thief
  | 2 => dieOf home == dieOf thief
  | _ => moduleOf home == moduleOf thief

/-- The thief end of a victim's deque yields its entry to a thief (R231). -/
def State.yieldEntry (s : State) (victim thief : Nat) : Option (BitVec 768) × State :=
  let k := s.hw.core victim
  if k.deqEmpty then (none, s)
  else
    let e := s.deqEntry victim k.deque.thief
    if domainCovers (bits (entQuad e 9) 16 15) (bits (entQuad e 11) 20 0) thief then
      (some e, s.onHw (fun h => h.modCore victim (fun k => { k with deque := { k.deque with thief := k.deque.thief + 1 } })))
    else (none, s)

/-- The bytes of a record copy that an entry gives: its 96 bytes, and 32 zero bytes (R224). -/
def entBytes (e : BitVec 768) : List Byte := bytesLE 96 e.toNat ++ bytesLE 32 0

/-! ### The dispatcher (R228, R229, R231) -/

/-- A head of a core queue that does not fit is skipped as another task starts (R228). -/
def Hw.skipHead (h : Hw) (core : Nat) : Hw :=
  h.modCore core fun k =>
    match inOrder k.queue with
    | [] => k
    | e :: _ =>
      { k with queue := k.queue.map (fun f => if f.order = e.order ∧ f.half = e.half then
          { f with rec_ := recPassed f.rec_, skips := f.skips + 1 } else f) }

/-- A start from the core queue: the entry leaves it, others are passed over, Q counts (R226, R229). -/
def State.startQueued (s : State) (core : Nat) (e : QEntry) : Option State :=
  let taken (s : State) : State := s.onHw fun h =>
    (h.modCore core (fun k => { k with
      queue := passOver (without k.queue [e]) [e] (fun _ => true), nextStart := h.now + 8,
      qcount := if k.deqEmpty then k.qcount else k.qcount + 1 })).askCore core 1
  match e.requeue with
  | some (home, slot) => if (s.hw.ctx home slot).st = .spilled then some (taken (s.releaseHold home slot).2) else none
  | none =>
    match s.hw.room core e.rec_ with
    | some (slot, base) =>
      some (taken (s.startTask core slot base e.rec_ 1 ((e.half.map (fun p => p.1)).getD 0) (bytesLE 128 e.rec_.toNat)))
    | none => none

/-- A start from the core's own deque, owner end first (R229, R230). -/
def State.startDeque (s : State) (core : Nat) : Option State :=
  let k := s.hw.core core
  if k.deqEmpty then none
  else
    let e := s.deqEntry core (k.deque.owner - 1)
    match s.hw.room core (entRecord e) with
    | some (slot, base) =>
      some ((s.onHw (fun h => h.modCore core (fun k => { k with deque := { k.deque with owner := k.deque.owner - 1, next := h.now + 1 }, qcount := 0 }))).startTask
        core slot base (entRecord e) 2 0 (entBytes e))
    | none => none

/-- A start of the entry that the core has stolen. -/
def State.startStolen (s : State) (core : Nat) : Option State :=
  match (s.hw.core core).walk.entry with
  | none => none
  | some e =>
    match s.hw.room core (entRecord e) with
    | some (slot, base) =>
      some ((s.onHw (fun h => h.modCore core (fun k => { k with walk := { k.walk with entry := none } }))).startTask core slot base (entRecord e) 3 0
        (entBytes e))
    | none => none

/-- The candidates of a thief's walk, in order (R231): the tenant's other clusters are those that BRS has listed. -/
def Hw.stealOrder (h : Hw) (core : Nat) : List Nat :=
  let clu := clusterOf core
  let near := (List.range 15).map (fun i => 16 * clu + (core + 1 + i) % 16)
  let far := ((h.core core).stealList.filter (fun c => c != clu))
  let cores (c : Nat) : List Nat := (List.range 16).map (fun i => 16 * c + i)
  near ++ (far.filter (fun c => c / 64 == clu / 64)).flatMap cores ++ (far.filter (fun c => c / 64 != clu / 64)).flatMap cores

/-- A core with nothing else to start and a Free slot looks for an entry to steal (R231). -/
def Core.maySteal (k : Core) (now : Nat) : Bool :=
  k.queue == [] && k.deqEmpty && k.walk.entry.isNone && !k.walk.out && decide (k.walk.until_ ≤ now) && (k.findSlot now).isSome && !k.svc

/-- The next request of a walk. -/
def Hw.stealNext (h : Hw) (core : Nat) : Hw :=
  let k := h.core core
  let left := if k.walk.left = [] then h.stealOrder core else k.walk.left
  match left with
  | [] => h
  | v :: _ =>
    (h.modCore core (fun k => { k with walk := { k.walk with left := left, out := true } })).after (h.scratchLatency core v / 2) .stealRequest
      (.stolen [core, v, 0, 0] none)

/-- The entry of the core queue that has been skipped 8 times for its window, for which the core starts no other task (R228). -/
def Core.heldEntry (k : Core) : Option QEntry := (inOrder k.queue).find? (fun e => recLevel e.rec_ == 0 && decide (8 ≤ e.skips))

/-- The dispatcher looks for a task to start (R228, R229). -/
def State.dispatch (s : State) (core : Nat) : State :=
  let k := s.hw.core core
  if s.hw.now < k.nextStart || s.hw.coreDisabled core || s.hw.isClearing (clusterOf core) || k.imaging || s.restorePending core then s
  else
    let q := inOrder k.queue
    match k.heldEntry with
    | some e => (s.startQueued core e).getD s
    | none =>
      let blocked := q ≠ [] && (k.findSlot s.hw.now).isSome
      let skip (s : State) : State := if blocked then s.onHw (fun h => h.skipHead core) else s
      let queued := match q with | e :: _ => s.startQueued core e | [] => none
      let own := s.startDeque core
      if 8 ≤ k.qcount ∧ own.isSome then own.getD s
      else
        match queued, own, s.startStolen core with
        | some t, _, _ => t
        | none, some t, _ => skip t
        | none, none, some t => skip t
        | none, none, none => if k.maySteal s.hw.now && (s.hw.tenantOf core).isSome then s.onHw (fun h => h.stealNext core) else s

/-- The dispatcher of a core may have something to do. -/
def Hw.dispatchWork (h : Hw) (core : Nat) : Bool :=
  let k := h.core core
  decide (k.nextStart ≤ h.now) &&
    (k.queue != [] || !k.deqEmpty || k.walk.entry.isSome || (k.maySteal h.now && (h.tenantOf core).isSome && !h.coreDisabled core))

/-- The dispatcher's choice (R228). -/
def execDispatcherStart (s : State) : Res :=
  match s.hw.arg with
  | .nats [core] => .next (s.dispatch core)
  | _ => .fault .noArgument

/-! ### Stealing (R230, R231, R241) -/

/-- A request of a thief reaches its victim, or an entry comes back to its thief end (R231, R241). -/
def execStealRequest (s : State) : Res :=
  match s.hw.arg with
  | .stolen [thief, victim, 0, turn] none =>
    .next <| s.deqTurn victim (turn == 1) (.stolen [thief, victim, 0, 1] none) fun s =>
      let r := if s.hw.coreDisabled victim || s.hw.tenantOf victim != s.hw.tenantOf thief then (none, s) else s.yieldEntry victim thief
      r.2.onHw fun h => h.after (h.scratchLatency thief victim - h.scratchLatency thief victim / 2) .stealReply (.stolen [thief, victim, 0] r.1)
  | .stolen [thief, victim, 1, steald, txn, due, turn] none =>
    .next <| s.deqTurn victim (turn == 1) (.stolen [thief, victim, 1, steald, txn, due, 1] none) fun s =>
      let r := if domainCovers steald thief victim then s.yieldEntry victim thief else (none, s)
      r.2.onHw fun h => h.after (h.scratchLatency thief victim - h.scratchLatency thief victim / 2) .stealReply
        (.stolen [thief, victim, 1, txn, due] r.1)
  | .stolen [thief, victim, 2, turn] (some e) =>
    .next <| s.deqTurn victim (turn == 1) (.stolen [thief, victim, 2, 1] (some e)) fun s =>
      let k := s.hw.core victim
      if 0 < k.deque.thief ∧ k.deque.owner - k.deque.thief < k.deqCap then
        (s.bankWrite (s.hw.deqKey victim (k.deque.thief - 1)) (bytesLE 96 e.toNat) (some (bits (entQuad e 9) 31 20))).onHw fun h =>
          h.modCore victim (fun k => { k with deque := { k.deque with thief := k.deque.thief - 1 } })
      else s.onHw (fun h => h.after 1 .stealRequest (.stolen [thief, victim, 2, 0] (some e)))
  | _ => .fault .noArgument

/-- A victim's answer reaches the thief: the next candidate is tried, or the entry is started (R231); the status of `STEAL`
follows at its cycle (R241). -/
def execStealReply (s : State) : Res :=
  match s.hw.arg with
  | .stolen [core, _, 0] e =>
    .next <| s.onHw fun h =>
      let left := (h.core core).walk.left.drop 1
      match e with
      | some e =>
        (h.modCore core (fun k => { k with walk := ⟨[], false, 0, some e⟩ })).schedule h.now .dispatcherStart (.nats [core])
      | none =>
        if left = [] then
          (h.modCore core (fun k => { k with walk := ⟨[], false, h.now + 256, none⟩ })).after 256 .stealWalkWaitExpiry (.nats [core])
        else
          let h1 := h.modCore core (fun k => { k with walk := { k.walk with left := left, out := false } })
          if (h1.core core).maySteal h1.now then h1.stealNext core
          else h1.modCore core (fun k => { k with walk := { k.walk with left := [] } })
  | .stolen [core, victim, 1, txn, due] e =>
    .next <|
      let finish (s : State) (st : Nat) : State := s.onHw (fun h => h.schedule (max due h.now) .stealReply (.nats [core, txn, st]))
      match e with
      | none => finish s 1
      | some e =>
        if (s.hw.core core).imaging then s.onHw (fun h => h.holdIn core .stealReply s.hw.arg)
        else if s.hw.now < (s.hw.core core).nextStart then s.onHw (fun h => h.schedule (h.core core).nextStart .stealReply s.hw.arg)
        else
        match (if s.restorePending core || (s.hw.core core).heldEntry.isSome then none else s.hw.room core (entRecord e)) with
        | some (slot, base) => finish (s.startTask core slot base (entRecord e) 3 0 (entBytes e)) 0
        | none =>
          finish (s.onHw (fun h => h.after (h.scratchLatency core victim / 2) .stealRequest (.stolen [core, victim, 2, 0] (some e)))) 2
  | .nats [core, txn, st] => .next (s.payOwed core txn (BitVec.ofNat 64 st))
  | _ => .fault .noArgument

/-- 256 cycles after a walk without success (R231). -/
def execStealWalkWaitExpiry (s : State) : Res :=
  match s.hw.arg with
  | .nats [core] =>
    .next (s.onHw fun h => h.modCore core (fun k => if k.walk.until_ ≤ h.now then { k with walk := { k.walk with until_ := 0 } } else k))
  | _ => .fault .noArgument

/-- STEAL (R241). -/
def execSteal (sw : Bool) (a b : GReg) (s : State) : Res :=
  s.withCur fun c => s.unbooked c <| s.unpaired c <| s.reads c [b.toNat] <|
    let v := (s.hw.cg c b).toNat
    if bits v 63 21 ≠ 0 then s.faultWith c .reservedValue 0 v
    else s.onHw fun h =>
      let txn := h.nextTxn
      let x := h.curCtx c
      let lat := h.scratchLatency c.core v
      let tenant := (h.tenantOf c.core).getD 0
      let h1 := ({ h with nextTxn := txn + 1 } : Hw).owe c txn a.toNat v .plain
      let msg : Msg :=
        { txn := txn, core := v, slot := 0, reg := a.toNat, val := 0, tenant := tenant, sender := c.core, senderSlot := c.slot, svc := x.service,
          mc := false, handle := false }
      let h2 :=
        match h1.routeFails c.core tenant x.service v lat with
        | some (cause, d) => h1.after (max d (if cause = 1 then d else 2 * lat + 8)) (if cause = 1 then .fabricTimeout else .remoteFailureReport)
            (.msg msg cause)
        | none => h1.after (lat / 2) .stealRequest (.stolen [c.core, v, 1, x.steald.toNat, txn, h.now + 2 * lat + 8, 0] none)
      h2.retire c sw 1

/-! ### FORK (R234) -/

/-- The entry that a FORK pushes, but for its TID (R222). -/
def Hw.forkEntry (h : Hw) (c : Cur) (digest : BitVec 256) (args : List Word) (wsz ja : Nat) : BitVec 768 :=
  let x := h.curCtx c
  let q9 := x.prin.toNat * 2 ^ 32 + x.otag.toNat * 2 ^ 20 + x.gset.toNat * 2 ^ 17 + x.steald.toNat * 2 ^ 15 + x.decl * 2 ^ 13 +
    x.prio.toNat * 2 ^ 11 + wsz * 2 ^ 2
  BitVec.ofNat 768 (digest.toNat + 2 ^ 256 * (args.foldr (fun w n => w.toNat + 2 ^ 64 * n) 0) + 2 ^ 576 * q9 + 2 ^ 640 * ja +
    2 ^ 704 * (c.core % 2 ^ 21))

/-- FORK. -/
def execFork (sw : Bool) (a c b : GReg) (s : State) : Res :=
  s.withCur fun cu => s.unbooked cu <| s.unpaired cu <| s.reads cu [c.toNat] <|
    let w := (s.hw.cg cu c).toNat
    let imports := (s.hw.entry (clusterOf cu.core) (s.hw.curCtx cu).entry).imports
    if bits w 63 40 ≠ 0 ∨ bits w 19 16 ≠ 0 ∨ bits w 3 0 ≠ 0 ∨ imports.length ≤ bits w 15 8 then s.faultWith cu .reservedValue 12 w
    else s.window cu (b.toNat + 3) <| s.reads cu (regRun b.toNat 4) <| s.mayAccess cu false .plain <|
      let joff := bits w 39 20
      let go (ja : Nat) : State :=
        let e := s.hw.forkEntry cu (imports.getD (bits w 15 8) 0) ((regRun b.toNat 4).map (s.hw.cgn cu)) (bits w 7 4) ja
        s.access cu sw (s.hw.mkAcc cu (.fork a.toNat e) false false (if joff = 0 then scratchKey cu.core 0 else ja) (if joff = 0 then 0 else 8) 0
          joff)
      if joff = 0 then go 0 else s.scratchCheck cu 0 joff 8 { r := true, w := true } 8 2 go

/-- FORK at the bank of its join word (R234): the word counts one more before the push, an atomic that a denied sector leaves as it
was (R142, R151); a deque that is full or absent leaves both as they were. -/
def State.forkAtBank (s : State) (a : Acc) (e : BitVec 768) (due : Nat) : State :=
  let s0 := s.performed a
  let k := s.hw.core a.core
  let push (s : State) : State := (s.deqPush a.core e a.otag).reply a due (.data 0 [])
  if s.hw.now < k.deque.next then s.onHw (fun h => h.schedule k.deque.next .remoteAccessAtBank h.arg)
  else if k.deqCap = 0 then s0.reply a due (.data 2 [])
  else if k.deqCap ≤ k.deque.owner - k.deque.thief then s0.reply a due (.data 1 [])
  else
    match a.pieces with
    | [] => push s0
    | p :: _ =>
      match s.bankGrant a p with
      | none => s.tagBack a due (effTag s.mem p)
      | some false => push (s0.auditAll a (s.hw.uidOf a.core a.txn) [(Acc.sectorAddr a p, effTag s.mem p)])
      | some true =>
        if s.mem.isPoison a.addr then s0.reply a due (.fail .poisoned 0 a.addr)
        else push (s0.writeKeep a.addr (bytesLE 8 (s.mem.val a.addr 8 + 1)))

/-! ### JOIN, DEPNEW, DEPPUB, SIGNAL (R235, R239) -/

/-- A memory form of page 4: its operand lies in a scratch segment (R232). -/
def State.cellForm (s : State) (c : Cur) (sw : Bool) (m : MemOp) (srcs : List Nat) (op : AccOp) (relaxed : Bool)
    (check size align : Nat) (need : Need) : State :=
  s.reads c (m.idx.toNat :: srcs) <| s.mayAccess c relaxed (accCls op) <|
    s.scratchCheck c m.sg.toNat (s.hw.memOffset c m) check need align 2 fun a =>
      s.access c sw (s.hw.mkAcc c op relaxed false a size m.sg.toNat (s.hw.memOffset c m).toNat)

/-- JOIN. -/
def execJoin (sw : Bool) (a : GReg) (m : MemOp) (s : State) : Res :=
  s.withCur fun c => s.unbooked c <| s.cellForm c sw m [] (.join a.toNat) false 8 8 8 { r := true }

/-- DEPNEW: the cell, and the record behind it. -/
def execDepnew (sw : Bool) (a : GReg) (m : MemOp) (s : State) : Res :=
  s.withCur fun c => s.unbooked c <| s.unpaired c <| s.cellForm c sw m [] (.depnew a.toNat) false 160 8 32 { r := true, w := true }

/-- DEPPUB. -/
def execDeppub (sw : Bool) (a : GReg) (m : MemOp) (s : State) : Res :=
  s.withCur fun c => s.unbooked c <| s.reads c [m.idx.toNat, a.toNat] <|
    s.scratchCheck c m.sg.toNat (s.hw.memOffset c m) 8 { r := true, w := true } 32 2 fun _ =>
      if bits (s.hw.cg c a).toNat 63 32 ≠ 0 then s.faultWith c .reservedValue 12 0
      else s.cellForm c sw m [a.toNat] (.deppub a.toNat (s.hw.cg c a).toNat) false 8 8 32 { r := true, w := true }

/-- SIGNAL, plain or relaxed. -/
def execSignal (sw : Bool) (rx : Bool) (a : GReg) (m : MemOp) (s : State) : Res :=
  s.withCur fun c => s.unbooked c <| s.cellForm c sw m [] (.signal a.toNat) rx 8 8 32 { r := true, w := true }

/-! ### ENQ (R238) -/

/-- ENQ. -/
def execEnq (sw : Bool) (l : EnqLevel) (a : GReg) (m : MemOp) (s : State) : Res :=
  s.withCur fun c => s.unbooked c <| s.unpaired c <| s.cellForm c sw m [] (.enq a.toNat l) false 128 128 128 { r := true }

/-- The record of an ENQ has been read (R221, R225, R238): it enters the hierarchy, or the status says why not. -/
def State.enqReply (s : State) (o : Outst) (l : EnqLevel) (v : Nat) : State :=
  let a := o.acc
  let r : BitVec 1024 := BitVec.ofNat 1024 v
  if recInvalid r ∨ !s.hw.pinHeld a.tenant r ∨ (recPaired r ∧ l ≠ .die) then s.answer a.core a.txn (.fail .reservedValue 12 a.addr)
  else
    let place := if recPin r then recPcore r else a.core
    let finish (s : State) (st : Nat) : State := s.answer a.core a.txn (.data st [])
    if s.hw.headroomShort (dieOf place) a.tenant then finish s 1
    else if recPaired r ∧ s.hw.clusterCount (moduleOf a.core) (some a.tenant) ≤ 1 then finish s 3
    else
      let t := s.hw.newTid (clusterOf a.core)
      let r1 := if a.svc then r else recIdentity r a.prin a.gset a.otag
      finish { s with hw := t.2.enterRecord a.core a.tenant l (recPut r1 8 0 64 t.1) } 0

/-! ### TASKID (R240) -/

/-- TASKID. -/
def execTaskid (sw : Bool) (k : TaskIdSel) (a : GReg) (s : State) : Res :=
  s.withCur fun c => s.onHw fun h =>
    let t := (h.curCtx c).task
    let v := match k with
      | .tid => t.tid
      | .info => t.origin + 4 * bit ((h.curCtx c).tsBit tsPAIRED) + 8 * (t.run % 2)
      | .join => t.joina
    (h.setG c.core c.slot a.toNat (BitVec.ofNat 64 v) 2).retire c sw 1

/-! ### Accesses whose chains end in other ways -/

/-- An access arrives at its bank and is performed there (R137 to R142, R182, R234); while the target's image is taken it is held
(R262). -/
def execRemoteAccessAtBank (s : State) : Res :=
  match s.hw.arg with
  | .acc a due =>
    .next <|
      let a1 := match s.hw.findOut a.core a.txn with | some o => { o.acc with group := a.group, gword := a.gword, pieces := a.pieces } | none => a
      match (a1.pieces.map (fun p => keyCore p.key)).find? (fun t => t != a1.core && (s.hw.core t).imaging) with
      | some t => s.onHw (fun h => h.holdIn t .remoteAccessAtBank s.hw.arg)
      | none =>
        match a1.op with
        | .fork _ e => s.forkAtBank a1 e due
        | _ => if AccOp.record a1.op then s.recordAt a1 due else s.perform a1 due
  | _ => .fault .noArgument

/-- A plain access of a booking through a page whose pin was dropped faults when its latency ends (R316); `early` leaves the access
under way. -/
def State.droppedReply (s : State) (o : Outst) (early : Bool) : State :=
  let a := o.acc
  let f := o.chain.fault .calendarViolation 7 0
  let s1 := s.onHw (fun h =>
    if h.alive a.core a.slot o.uid then (h.undoAwait a.core a.slot a.txn (accRegs a.op) o.wasFull).raise a.core a.slot f else h)
  if early then s1.onHw (fun h => h.modOut a.core a.txn (fun o => { o with acc := { o.acc with relaxed := true }, dropped := false }))
  else s1.accOver o

/-- The reply of a plain access (R143, R238, R258), and the lookups of a call or a return (R276, R277). -/
def execPlainAccessReply (s : State) : Res :=
  match s.hw.arg with
  | .accRes a r0 =>
    .next <|
      let (s, r) := s.arrived a.core a.txn r0
      match s.hw.findOut a.core a.txn with
      | none => s
      | some o =>
        if o.dropped then
          match r with
          | .fail .calendarViolation 7 _ => s.droppedReply o true
          | .data _ _ => s.droppedReply o false
          | _ => s.answer a.core a.txn r
        else if !s.hw.alive a.core a.slot o.uid then s.answer a.core a.txn r
        else
          match o.acc.op, r with
          | .enq _ l, .data v _ => s.enqReply o l v
          | .ckptHead, .data v _ => s.ckptReply o v
          | .ckptBody _, .data v _ => s.ckptReply o v
          | .bitmap _ _ _, .data v _ => s.bitmapReply o v
          | .frame, r => s.frameCame o r
          | .call d bs, .armed => s.callLookup o d bs
          | .retTo v, .armed => s.retLookup o v
          | op, .data v _ => if AccOp.record op then s.recordReply o v else s.answer a.core a.txn r
          | _, r => s.answer a.core a.txn r
  | _ => .fault .noArgument

/-! ### Release and retirement (R236, R237, R239) -/

/-- Eight cycles after the releasing write, the record of a cell enters the core queue of the cell's core, or of PCORE (R227, R239,
R415). -/
def execCellReleaseInsert (s : State) : Res :=
  match s.hw.arg with
  | .nats [cell] =>
    .next <|
      let core := keyCore cell
      let tenant := (s.hw.tenantOf core).getD 0
      let r0 : BitVec 1024 := BitVec.ofNat 1024 (s.mem.val (cell + 32) 128)
      let r := match SMap.find? s.hw.cells cell with
        | some b => recPut (if b.svc then r0 else recIdentity r0 b.prin b.gset b.otag) 8 0 64 b.tid
        | none => r0
      s.onHw fun h =>
        let h1 : Hw := { h with cells := SMap.erase h.cells cell }
        if recInvalid r ∨ recPaired r ∨ !h1.pinHeld tenant r then
          h1.post core (eventRecord (h1.count core) core 0 (Cause.code .reservedValue) 1 kindOrphan 0 cell)
        else h1.enterRecord core tenant .core r
  | _ => .fault .noArgument

/-- A retirement action has failed (R236). -/
def Hw.retireFails (h : Hw) (j : RetireJob) (addr : Nat) : Hw :=
  h.post j.core (eventRecord (h.count j.core) j.core j.slot (Cause.code .engineCommand) 1 kindOrphan 0 addr)

/-- The word of a retirement action can be reached. -/
def State.retireReach (s : State) (j : RetireJob) (addr align len : Nat) : Bool :=
  (s.hw.routeFails j.core j.tenant false (keyCore addr) 0).isNone && (scratchHole addr len).isNone && addr % align == 0 && !s.mem.isPoison addr

/-- The retirement actions of R236, one a step: the join word, then the cells in array order. -/
def State.retireStep (s : State) (j : RetireJob) : State :=
  let onward (s : State) (j : RetireJob) : State :=
    if j.joina = 0 ∧ j.succn = 0 then s
    else
      s.onHw (fun h => h.after (h.scratchLatency j.core (keyCore (if j.joina ≠ 0 then j.joina else j.slist))) .taskRetire (.retire j))
  if j.joina ≠ 0 then
    let s1 :=
      if s.retireReach j j.joina 1 8 then s.writeKeep j.joina (bytesLE 8 (s.mem.val j.joina 8 + 2 ^ 64 - 1))
      else s.onHw (fun h => h.retireFails j j.joina)
    onward s1 { j with joina := 0 }
  else if j.succn ≠ 0 then
    let s1 :=
      if !s.retireReach j j.slist 8 8 then s.onHw (fun h => h.retireFails j j.slist)
      else
        let cell := s.mem.val j.slist 8 % 2 ^ 41
        if s.retireReach j cell 32 32 then s.cellStep (.signal 0) cell else s.onHw (fun h => h.retireFails j cell)
    onward s1 { j with succn := j.succn - 1, slist := j.slist + 8 }
  else s

/-- A task retires (R236); of a paired one, the first half waits for the other (R237). -/
def execTaskRetire (s : State) : Res :=
  match s.hw.arg with
  | .retire j =>
    .next <|
      if !j.paired then s.retireStep j
      else if (s.hw.mod (moduleOf j.core)).halves.any (fun o => o.tid == j.tid && o.tenant == j.tenant && o.half != j.half && o.run == j.run) then
        s.onHw (fun h => h.schedule h.now .pairedCompare (.retire j))
      else s.onHw (fun h => h.modMod (moduleOf j.core) (fun m => { m with halves := m.halves ++ [j] }))
  | _ => .fault .noArgument

/-- The kind of the record of a mismatch of paired halves (R102, R237). -/
def kindPaired : Nat := 0x0005

/-- The halves of a paired task are compared at the core of the later one (R237); the record of a mismatch has FLAGS 0 (log 116). -/
def execPairedCompare (s : State) : Res :=
  match s.hw.arg with
  | .retire j =>
    .next <|
      match (s.hw.mod (moduleOf j.core)).halves.find? (fun o => o.tid == j.tid && o.tenant == j.tenant && o.half != j.half && o.run == j.run) with
      | none => s
      | some o =>
        s.onHw fun h =>
          let h1 := h.modMod (moduleOf j.core) (fun m => { m with halves := m.halves.erase o })
          if o.sig = j.sig then h1.schedule h1.now .taskRetire (.retire { j with paired := false })
          else
            let g (i : Nat) : Nat := if j.half = i then j.sig.toNat else o.sig.toNat
            let h2 := h1.post j.core (eventRecord (h1.count j.core) j.core j.slot (if j.run = 0 then 1 else 2) 0 kindPaired (g 0) (g 1))
            if j.run = 0 then h2.enterRecord j.core j.tenant .die (recPut j.trec 15 0 2 1) else h2
  | _ => .fault .noArgument

end Sys2Proof.Machine
end

