-- ==== Sys2Proof/Machine/Package.lean ====
section
/-! DEFINITION. What BRS does with code and packages (14_package): the search for a digest (R290 to R294), the loading and unloading
of graph packages (R295 to R303), graph launches (R301). BRS acts in its own time, as an input (notes/assumptions/12.md). -/

namespace Sys2Proof.Machine

/-- A tenant of a module. -/
def Module.tenant (m : Module) (t : Nat) : Tenant := SMap.get Tenant.none m.tenants t

/-- Changes a tenant. -/
def Hw.modTenant (h : Hw) (module t : Nat) (f : Tenant → Tenant) : Hw :=
  h.modMod module (fun m => { m with tenants := SMap.set m.tenants t (f (m.tenant t)) })

/-! ### The search for a digest (R290 to R294) -/

/-- Inserts a package in the order of loads. -/
def insPack (p : Package) : List Package → List Package
  | [] => [p]
  | q :: r => if p.order < q.order then p :: q :: r else q :: insPack p r

/-- The packages whose containers and forms serve a miss, in load order (R290, R302). -/
def Tenant.sources (t : Tenant) : List Package :=
  ((t.packs.map (fun (e : Nat × Package) => e.2)).filter (fun p => p.st != .loading)).foldr insPack []

/-- The kernel of a digest in a package, with its number. -/
def Package.kernel (p : Package) (d : BitVec 256) : Option (Nat × PkgKernel) :=
  ((List.range p.kernels.length).zip p.kernels).find? (fun (e : Nat × PkgKernel) => e.2.digest == d)

/-- The BASEs that a package's relocations give a kernel (R296). -/
def Package.moves (p : Package) (k : Nat) : List (Nat × Nat) :=
  (p.relocs.filter (fun (r : Nat × Nat × Nat) => r.1 == k)).map (fun r => (r.2.1, ((p.plan[r.2.2]?).map (fun e => e.addr)).getD 0))

/-- The portable form of a digest in a tenant's packages: the first that holds one (R290 step 4). -/
def Tenant.formOf (t : Tenant) (d : BitVec 256) : Option (List Byte) :=
  t.sources.findSome? (fun p => (p.kernel d).bind (fun e => e.2.portable))

/-- The relocations of the first package that holds a digest (notes/assumptions/110.md). -/
def Tenant.movesOf (t : Tenant) (d : BitVec 256) : List (Nat × Nat) :=
  (t.sources.findSome? (fun p => (p.kernel d).map (fun e => p.moves e.1))).getD []

/-- The segment declarations of a digest (R76, R282): those of the first portable form of it among bytes. -/
def declsIn (d : BitVec 256) (forms : List (List Byte)) : List (Nat × Seg) :=
  ((forms.findSome? (portableOf d)).map PForm.segs).getD []

/-- The containers of a digest in a tenant's packages, in load order, with the relocations of each package (R290 step 1). -/
def Tenant.containersOf (t : Tenant) (d : BitVec 256) : List (List (Nat × Nat) × List Byte) :=
  t.sources.flatMap (fun p => match p.kernel d with | some k => k.2.conts.map (fun b => (p.moves k.1, b)) | .none => [])

/-- The search that waits for a load. -/
def Hw.searchOf (h : Hw) (clu e load step : Nat) : Option Search :=
  (h.mod (clu / 512)).searches.find? (fun q => q.clu == clu && q.entry == e && q.load == load && q.step == step)

/-- Replaces a search. -/
def Hw.setSearch (h : Hw) (q r : Search) : Hw :=
  h.modMod (q.clu / 512) (fun m => { m with searches := m.searches.map (fun x => if x = q then r else x) })

/-- Ends a search. -/
def Hw.endSearch (h : Hw) (q : Search) : Hw := h.modMod (q.clu / 512) (fun m => { m with searches := m.searches.erase q })

/-- An image is on its way at 32 bytes a cycle, and is installed 8 cycles after its last byte (R271, R290). -/
def Hw.deliverImage (h : Hw) (q : Search) (img : DEntry) : Hw :=
  let h1 := h.endSearch q
  let d := h1.entry q.clu q.entry
  if d.st = .loading ∧ d.load = q.load then
    h1.sendImage q.clu q.entry img 3 h1.now q.core q.slot
  else h1

/-- KIND of a rejection (R102, R293). -/
def kindRejected : Nat := 0x0008

/-- A container is offered (R291 to R293), with the relocations of its package: it is delivered, or rejected with an event. Its kernel's
segment declarations are those of the portable form that the packages or the store hold. -/
def Hw.offer (h : Hw) (q : Search) (moves : List (Nat × Nat)) (b : List Byte) : Bool × Hw :=
  let m := h.mod (q.clu / 512)
  let segs := segsWith (declsIn q.digest (q.form.toList ++ (m.tenant q.tenant).store)) moves
  let c := parseContainer b
  let key : BitVec 512 := BitVec.ofNat 512 (valLE (sha512 c.signed))
  match c.cause q.digest (m.tenant q.tenant).anchors (m.cache.contains key) with
  | 0 =>
    (true, (h.modMod (q.clu / 512) (fun m => { m with cache := (key :: m.cache.erase key).take 4096 })).deliverImage q (c.image segs))
  | n => (false, h.post q.core (eventRecord (h.count q.core) q.core q.slot n 0 kindRejected (q.digest.toNat % 2 ^ 64) c.xid))

/-- Containers are offered in order, up to the first that is accepted. -/
def Hw.offerAll (h : Hw) (q : Search) : List (List (Nat × Nat) × List Byte) → Bool × Hw
  | [] => (false, h)
  | b :: r =>
    match h.offer q b.1 b.2 with
    | (true, h1) => (true, h1)
    | (false, h1) => h1.offerAll q r

/-- Bytes are a container of a digest for this module's model (R290). -/
def containerFor (d : BitVec 256) (b : List Byte) : Bool :=
  let c := parseContainer b
  c.model == modelB2 && c.digest == d

/-- A step of the search has found nothing: the next begins (R290). -/
def Hw.nextStep (h : Hw) (q : Search) : Hw :=
  let peers := ((h.mod (q.clu / 512)).tenant q.tenant).peers
  if q.step = 1 then h.setSearch q { q with step := 2 }
  else if q.step = 2 ∧ peers ≠ [] then h.setSearch q { q with step := 3, peers := peers }
  else if q.step = 3 ∧ 1 < q.peers.length then h.setSearch q { q with peers := q.peers.drop 1 }
  else h.setSearch q { q with step := 4, peers := [] }

/-- BRS begins a search (R290 step 1): the containers of the tenant's packages, in load order. The search keeps a copy of the portable
form that they hold (R303). -/
def execBrsCodeSearch (s : State) : Res :=
  match s.hw.arg with
  | .nats [clu, e, load] =>
    .next <| s.onHw fun h =>
      match h.searchOf clu e load 1 with
      | none => h
      | some q0 =>
        let t := (h.mod (clu / 512)).tenant q0.tenant
        let q := { q0 with form := t.formOf q0.digest, moves := t.movesOf q0.digest }
        match (h.setSearch q0 q).offerAll q ((t.containersOf q.digest).filter (fun c => containerFor q.digest c.2)) with
        | (true, h1) => h1
        | (false, h1) => h1.nextStep q
  | _ => .fault .noArgument

/-- A peer answers with a container or none (R290 step 3). -/
def execPeerContainerReply (s : State) : Res :=
  let go (clu e load : Nat) (b : Option (List Byte)) : State := s.onHw fun h =>
    match h.searchOf clu e load 3 with
    | none => h
    | some q =>
      match h.offerAll q (b.toList.map (fun c => (q.moves, c))) with
      | (true, h1) => h1
      | (false, h1) => h1.nextStep q
  match s.hw.arg with
  | .nats [clu, e, load] => .next (go clu e load none)
  | .blob [clu, e, load] b => .next (go clu e load (some b))
  | _ => .fault .noArgument

/-- The resident translator works on the portable form of a package, of the NVMe store or of a peer (R287, R290 step 4); without one no
source holds the digest (R294). -/
def execResidentTranslation (s : State) : Res :=
  let go (clu e load : Nat) (peer : List (List Byte)) : State := s.onHw fun h =>
    match h.searchOf clu e load 4 with
    | none => h
    | some q =>
      let forms := q.form.toList ++ ((h.mod (clu / 512)).tenant q.tenant).store ++ peer
      match (forms.findSome? (portableOf q.digest)).bind (fun f => translateForm f (segsWith f.segs q.moves)) with
      | some img => h.deliverImage q img
      | none => (h.endSearch q).schedule h.now .codeNoSource (.nats [clu, e, load])
  match s.hw.arg with
  | .nats [clu, e, load] => .next (go clu e load [])
  | .blob [clu, e, load] b => .next (go clu e load [b])
  | _ => .fault .noArgument

/-- An NVMe read completes (R477): the search of a tenant's store goes on (R290 step 2), or the bytes stand in K frames from a physical
address. -/
def execNvmeReadComplete (s : State) : Res :=
  match s.hw.arg with
  | .nats [clu, e, load] =>
    .next <| s.onHw fun h =>
      match h.searchOf clu e load 2 with
      | none => h
      | some q =>
        match h.offerAll q ((((h.mod (clu / 512)).tenant q.tenant).store.filter (containerFor q.digest)).map (fun c => (q.moves, c))) with
        | (true, h1) => h1
        | (false, h1) => h1.nextStep q
  | .blob [pa] b =>
    .next <|
      let last := pa + b.length - 1
      if (List.range (last / 65536 - pa / 65536 + 1)).all (fun i => (s.hw.mod (moduleOf (pa / 2 ^ 28))).kmap.contains (pa / 65536 + i))
      then s.bankWrite (dramKeyOf pa) b (some 0) else s
  | _ => .fault .noArgument

/-! ### The parts of a package (R295, R296) -/

/-- A section's COUNT and OFFSET; an absent one holds nothing. -/
def pkgSection (b : List Byte) (kind : Nat) : Nat × Nat :=
  match ((List.range (bits (bval b 0 8) 63 48)).map (fun i => 64 + 16 * i)).find? (fun o => bits (bval b o 8) 7 0 == kind) with
  | some o => (bits (bval b o 8) 39 8, bits (bval b (o + 8) 8) 31 0)
  | none => (0, 0)

/-- Bytes of an entry of each section (R296). -/
def pkgEntry : Nat → Nat
  | 1 => 64 | 2 => 128 | 3 => 8 | 4 => 32 | 5 => 16 | 6 => 8 | _ => 0

/-- The offsets of a section's entries. -/
def pkgEntries (b : List Byte) (kind : Nat) : List Nat :=
  let s := pkgSection b kind
  (List.range s.1).map (fun i => s.2 + pkgEntry kind * i)

/-- The places of a kernel entry's containers that its list names, within the package (R296): each an offset and a length. -/
def pkgContainers (b : List Byte) (o : Nat) : List (Nat × Nat) :=
  (List.range (min (bval b (o + 48) 8) (b.length / 16))).map (fun i =>
    let p := bval b (o + 56) 8 + 16 * i
    (bval b p 8, bval b (p + 8) 8))

/-- Bytes of a package between an offset and its length. -/
def slice (b : List Byte) (off len : Nat) : List Byte := (b.drop off).take len

/-- The kernels of a package. -/
def pkgKernels (b : List Byte) : List PkgKernel :=
  (pkgEntries b 1).map (fun o =>
    let len := bval b (o + 40) 8
    { digest := BitVec.ofNat 256 (bval b o 32),
      portable := if len = 0 then none else some (slice b (bval b (o + 32) 8) len),
      conts := (pkgContainers b o).map (fun c => slice b c.1 c.2) })

/-- The nodes of a package. -/
def pkgNodes (b : List Byte) : List (BitVec 1024) := (pkgEntries b 2).map (fun o => BitVec.ofNat 1024 (bval b o 128))

/-- A kernel entry's portable form, its list of containers, and each of those lie within the package (R298 check 1). -/
def pkgKernelFits (b : List Byte) (o : Nat) : Bool :=
  decide (bval b (o + 32) 8 + bval b (o + 40) 8 ≤ b.length) && decide (bval b (o + 56) 8 + 16 * bval b (o + 48) 8 ≤ b.length) &&
    (pkgContainers b o).all (fun c => decide (c.1 + c.2 ≤ b.length))

/-- The pipe that an edge names, none for 0xFFFF (R296). -/
def pkgEdgePipe (b : List Byte) (o : Nat) : Option Nat := if bval b (o + 4) 2 = 0xFFFF then none else some (bval b (o + 4) 2)

/-- The edges of a package. -/
def pkgEdges (b : List Byte) : List Edge := (pkgEntries b 3).map (fun o => ⟨bval b o 2, bval b (o + 2) 2, pkgEdgePipe b o⟩)

/-- The plan of a package, not yet placed. -/
def pkgPlan (b : List Byte) : List PlanEntry :=
  (pkgEntries b 4).map (fun o => ⟨BitVec.ofNat 128 (bval b o 16), bits (bval b (o + 16) 8) 39 0, bits (bval b (o + 24) 8) 5 0, bitAt (bval b (o + 24) 8) 6, 0⟩)

/-- The pipes of a package. -/
def pkgPipes (b : List Byte) : List PipeDecl :=
  (pkgEntries b 5).map (fun o => ⟨bval b o 2, bval b (o + 2) 2, bval b (o + 4) 2, bval b (o + 6) 2, bval b (o + 8) 2⟩)

/-- The relocations of a package. -/
def pkgRelocs (b : List Byte) : List (Nat × Nat × Nat) :=
  (pkgEntries b 6).map (fun o => (bits (bval b o 8) 15 0, bits (bval b o 8) 18 16, bits (bval b o 8) 47 32))

/-! ### The checks of R298 -/

/-- The header and the descriptors are well formed (R295). -/
def pkgHeaderOk (b : List Byte) : Bool :=
  let q0 := bval b 0 8
  let n := bits q0 63 48
  let ds := (List.range n).map (fun i => 64 + 16 * i)
  let kinds := ds.map (fun o => bits (bval b o 8) 7 0)
  bits q0 31 0 == 0x4B505956 && bits q0 47 32 == 1 && decide (1 ≤ n) && decide (n ≤ 6) && bval b 40 24 == 0 &&
    kinds.all (fun k => decide (1 ≤ k) && decide (k ≤ 6)) && decide (kinds.Nodup) &&
    ds.all (fun o =>
      let q := bval b o 8
      let off := bits (bval b (o + 8) 8) 31 0
      let len := bits (bval b (o + 8) 8) 63 32
      bits q 63 40 == 0 && off % 32 == 0 && len % 32 == 0 && decide (off + len ≤ b.length) && decide (bits q 39 8 * pkgEntry (bits q 7 0) ≤ len))

/-- A kernel's entry holds a valid portable form of its digest, or, without one, a container of it (R298 check 1). -/
def PkgKernel.ok (k : PkgKernel) : Bool :=
  match k.portable with
  | some f => (portableOf k.digest f).isSome
  | none => k.conts.any (fun c => (parseContainer c).digest == k.digest)

/-- Check 1 of R298. -/
def pkgWellFormed (b : List Byte) : Bool :=
  pkgHeaderOk b && (pkgEntries b 1).all (pkgKernelFits b) && (pkgKernels b).all PkgKernel.ok &&
    (pkgNodes b).all (fun r => !recInvalid r && recTid r == 0 && recSuccn r == 0 && recSlist r == 0) &&
    (pkgEntries b 3).all (fun o => bval b (o + 6) 2 == 0) &&
    (pkgEdges b).all (fun e => match e.pipe with | some p => decide (p < (pkgPipes b).length) | none => true) &&
    (List.range (pkgNodes b).length).all (fun i => decide (((pkgEdges b).filter (fun e => e.src == i)).length ≤ 15)) &&
    (pkgEntries b 4).all (fun o => bits (bval b (o + 24) 8) 63 7 == 0) &&
    (pkgPipes b).all (fun p => decide (p.plan < (pkgPlan b).length)) &&
    (pkgRelocs b).all (fun r => decide (r.1 < (pkgKernels b).length) && decide (r.2.2 < (pkgPlan b).length))

/-- Check 2 of R298. -/
def Tenant.nameFree (t : Tenant) (n : Nat) (name : BitVec 256) : Bool :=
  let others := t.packs.filter (fun (e : Nat × Package) => e.1 != n)
  !others.any (fun e => e.2.st != .loading && e.2.name == name) && decide ((others.filter (fun e => e.2.st != .loading)).length < 64)

/-- Check 3 of R298: every import of a portable form is held by this package or another loaded one. -/
def Tenant.importsHeld (t : Tenant) (b : List Byte) : Bool :=
  let ks := pkgKernels b
  let held (d : BitVec 256) : Bool :=
    ks.any (fun k => k.digest == d) || t.packs.any (fun (e : Nat × Package) => e.2.st == .loaded && e.2.kernels.any (fun k => k.digest == d))
  ks.all (fun k => match k.portable.bind parsePortable with | .some f => f.imports.all held | .none => true)

/-- Nodes left after those without an incoming edge are removed, again and again. -/
def peel (edges : List Edge) : Nat → List Nat → List Nat
  | 0, l => l
  | n + 1, l => peel edges n (l.filter (fun i => edges.any (fun e => e.dst == i && l.contains e.src)))

/-- Check 4 of R298. -/
def pkgAcyclic (b : List Byte) : Bool :=
  let n := (pkgNodes b).length
  (pkgEdges b).all (fun e => decide (e.src < n) && decide (e.dst < n)) && peel (pkgEdges b) n (List.range n) == []

/-- A pipe is balanced (R299). -/
def PipeDecl.balanced (p : PipeDecl) (plan : List PlanEntry) : Bool :=
  p.wrate == p.rrate && p.width % 32 == 0 && decide (32 ≤ p.width) && decide (p.width ≤ 1024) && decide (p.wrate + p.rrate ≤ p.depth) &&
    decide (p.depth ≤ 64) && decide (p.width * p.depth ≤ 65536) &&
    (match plan[p.plan]? with | some e => !e.virt && decide (p.width * p.depth ≤ e.size) | none => false)

/-! ### Placing (R300) -/

/-- The lowest place of `size` bytes at a multiple of `align` below a limit that meets none of the used ranges. -/
def firstFit (used : List (Nat × Nat)) (align size limit : Nat) : Option Nat :=
  let up (n : Nat) : Nat := (n + align - 1) / align * align
  let free (a : Nat) : Bool := decide (a + size ≤ limit) && used.all (fun u => decide (a + size ≤ u.1) || decide (u.1 + u.2 ≤ a))
  ((0 :: used.map (fun u => up (u.1 + u.2))).filter free).foldl (fun (m : Option Nat) a =>
    match m with | none => some a | some b => some (min a b)) none

/-- The offsets that BRS leaves to tasks end here (R300). -/
def Core.taskLimit (k : Core) : Nat :=
  min 0x5C000 (min (if k.deqCap = 0 then 0x5C000 else k.deqb) (if k.ovfb < k.ovfl then k.ovfb else 0x5C000))

/-- The tenant's enabled cores in a module, in ascending order. -/
def Hw.tenantCores (h : Hw) (module t : Nat) : List Nat :=
  ((h.clusters.filter (fun (c : Nat × Cluster) => c.1 / 512 == module && c.2.owner == some t)).flatMap (fun c =>
    (List.range 16).map (fun i => 16 * c.1 + i))).filter (fun c => !h.coreDisabled c)

/-- A TID names a task that is neither Retired nor Failed (R242). -/
def Hw.tidAlive (h : Hw) (tid : Nat) : Bool :=
  let q (l : List QEntry) : Bool := l.any (fun e => recTid e.rec_ == tid)
  h.cells.any (fun (e : Nat × CellBind) => e.2.tid == tid) ||
    h.dies.any (fun (d : Nat × Die) => d.2.queues.any (fun (e : Nat × DieQueue) => q e.2.entries || q e.2.held)) ||
    h.clusters.any (fun (c : Nat × Cluster) => q c.2.queue) ||
    h.cores.any (fun (c : Nat × Core) =>
      q c.2.queue || c.2.slots.any (fun (x : Nat × Ctx) => x.2.st != .free && x.2.task.isTask && x.2.task.tid == tid) ||
        c.2.retiring.any (fun r => r.job.tid == tid)) ||
    h.mods.any (fun (m : Nat × Module) => m.2.halves.any (fun j => j.tid == tid)) ||
    h.agenda.any (fun d =>
      match d.arg with
      | .recs _ es => es.any (fun e => recTid e.1 == tid)
      | .retire j => j.tid == tid
      | _ => false)

/-- The scratch ranges of a tenant's packages: placed plan entries, and the cells of launches that are not over. -/
def Hw.scratchUsed (h : Hw) (module t : Nat) : List (Nat × Nat) :=
  ((h.mod module).tenant t).packs.flatMap (fun (e : Nat × Package) =>
    (if e.2.st = .loading then [] else (e.2.plan.filter (fun p => !p.virt)).map (fun p => (p.addr, p.size))) ++
      (e.2.launches.filter (fun l => l.1.any h.tidAlive)).flatMap (fun l => l.2))

/-- The virtual ranges of a tenant's packages. -/
def Hw.virtUsed (h : Hw) (module t : Nat) : List (Nat × Nat) :=
  ((h.mod module).tenant t).packs.flatMap (fun (e : Nat × Package) =>
    if e.2.st = .loading then [] else (e.2.plan.filter (fun p => p.virt)).map (fun p => (p.addr, p.size)))

/-- First fit of a range in a tenant's cores, in ascending core number (R300): its scratch address. -/
def Hw.placeScratch (h : Hw) (cores : List Nat) (used : List (Nat × Nat)) (align size : Nat) : Option Nat :=
  cores.findSome? (fun c =>
    let base := scratchKey c 0
    let mine := (used.filter (fun u => u.1 / 2 ^ 20 == c)).map (fun u => (u.1 - base, u.2))
    (firstFit mine align size (h.core c).taskLimit).map (fun o => base + o))

/-- Places the entries of a plan in order (R300): those placed, and the ranges used so far. -/
def Hw.placePlan (h : Hw) (cores : List Nat) : List PlanEntry → List (Nat × Nat) → List (Nat × Nat) → Option (List PlanEntry)
  | [], _, _ => some []
  | e :: r, sc, vi =>
    let place := if e.virt then firstFit vi (2 ^ e.align) e.size (2 ^ 72) else h.placeScratch cores sc (2 ^ e.align) e.size
    match place with
    | none => none
    | some a =>
      let u : Nat × Nat := (a, e.size)
      (h.placePlan cores r (if e.virt then sc else sc ++ [u]) (if e.virt then vi ++ [u] else vi)).map (fun l => { e with addr := a } :: l)

/-- Zero-fills a run of keys with tag 0 in every sector (R300). -/
def State.zeroFill (s : State) (key len : Nat) : State :=
  let lo := up32 key
  let hi := (key + len) / 32 * 32
  if lo < hi then
    let s1 := (s.onMem (fun m => m.clear lo hi)).onHw (fun h => h.wakeRange lo (hi - lo))
    (s1.bankWrite key (bytesLE (lo - key) 0) (some 0)).bankWrite hi (bytesLE (key + len - hi) 0) (some 0)
  else s.bankWrite key (bytesLE len 0) (some 0)

/-- The physical runs of a virtual range of a tenant, a page of 4 KiB at a time; none where a page is not resident (R167, R170). -/
def State.virtRuns (s : State) (core tenant : Nat) : Nat → Nat → Nat → Option (List (Nat × Nat))
  | 0, _, _ => some []
  | fuel + 1, va, len =>
    if len = 0 then some []
    else
      let n := min len (4096 - va % 4096)
      match (s.walk core tenant va).leaf with
      | none => none
      | some (q0, _) => (s.virtRuns core tenant fuel (va + n) (len - n)).map (fun l => (dramKeyOf (leafPa q0 va), n) :: l)

/-- The runs of memory that a plan entry covers. -/
def State.planRuns (s : State) (core tenant : Nat) (e : PlanEntry) : Option (List (Nat × Nat)) :=
  if e.virt then s.virtRuns core tenant (e.size / 4096 + 2) e.addr e.size else some [(e.addr, e.size)]

/-- Zero-fills the entries of a placed plan; none where one is not mapped. -/
def State.zeroPlan (s : State) (core tenant : Nat) (plan : List PlanEntry) : Option State :=
  plan.foldl (fun (o : Option State) e => o.bind (fun s =>
    (s.planRuns core tenant e).map (fun l => l.foldl (fun s r => s.zeroFill r.1 r.2) s))) (some s)

/-- Clears the pages of a placed plan's entries that are resident, a page at a time (R303 step 3). -/
def State.clearPlan (s : State) (core tenant : Nat) (plan : List PlanEntry) : State :=
  let runs (e : PlanEntry) : List (Nat × Nat) :=
    if e.virt then
      (List.range (e.size / 4096 + 2)).flatMap (fun i =>
        let lo := max e.addr ((e.addr / 4096 + i) * 4096)
        let hi := min (e.addr + e.size) ((e.addr / 4096 + i + 1) * 4096)
        (s.virtRuns core tenant 1 lo (hi - lo)).getD [])
    else [(e.addr, e.size)]
  (plan.flatMap runs).foldl (fun s r => s.zeroFill r.1 r.2) s

/-! ### Loading and unloading (R298, R302, R303) -/

/-- PKGM is extended, and the load log written (R483, R484): `op` is 1 for a load, 2 for an unload. -/
def Hw.extendPkgm (h : Hw) (module op tenant : Nat) (ident : BitVec 256) : Hw :=
  h.modMod module (fun m =>
    let b := m.boot
    let v := valLE (sha512 (bytesLE 64 b.pkgm.toNat ++ bytesLE 1 op ++ bytesLE 1 tenant ++ bytesLE 32 ident.toNat))
    { m with boot := { b with pkgm := BitVec.ofNat 512 v, npkg := b.npkg + 1, log := b.log ++ [(op, tenant, ident)] } })

/-- BRS sends a message on a session (R476). -/
def Hw.tell (h : Hw) (session : Nat) (b : List Byte) : Hw := h.modMod h.self (fun m => { m with sent := m.sent ++ [(session, b)] })

/-- The tenant of a session that BRS still serves (R475, R476). -/
def Hw.sessionTenant (h : Hw) (session : Nat) : Option Nat :=
  match SMap.find? (h.mod h.self).sessions session with
  | none => none
  | some t => if ((h.mod h.self).tenant t).deleting then none else some t

/-- The lowest number that no package has. -/
def Tenant.freePack (t : Tenant) : Nat :=
  ((List.range (t.packs.length + 1)).find? (fun n => (SMap.find? t.packs n).isNone)).getD 0

/-- The code of the first check of R298 that a package fails, 0 for none, but for the placing. -/
def Tenant.loadCode (t : Tenant) (n : Nat) (b : List Byte) : Nat :=
  if !pkgWellFormed b then 1
  else if !t.nameFree n (BitVec.ofNat 256 (bval b 8 32)) then 2
  else if !t.importsHeld b then 3
  else if !pkgAcyclic b then 4
  else if !(pkgPipes b).all (fun p => p.balanced (pkgPlan b)) then 5
  else 0

/-- A package is loaded: what it holds, and its placed plan. -/
def Package.loaded (p : Package) (plan : List PlanEntry) : Package :=
  let b := p.bytes
  { p with name := BitVec.ofNat 256 (bval b 8 32), ident := digestBytes b, st := .loaded, bytes := [], kernels := pkgKernels b,
           nodes := pkgNodes b, edges := pkgEdges b, plan := plan, pipes := pkgPipes b, relocs := pkgRelocs b }

/-- A load ends (R298): the code, 0 where the package is Loaded; `leaves` are the page-table entries that BRS has written for the
plan's pages. -/
def State.finishLoad (s : State) (t n : Nat) (leaves : List Nat) : Nat × State :=
  let m := s.hw.self
  let ten := (s.hw.mod m).tenant t
  match SMap.find? ten.packs n with
  | none => (1, s)
  | some p =>
    let code := ten.loadCode n p.bytes
    let refuse (c : Nat) (s : State) : Nat × State := (c, s.onHw (fun h => h.modTenant m t (fun x => { x with packs := SMap.erase x.packs n })))
    if code ≠ 0 then refuse code s
    else
      let cores := s.hw.tenantCores m t
      match s.hw.placePlan cores (pkgPlan p.bytes) (s.hw.scratchUsed m t) (s.hw.virtUsed m t) with
      | none => refuse 6 s
      | some plan =>
        match (s.writeLeaves (some t) leaves).zeroPlan (cores.headD 0) t plan with
        | none => refuse 6 s
        | some s1 =>
          (0, s1.onHw fun h =>
            let order := h.nextTxn
            let h1 : Hw := { h with nextTxn := order + 1 }
            let q := { (p.loaded plan) with order := order }
            (h1.modTenant m t (fun x => { x with packs := SMap.set x.packs n q })).extendPkgm m 1 t q.ident)

/-- A load request (R298, R302): the package is Loading under a number; then BRS ends the load, and answers with the code and the
number (notes/assumptions/17.md). -/
def execPackageLoadRequest (s : State) : Res :=
  match s.hw.arg with
  | .blob [session] b =>
    .next <| s.onHw fun h =>
      match h.sessionTenant session with
      | none => h
      | some t =>
        let n := ((h.mod h.self).tenant t).freePack
        h.modTenant h.self t (fun x => { x with packs := SMap.set x.packs n ⟨0, 0, .loading, 0, b, [], [], [], [], [], [], []⟩ })
  | .nats (session :: n :: leaves) =>
    .next <|
      match s.hw.sessionTenant session with
      | none => s
      | some t =>
        match (SMap.find? ((s.hw.mod s.hw.self).tenant t).packs n).map (fun p => p.st) with
        | some PkgState.loading =>
          let r := s.finishLoad t n leaves
          r.2.onHw (fun h => h.tell session (bytesLE 1 r.1 ++ bytesLE 2 n))
        | _ => s
  | _ => .fault .noArgument

/-- An unload request (R302, R303); a launch that BRS takes in the same cycle is decided first (R475). -/
def execPackageUnloadRequest (s : State) : Res :=
  match s.hw.arg with
  | .nats [session, n] =>
    .next <| s.onHw fun h =>
      if h.inputs.any (fun d => decide (d.at_ ≤ h.now) && d.instr == .launchRequest) then
        { h with inputs := h.inputs ++ [⟨h.now, .packageUnloadRequest, .nats [session, n]⟩] }
      else
        match h.sessionTenant session with
        | none => h
        | some t =>
          match SMap.find? ((h.mod h.self).tenant t).packs n with
          | some p =>
            if p.st = .loaded then h.modTenant h.self t (fun x => { x with packs := SMap.set x.packs n { p with st := .unloading } }) else h
          | none => h
  | _ => .fault .noArgument

/-- A launch of the package is still to be made or has a task that is neither Retired nor Failed (R303 step 1). -/
def Hw.packBusy (h : Hw) (t n : Nat) (p : Package) : Bool :=
  p.launches.any (fun l => l.1.any h.tidAlive) ||
    h.agenda.any (fun d => d.instr == .graphLaunch && (match d.arg with | .nats (_ :: u :: m :: _) => u == t && m == n | _ => false))

/-- Steps 2 to 4 of R303. -/
def State.finishUnload (s : State) (t n : Nat) (p : Package) : State :=
  let m := s.hw.self
  let others := ((s.hw.mod m).tenant t).packs.filter (fun (e : Nat × Package) => e.1 != n && e.2.st == .loaded)
  let gone := (p.kernels.map (fun k => k.digest)).filter (fun d => !others.any (fun e => e.2.kernels.any (fun k => k.digest == d)))
  let hits (h : Hw) : List (Nat × Nat) :=
    (h.clusters.filter (fun (c : Nat × Cluster) => c.1 / 512 == m && c.2.owner == some t)).flatMap (fun c =>
      (c.2.dtab.filter (fun (e : Nat × DEntry) => gone.any (fun g => e.2.invalidated (some g)))).map (fun e => (c.1, e.1)))
  let s1 := s.onHw (fun h => (hits h).foldl (fun h x => h.invalidate x.1 x.2) h)
  let s2 := s1.clearPlan ((s.hw.tenantCores m t).headD 0) t p.plan
  s2.onHw (fun h => (h.modTenant m t (fun x => { x with packs := SMap.erase x.packs n })).extendPkgm m 2 t p.ident)

/-- BRS completes an unload once every task of every launch has ended (R303). -/
def execPackageUnloadComplete (s : State) : Res :=
  match s.hw.arg with
  | .nats [t, n] =>
    .next <|
      match SMap.find? ((s.hw.mod s.hw.self).tenant t).packs n with
      | some p => if p.st = .unloading ∧ !s.hw.packBusy t n p then s.finishUnload t n p else s
      | none => s
  | _ => .fault .noArgument

/-! ### Graph launches (R301) -/

/-- Places a cell, its record and its list of successors for each node (notes/assumptions/17.md): 160 bytes and 8 for each edge. -/
def Hw.placeCells (h : Hw) (cores : List Nat) : List Nat → List (Nat × Nat) → Option (List (Nat × Nat))
  | [], _ => some []
  | outs :: r, used =>
    let size := up32 (160 + 8 * outs)
    match h.placeScratch cores used 32 size with
    | none => none
    | some a => (h.placeCells cores r (used ++ [(a, size)])).map (fun l => (a, size) :: l)

/-- The identity that a launch gives the records of its tasks (R471): PRIN, GSET, OTAG, PRIO. -/
structure LaunchId where
  prin : Nat
  gset : Nat
  otag : Nat
  prio : Nat
deriving DecidableEq, Repr

/-- The record of a node, with its TID, its successors and the identity of the launch (R301, R471). -/
def nodeRecord (r : BitVec 1024) (i : LaunchId) (tid outs cell : Nat) : BitVec 1024 :=
  let r1 := recPut (recPut (recIdentity r i.prin i.gset i.otag) 9 11 2 i.prio) 8 0 64 tid
  if outs = 0 then r1 else recPut (recPut r1 10 41 4 outs) 10 0 41 (cell + 160)

/-- Builds one cell: unpublished, with its binding, its record and the cells of its outgoing edges. -/
def State.buildCell (s : State) (r : BitVec 1024) (i : LaunchId) (cell : Nat) (succ : List Nat) : Nat × State :=
  let t := s.hw.newTid (clusterOf (keyCore cell))
  let rec_ := nodeRecord r i t.1 succ.length cell
  let s1 : State := { s with hw := { t.2 with cells := SMap.set t.2.cells cell ⟨t.1, i.prin, i.gset, i.otag, true⟩ } }
  (t.1, s1.bankWrite cell (bytesLE 8 0 ++ bytesLE 8 1 ++ bytesLE 16 0 ++ bytesLE 128 rec_.toNat ++ succ.flatMap (bytesLE 8)) (some 0))

/-- A graph launch (R301): every cell is built, then each is published with its count of incoming edges; the TIDs, in node order. -/
def State.launchGraph (s : State) (p : Package) (i : LaunchId) (cells : List Nat) : List Nat × State :=
  let idx := List.range p.nodes.length
  let succ (k : Nat) : List Nat := (p.edges.filter (fun e => e.src == k)).map (fun e => cells.getD e.dst 0)
  let built := idx.foldl (fun (a : List Nat × State) k =>
    let b := a.2.buildCell (p.nodes.getD k 0) i (cells.getD k 0) (succ k)
    (a.1 ++ [b.1], b.2)) ([], s)
  (built.1, idx.foldl (fun s k => s.cellStep (.deppub 0 ((p.edges.filter (fun e => e.dst == k)).length)) (cells.getD k 0)) built.2)

/-- A launch's reply (R472): REQID, the TID, the status. -/
def launchReply (reqid tid status : Nat) : List Byte := bytesLE 8 reqid ++ bytesLE 8 tid ++ bytesLE 8 (status * 2 ^ 60)

/-- A graph launch that BRS has accepted (R301, R472); it waits for room for its cells. -/
def execGraphLaunch (s : State) : Res :=
  match s.hw.arg with
  | .nats [session, t, n, prin, gset, otag, prio, reqid] =>
    .next <|
      let m := s.hw.self
      match SMap.find? ((s.hw.mod m).tenant t).packs n with
      | none => s
      | some p =>
        let outs := (List.range p.nodes.length).map (fun k => (p.edges.filter (fun e => e.src == k)).length)
        match s.hw.placeCells (s.hw.tenantCores m t) outs (s.hw.scratchUsed m t) with
        | none => s.onHw (fun h => h.after 64 .graphLaunch h.arg)
        | some ranges =>
          let r := s.launchGraph p ⟨prin, gset, otag, prio⟩ (ranges.map (fun x => x.1))
          let root := ((List.range p.nodes.length).find? (fun k => !p.edges.any (fun e => e.dst == k))).getD 0
          r.2.onHw fun h =>
            (h.modTenant m t (fun x => { x with packs := SMap.set x.packs n { p with launches := p.launches ++ [(r.1, ranges)] } })).tell session
              (launchReply reqid (r.1.getD root 0) 0)
  | _ => .fault .noArgument

end Sys2Proof.Machine
end

