-- ==== Sys2Proof/Machine/Calendar.lean ====
section
/-! DEFINITION. The calendar (15_calendar): grains, fitting, staging, start, end, slack, overrun, and the calendar forms. -/

namespace Sys2Proof.Machine

/-! ### The descriptor (R306) -/

/-- Fields of quad 0 of a descriptor. -/
def bookDur (q0 : Nat) : Nat := bits q0 63 52
/-- See `bookDur`; values below 64 act as 64. -/
def bookEarly (q0 : Nat) : Nat := max 64 (bits q0 51 40)
/-- See `bookDur`. -/
def bookDeadl (q0 : Nat) : Nat := bits q0 39 28
/-- See `bookDur`. -/
def bookSlack (q0 : Nat) : Nat := bits q0 27 24
/-- See `bookDur`. -/
def bookPrio (q0 : Nat) : Nat := bits q0 23 22
/-- See `bookDur`. -/
def bookMemb (q0 : Nat) : Nat := bits q0 15 0
/-- The members that MEMB names in a cluster, by core field. -/
def bookCores (clu q0 : Nat) : List Nat := ((List.range 16).filter (fun i => bitAt (bookMemb q0) i)).map (fun i => 16 * clu + i)
/-- The NL share of quad 1, in quarters. -/
def bookNl (q1 : Nat) : Nat := bits q1 8 7

/-- The first grain after a booking. -/
def Booking.fin (b : Booking) : Nat := b.s + bookDur b.q0 + b.ext

/-- A booking that owns grains (R311). -/
def Booking.live (b : Booking) : Bool := b.state == .booked || b.state == .staging || b.state == .running

/-- A booking owns a grain of a core (R305, R317). -/
def Booking.owns (b : Booking) (core g : Nat) : Bool :=
  b.live && decide (b.s ≤ g) && decide (g < b.fin) &&
    b.members.any (fun m => m.core == core && (match m.stop with | none => true | some e => decide (g ≤ e)))

/-- The mask of core fields is a rectangle of a gang (R308, R330). -/
def isRectangle (memb : Nat) : Bool :=
  (List.range 9).any (fun k =>
    match gangShape k with
    | none => false
    | some (w, h) =>
      (List.range (5 - w)).any (fun x => (List.range (5 - h)).any (fun y =>
        (rectFields x y w h).foldl (fun m f => m + 2 ^ f) 0 == memb)))

/-! ### Fitting (R305, R309, R310) -/

/-- A grain that no booking with these resources covers (R305). -/
def grainExcluded (q1 g : Nat) : Bool :=
  g % 1024 == 511 || (bitAt q1 3 && g % 256 == 255) || (bookNl q1 != 0 && g % 4096 == 4095)

/-- A grain is open to a booking on its members (R309): `but` is the booking itself. -/
def Cluster.grainOpen (c : Cluster) (but q1 : Nat) (cores : List Nat) (g : Nat) : Bool :=
  let nl := (c.bookings.filter (fun (e : Nat × Booking) => e.1 != but && e.2.live && decide (e.2.s ≤ g) && decide (g < e.2.fin))).foldl
    (fun n e => n + bookNl e.2.q1) 0
  !grainExcluded q1 g && cores.all (fun m => !c.bookings.any (fun (e : Nat × Booking) => e.1 != but && e.2.owns m g)) &&
    (bookNl q1 == 0 || decide (nl + bookNl q1 ≤ 4))

/-- The pins of the bookings that overlap an interval, together with a booking's own, are at most 64 (R309). -/
def Cluster.pinsFit (c : Cluster) (but : Nat) (pages : List (Nat × Nat)) (s fin : Nat) : Bool :=
  let others := c.bookings.filter (fun (e : Nat × Booking) =>
    e.1 != but && e.2.live && decide (e.2.s - 64 < fin) && decide (s - 64 < e.2.fin))
  decide ((pages ++ others.flatMap (fun e => e.2.pages)).eraseDups.length ≤ 64)

/-- The earliest start grain from `s` with which a booking ends by `lim` (R309). -/
def Cluster.fitFrom (c : Cluster) (but q0 q1 : Nat) (cores : List Nat) (pages : List (Nat × Nat)) (pins : Bool) (lim : Nat) :
    Nat → Nat → Option Nat
  | 0, _ => none
  | fuel + 1, s =>
    let dur := bookDur q0
    if lim < s + dur then none
    else
      match ((List.range dur).map (fun i => s + i)).find? (fun g => !c.grainOpen but q1 cores g) with
      | some g => c.fitFrom but q0 q1 cores pages pins lim fuel (g + 1)
      | none =>
        if pins && !c.pinsFit but pages s (s + dur) then c.fitFrom but q0 q1 cores pages pins lim fuel (s + 1) else some s

/-- The bound of R309 on the end: the horizon, and the deadline. -/
def fitLimit (q0 d : Nat) (deadline : Bool) : Nat :=
  if deadline && bookDeadl q0 != 0 then min (d + 4096) (d + bookDeadl q0) else d + 4096

/-- R309. -/
def Cluster.fit (c : Cluster) (but q0 q1 : Nat) (cores : List Nat) (pages : List (Nat × Nat)) (pins : Bool) (lo lim : Nat) : Option Nat :=
  c.fitFrom but q0 q1 cores pages pins lim 4097 lo

/-- A translation of a window page (R310): the page where it is Resident, not Reserved by its K bit (R176), and in the slice of a member, and the time that it takes. -/
structure WinPage where
  page : Option (Nat × Nat)
  leaf : Nat × Nat
  time : Nat
deriving DecidableEq, Repr

/-- The pages of a window, translated in order (R172, R310). -/
def State.winPages (s : State) (core tenant : Nat) (cores : List Nat) : Nat → Nat → Nat → List WinPage × State
  | 0, _, _ => ([], s)
  | fuel + 1, va, last =>
    if last < va then ([], s)
    else
      let onward (s : State) (q0 q1 time : Nat) : List WinPage × State :=
        let n := pageBytes (leafSize q0)
        let base := va / n * n
        let r := s.winPages core tenant cores fuel (base + n) last
        (⟨if !bitAt q0 6 && (leafCores q0).any (fun m => cores.contains m) then some (base, n) else none, (q0, q1), time⟩ :: r.1, r.2)
      match s.hw.tlbLookup core tenant va with
      | (.cluster e, h) => onward { s with hw := h } e.q0.toNat e.q1.toNat 0
      | (.die e, h) => onward { s with hw := h } e.q0.toNat e.q1.toNat 24
      | (.miss, h) =>
        let w := s.walk core tenant va
        let time := h.walkCycles core tenant va w
        let s1 : State := { s with hw := h.walkKeep core tenant va w }
        match w.leaf with
        | some (q0, q1) => onward (s1.onHw (fun h => h.fillTlbs core tenant va q0 q1)) q0 q1 time
        | none =>
          let r := s1.winPages core tenant cores fuel ((va / 4096 + 1) * 4096) last
          (⟨none, (0, 0), time⟩ :: r.1, r.2)

/-- All windows of a booking. -/
def State.allPages (s : State) (core tenant : Nat) (cores : List Nat) (wins : List (Nat × Nat)) : List WinPage × State :=
  wins.foldl (fun r w =>
    let t := r.2.winPages core tenant cores (w.2 / 4096 + 2) w.1 (w.1 + w.2 - 1)
    (r.1 ++ t.1, t.2)) ([], s)

/-- Times taken eight at a time (R323). -/
def byEight : Nat → List Nat → Nat
  | 0, _ => 0
  | fuel + 1, l => if l = [] then 0 else (l.take 8).foldl max 0 + byEight fuel (l.drop 8)

/-! ### Records of bookings (R311, R320, R324, R325) -/

/-- A booking of a cluster. -/
def Hw.booking (h : Hw) (clu num : Nat) : Option Booking := SMap.find? (h.cluster clu).bookings num

/-- Replaces a booking. -/
def Hw.setBooking (h : Hw) (clu : Nat) (b : Booking) : Hw :=
  h.modCluster clu (fun c => { c with bookings := SMap.set c.bookings b.num b })

/-- Changes a booking. -/
def Hw.modBooking (h : Hw) (clu num : Nat) (f : Booking → Booking) : Hw :=
  match h.booking clu num with
  | none => h
  | some b => h.setBooking clu (f b)

/-- Changes a member's part. -/
def Hw.modMember (h : Hw) (clu num core : Nat) (f : BMember → BMember) : Hw :=
  h.modBooking clu num (fun b => { b with members := b.members.map (fun m => if m.core = core then f m else m) })

/-- Codes of the states (R325). -/
def BState.code : BState → Nat
  | .booked => 1 | .staging => 2 | .running => 3 | .finished => 4 | .overrun => 5 | .cancelled => 7

/-- The status word (R325). -/
def Booking.status (b : Booking) : Word :=
  BitVec.ofNat 64 (BState.code b.state * 2 ^ 61 + bit b.flt * 2 ^ 60 + bit b.slip * 2 ^ 59 + b.ext % 16 * 2 ^ 48 + b.s % 2 ^ 32 * 2 ^ 16 + b.num)

/-- DATA0 of the records of R320. -/
def Booking.data0 (b : Booking) : Nat := b.num + b.s % 2 ^ 32 * 2 ^ 16 + bookDur b.q0 * 2 ^ 48 + bookSlack b.q0 * 2 ^ 60

/-- DATA1 of a kind 0x0004 record: the steps not done, and the members on which they were not done. -/
def Booking.data1 (b : Booking) : Nat :=
  let missing (m : BMember) : Nat := 127 - m.steps % 128
  b.members.foldl (fun n m => n ||| missing m) 0 +
    2 ^ 16 * b.members.foldl (fun n m => if missing m = 0 then n else n ||| 2 ^ (m.core % 16)) 0

/-- Kinds of R102 that this chapter posts. -/
def kindOverrun : Nat := 0x0003
/-- See `kindOverrun`. -/
def kindSlip : Nat := 0x0004

/-- The kind 0x0004 record of a booking (R320): of the context reserved on member 0, else of the issuer. -/
def Hw.postSlip (h : Hw) (b : Booking) (cause : Nat) : Hw :=
  let at_ := match b.members with
    | m :: _ => (match m.slot with | some i => (m.core, i) | none => (b.core, b.slot))
    | [] => (b.core, b.slot)
  h.post at_.1 (eventRecord (h.count at_.1) at_.1 at_.2 cause (h.ctx at_.1 at_.2).flags kindSlip b.data0 b.data1)

/-- A booking has ended: its record stays until 64 newer ones have ended (R311). -/
def Hw.bookOver (h : Hw) (clu num : Nat) (st : BState) : Hw :=
  let n := h.nextTxn
  let h1 := ({ h with nextTxn := n + 1 } : Hw).modBooking clu num (fun b => { b with state := st, order := n })
  h1.modCluster clu (fun c =>
    let ended := c.bookings.filter (fun (e : Nat × Booking) => !e.2.live)
    { c with bookings := c.bookings.filter (fun (e : Nat × Booking) =>
        e.2.live || decide ((ended.filter (fun (o : Nat × Booking) => e.2.order < o.2.order)).length < 64)) })

/-- The pins of a booking on the pages that a test names are released (R173, R317). -/
def Hw.unpin (h : Hw) (clu num : Nat) (p : TlbEntry → Bool) : Hw :=
  h.modCluster clu (fun c => { c with tlb := c.tlb.map (fun e => if p e then { e with pin := e.pin.filter (fun n => n != num) } else e) })

/-- The reservations of a booking with SL = 1 are given up (R313): slots, windows, grant sets, RUN, the channel of its gang. -/
def Hw.bookRelease (h : Hw) (clu num : Nat) : Hw :=
  match h.booking clu num with
  | none => h
  | some b =>
    let h1 := b.members.foldl (fun h m =>
      let h2 := match m.slot with
        | some i => if (h.ctx m.core i).uid = m.uid then h.setCtx m.core i { Ctx.free with freeAt := h.now } else h
        | none => h
      let h3 := match m.entry with | some e => h2.runDec clu e | none => h2
      if m.grant then h3.grantGive m.core (recGset b.rec_) else h3) h
    let h4 := match b.chan with | some g => h1.gangRetire clu g | none => h1
    h4.setBooking clu { b with
      chan := none, members := b.members.map (fun m => { m with slot := none, uid := 0, entry := none, grant := false, steps := 32 }) }

/-- A context in Booked-waiting completes its `bkq.wt` (R326, R327). -/
def Hw.endBkq (h : Hw) (b : Booking) (cyc : Nat) : Hw :=
  match b.wt with
  | none => h
  | some txn =>
    let x := h.ctx b.core b.slot
    if x.uid = b.uid ∧ x.st = .booked then
      ((h.setCtx b.core b.slot { x with st := .parked }).endWaiting b.core b.slot txn b.status).modCtx b.core b.slot (fun y =>
        { y with notBefore := cyc })
    else h

/-- A booking is Cancelled (R311, R313, R327); cause 0 posts no record. -/
def Hw.cancelBooking (h : Hw) (clu num cause : Nat) : Hw :=
  match h.booking clu num with
  | none => h
  | some b =>
    let h1 := if cause = 0 then h else h.postSlip b cause
    let h2 :=
      if b.self_ then
        let h3 := b.members.foldl (fun h m => match m.entry with | some e => h.runDec clu e | none => h) h1
        h3.endBkq { b with state := .cancelled } (h.now + 1)
      else h1.bookRelease clu num
    let h4 := (h2.unpin clu num (fun _ => true)).bookOver clu num .cancelled
    { h4 with bookEnds := h4.bookEnds ++ [(16 * clu, num, 2)] }

/-- Self bookings of a context that quits or is discarded before their start are Cancelled (R311). -/
def Hw.cancelOwn (h : Hw) (core slot : Nat) : Hw :=
  let clu := clusterOf core
  (h.cluster clu).bookings.foldl (fun h (e : Nat × Booking) =>
    if e.2.self_ && e.2.core == core && e.2.slot == slot && e.2.uid == (h.ctx core slot).uid && (e.2.state == .booked || e.2.state == .staging) then
      h.cancelBooking clu e.1 0
    else h) h

/-- A booking takes its grains (R311): it is Booked, enters Staging at grain s - 64, and starts at grain s. -/
def Hw.bookEnter (h : Hw) (clu num : Nat) : Hw :=
  match h.booking clu num with
  | none => h
  | some b =>
    ((h.setBooking clu { b with state := .booked }).schedule (max h.now (h.grainAt clu (b.s - 64))) .stagingBegin (.nats [clu, num, b.s])).schedule
      (h.grainAt clu b.s) .bookingStart (.nats [clu, num, b.s])

/-! ### BOOK (R306 to R310, R323, R324) -/

/-- Window i of a block: its address and length (R307). -/
def blockWindow (bs : List Byte) (i : Nat) : Nat × Nat :=
  let q0 := valLE ((bs.drop (16 + 16 * i)).take 8)
  let q1 := valLE ((bs.drop (24 + 16 * i)).take 8)
  (q0 + bits q1 7 0 * 2 ^ 64, bits q1 47 16)

/-- A block is malformed (R307, R308): an MBZ bit, NWIN, a window without length. -/
def blockBad (bs : List Byte) : Bool :=
  let hd := valLE (bs.take 8)
  let n := bits hd 2 0
  decide (4 < n) || bits hd 7 3 != 0 || bits hd 63 9 != 0 || valLE ((bs.drop 8).take 8) != 0 ||
    (List.range n).any (fun i =>
      let q1 := valLE ((bs.drop (24 + 16 * i)).take 8)
      bits q1 15 8 != 0 || bits q1 63 48 != 0 || bits q1 47 16 == 0)

/-- A descriptor and its block are refused (R308). -/
def bookRefused (core q0 q1 : Nat) (bs : List Byte) (r : BitVec 1024) : Bool :=
  let sl := bitAt q1 9
  let task := bitAt (valLE (bs.take 8)) 8
  let nwin := bits (valLE (bs.take 8)) 2 0
  bits q0 20 16 != 0 || bits q1 63 10 != 0 || bookDur q0 == 0 || bookMemb q0 == 0 || (bs != [] && blockBad bs) ||
    (if sl then !isRectangle (bookMemb q0) else bookMemb q0 != 2 ^ (core % 16)) || task != sl || (nwin != 0 && !bitAt q1 3) ||
    (sl && (recInvalid r || recPaired r))

/-- The request of a BOOK with its block at hand (R323): `lb` is the time of the block's read. -/
def State.bookRequest (s : State) (c : Cur) (sw : Bool) (a : GReg) (q0 q1 : Nat) (block : Option (Nat × Nat)) (bs : List Byte)
    (lb : Nat) : State :=
  let x := s.hw.curCtx c
  let r0 : BitVec 1024 := BitVec.ofNat 1024 (valLE ((bs.drop 128).take 128))
  if bookRefused c.core q0 q1 bs r0 then s.faultWith c .reservedValue 22 0
  else
    let clu := clusterOf c.core
    let tenant := (s.hw.tenantOf c.core).getD 0
    let wins := (List.range (bits (valLE (bs.take 8)) 2 0)).map (blockWindow bs)
    let ps := s.allPages c.core tenant (bookCores clu q0) wins
    let t := byEight (ps.1.length + 1) (ps.1.map (fun p => p.time))
    ps.2.onHw fun h =>
      let txn := h.nextTxn
      let due := h.now + 16 + lb + t + 1
      let q : BookReq :=
        { core := c.core, slot := c.slot, uid := x.uid, reg := a.toNat, txn := txn, chain := c, sw := sw, q0 := q0, q1 := q1, block := block,
          wins := wins, pages := if ps.1.all (fun p => p.page.isSome) then some (ps.1.filterMap (fun p => p.page)) else none,
          rec_ := if x.service then r0 else recIdentity r0 x.prin.toNat x.gset.toNat x.otag.toNat, tenant := tenant, svc := x.service,
          prin := x.prin.toNat, gset := x.gset.toNat, otag := x.otag.toNat, due := due }
      let h1 := ((({ h with nextTxn := txn + 1 } : Hw).parkChain c .memory).modCur c (fun y => { y with plainSw := sw, swWait := false })).barAwait
        c.core c.slot a.toNat txn
      (h1.modCluster clu (fun k => { k with bookReqs := k.bookReqs ++ [q] })).schedule due .bookingDecision (.nats [clu])

/-- BOOK. -/
def execBook (sw : Bool) (a b : GReg) (s : State) : Res :=
  s.withCur fun c => s.window c (b.toNat + 2) <|
    if (s.hw.curCtx c).booked then s.faultWith c .calendarViolation 4 0
    else s.reads c (regRun b.toNat 3) <|
      let q (i : Nat) : Nat := (s.hw.cgn c (b.toNat + i)).toNat
      if q 2 = 0 then s.bookRequest c sw a (q 0) (q 1) none [] 0
      else s.mayAccess c false .plain <|
        s.scratchCheck c 0 (q 2) 0x50 { r := true } 128 0 fun k =>
          s.plainRead c k 0x50 fun bs s1 =>
            let lat := s1.hw.scratchLatency c.core (keyCore k)
            if bitAt (valLE (bs.take 8)) 8 then
              s1.scratchCheck c 0 (q 2) 0x100 { r := true } 128 0 fun k =>
                s1.plainRead c (k + 0x60) 0xA0 fun cs s2 =>
                  s2.bookRequest c sw a (q 0) (q 1) (some (k, 0x100)) (bs ++ bytesLE 16 0 ++ cs) (lat + 7)
            else s1.bookRequest c sw a (q 0) (q 1) (some (k, 0x50)) bs (lat + 2)

/-- Requests of one cycle in the order in which they are decided (R328). -/
def BookReq.key (q : BookReq) : Nat := bookPrio q.q0 * 2 ^ 12 + q.core % 16 * 2 ^ 6 + q.slot

/-- Inserts a request by its order. -/
def insReq (q : BookReq) : List BookReq → List BookReq
  | [] => [q]
  | r :: l => if q.key ≤ r.key then q :: r :: l else r :: insReq q l

/-- The next number that no record uses (R311). -/
def Cluster.nextNum (c : Cluster) : Nat :=
  (((List.range 65535).map (fun i => (c.lastBook + i) % 65535 + 1)).find? (fun n => (SMap.find? c.bookings n).isNone)).getD 1

/-- A member as a booking of SL = 1, or a self booking, begins: the steps that it does not have count as done (R312). -/
def firstMember (self_ : Bool) (slot uid core : Nat) : BMember :=
  if self_ then ⟨core, some slot, uid, 3, none, false, none⟩ else ⟨core, none, 0, 32, none, false, none⟩

/-- Why a request does not fit (R324), 0 where it fits, and its start grain. -/
def Hw.bookFit (h : Hw) (clu d : Nat) (q : BookReq) : Nat × Nat :=
  let c := h.cluster clu
  let cores := bookCores clu q.q0
  let lo := d + bookEarly q.q0
  let fit (deadline pins : Bool) : Option Nat := c.fit 0 q.q0 q.q1 cores (q.pages.getD []) pins lo (fitLimit q.q0 d deadline)
  if cores.any (fun m => (h.core m).wheel || h.coreDisabled m) then (4, 0)
  else if q.pages.isNone then (5, 0)
  else if 256 ≤ (c.bookings.filter (fun (e : Nat × Booking) => e.2.live)).length then (6, 0)
  else
    match fit true true with
    | some g => (0, g)
    | none => if (fit false true).isSome then (2, 0) else if (fit true false).isSome then (3, 0) else (1, 0)

/-- The result word of BOOK (R324). -/
def bookWord (why start num : Nat) : Nat :=
  if why = 0 then start % 2 ^ 32 * 2 ^ 16 + num else 2 ^ 60 + why * 2 ^ 56

/-- One request is decided (R309, R311). -/
def Hw.decideBook (h : Hw) (clu : Nat) (q : BookReq) : Hw :=
  if !(h.alive q.core q.slot q.uid && (h.ctx q.core q.slot).waitsFor q.txn) then h
  else
    let d := (h.count (16 * clu) - 1) / 16
    let f := h.bookFit clu d q
    let answer (h : Hw) (v : Nat) : Hw := h.after 15 .bookingDecision (.nats [clu, q.core, q.slot, q.uid, q.txn, v])
    if f.1 ≠ 0 then answer h (bookWord f.1 0 0)
    else
      let num := (h.cluster clu).nextNum
      let self_ := !bitAt q.q1 9
      let b : Booking :=
        { num := num, q0 := q.q0, q1 := q.q1, d := d, s := f.2, early := bookEarly q.q0, core := q.core, slot := q.slot, uid := q.uid,
          self_ := self_, block := q.block, wins := q.wins, pages := q.pages.getD [], rec_ := q.rec_, tenant := q.tenant, svc := q.svc,
          prin := q.prin, gset := q.gset, otag := q.otag, state := .booked, flt := false, slip := false, ext := 0,
          members := (bookCores clu q.q0).map (firstMember self_ q.slot q.uid), chan := none, order := 0, wt := none, dropped := [] }
      answer (((h.modCluster clu (fun c => { c with lastBook := num })).setBooking clu b).bookEnter clu num) (bookWord 0 f.2 num)

/-- The coordinator decides the requests of a cycle (R328); a result reaches its register 16 cycles after the decision (R323). -/
def execBookingDecision (s : State) : Res :=
  match s.hw.arg with
  | .nats [clu] =>
    .next <| s.onHw fun h =>
      let l := (((h.cluster clu).bookReqs.filter (fun q => decide (q.due ≤ h.now))).foldr insReq [])
      l.foldl (fun h q => h.decideBook clu q)
        (h.modCluster clu (fun c => { c with bookReqs := c.bookReqs.filter (fun q => decide (h.now < q.due)) }))
  | .nats [_, core, slot, uid, txn, v] =>
    .next (s.onHw fun h =>
      if h.alive core slot uid && (h.ctx core slot).waitsFor txn then h.endWaiting core slot txn (BitVec.ofNat 64 v) else h)
  | _ => .fault .noArgument

/-! ### Staging (R312, R313, R337, R424) -/

/-- A step of R312 is done. -/
def BMember.did (m : BMember) (i : Nat) : BMember := { m with steps := m.steps ||| 2 ^ i }

/-- Step 1: the record is read from the block and checked again; a record that differs from the one that slots were reserved
for gives those slots up. -/
def State.stageRecord (s : State) (clu : Nat) (b : Booking) : State :=
  match b.block with
  | none => s
  | some (key, _) =>
    let a : Acc :=
      { txn := 0, core := b.core, slot := b.slot, op := .load .sec [], relaxed := false, virt := false, addr := key + 128, size := 128,
        pieces := piecesOf (key + 128) 128, seg := 0, off := 0, tenant := b.tenant, svc := b.svc, otag := b.otag, gset := b.gset, prin := b.prin,
        group := 0, sent := s.hw.now }
    let r := s.readPieces a a.pieces
    let s1 := s.auditAll a b.uid r.denied
    let r0 : BitVec 1024 := BitVec.ofNat 1024 (valLE r.bytes)
    if r.poison || recInvalid r0 || recPaired r0 then s1
    else
      let rec_ := if b.svc then r0 else recIdentity r0 b.prin b.gset b.otag
      s1.onHw fun h =>
        let h1 := if rec_ = b.rec_ then h else h.bookRelease clu b.num
        h1.modBooking clu b.num (fun b => { b with rec_ := rec_, members := b.members.map (fun m => m.did 1) })

/-- The lowest Idle cluster channel (R337). -/
def Hw.idleChan (h : Hw) (clu : Nat) : Option Nat := (List.range 16).find? (fun g => (h.chan true clu g).idleNow)

/-- Step 0: the channel of the gang, and a slot and a window on the member with its context. -/
def State.stageSlot (s : State) (clu num core : Nat) : State :=
  let s1 := s.onHw fun h =>
    match h.booking clu num with
    | none => h
    | some b =>
      if b.chan.isSome then h
      else
        match h.idleChan clu with
        | none => h
        | some g =>
          let cores := bookCores clu b.q0
          ((h.holdChan clu g cores).setGang clu g ⟨0, num, num, cores, [], [], .forming, 0, 0⟩).setBooking clu { b with chan := some g }
  match s1.hw.booking clu num with
  | none => s1
  | some b =>
    let k := s1.hw.core core
    match b.chan, k.findSlot s1.hw.now, k.findWindow s1.hw.now (recWindow b.rec_) with
    | some _, some slot, some base =>
      if k.imaging then s1               -- the core starts no task (R262)
      else
      let t := s1.hw.newTid clu
      let uid := t.2.nextTxn
      let r := recPut b.rec_ 8 0 64 t.1
      let x : Ctx := { k.taskCtx uid slot base r 1 0 num with st := .booked }
      let s2 : State := { s1 with hw :=
        ((({ t.2 with nextTxn := uid + 1 } : Hw).modCore core (fun k => k.place slot x (recArgs r))).modMember clu num core (fun m =>
          { m.did 0 with slot := some slot, uid := uid })) }
      s2.bankWrite (scratchKey core (0x8E000 + 128 * slot)) (bytesLE 128 r.toNat) (some (recOtag r))
    | _, _, _ => s1

/-- Step 2: the kernel's entry is Installed, and its RUN is raised. -/
def State.stageCode (s : State) (clu : Nat) (b : Booking) (m : BMember) : State :=
  let hold (h : Hw) (e : Nat) : Hw := (h.runInc clu e).modMember clu b.num m.core (fun m => { m.did 2 with entry := some e })
  let d : BitVec 256 := if b.self_ then (s.hw.entry clu (s.hw.ctx b.core b.slot).entry).digest else BitVec.ofNat 256 b.rec_.toNat
  s.onHw fun h =>
    match h.installed clu d with
    | some e => hold h e
    | none => if (h.lookup clu d).isSome then h else (h.codeMiss clu m.core (m.slot.getD b.slot) d h.now).2

/-- A pin joins the entry of a page in the cluster TLB (R173). -/
def Hw.pinPage (h : Hw) (clu num tenant : Nat) (base : Nat) (q : Nat × Nat) : Hw :=
  h.modCluster clu (fun c =>
    let old := (c.tlb.find? (fun e => e.tenant == tenant && e.vbase == base && leafSize e.q0.toNat == leafSize q.1)).map (fun e => e.pin)
    { c with tlb := tlbFill c.tlb 256 ⟨tenant, base, BitVec.ofNat 64 q.1, BitVec.ofNat 64 q.2, ((old.getD []).filter (fun n => n != num)) ++ [num]⟩ })

/-- Step 3: every window page is translated afresh and pinned. -/
def State.stagePins (s : State) (clu : Nat) (b : Booking) : State :=
  let ps := s.allPages b.core b.tenant (bookCores clu b.q0) b.wins
  if ps.1.all (fun p => p.page.isSome) then
    ps.2.onHw fun h =>
      (ps.1.foldl (fun h p => match p.page with | some q => h.pinPage clu b.num b.tenant q.1 p.leaf | none => h) h).modBooking clu b.num (fun b =>
        { b with members := b.members.map (fun m => m.did 3), dropped := [] })
  else ps.2

/-- Every command and request for a resource on a core has completed (R312 step 4). -/
def Core.unitIdle (k : Core) (i : Nat) : Bool :=
  match i with
  | 0 => k.matCmds.isEmpty
  | 1 => k.matCmds.all (fun m => match m.op with | .gath _ => false | _ => true)
  | 2 => k.copy.isNone && k.e0 == []
  | 6 => k.vjobs.all (fun j => match j.op with | .sfu _ => j.dests.isEmpty | _ => true)
  | _ => true

/-- The steps of one member that are not yet done. -/
def State.stageMember (s : State) (clu num core : Nat) : State :=
  let get (s : State) : Option (Booking × BMember) :=
    match s.hw.booking clu num with
    | none => none
    | some b => (b.members.find? (fun m => m.core == core)).map (fun m => (b, m))
  let step (i : Nat) (f : State → Booking → BMember → State) (s : State) : State :=
    match get s with
    | some (b, m) => if bitAt m.steps i then s else f s b m
    | none => s
  let mark (s : State) (i : Nat) : State := s.onHw (fun h => h.modMember clu num core (fun m => m.did i))
  let grant (s : State) (b : Booking) (m : BMember) : State :=
    if b.self_ then (if ((s.hw.core core).grantSet (s.hw.ctx b.core b.slot).gset.toNat).state = 2 then mark s 6 else s)
    else
      let g := recGset b.rec_
      let s1 :=
        if m.grant then s
        else if s.hw.grantNeed core g (recPrin b.rec_) = .refused then s
        else (s.grantTake core g (recPrin b.rec_)).onHw (fun h => h.modMember clu num core (fun m => { m with grant := true }))
      match get s1 with
      | some (_, m1) => if m1.grant ∧ ((s1.hw.core core).grantSet g).state = 2 then mark s1 6 else s1
      | none => s1
  let units (s : State) (b : Booking) (_ : BMember) : State :=
    if [0, 1, 2, 6].all (fun i => !b.has i || (s.hw.core core).unitIdle i) then mark s 4 else s
  let waits (s : State) (b : Booking) (_ : BMember) : State :=
    if (s.hw.ctx b.core b.slot).uid = b.uid ∧ (s.hw.ctx b.core b.slot).st = .booked ∧ b.wt.isSome then mark s 5 else s
  step 5 waits <| step 4 units <| step 3 (fun s b _ => s.stagePins clu b) <| step 2 (fun s b m => s.stageCode clu b m) <|
    step 0 (fun s _ _ => s.stageSlot clu num core) <| step 6 grant s

/-- The steps of staging that are not yet done, on every member. -/
def State.stage (s : State) (clu num : Nat) : State :=
  match s.hw.booking clu num with
  | none => s
  | some b =>
    let s1 := if b.members.all (fun m => bitAt m.steps 1) then s else s.stageRecord clu b
    b.members.foldl (fun s m => s.stageMember clu num m.core) s1

/-- The next try of the steps, at the next grain before the start. -/
def Hw.stageNext (h : Hw) (clu num : Nat) : Hw :=
  match h.booking clu num with
  | none => h
  | some b =>
    let g := h.grainNow clu + 1
    if g < b.s then h.schedule (h.grainAt clu g) .stagingStepRetry (.nats [clu, num, b.s]) else h

/-- The booking, if it still stands at a start grain in one of its first states. -/
def Hw.bookingAt (h : Hw) (clu num start : Nat) (st : BState) : Option Booking :=
  match h.booking clu num with
  | none => none
  | some b => if b.s = start ∧ b.state = st then some b else none

/-- Staging begins (R311). -/
def execStagingBegin (s : State) : Res :=
  match s.hw.arg with
  | .nats [clu, num, start] =>
    .next <|
      match s.hw.bookingAt clu num start .booked with
      | none => s
      | some b => ((s.onHw (fun h => h.setBooking clu { b with state := .staging })).stage clu num).onHw (fun h => h.stageNext clu num)
  | _ => .fault .noArgument

/-- Steps that are not done are tried again (R312). -/
def execStagingStepRetry (s : State) : Res :=
  match s.hw.arg with
  | .nats [clu, num, start] =>
    .next <|
      match s.hw.bookingAt clu num start .staging with
      | none => s
      | some _ => (s.stage clu num).onHw (fun h => h.stageNext clu num)
  | _ => .fault .noArgument

/-! ### The start (R313, R314, R326) -/

/-- The context of a member runs its booking (R314). -/
def Hw.startMember (h : Hw) (clu : Nat) (b : Booking) (m : BMember) : Hw :=
  match m.slot with
  | none => h
  | some slot =>
    let mark (h : Hw) : Hw := h.modCtx m.core slot (fun x => { x.setTs tsBOOKED true with bookid := BitVec.ofNat 16 b.num })
    if b.self_ then ((mark h).endBkq { b with state := .running } h.now).modCtx m.core slot (fun x => x.settle)
    else
      let h1 := match m.entry with | some e => (mark h).enterEntry m.core slot e | none => mark h
      (h1.modCtx m.core slot (fun x => { x with st := .ready, notBefore := h.now }.settle)).modMember clu b.num m.core (fun m =>
        { m with entry := none, grant := false })

/-- The first cycle of the start grain: every step done, the booking runs; else it is Slipped (R311). -/
def execBookingStart (s : State) : Res :=
  match s.hw.arg with
  | .nats [clu, num, start] =>
    .next <| s.onHw fun h =>
      match h.bookingAt clu num start .staging with
      | none => h
      | some b0 =>
        let waits := (h.ctx b0.core b0.slot).uid == b0.uid && (h.ctx b0.core b0.slot).st == .booked && b0.wt.isSome
        let b := if b0.self_ && waits then { b0 with members := b0.members.map (fun m => m.did 5) } else b0
        if b.members.all (fun m => m.steps % 128 == 127 && !(h.core m.core).imaging) then
          let h1 := h.setBooking clu { b with state := .running }
          (b.members.foldl (fun h m => h.startMember clu b m) h1).schedule (h.grainAt clu b.fin) .slackGrain (.nats [clu, num, b.fin])
        else (h.setBooking clu b).schedule h.now .bookingSlip (.nats [clu, num, start])
  | _ => .fault .noArgument

/-- A booking that is Slipped is fitted again, or Cancelled (R313). -/
def execBookingSlip (s : State) : Res :=
  match s.hw.arg with
  | .nats [clu, num, start] =>
    .next <| s.onHw fun h =>
      match h.bookingAt clu num start .staging with
      | none => h
      | some b =>
        if b.slip then h.cancelBooking clu num 2
        else
          let lo := max (b.d + b.early) (b.s + 1)
          match (h.cluster clu).fit num b.q0 b.q1 (bookCores clu b.q0) b.pages true lo (fitLimit b.q0 b.d true) with
          | none => h.cancelBooking clu num 3
          | some g =>
            let b1 := { b with s := g, slip := true }
            ((h.setBooking clu b1).postSlip b1 1).bookEnter clu num
  | _ => .fault .noArgument

/-! ### Slack and overrun (R318, R319) -/

/-- A grain is open as slack on its members (R318): it is neither owned nor excluded, whatever the NL shares. -/
def Cluster.slackOpen (c : Cluster) (but q1 : Nat) (cores : List Nat) (g : Nat) : Bool :=
  !grainExcluded q1 g && cores.all (fun m => !c.bookings.any (fun (e : Nat × Booking) => e.1 != but && e.2.owns m g))

/-- At the end of a booking, or of a slack grain: one more grain, or the overrun. -/
def execSlackGrain (s : State) : Res :=
  match s.hw.arg with
  | .nats [clu, num, g] =>
    .next <| s.onHw fun h =>
      match h.booking clu num with
      | none => h
      | some b =>
        if b.state ≠ .running ∨ b.fin ≠ g then h
        else if b.ext < bookSlack b.q0 ∧ (bookDeadl b.q0 = 0 ∨ g + 1 ≤ b.d + bookDeadl b.q0) ∧
            (h.cluster clu).slackOpen num b.q1 (bookCores clu b.q0) g = true then
          (h.setBooking clu { b with ext := b.ext + 1 }).schedule (h.grainAt clu (g + 1)) .slackGrain (.nats [clu, num, g + 1])
        else h.schedule h.now .bookingOverrun (.nats [clu, num])
  | _ => .fault .noArgument

/-- A context is unbooked (R317). -/
def Ctx.unbook (x : Ctx) : Ctx :=
  let y := { x.setTs tsBOOKED false with bookid := 0 }
  y.setEff y.decl

/-- An access that its chain waits for goes on without it. -/
def Hw.letAccess (h : Hw) (core slot : Nat) : Hw :=
  let x := h.ctx core slot
  match x.access with
  | none => h
  | some c =>
    (h.modCore core (fun k => { k with out := k.out.map (fun o =>
      if o.uid = x.uid ∧ !o.acc.relaxed then { o with acc := { o.acc with relaxed := true }, dropped := false } else o) })).setCtx core slot
      { x.advance c.pc c.len with access := none }

/-- The overrun of one member's context (R319): its record, its spill, and its place in the core queue. -/
def Hw.overrunMember (h : Hw) (b : Booking) (core slot : Nat) : Hw :=
  let h1 := h.letAccess core slot
  let x := h1.ctx core slot
  let f : FaultRec := { cause := .overrun, sub := 0, frb := 0, ahi := 0, pc := x.pc, entry := x.entry, page := 0, op := 0, widx := 0 }
  let h2 := h1.post core (eventRecord (h.count core) core slot (Cause.code .overrun) x.flags kindOverrun b.data0 (x.pc % 2 ^ 17))
  let y : Ctx := { x.unbook with
    st := .parked, park := none, fra := f.fra, frb := 0, yieldWait := none, hazOn := none, limWait := false, gang := none }
  let h3 := (h2.setCtx core slot y).modCore core (fun k => { k with overruns := k.overruns ++ [slot] })
  if x.taskr = 0 then h3
  else
    let n := h3.nextTxn
    let r := recPut (recPut x.task.trec 9 0 1 1) 9 6 5 0
    ({ h3 with nextTxn := n + 1 } : Hw).insertCore core ⟨r, n, 0, 0, some (core, slot), none⟩

/-- The first cycle after the last grain (R319); a fault of the same cycle stands (R328). -/
def execBookingOverrun (s : State) : Res :=
  match s.hw.arg with
  | .nats [clu, num] =>
    .next <| s.onHw fun h =>
      match h.booking clu num with
      | none => h
      | some b =>
        if b.state ≠ .running then h
        else
          let h1 := b.members.foldl (fun h m =>
            match m.stop, m.slot with
            | none, some slot =>
              match (h.ctx m.core slot).deferred with
              | f :: r => if (h.ctx m.core slot).uid = m.uid then (h.modCtx m.core slot (fun x => { x with deferred := r })).raise m.core slot f else h
              | [] => h
            | _, _ => h) h
          let running := b.members.filter (fun m => m.stop.isNone && !h1.bookEnds.any (fun e => e.1 == m.core && e.2.1 == num))
          if running = [] then h1
          else
            let h2 := running.foldl (fun h m => match m.slot with | some i => h.overrunMember b m.core i | none => h) h1
            let h3 := match b.chan with | some g => h2.gangRetire clu g | none => h2
            let h4 := if b.self_ then b.members.foldl (fun h m => match m.entry with | some e => h.runDec clu e | none => h) h3 else h3
            ((h4.unpin clu num (fun _ => true)).modBooking clu num (fun b => { b with
              chan := none, members := b.members.map (fun m => { m with entry := none, stop := some ((h.count (16 * clu) - 1) / 16) }) })).bookOver clu num .overrun
  | _ => .fault .noArgument

/-! ### The end of a cycle: ends and pull-forward (R317, R321) -/

/-- A member's part of a booking has ended (R317). -/
def Hw.endPart (h : Hw) (core num fault : Nat) : Hw :=
  let clu := clusterOf core
  match h.booking clu num with
  | none => h
  | some b =>
    match b.members.find? (fun m => m.core == core) with
    | none => h
    | some m =>
      let h1 := match m.slot with
        | some i =>
          if (h.ctx core i).uid = m.uid ∧ (h.ctx core i).bookid.toNat = num ∧ (h.ctx core i).booked = true then h.modCtx core i Ctx.unbook else h
        | none => h
      let h2 := match m.entry with | some e => h1.runDec clu e | none => h1
      let h3 := h2.modBooking clu num (fun b => { b with
        flt := b.flt || fault == 1,
        members := b.members.map (fun m => if m.core = core ∧ m.stop = none then { m with stop := some (h.grainNow clu), entry := none } else m) })
      let left : List Nat := ((h3.booking clu num).map (fun b => (b.members.filter (fun m => m.stop.isNone)).map (fun m => m.core))).getD []
      let h4 := h3.unpin clu num (fun e => (leafCores e.q0.toNat).all (fun c => !left.contains c))
      if left.isEmpty && b.state == BState.running then h4.bookOver clu num .finished else h4

/-- A booking in its first states is fitted at an earlier grain (R321). -/
def Hw.pullOne (h : Hw) (clu num : Nat) : Hw :=
  match h.booking clu num with
  | none => h
  | some b =>
    if !bitAt b.q0 21 || !(b.state == .booked || b.state == .staging) then h
    else
      let lo := max (b.d + b.early) (h.grainNow clu + 64)
      let lim := min (fitLimit b.q0 b.d true) (b.s + bookDur b.q0 - 1)
      match (h.cluster clu).fit num b.q0 b.q1 (bookCores clu b.q0) b.pages true lo lim with
      | some g => (h.setBooking clu { b with s := g }).bookEnter clu num
      | none => h

/-- The coordinators at the end of a cycle (R317, R321). -/
def Hw.bookTick (h : Hw) : Hw :=
  let h1 := h.bookEnds.foldl (fun h e => if e.2.2 < 2 then h.endPart e.1 e.2.1 e.2.2 else h) h
  let early (e : Nat × Nat × Nat) : Bool :=
    e.2.2 == 2 || (match h1.booking (clusterOf e.1) e.2.1 with | some b => b.state == .finished && decide (h.now + 1 < h.grainAt (clusterOf e.1) b.fin) | none => false)
  let clus := ((h.bookEnds.filter early).map (fun e => clusterOf e.1)).eraseDups
  let h2 := clus.foldl (fun h clu => ((h.cluster clu).bookings.map (fun (e : Nat × Booking) => e.1)).foldl (fun h n => h.pullOne clu n) h) h1
  { h2 with bookEnds := [] }

/-! ### BKQ, BKCAN, BKEND (R325 to R327) -/

/-- BKQ (R325). -/
def execBkq (sw : Bool) (a b : GReg) (s : State) : Res :=
  s.withCur fun c => s.reads c [b.toNat] <| s.onHw fun h =>
    let v : Word := match h.booking (clusterOf c.core) (bits (h.cg c b).toNat 15 0) with | some k => k.status | none => BitVec.allOnes 64
    (h.setG c.core c.slot a.toNat v 8).retire c sw 1

/-- BKQ.wt (R326). -/
def execBkqWt (sw : Bool) (a b : GReg) (s : State) : Res :=
  s.withCur fun c =>
    let x := s.hw.curCtx c
    if x.booked then s.faultWith c .calendarViolation 4 0
    else s.reads c [b.toNat] <|
      let clu := clusterOf c.core
      let n := (s.hw.cg c b).toNat
      match s.hw.booking clu (bits n 15 0) with
      | none => s.faultWith c .reservedValue 23 0
      | some k =>
        if !k.self_ || k.core != c.core || k.slot != c.slot || k.uid != x.uid then s.faultWith c .reservedValue 23 0
        else if k.state = .booked ∨ k.state = .staging then
          s.onHw fun h =>
            let txn := h.nextTxn
            let h1 := (((({ h with nextTxn := txn + 1 } : Hw).issued c).modCur c (fun x =>
              { x with st := .booked, park := none, parkCur := some c, pc := c.pc, plainSw := sw, swWait := false })).barAwait c.core c.slot a.toNat txn)
            h1.setBooking clu { k with wt := some txn }
        else s.onHw (fun h => (h.setG c.core c.slot a.toNat k.status 8).retire c sw 1)

/-- BKCAN (R327). -/
def execBkcan (sw : Bool) (a b : GReg) (s : State) : Res :=
  s.withCur fun c =>
    if (s.hw.curCtx c).booked then s.faultWith c .calendarViolation 4 0
    else s.reads c [b.toNat] <| s.onHw fun h =>
      let clu := clusterOf c.core
      let n := bits (h.cg c b).toNat 15 0
      match h.booking clu n with
      | some k =>
        if k.state = .booked ∨ k.state = .staging then ((h.cancelBooking clu n 0).setG c.core c.slot a.toNat 0 8).retire c sw 1
        else (h.setG c.core c.slot a.toNat 1 8).retire c sw 1
      | none => (h.setG c.core c.slot a.toNat 1 8).retire c sw 1

/-- A booked context's part of its booking ends in this cycle (R317). -/
def Hw.partEnds (h : Hw) (core slot code : Nat) : Hw :=
  let x := h.ctx core slot
  if x.booked then { h with bookEnds := h.bookEnds ++ [(core, x.bookid.toNat, code)] } else h

/-- BKEND (R317, R327). -/
def execBkend (sw : Bool) (s : State) : Res :=
  s.withCur fun c =>
    if !(s.hw.curCtx c).booked then s.faultWith c .reservedValue 24 0
    else s.onHw (fun h => (h.partEnds c.core c.slot 0).retire c sw 1)

end Sys2Proof.Machine
end

