-- ==== Sys2Proof/Machine/Quit.lean ====
section
/-! DEFINITION. The end of a context (04_context R83, R86, R97; 11_queue R236): QUIT, RET, and the discard by BRS. -/

namespace Sys2Proof.Machine

/-- What a task leaves to retire (R236, R237). -/
def Hw.retireJob (h : Hw) (core slot : Nat) (x : Ctx) : Retiring :=
  let t := x.task
  ⟨x.uid, x.tsBit tsPAIRED,
    { core := core, slot := slot, tenant := (h.tenantOf core).getD 0, joina := t.joina, succn := t.succn, slist := t.slist,
      paired := x.tsBit tsPAIRED, half := t.half, run := t.run, tid := t.tid, sig := t.sig, trec := t.trec }, t.sigq⟩

/-- The context of a slot ends (R83, R86, R97): live frames, completions, its part of a booking and its place in a gang are given up at
once, RUN at a `QUIT` (R268); the slot is Free from cycle 8 (`freeSlot`), until when a discarded context counts as Faulted. -/
def State.vacate (s : State) (core slot : Nat) (faulted : Bool) : State :=
  let x := s.hw.ctx core slot
  (s.dropFrames core slot).onHw fun h =>
    let h1 := if x.begun && !faulted then h.runDec (clusterOf core) x.entry else h
    let h2 := (((h1.partEnds core slot 0).cancelOwn core slot).gangLeave core slot).dropCkpt core slot
    let mine (l : List Compl) : List Compl := l.filter (fun m => m.uid != x.uid)
    let y : Ctx :=
      { Ctx.free with
        st := .leaving faulted, freeAt := h.now + 8, wbase := x.wbase, wsize := x.wsize, entry := x.entry, begun := x.begun && faulted,
        gset := x.gset, noGrant := x.noGrant }
    let h3 := h2.modCore core (fun k =>
      { k with
        e1 := mine k.e1, e2 := mine k.e2, e3 := mine k.e3, overruns := k.overruns.filter (fun i => i != slot),
        ckpts := k.ckpts.filter (fun p => p.1 != slot), saved := SMap.erase k.saved slot, slots := SMap.set k.slots slot y })
    [8, 9, 10, 11].foldl (fun h f => h.wakeEngine core f (fun _ => true)) h3

/-- A slot becomes Free (R86, R97): its window is free, its held messages are dropped (R92), its use of the grant set is given back (R416),
it departs from its barrier channels (R206); a discarded context releases its RUN. -/
def Hw.freeSlot (h : Hw) (core slot : Nat) : Hw :=
  let x := h.ctx core slot
  let h1 := if x.begun then h.runDec (clusterOf core) x.entry else h
  let h2 := if x.noGrant then h1 else h1.grantGive core x.gset.toNat
  (h2.departs core slot).modCore core (fun k =>
    { k with
      ovf := k.ovf.filter (fun e => e.slot != slot),
      slots := SMap.set k.slots slot { Ctx.free with freeAt := x.freeAt, wbase := x.wbase, wsize := x.wsize } })

/-- The slots that are Free from this cycle. -/
def Hw.freeSlots (h : Hw) : Hw :=
  h.cores.foldl (fun h (e : Nat × Core) =>
    (e.2.slots.filter (fun (y : Nat × Ctx) => !y.2.st.taken && y.2.st != .free && decide (y.2.freeAt ≤ h.now))).foldl
      (fun h y => h.freeSlot e.1 y.1) h) h

/-- The chain that quits (R97, R236). -/
def State.quit (s : State) (c : Cur) : State :=
  let s1 := s.onHw (fun h => h.issued c)
  let x := s1.hw.curCtx c
  let r := s1.hw.retireJob c.core c.slot x
  (s1.vacate c.core c.slot false).onHw fun h =>
    if x.task.isTask then (h.modCore c.core (fun k => { k with retiring := k.retiring ++ [r] })).checkRetire c.core x.uid else h

/-- QUIT (R97). -/
def execQuit (_sw : Bool) (s : State) : Res := s.withCur fun c => s.quit c

/-- RET (R277): QUIT where the link stack is empty. -/
def execRet (sw : Bool) (s : State) : Res :=
  s.withCur fun c => if (s.hw.curCtx c).depth = 0 then s.quit c else s.retFrame c sw

/-- BRS discards a Faulted context (R86): its task does not retire (R236). -/
def execBrsDiscard (s : State) : Res :=
  match s.hw.arg with
  | .nats [core, slot] => .next (if (s.hw.ctx core slot).st = .faulted then s.vacate core slot true else s)
  | _ => .fault .noArgument

end Sys2Proof.Machine
end

