-- ==== Sys2Proof/Machine/Service.lean ====
section
/-! DEFINITION. Tenants, launches and the resident service (23_service R469 to R477): sessions, launch requests, the forwarding of
records, the allocation and clearing of clusters (01_machine R36), the deletion of tenants, the operator's requests, attestation
(24_bringup R484). -/

namespace Sys2Proof.Machine

/-- BRS runs (R480, R482). -/
def Hw.serving (h : Hw) : Bool := (h.mod h.self).boot.code == 0xF && !(h.mod h.self).boot.halt

/-- A session is bound to one tenant at creation (R476); one opened before BRS runs is refused (R482). -/
def execUltraEthernetSessionOpen (s : State) : Res :=
  match s.hw.arg with
  | .nats [session, t] =>
    .next <| s.onHw fun h =>
      let m := h.mod h.self
      if h.serving && (m.tenant t).exist && !(m.tenant t).deleting && (SMap.find? m.sessions session).isNone && decide (session < 65536) then
        h.modMod h.self (fun m => { m with sessions := SMap.set m.sessions session t })
      else h
  | _ => .fault .noArgument

/-! ### Launch requests (R471, R472) -/

/-- A quadword of a launch request. -/
def msgQuad (m : LaunchMsg) (i : Nat) : Nat := bits m.toNat (64 * i + 63) (64 * i)

/-- The request is malformed (R472, STATUS 1). -/
def Hw.launchMalformed (h : Hw) (t : Nat) (m : LaunchMsg) : Bool :=
  let q8 := msgQuad m 8
  let q9 := msgQuad m 9
  let node := bits q8 31 16
  let die := bits q8 15 8
  let pcore := bits q9 28 8
  let pin := bitAt q9 29
  bits q8 1 0 != 0 || bits q9 47 30 != 0 || (List.range 5).any (fun i => msgQuad m (11 + i) != 0) || (node != 0 && node != 0xFFFF) ||
    bits q9 3 2 == 0 || decide (7 < die) || (!pin && node == 0xFFFF && h.dieClusters (8 * h.self + die) (some t) == []) ||
    (!pin && pcore != 0) || (pin && bitAt q8 2) || (pin && (h.tenantOf pcore != some t || h.coreDisabled pcore))

/-- The record of a kernel launch (R471), but for its TID. -/
def launchRecord (m : LaunchMsg) (otag : Nat) : BitVec 1024 :=
  let q8 := msgQuad m 8
  let q9 := msgQuad m 9
  let n9 := bits q8 63 32 * 2 ^ 32 + otag % 4096 * 2 ^ 20 + bits q8 7 5 * 2 ^ 17 + bits q9 1 0 * 2 ^ 15 + bits q9 3 2 * 2 ^ 13 + bits q8 4 3 * 2 ^ 11 +
    bits q9 7 4 * 2 ^ 2 + bits q8 2 2 * 2
  let n11 := bits q9 29 29 * 2 ^ 63 + bits q9 28 8 * 2 ^ 42
  BitVec.ofNat 1024 (m.toNat % 2 ^ 512 + 2 ^ 576 * n9 + 2 ^ 704 * n11)

/-- The number of the first loaded package that holds a digest (R472). -/
def Tenant.launcher (t : Tenant) (d : BitVec 256) : Option Nat :=
  SMap.first t.packs (fun p => p.st == .loaded && (p.kernel d).isSome)

/-- The status of a launch request (R472): the first failure decides. -/
def Hw.launchStatus (h : Hw) (t : Nat) (m : LaunchMsg) : Nat :=
  let ten := (h.mod h.self).tenant t
  let q8 := msgQuad m 8
  let q9 := msgQuad m 9
  let kernel := bits q8 31 16 = 0xFFFF
  let held :=
    if kernel then (ten.launcher (BitVec.ofNat 256 m.toNat)).isSome
    else match SMap.find? ten.packs (bits q9 63 48) with | some p => p.st == .loaded | none => false
  let die := if bitAt q9 29 then dieOf (bits q9 28 8) else 8 * h.self + bits q8 15 8
  if h.launchMalformed t m then 1
  else if !held then 2
  else if bitAt q8 2 ∧ h.clusterCount h.self (some t) < 2 then 3
  else if kernel ∧ h.headroomShort die t then 4
  else if (SMap.find? ten.dir (bits q8 63 32)).isNone then 5
  else 0

/-- A launch message is acted on (R471, R472): the record enters a die queue, or the graph is launched, and BRS replies; what it refuses
leaves nothing. -/
def execLaunchRequest (s : State) : Res :=
  match s.hw.arg with
  | .launch session m =>
    .next <| s.onHw fun h =>
      match h.sessionTenant session with
      | none => h
      | some t =>
        let q8 := msgQuad m 8
        let q9 := msgQuad m 9
        let ten := (h.mod h.self).tenant t
        let otag := ((SMap.find? ten.dir (bits q8 63 32)).map (fun p => p.otag)).getD 0
        let reqid := msgQuad m 10
        match h.launchStatus t m with
        | 0 =>
          if bits q8 31 16 = 0 then
            h.schedule h.now .graphLaunch (.nats [session, t, bits q9 63 48, bits q8 63 32, bits q8 7 5, otag, bits q8 4 3, reqid])
          else
            let die := if bitAt q9 29 then dieOf (bits q9 28 8) else 8 * h.self + bits q8 15 8
            let tid := h.newTid (64 * die)
            let h1 := tid.2.enterRecord (1024 * die) t .die (recPut (launchRecord m otag) 8 0 64 tid.1)
            let n := (ten.launcher (BitVec.ofNat 256 m.toNat)).getD 0
            (h1.modTenant h.self t (fun x => { x with packs := x.packs.map (fun (e : Nat × Package) =>
              if e.1 = n then (e.1, { e.2 with launches := e.2.launches.filter (fun l => l.1.any h.tidAlive) ++ [([tid.1], [])] }) else e) })).tell
                session (launchReply reqid tid.1 0)
        | st => h.tell session (launchReply reqid 0 st)
  | _ => .fault .noArgument

/-! ### Events and audits (R473) -/

/-- BRS forwards the next records of a ring, at most 64, in ring order: 0 the event ring, 1 the audit ring. -/
def execEventForward (s : State) : Res :=
  match s.hw.arg with
  | .nats [session, ring] =>
    .next <| s.onHw fun h =>
      match h.sessionTenant session with
      | none => h
      | some t =>
        let ten := (h.mod h.self).tenant t
        let next := if ring = 0 then (ten.events.drop ten.eventSent).take 64 else (ten.audits.drop ten.auditSent).take 64
        if next = [] then h
        else
          (h.modTenant h.self t (fun x =>
            if ring = 0 then { x with eventSent := x.eventSent + next.length } else { x with auditSent := x.auditSent + next.length })).tell session
            (next.flatMap (fun r => bytesLE 32 r.toNat))
  | _ => .fault .noArgument

/-- A tenant acknowledges records that were forwarded: their entries are free. -/
def execTenantAcknowledge (s : State) : Res :=
  match s.hw.arg with
  | .nats [session, ring, n] =>
    .next <| s.onHw fun h =>
      match h.sessionTenant session with
      | none => h
      | some t => h.modTenant h.self t (fun x =>
          if ring = 0 then { x with events := x.events.drop (min n x.eventSent), eventSent := x.eventSent - min n x.eventSent }
          else { x with audits := x.audits.drop (min n x.auditSent), auditSent := x.auditSent - min n x.auditSent })
  | _ => .fault .noArgument

/-! ### The principal directory (R417) -/

/-- Places principals in a directory: each in the first free entry from the low bits of its number. -/
def dirPlace : List (Nat × Principal) → SMap (Nat × Principal) → SMap (Nat × Principal)
  | [], d => d
  | (p, v) :: r, d =>
    let at_ := ((List.range 4096).map (fun i => (p % 4096 + i) % 4096)).find? (fun i => (SMap.find? d i).isNone)
    dirPlace r (match at_ with | some i => SMap.set d i (p, v) | none => d)

/-- Writes a copy of a tenant's directory at a physical address, with a grant block of 512 bytes for each entry 64 KiB behind it
(notes/assumptions/17.md). -/
def Mem.putDirectory (m : Mem) (root : Nat) (dir : SMap Principal) : Mem :=
  (dirPlace dir []).foldl (fun (m : Mem) e =>
    let block := root + 0x10000 + 512 * e.1
    (m.putN (dramKeyOf (root + 16 * e.1)) (bytesLE 8 (2 ^ 63 + e.2.2.otag % 4096 * 2 ^ 32 + e.2.1) ++ bytesLE 8 (block / 64 * 64))).putN
      (dramKeyOf block) (bytesLE 512 e.2.2.grants.toNat)) (m.clear (dramKeyOf root) (dramKeyOf (root + 0x10000)))

/-- Rewrites every die's copy of a tenant's directory. -/
def State.writeDirectory (s : State) (t : Nat) : State :=
  let dir := ((s.hw.mod s.hw.self).tenant t).dir
  (s.hw.dies.filter (fun (d : Nat × Die) => d.1 / 8 == s.hw.self)).foldl (fun s d =>
    match SMap.find? d.2.droots t with
    | some root => s.onMem (fun m => m.putDirectory root dir)
    | none => s) s

/-- The capability map (R20): for each die 128 bytes of enable bits and the count of enabled cores. -/
def Module.capMap (m : Module) : List Byte :=
  (List.range 8).flatMap fun d =>
    let on := (List.range 1024).filter (fun i => !m.disabled.contains (1024 * d + i))
    bytesLE 128 (on.foldl (fun v i => v + 2 ^ i) 0) ++ bytesLE 2 on.length

/-- The operator creates a tenant, or sets its principals, trust anchors, translation peers or package store (R469); a tenant asks for the capability
map on its session (R20). -/
def execOperatorRequest (s : State) : Res :=
  match s.hw.arg with
  | .operator r =>
    .next <|
      let m := s.hw.mod s.hw.self
      let set (t : Nat) (f : Tenant → Tenant) : State :=
        if s.hw.serving && (m.tenant t).exist && !(m.tenant t).deleting then s.onHw (fun h => h.modTenant h.self t f) else s
      match r with
      | .createTenant t =>
        if s.hw.serving && decide (t < 64) && !(m.tenant t).exist then
          s.onHw (fun h => h.modTenant h.self t (fun _ => { Tenant.none with exist := true })) else s
      | .setPrincipal t prin otag grants => (set t (fun x =>
          if x.dir.length < 4096 ∨ (SMap.find? x.dir (prin % 2 ^ 32)).isSome then
            { x with dir := SMap.set x.dir (prin % 2 ^ 32) ⟨otag % 4096, grants⟩ } else x)).writeDirectory t
      | .setAnchors t signers => set t (fun x => { x with anchors := signers.take 16 })
      | .setPeers t peers => set t (fun x => { x with peers := peers.take 8 })
      | .setStore t l => set t (fun x => { x with store := l })
      | .readMap session => if (s.hw.sessionTenant session).isSome then s.onHw (fun h => h.tell session m.capMap) else s
  | _ => .fault .noArgument

/-! ### Clusters (R36, R470) -/

/-- What an allocation gives the cores of a cluster (R470). -/
structure CoreSetup where
  mode : Nat
  age : Nat
  deqb : Nat
  deql : Nat
  ovfb : Nat
  ovfl : Nat
  save : Nat
deriving DecidableEq, Repr

/-- The lists of a tenant's clusters on its cores (R231). -/
def Hw.listClusters (h : Hw) (t : Nat) : Hw :=
  let l := (h.clusters.filter (fun (c : Nat × Cluster) => c.1 / 512 == h.self && c.2.owner == some t)).map (fun c => c.1)
  (h.tenantCores h.self t).foldl (fun h c => h.modCore c (fun k => { k with stealList := l })) h

/-- BRS allocates a cluster to a tenant (R34, R470), with page tables and a directory copy on its die at physical addresses that BRS
chooses. -/
def execClusterAllocation (s : State) : Res :=
  match s.hw.arg with
  | .nats [clu, t, mode, elim, age, deqb, deql, ovfb, ovfl, save, cap, root, droot] =>
    .next <|
      let m := s.hw.mod s.hw.self
      let u : CoreSetup := ⟨mode, age, deqb, deql, ovfb, ovfl, save⟩
      if s.hw.serving && clu / 512 == s.hw.self && (m.tenant t).exist && !(m.tenant t).deleting && (s.hw.cluster clu).owner.isNone &&
          !m.clearing.contains clu && decide (2 ≤ elim) && decide (elim ≤ 64) && decide (deql ≤ 0x5C000) && decide (ovfl ≤ 0x5C000) then
        let s1 := s.onHw fun h =>
          let h1 := h.modCluster clu (fun c => { c with owner := some t, elim := elim })
          let h2 := ((List.range 16).map (fun i => 16 * clu + i)).foldl (fun h c =>
            if h.coreDisabled c then h
            else (h.modCore c (fun k => { k with
                age := u.age, deqb := u.deqb, deql := u.deql, ovfb := u.ovfb, ovfl := u.ovfl, saveBase := some u.save })).schedule h.now
              .coreModeSet (.nats [c, u.mode])) h1
          let die := clu / 64
          let h3 := h2.modDie die (fun d => { d with roots := SMap.set d.roots t root, droots := SMap.set d.droots t droot })
          let q := h3.dieQueue die t
          let k := 1 + (h3.dieClusters die (some t)).length
          let given := decide (8 * k ≤ cap)
          let n := if given then cap else 32 * k
          let h4 := h3.setDieQueue die t { q with cap := if given then cap else max q.cap n, setup := n }
          ((h4.modTenant h.self t (fun x => { x with clusters := x.clusters ++ [clu], pageRoot := root })).listClusters t).askCluster clu 0
        s1.writeDirectory t
      else s
  | _ => .fault .noArgument

/-- A step that is on its way to a core of a cluster: a message, a copy, a spawned context, a tensor return (R36). -/
def Due.boundFor (d : Due) (clu : Nat) : Bool :=
  match d.instr, d.arg with
  | .sendArrival, .msg m _ => clusterOf m.core == clu
  | .multicastCopyArrival, .msg m _ => clusterOf m.core == clu
  | .spawnArrival, .words (_ :: _ :: c :: _) _ => clusterOf c == clu
  | .tensorReturn, .acc a _ => a.pieces.any (fun p => clusterOf (keyCore p.key) == clu)
  | .tensorReturn, .nats (_ :: _ :: held :: _) => clusterOf (handleHome held) == clu
  | .deathAction, .nats (2 :: _ :: held :: _) => clusterOf (handleHome held) == clu
  | _, _ => false

/-- Every command and request issued on a cluster's cores has completed or failed, and every message and return sent to them has been
applied (R36). -/
def Hw.quiet (h : Hw) (clu : Nat) : Bool :=
  (h.cores.filter (fun (e : Nat × Core) => clusterOf e.1 == clu)).all (fun (e : Nat × Core) =>
    e.2.copy.isNone && e.2.e0 == [] && e.2.matCmds == [] && e.2.vjobs == [] && e.2.sfuq.all (fun c => decide (c ≤ h.now)) && e.2.out == [] &&
      e.2.owed == [] && e.2.sends == [] && e.2.mcs == [] && e.2.pipeq == []) && !h.agenda.any (fun d => d.boundFor clu)

/-- Ends the contexts of a cluster (R36). -/
def State.endContexts (s : State) (clu : Nat) : State :=
  (s.hw.clusterSlots clu).foldl (fun s p => if (s.hw.ctx p.1 p.2).st.taken then s.vacate p.1 p.2 false else s) s

/-- Clears a core's slice but for its granules of the K map; the save block and the record area are cleared with it (R36). -/
def Mem.clearSlice (m : Mem) (core : Nat) (save : Option Nat) (kmap : List Nat) : Mem :=
  let base := dramKeyOf (core * 2 ^ 28)
  let kept (k : Nat) : Bool :=
    decide (k < base) || decide (base + 2 ^ 28 ≤ k) ||
      (kmap.contains ((k - Config.dramKey) / 65536) && decide (k < base + Config.recordArea) &&
        !(match save with | some o => decide (base + o ≤ k) && decide (k < base + o + 0x420000) | none => false))
  { bytes := m.bytes.filter (fun c => kept c.1), tags := m.tags.filter (fun c => kept (32 * c.1)), poison := m.poison.filter (fun c => kept (32 * c.1)) }

/-- A core as the clearing leaves it: its kind and its modes stand until the next allocation sets them. -/
def Core.cleared (k : Core) : Core := { Core.reset with svc := k.svc }

/-- Clears a cluster (R36). -/
def State.clearCluster (s : State) (clu : Nat) : State :=
  let module := clu / 512
  let kmap := (s.hw.mod module).kmap
  let cores := (List.range 16).map (fun i => 16 * clu + i)
  let s1 := cores.foldl (fun s c =>
    s.onMem (fun m => (m.clear (scratchKey c 0) (scratchKey (c + 1) 0)).clearSlice c (s.hw.core c).saveBase kmap)) s
  s1.onHw fun h =>
    let h1 := cores.foldl (fun h c => h.modCore c Core.cleared) h
    let owner := (h1.cluster clu).owner
    let h2 := h1.modCluster clu (fun c => { Cluster.reset with tids := c.tids })
    let h3 : Hw := { h2 with
      cells := h2.cells.filter (fun (e : Nat × CellBind) => clusterOf (keyCore e.1) != clu),
      reds := h2.reds.filter (fun (e : Nat × RedSlot) => e.1 / 32 != 16 * clu) }
    let h4 := h3.modMod module (fun m => { m with
      clearing := m.clearing.filter (fun c => c != clu), heldPages := m.heldPages.filter (fun p => clusterOf p.1.core != clu),
      pageReqs := m.pageReqs.filter (fun q => clusterOf q.core != clu), traps := m.traps.filter (fun q => clusterOf q.core != clu),
      searches := m.searches.filter (fun q => q.clu != clu) })
    match owner with
    | some t => (h4.modTenant module t (fun x => { x with clusters := x.clusters.filter (fun c => c != clu) })).listClusters t
    | none => h4

/-- The clearing of a cluster cancels its bookings that have not started (R311), with a record each (R320). -/
def Hw.cancelAll (h : Hw) (clu : Nat) : Hw :=
  (h.cluster clu).bookings.foldl (fun h (e : Nat × Booking) =>
    if e.2.state = .booked ∨ e.2.state = .staging then h.cancelBooking clu e.1 4 else h) h

/-- BRS clears a cluster (R36): its bookings that have not started are Cancelled, its contexts end, everything issued and sent is waited for, and then all of its state is cleared. -/
def execClusterClear (s : State) : Res :=
  match s.hw.arg with
  | .nats [clu] =>
    .next <| ((s.onHw (fun h => h.cancelAll clu)).endContexts clu).onHw fun h =>
      (h.modMod (clu / 512) (fun m => { m with clearing := if m.clearing.contains clu then m.clearing else clu :: m.clearing })).schedule h.now
        .clusterClear (.nats [clu, 1])
  | .nats [clu, _] =>
    .next <|
      let s1 := s.endContexts clu
      if !(s1.hw.mod (clu / 512)).clearing.contains clu then s1
      else if s1.hw.quiet clu then s1.clearCluster clu
      else s1.onHw (fun h => h.after 16 .clusterClear (.nats [clu, 1]))
  | _ => .fault .noArgument

/-- BRS deletes a tenant (R475): it refuses its requests, discards its records and contexts, clears its clusters, then drops the
rings. -/
def execTenantDeletion (s : State) : Res :=
  match s.hw.arg with
  | .nats [t] =>
    .next <| s.onHw fun h =>
      if !((h.mod h.self).tenant t).exist then h
      else
        let h1 := h.modTenant h.self t (fun x => { x with deleting := true })
        let h2 : Hw := { h1 with
          dies := h1.dies.map (fun (d : Nat × Die) => if d.1 / 8 = h1.self then (d.1, { d.2 with queues := SMap.erase d.2.queues t }) else d) }
        (((h2.mod h2.self).tenant t).clusters.foldl (fun h c => h.schedule h.now .clusterClear (.nats [c])) h2).schedule h2.now .tenantDeletion
          (.nats [t, 1])
  | .nats [t, _] =>
    .next <| s.onHw fun h =>
      if ((h.mod h.self).tenant t).clusters ≠ [] then h.after 16 .tenantDeletion (.nats [t, 1])
      else
        let h1 : Hw := { h with
          dies := h.dies.map (fun (d : Nat × Die) =>
            if d.1 / 8 = h.self then
              (d.1, { d.2 with roots := SMap.erase d.2.roots t, droots := SMap.erase d.2.droots t, queues := SMap.erase d.2.queues t,
                               tlb := d.2.tlb.filter (fun e => e.tenant != t), wcache := d.2.wcache.filter (fun e => e.tenant != t) })
            else d) }
        h1.modMod h.self (fun m => { m with
          tenants := SMap.erase m.tenants t, sessions := m.sessions.filter (fun (e : Nat × Nat) => e.2 != t),
          groups := m.groups.filter (fun (e : Nat × McGroup) => e.2.tenant != t) })
  | _ => .fault .noArgument

/-! ### Attestation (R484) -/

/-- The 288 bytes of a report (R484). -/
def Hw.report (h : Hw) (nonce : List Byte) : List Byte :=
  let m := h.mod h.self
  let b := m.boot
  let cores := 8192 - m.disabled.length
  bytesLE 8 (modelB2 * 2 ^ 48 + 2 ^ 32 + 0x54415659) ++ bytesLE 8 (h.self % 256 * 2 ^ 56 + cores % 2 ^ 14 * 2 ^ 32) ++
    (nonce ++ bytesLE 32 0).take 32 ++ bytesLE 64 b.fwm.toNat ++ bytesLE 64 b.brsm.toNat ++ bytesLE 64 b.pkgm.toNat ++
    sha512256 (bytesBE 512 Config.identityModulus) ++ bytesLE 8 (h.now - m.since) ++ bytesLE 8 b.npkg

/-- A report's signature with the identity key (R481, R484). -/
def signReport (r : List Byte) : List Byte :=
  bytesBE 512 (powMod 4097 (beVal (emsa r)) Config.identityExponent Config.identityModulus)

/-- The load log as BRS returns it (R484): the operation, the tenant and the identity of each entry. -/
def Boot.logBytes (b : Boot) : List Byte :=
  b.log.flatMap (fun e => bytesLE 1 e.1 ++ bytesLE 1 e.2.1 ++ bytesLE 32 e.2.2.toNat)

/-- The I3C port, as a session. -/
def i3cPort : Nat := 65536

/-- An attestation request from a tenant session or over I3C is answered (R484, R485); the load log follows on request. -/
def execAttestationRequest (s : State) : Res :=
  match s.hw.arg with
  | .blob [session, log] nonce =>
    .next <| s.onHw fun h =>
      if h.serving && (session == i3cPort || (h.sessionTenant session).isSome) then
        let r := h.report nonce
        h.tell session (r ++ bytesBE 512 Config.identityModulus ++ signReport r ++ (if log = 0 then [] else (h.mod h.self).boot.logBytes))
      else h
  | _ => .fault .noArgument

end Sys2Proof.Machine
end

