-- ==== Sys2Proof/Machine/Boot.lean ====
section
/-! DEFINITION. Start-up of the module, its management port, power and cooling, telemetry (24_bringup R479 to R487). The boot steps act
on what the outside world supplies: the module number, the images on NVMe, the outcome of training. -/

namespace Sys2Proof.Machine

/-! ### The registers of the I3C port (R485) -/

/-- The boot status register (R480). -/
def Boot.status (b : Boot) : BitVec 16 :=
  BitVec.ofNat 16 (bit b.halt * 2 ^ 15 + (if b.halt then b.die % 8 else 0) * 2 ^ 8 + b.code % 256)

/-- The boot order stands at a step, and the module has not halted (R480). -/
def Boot.at (b : Boot) (step : Nat) : Bool := b.code == step && !b.halt

/-- Changes this module's boot record. -/
def Hw.modBoot (h : Hw) (f : Boot → Boot) : Hw := h.modMod h.self (fun m => { m with boot := f m.boot })

/-- The module halts (R480, R486): the error code, and the die that it names. -/
def Hw.halt (h : Hw) (code die : Nat) : Hw := h.modBoot (fun b => { b with halt := true, die := die, code := code })

/-! ### Reset (R479) -/

/-- A module after a reset: what is fused or built in stands. -/
def Module.restart (m : Module) (now : Nat) : Module :=
  { Module.reset with since := now, board := m.board, rack := m.rack, fused := m.fused, lastUp := now }

/-- Scratchpads of a module, with those of its service cores, as ranges of keys (R23). -/
def scratchRanges (m : Nat) : List (Nat × Nat) :=
  [(scratchKey (8192 * m) 0, scratchKey (8192 * (m + 1)) 0),
    (scratchKey (firstService + 32 * m) 0, scratchKey (firstService + 32 * (m + 1)) 0)]

/-- A module's cores, clusters, dies and records are as reset leaves them, and what was under way is dropped (R479). -/
def Hw.restart (h : Hw) : Hw :=
  let m := h.self
  { h with
    agenda := State.reset.hw.agenda.map (fun d => { d with at_ := h.now + d.at_ })
    cur := none
    cores := h.cores.filter (fun (e : Nat × Core) => moduleOf e.1 != m)
    clusters := h.clusters.filter (fun (e : Nat × Cluster) => e.1 / 512 != m)
    dies := h.dies.filter (fun (e : Nat × Die) => e.1 / 8 != m)
    mods := SMap.set h.mods m ((h.mod m).restart h.now)
    cells := h.cells.filter (fun (e : Nat × CellBind) => moduleOf (keyCore e.1) != m)
    reds := []
    nodeAt := []
    bookEnds := [] }

/-- The reset of a module (R479): DRAM stands until step 4 of the boot order. -/
def State.restart (s : State) : State :=
  (s.onMem (fun m => (scratchRanges s.hw.self).foldl (fun m r => m.clear r.1 r.2) m)).onHw Hw.restart

/-- Power-on reset (R479). -/
def execPowerOnReset (s : State) : Res := .next s.restart

/-- A write of the RESET register: 0xA5 requests a reset (R485); another value does nothing. -/
def execI3cReset (s : State) : Res :=
  match s.hw.arg with
  | .nats [v] => .next (if v = 0xA5 then s.restart else s)
  | _ => .fault .noArgument

/-! ### The boot order (R480) -/

/-- A write of MODNUM, once in a reset, assigns the module number, and step 1 ends (R22, R480, R485). -/
def execModnum (s : State) : Res :=
  match s.hw.arg with
  | .nats [n] =>
    .next <| s.onHw fun h =>
      let m := h.mod h.self
      if m.boot.at 1 && !m.boot.numbered && decide (n < 256) && (n == h.self || !h.hasModule n) then
        { h with self := n, mods := SMap.set (SMap.erase h.mods h.self) n { m with boot := { m.boot with numbered := true, code := 2 } } }
      else h
  | _ => .fault .noArgument

/-- A module number has not come within 2^24 cycles: the ROM waits on, with status 1 held (R480). -/
def execModuleNumberWaitExpiry (s : State) : Res := .next s

/-- An image ends in the signer's modulus and a signature over every byte before the signature (R481): the digest of the signer, where
the signature verifies. -/
def imageSigner (b : List Byte) : Option (BitVec 256) :=
  let n := b.length
  let modulus := (b.drop (n - 1024)).take 512
  if decide (1024 ≤ n) && rsaVerifies modulus (b.drop (n - 512)) (b.take (n - 512)) then some (digestBytes modulus) else none

/-- A measurement register after an extension by an image (R483). -/
def measure (v : BitVec 512) (b : List Byte) : BitVec 512 := BitVec.ofNat 512 (valLE (sha512 (bytesLE 64 v.toNat ++ sha512 b)))

/-- A boot partition holds firmware of the vendor (R481). -/
def vendorImage (p : Option (List Byte)) : Option (List Byte) :=
  match p with
  | some b => if imageSigner b = some Config.vendorKey then some b else none
  | none => none

/-- Steps 2 and 3: the ROM reads firmware from the NVMe boot partitions 0 and 1 and verifies it (R480, R481). -/
def execBootFirmwareVerify (s : State) : Res :=
  match s.hw.arg with
  | .blobs p q =>
    .next <| s.onHw fun h =>
      if !(h.mod h.self).boot.at 2 then h
      else
        let take (n : Nat) (b : List Byte) : Hw :=
          h.modBoot (fun x => { x with fw := n, signer := Config.vendorKey, fwm := measure x.fwm b, code := 4 })
        match vendorImage p, vendorImage q with
        | some b, _ => take 1 b
        | none, some b => take 2 b
        | none, none => (h.modBoot (fun x => { x with fw := 2 })).halt 3 0
  | _ => .fault .noArgument

/-- Step 4: the DRAM of all dies is trained, every sector of every slice is zero with tag 0 and no poison, and the capability map is
written from the fuses (R20, R480); the argument holds the dies whose DRAM does not train. -/
def execBootDramTrain (s : State) : Res :=
  match s.hw.arg with
  | .nats failing =>
    .next <|
      let m := s.hw.self
      if !(s.hw.mod m).boot.at 4 then s
      else if failing ≠ [] then s.onHw (fun h => h.halt 4 (failing.foldl min 7))
      else (s.onMem (fun x => x.clear (dramKeyOf (m * 2 ^ 41)) (dramKeyOf ((m + 1) * 2 ^ 41)))).onHw (fun h =>
        h.modMod m (fun x => { x with disabled := x.fused, boot := { x.boot with code := 5 } }))
  | _ => .fault .noArgument

/-- Step 5: the 48 uplinks train (R451, R480). -/
def execBootUplinkTrain (s : State) : Res :=
  .next <| s.onHw fun h =>
    let m := h.self
    if !(h.mod m).boot.at 5 then h
    else
      let h1 := (List.range 48).foldl (fun h u => h.linkTo m u .training 0) h
      ((h1.modMod m (fun x => { x with lastUp := h1.now })).after 65536 .ownUplinksDown (.nats [m])).modBoot (fun b => { b with code := 6 })

/-- Step 6: the K map, and the leaves with K of BRS text and tables, are written, and the map is locked (R175, R480): a list of granules,
and the leaves as address and two quadwords each. -/
def execBootKMapLock (s : State) : Res :=
  match s.hw.arg with
  | .words granules leaves =>
    .next <|
      if !(s.hw.mod s.hw.self).boot.at 6 then s
      else
        (s.writeLeaves none (leaves.map (fun w => w.toNat))).onHw fun h =>
          h.modMod h.self (fun m => { m with kmap := granules, klocked := true, boot := { m.boot with code := 7 } })
  | _ => .fault .noArgument

/-- Step 7: BRS, read from NVMe, carries the signer of the firmware, and BRSM is extended (R480, R481, R483). -/
def execBootBrsVerify (s : State) : Res :=
  match s.hw.arg with
  | .blobs p _ =>
    .next <| s.onHw fun h =>
      let b := (h.mod h.self).boot
      if !b.at 7 then h
      else
        match p with
        | some i => if imageSigner i = some b.signer then h.modBoot (fun b => { b with brsm := measure b.brsm i, code := 8 }) else h.halt 7 0
        | none => h.halt 7 0
  | _ => .fault .noArgument

/-- Step 8: the compute cores leave reset, in native mode with every slot Free, and BRS runs on the 32 service cores (R480, R482). -/
def execBootRelease (s : State) : Res :=
  .next <| s.onHw fun h =>
    if !(h.mod h.self).boot.at 8 then h
    else
      ((List.range 32).foldl (fun h i => h.modCore (firstService + 32 * h.self + i) (fun k => { k with svc := true })) h).modBoot
        (fun b => { b with code := 0xF })

/-! ### Power and cooling (R486) -/

/-- Readings of the dies are taken. -/
def Hw.sense (h : Hw) (l : List ThermalReading) : Hw :=
  h.modMod h.self (fun m => l.foldl (fun m r => { m with
    temps := SMap.set m.temps (r.hotDie % 8) r.junctionTenthsC, powers := SMap.set m.powers (r.hotDie % 8) r.powerMilliW }) m)

/-- The highest junction temperature, in tenths of a degree. -/
def Module.hottest (m : Module) : Nat := m.temps.foldl (fun n (e : Nat × Nat) => max n e.2) 0

/-- The power of the module over its dies, in milliwatts. -/
def Module.power (m : Module) : Nat := m.powers.foldl (fun n (e : Nat × Nat) => n + e.2) 0

/-- The die of the highest junction temperature. -/
def Module.hotDie (m : Module) : Nat := ((List.range 8).find? (fun d => SMap.get 0 m.temps d == m.hottest)).getD 0

/-- Over 95 °C on a die, or over 3.2 kW, the clock falls by a step of 1/16; once both measures are 5 % below their limits it rises by one
(R486). Counts in cycles do not change. -/
def execThermalThrottle (s : State) : Res :=
  match s.hw.arg with
  | .thermal l =>
    .next <| s.onHw fun h =>
      let h1 := h.sense l
      let m := h1.mod h1.self
      if 950 < m.hottest ∨ 3200000 < m.power then h1.modBoot (fun b => { b with clock := min 15 (b.clock + 1) })
      else if 20 * m.hottest ≤ 19 * 950 ∧ 20 * m.power ≤ 19 * 3200000 then h1.modBoot (fun b => { b with clock := b.clock - 1 })
      else h1
  | _ => .fault .noArgument

/-- At 105 °C on a die the module stops all clocks and halts with error code 0xE and the hottest die (R486). -/
def execThermalHalt (s : State) : Res :=
  match s.hw.arg with
  | .thermal l =>
    .next <| s.onHw fun h =>
      let h1 := h.sense l
      let m := h1.mod h1.self
      if 1050 ≤ m.hottest then h1.halt 0xE m.hotDie else h1
  | _ => .fault .noArgument

/-! ### Telemetry (R487) -/

/-- A sample: the cluster number and count of R31, the measures and counts of each die, the LNKST word of each uplink, the clock step. -/
def Module.sample (m : Module) (self now : Nat) : List Nat :=
  [512 * self, now] ++
    (List.range 8).flatMap (fun d =>
      [SMap.get 0 m.temps d, SMap.get 0 m.powers d, SMap.get 0 m.ecc (8 * d), SMap.get 0 m.ecc (8 * d + 1), SMap.get 0 m.ecc (8 * d + 2)]) ++
    (List.range 48).map (fun u => (m.link u).word) ++ [m.boot.clock]

/-- Every 2^16 cycles telemetry is sampled (R487). -/
def execTelemetrySample (s : State) : Res :=
  .next <| s.onHw fun h =>
    (h.modMod h.self (fun m => { m with telem := m.sample h.self (h.now - m.since) })).after 65536 .telemetrySample .none

end Sys2Proof.Machine
end

