-- ==== Sys2Proof/Machine/Background.lean ====
section
/-! DEFINITION. Background work in its grains (01_machine R37 to R40): DRAM refresh with patrol scrub, scratchpad scrub, link
calibration. What the scrubs find is the outside world's to say; the delays that the grains cause are `Hw.bankHold` and
`Hw.calibration` (R161). -/

namespace Sys2Proof.Machine

/-- What a scrub grain can find (R37, R39): the core's grain `g` is one of that work (g mod `period` = `rest`), none has been told of it yet; of the
`rate` sectors checked, those that fail (`bad`, by keys) are its own, and each half of the others holds at most one error to
correct. Which sectors the grain checks the spec does not say, so the finder names them (DESIGN CHOICE, log 108). -/
def Hw.scrubFinds (h : Hw) (core site period rest rate n : Nat) (bad : List Nat) : Bool :=
  let g := h.grainNow (clusterOf core)
  g % period == rest && SMap.get 0 (h.core core).scrubAt site < g &&
    bad.all (fun k => keyCore k == core && keyDram k == (site == 0) && k % 32 == 0) && decide bad.Nodup &&
    decide (n + 2 * bad.length ≤ 2 * rate)

/-- A scrub of a core has found errors (R37, R38): `n` single-bit errors are corrected in place and counted (`site` 0 DRAM, 1
scratchpad); the sectors that fail their check are poisoned. -/
def State.scrub (s : State) (core site n : Nat) (bad : List Nat) : State :=
  (s.onMem (fun m => bad.foldl (fun m k => m.setPoison k true) m)).onHw fun h =>
    ((h.countEcc core site n).countEcc core 3 bad.length).modCore core (fun k =>
      { k with scrubAt := SMap.set k.scrubAt site (h.grainNow (clusterOf core)) })

/-- A refresh grain (R39): g mod 256 = 255; 4 sectors are checked. -/
def execDramRefreshGrain (s : State) : Res :=
  match s.hw.arg with
  | .nats (core :: n :: bad) => .next (if s.hw.scrubFinds core 0 256 255 4 n bad then s.scrub core 0 n bad else s)
  | _ => .fault .noArgument

/-- A scrub grain of a scratchpad (R39): g mod 1,024 = 511; 64 sectors are checked. -/
def execScratchpadScrubGrain (s : State) : Res :=
  match s.hw.arg with
  | .nats (core :: n :: bad) => .next (if s.hw.scrubFinds core 1 1024 511 64 n bad then s.scrub core 1 n bad else s)
  | _ => .fault .noArgument

/-- Link calibration (R39, R451): one lane set of an Up or Degraded link is tuned, and no state changes. -/
def execLinkCalibrationGrain (s : State) : Res := .next s

end Sys2Proof.Machine
end

