-- ==== Sys2Proof/Machine/CoreImage.lean ====
section
/-! DEFINITION. The core image (12_preempt R261, R262): CSAVE and CLOAD. The order within the block at offset 0xA_4000, and after
the latches, is the model's (notes/assumptions/21.md). -/

namespace Sys2Proof.Machine

/-! ### Parts of the image -/

/-- Bytes of an image. -/
def imageLen : Nat := 0xC5000

/-- Clears bytes and poison of a range of keys; its tags stay. -/
def Mem.blank (m : Mem) (lo n : Nat) : Mem :=
  { m with bytes := sparseClear m.bytes lo (lo + n), poison := sparseClear m.poison (lo / 32) ((lo + n) / 32) }

/-- Writes numbers of eight bytes from a key upward. -/
def Mem.putQuads (m : Mem) (key : Nat) (l : List Nat) : Mem := m.putN key (l.flatMap (fun q => bytesLE 8 (q % 2 ^ 64)))

/-- A quadword at a key. -/
def Mem.quad (m : Mem) (key : Nat) : Nat := m.val key 8

/-! ### Matrix state (R261, R410) -/

/-- The rows of a latch. -/
def Latch.save (l : Latch) (m : Mem) (rows scales : Nat) : Mem :=
  let m1 := l.rows.foldl (fun m (e : Nat × BitVec 1024) => if e.1 < 32 then m.putN (rows + 128 * e.1) (bytesLE 128 e.2.toNat) else m) m
  l.scales.foldl (fun m (e : Nat × BitVec 256) => if e.1 < 32 then m.putN (scales + 32 * e.1) (bytesLE 32 e.2.toNat) else m) m1

/-- A latch read back. -/
def Mem.latch (m : Mem) (rows scales head : Nat) : Latch :=
  let q := m.val head 1
  { valid := bitAt q 7, fmt := bits q 2 0, rows := (List.range 32).map (fun i => (i, BitVec.ofNat 1024 (m.val (rows + 128 * i) 128))),
    scales := (List.range 32).map (fun i => (i, BitVec.ofNat 256 (m.val (scales + 32 * i) 32))) }

/-- Bits of a set of numbers below `n`, as bytes. -/
def setBytes (n : Nat) (p : Nat → Bool) : List Byte :=
  (List.range (n / 8)).map (fun i => BitVec.ofNat 8 ((List.range 8).foldl (fun v j => v + bit (p (8 * i + j)) * 2 ^ j) 0))

/-- The numbers whose bits are set in a map of `n` bits. -/
def Mem.setAt (m : Mem) (key n : Nat) : List Nat :=
  (List.range (n / 8)).flatMap (fun i =>
    let b := m.val (key + i) 1
    if b = 0 then [] else ((List.range 8).filter (fun j => bitAt b j)).map (fun j => 8 * i + j))

/-- The four tiles and the two latches. -/
def Core.saveMatrix (k : Core) (m : Mem) (base : Nat) : Mem :=
  let tile (i : Nat) : Tile := SMap.get .reset k.acc i
  let m1 := (List.range 4).foldl (fun m i =>
    let t := tile i
    let m1 := t.entries.foldl (fun m (e : Nat × BitVec 128) =>
      if e.1 < 1024 then m.putN (base + 0x90000 + 0x4000 * i + 16 * e.1) (bytesLE 16 e.2.toNat) else m) m
    (m1.putN (base + 0xA2800 + 128 * i) (setBytes 1024 (fun j => (SMap.find? t.inv j).isSome))).putN (base + 0xA2A00 + i) (bytesLE 1 (bit t.f32))) m
  let head (l : Latch) : List Byte := bytesLE 1 (l.fmt % 8 + 128 * bit l.valid)
  (k.latB.save (k.latA.save m1 (base + 0xA0000) (base + 0xA2000)) (base + 0xA1000) (base + 0xA2400)).putN (base + 0xA2A08)
    (head k.latA ++ head k.latB)

/-- The same read back. -/
def Core.loadMatrix (k : Core) (m : Mem) (base : Nat) : Core :=
  { k with
    acc := (List.range 4).map (fun i =>
      (i, { f32 := m.val (base + 0xA2A00 + i) 1 % 2 == 1,
            entries := ((List.range 1024).map (fun e => (e, BitVec.ofNat 128 (m.val (base + 0x90000 + 0x4000 * i + 16 * e) 16)))).filter
              (fun p => p.2 != 0),
            inv := (m.setAt (base + 0xA2800 + 128 * i) 1024).map (fun j => (j, ())) })),
    latA := m.latch (base + 0xA0000) (base + 0xA2000) (base + 0xA2A08),
    latB := m.latch (base + 0xA1000) (base + 0xA2400) (base + 0xA2A09) }

/-! ### Registers, channels, FIFOs (R261) -/

/-- A channel as an image holds it: what a program can tell of it; the splits are in the slot images (R197). -/
def Chan.quads (c : Chan) : List Nat :=
  [c.mask.toNat, c.arrived.toNat,
    c.phase.toNat + (match c.comb with | .plain => 0 | .fmax => 1 | .imax => 2) * 2 ^ 16 + bit c.dep * 2 ^ 18 + bit c.active * 2 ^ 19 +
      bit c.val.isSome * 2 ^ 20, c.val.getD 0, 0, 0, 0, 0]

/-- The same read back, with the contexts of its split arrivals. -/
def Mem.chan (m : Mem) (key : Nat) (splits : List (Nat × Nat × Nat)) : Chan :=
  let q := m.quad (key + 16)
  { Chan.idle with
    active := bitAt q 19, mask := BitVec.ofNat 64 (m.quad key), arrived := BitVec.ofNat 64 (m.quad (key + 8)), phase := BitVec.ofNat 16 q,
    comb := if bits q 17 16 = 1 then .fmax else if bits q 17 16 = 2 then .imax else .plain, dep := bitAt q 18,
    val := if bitAt q 20 then some (m.quad (key + 24) % 2 ^ 32) else none, splits := splits }

/-- An endpoint as an image holds it (R338). -/
def Pipe.quads (p : Pipe) : List Nat :=
  [2 ^ 63 + bit p.write * 2 ^ 62 + bit p.held * 2 ^ 61 + p.peer, p.buf, p.width + p.depth * 2 ^ 32, p.wc.toNat + p.fc.toNat * 2 ^ 32,
    p.tc.toNat, 0, 0, 0]

/-- The same read back. -/
def Mem.pipe? (m : Mem) (key : Nat) : Option Pipe :=
  let q := m.quad key
  if bitAt q 63 then
    some ⟨bitAt q 62, bits q 20 0, m.quad (key + 8), bits (m.quad (key + 16)) 31 0, bits (m.quad (key + 16)) 63 32,
      BitVec.ofNat 32 (m.quad (key + 24)), BitVec.ofNat 32 (bits (m.quad (key + 24)) 63 32), BitVec.ofNat 32 (m.quad (key + 32)), bitAt q 61⟩
  else none

/-- Completions whose contexts are still there: their words, with the slots. -/
def Core.complQuads (k : Core) (l : List Compl) : List Nat :=
  l.flatMap (fun (e : Compl) =>
    match k.slotNums.find? (fun i => (k.ctx i).uid == e.uid && (k.ctx i).st.taken) with
    | some i => [e.word.toNat, 2 ^ 63 + i]
    | none => [])

/-- The same read back; `uid` gives the incarnations of the slots. -/
def Mem.compls (m : Mem) (key : Nat) (uid : Nat → Nat) : List Compl :=
  (List.range 16).filterMap (fun i =>
    let q := m.quad (key + 16 * i + 8)
    if bitAt q 63 then some ⟨uid (q % 64), BitVec.ofNat 64 (m.quad (key + 16 * i))⟩ else none)

/-- Places of the overflow deque (R91). -/
def ovfPlaces : Nat := 0x9000

/-- The registers and FIFOs of a core. -/
def Hw.saveCommon (h : Hw) (core : Nat) (m : Mem) (base : Nat) : Mem :=
  let k := h.core core
  let at_ := base + 0xA4000
  let first := match k.ovf with | e :: _ => e.pos | [] => 0
  let m1 := m.putQuads at_ ((List.range 16).map (fun i => (k.ccSeen h.now i).toNat) ++
    [k.age, k.deqb, k.deql, k.ovfb, k.ovfl, k.deque.thief, k.deque.owner, first] ++
    ([1, 2, 3].map (fun i => SMap.get 0 k.ptr i)) ++ [k.e4.length, bit k.e4Lost])
  let m2 := (List.range 8).foldl (fun m i => m.putQuads (at_ + 0x100 + 0x40 * i) (SMap.get Chan.idle k.chans i).quads) m1
  let m3 := ((m2.putQuads (at_ + 0x300) (k.complQuads k.e1)).putQuads (at_ + 0x400) (k.complQuads k.e2)).putQuads (at_ + 0x500)
    (k.complQuads k.e3)
  let m4 := m3.putN (at_ + 0x600) (k.e4.flatMap (fun r => bytesLE 32 r.toNat))
  let m5 := k.pipes.foldl (fun m (p : Nat × Pipe) => m.putQuads (at_ + 0x800 + 0x40 * p.1) p.2.quads) m4
  k.ovf.foldl (fun m (e : OvfEntry) => if e.pos < ovfPlaces then
      let j := base + 0xA2E00 + e.pos / 8
      m.put j (BitVec.ofNat 8 (m.val j 1 ||| 2 ^ (e.pos % 8))) else m) m5

/-- The overflow deque of an image: its places from the oldest on, its bytes from the scratchpad (R91). -/
def Mem.overflow (m : Mem) (core base ovfb first : Nat) : List OvfEntry :=
  let l := m.setAt (base + 0xA2E00) ovfPlaces
  (l.filter (fun p => first ≤ p) ++ l.filter (fun p => p < first)).map (fun p =>
    let j := scratchKey core (ovfb + 16 * p)
    ⟨p, BitVec.ofNat 64 (m.quad j), m.val (j + 8) 1 % 128, m.val (j + 9) 1 % 64, m.val (j + 10) 3 % 2 ^ 21⟩)

/-- The same read back into a core. -/
def Core.loadCommon (k : Core) (m : Mem) (core base : Nat) : Core :=
  let at_ := base + 0xA4000
  let q (i : Nat) : Nat := m.quad (at_ + 8 * i)
  let uid (i : Nat) : Nat := (k.ctx i).uid
  let splits (i : Nat) : List (Nat × Nat × Nat) :=
    (k.slotNums.filter (fun j => let r := (k.ctx j).split; r.valid && !r.clu && !r.reld && r.chan == i)).map (fun j => (core, j, uid j))
  { k with
    ccs := (List.range 16).map (fun i => ⟨i, BitVec.ofNat 64 (q i), 0⟩), age := q 16, deqb := q 17, deql := q 18, ovfb := q 19, ovfl := q 20,
    deque := ⟨q 21, q 22, 0⟩, ptr := [(1, q 24), (2, q 25), (3, q 26)],
    e4 := (List.range (min 16 (q 27))).map (fun i => BitVec.ofNat 256 (m.val (at_ + 0x600 + 32 * i) 32)), e4Lost := q 28 % 2 == 1,
    chans := (List.range 8).map (fun i => (i, m.chan (at_ + 0x100 + 0x40 * i) (splits i))),
    e1 := m.compls (at_ + 0x300) uid, e2 := m.compls (at_ + 0x400) uid, e3 := m.compls (at_ + 0x500) uid,
    pipes := (List.range 8).filterMap (fun i => (m.pipe? (at_ + 0x800 + 0x40 * i)).map (fun p => (i, p))),
    ovf := m.overflow core base (q 19) (q 23) }

/-! ### Slots -/

/-- The image of a slot: of a Spilled one the save block's, of a Free one zeros (R262). -/
def State.slotSaved (s : State) (core slot : Nat) : List Byte :=
  let k := s.hw.core core
  let x := k.ctx slot
  if x.st = .free then []
  else if x.st = .spilled ∧ x.imaged then s.mem.readN (s.hw.imageKey core slot) 0x800
  else
    match k.engine with
    | some o => if o.slot = slot then s.hw.slotImage core slot o.trig o.hold else s.hw.slotImage core slot 0 0
    | none => s.hw.slotImage core slot 0 0

/-- A slot that `CLOAD` makes Spilled (R262): its image goes into the save block with HOLD 1 and, for a Parked image, WOKE 1; its
context counts in RUN of the entry that it executes in (R268). -/
def State.loadSlot (s : State) (core slot image : Nat) : State :=
  let q := s.mem.quad image
  if q = 0 then s
  else
    let key := s.hw.imageKey core slot
    let parked := bits q 63 60 == 2
    let q1 := (putBits (BitVec.ofNat 64 q) 54 2 1).toNat
    let q2 := if parked && !bitAt q1 53 then q1 + 2 ^ 53 else q1
    let s1 := s.onMem (fun m => m.writeRange key (bytesLE 8 q2 ++ m.readN (image + 8) 0x7F8) none)
    let uid := s1.hw.nextTxn
    let e := bits q 39 34
    s1.onHw fun h =>
      let k := h.core core
      let x0 := (k.fresh uid slot 0 ((bits q 52 49 + 1) * 8)).loadStatus s1.mem key
      let x := { x0 with
        st := .spilled, imaged := true, noGrant := true, begun := true, entry := e, pc := bits q 33 17,
        kernel := (h.entry (clusterOf core) e).digest, woke := parked || bitAt q 53,
        split := splitOf (s1.mem.quad (key + 0x1E8)) }
      let y := if parked then { x with park := some (x.parkOf (bits q 59 56) (s1.mem.quad (key + 8))) } else x
      (({ h with nextTxn := uid + 1 } : Hw).setCtx core slot y).runInc (clusterOf core) e

/-! ### The two forms -/

/-- The target can be saved (R262, R459). -/
def State.mayCsave (s : State) (core : Nat) : Bool :=
  let k := s.hw.core core
  k.slotNums.all (fun i =>
    let x := k.ctx i
    let hold := if x.imaged then bits (s.mem.quad (s.hw.imageKey core i)) 55 54 else match k.engine with
      | some o => if o.slot = i then o.hold else 0
      | none => 0
    x.region.isNone && (x.st == .free || x.st == .faulted || (x.st == .spilled && hold != 2))) &&
    k.e0.isEmpty && k.copy.isNone && k.matCmds.isEmpty && !k.imaging

/-- The target can be loaded (R262). -/
def State.mayCload (s : State) (core : Nat) : Bool :=
  let k := s.hw.core core
  k.slots.all (fun (e : Nat × Ctx) => e.2.st == .free) && k.saveBase.isSome && k.e0.isEmpty && k.copy.isNone && k.matCmds.isEmpty && !k.imaging &&
    !(s.hw.cluster (clusterOf core)).bookings.any (fun (e : Nat × Booking) => e.2.live && e.2.members.any (fun m => m.core == core))

/-- The whole core into an image. -/
def State.saveCore (s : State) (core pa : Nat) : State :=
  let base := dramKeyOf pa
  let k := s.hw.core core
  let m0 := (s.mem.blank (base + 0x90000) (imageLen - 0x90000)).copyTo (scratchKey core 0) base 0x90000
  let m1 := s.hw.saveCommon core (k.saveMatrix m0 base) base
  let m2 := (List.range 64).foldl (fun m i => m.putN (base + 0xA5000 + 0x800 * i) (s.slotSaved core i)) m1
  let s1 := { s with mem := m2 }
  s1.onHw (fun h => h.wakeRange base imageLen)

/-- An image into the core. -/
def State.loadCore (s : State) (core pa : Nat) : State :=
  let base := dramKeyOf pa
  let s1 := s.onMem (fun m => m.copyTo base (scratchKey core 0) 0x90000)
  let s2 := (List.range 64).foldl (fun s i => s.loadSlot core i (base + 0xA5000 + 0x800 * i)) s1
  s2.onHw fun h =>
    (h.modCore core (fun k => { (k.loadMatrix s2.mem base).loadCommon s2.mem core base with grants := [] })).wakeRange (scratchKey core 0)
      0x90000

/-- The common course of the forms (R261). -/
def State.imageForm (s : State) (c : Cur) (sw load : Bool) (a b : GReg) : State :=
  s.window c (b.toNat + 1) <| s.reads c [b.toNat, b.toNat + 1] <|
    let w := (s.hw.cg c b).toNat
    let pa := (s.hw.cgn c (b.toNat + 1)).toNat
    if bits w 63 21 ≠ 0 then s.faultWith c .reservedValue 15 0
    else if pa % 65536 ≠ 0 ∨ 2 ^ 49 ≤ pa ∨ 0xC000000 < pa % 2 ^ 28 + imageLen then s.faultWith c .reservedValue 15 0
    else
      s.onHw fun h =>
        let txn := h.nextTxn
        let h1 := ({ h with nextTxn := txn + 1 } : Hw).owe c txn a.toNat w .plain
        let msg : Msg :=
          { txn := txn, core := w, slot := 0, reg := a.toNat, val := 0, tenant := 0, sender := c.core, senderSlot := c.slot, svc := true,
            mc := false, handle := false }
        let h2 :=
          match h1.routeFails c.core 0 true w (spillFigure c.core w) with
          | some (cause, d) => h1.after d (if cause = 1 then .fabricTimeout else .remoteFailureReport) (.msg msg cause)
          | none => h1.after (spillFigure c.core w / 2 + 1) .coreImageComplete (.nats [0, bit load, w, pa, c.core, txn])
        h2.retire c sw 1

/-- CSAVE. -/
def execCsave (sw : Bool) (a b : GReg) (s : State) : Res := s.withCur fun c => s.imageForm c sw false a b
/-- CLOAD. -/
def execCload (sw : Bool) (a b : GReg) (s : State) : Res := s.withCur fun c => s.imageForm c sw true a b

/-- Cycles that an image takes, by the slice that holds it (R262). -/
def Hw.imageCycles (h : Hw) (core pa : Nat) : Nat := h.dramLatency core (pa / 2 ^ 28) + 3 * (imageLen / 32)

/-- A request reaches its target (step 0), the image is complete (step 1). -/
def execCoreImageComplete (s : State) : Res :=
  match s.hw.arg with
  | .nats [0, load, core, pa, rc, txn] =>
    .next <|
      let dest := some (rc, txn)
      let foreign := (s.hw.tenantOf rc).isSome && s.hw.tenantOf rc != s.hw.tenantOf core
      if s.hw.coreDisabled core || foreign then s.spillAnswer core dest 3
      else if !(if load = 1 then s.mayCload core else s.mayCsave core) then s.spillAnswer core dest 1
      else s.onHw (fun h =>
        (h.modCore core (fun k => { k with imaging := true })).after (h.imageCycles core pa) .coreImageComplete (.nats [1, load, core, pa, rc, txn]))
  | .nats [1, load, core, pa, rc, txn] =>
    .next <|
      let s1 := if load = 1 then s.loadCore core pa else s.saveCore core pa
      ((s1.onHw (fun h => (h.modCore core (fun k => { k with imaging := false })).releaseIn core)).spillAnswer core (some (rc, txn)) 0).enginePoll core
  | _ => .fault .noArgument

end Sys2Proof.Machine
end

