-- ==== Sys2Proof/Machine/Page.lean ====
section
/-! DEFINITION. Probing and invalidation of translations, the answers of BRS to page requests (07_page R177 to R181), and how
failed requests come back (01_machine R29, 22_link R455, R456). -/

namespace Sys2Proof.Machine

/-! ### PGPROBE (R180) -/

/-- PGPROBE translates without an access; a virtual segment's page is looked up in the TLBs and then walked. -/
def execPgprobe (sw : Bool) (a : GReg) (m : MemOp) (s : State) : Res :=
  s.withCur fun c =>
    if (s.hw.curCtx c).booked then s.faultWith c .calendarViolation 4 0
    else s.reads c [m.idx.toNat] <|
      s.check c m.sg.toNat (s.hw.memOffset c m) 1 {} 1 fun addr sg =>
        let acc := s.hw.mkAcc c (.probe a.toNat) false sg.virt addr 1 m.sg.toNat (s.hw.memOffset c m).toNat
        let full := [a.toNat].filter (fun n => s.hw.isFull c.core c.slot n)
        let o : Outst := ⟨acc, (s.hw.curCtx c).uid, .plain, c, full, true, false, [], false, [], []⟩
        let h0 : Hw := { s.hw with nextTxn := s.hw.nextTxn + 1 }
        let h1 := (h0.awaitG c.core c.slot a.toNat acc.txn).parkMemory c sw
        let h2 := h1.modCore c.core (fun k => { k with out := k.out ++ [o] })
        let answer (h : Hw) (d v : Nat) : Hw := h.after d .plainAccessReply (.accRes acc (.data v []))
        if !sg.virt then { s with hw := answer h2 4 0x60 }
        else
          match h2.tlbLookup c.core acc.tenant addr with
          | (.cluster e, h3) => { s with hw := answer h3 4 (probeWord acc.svc 0 1 e.q0.toNat e.q1.toNat) }
          | (.die e, h3) => { s with hw := answer h3 28 (probeWord acc.svc 1 1 e.q0.toNat e.q1.toNat) }
          | (.miss, h3) =>
            let d := h3.walkCycles c.core acc.tenant addr (s.walk c.core acc.tenant addr)
            { s with hw := h3.after d .tlbWalkComplete (.acc acc addr) }

/-- A table walk ends (R171, R172, R177). -/
def execTlbWalkComplete (s : State) : Res :=
  match s.hw.arg with
  | .acc a va => .next (s.walkDone a.core a.txn va)
  | _ => .fault .noArgument

/-! ### TLBINV (R181) -/

/-- An entry that an invalidation drops. -/
def TlbEntry.dropped (e : TlbEntry) (k : TlbScope) (tenant va : Nat) : Bool :=
  match k with
  | .addr => e.covers tenant va
  | .all => e.tenant == tenant
  | .every => true

/-- A walk-cache entry that an invalidation drops. -/
def WalkEntry.dropped (e : WalkEntry) (k : TlbScope) (tenant va : Nat) : Bool :=
  match k with
  | .addr => e.tenant == tenant && e.idx == va / 2 ^ (60 - 12 * e.level)
  | .all => e.tenant == tenant
  | .every => true

/-- The module of a cluster TLB; those of the service cores stand behind the clusters (log 112). -/
def tlbModule (clu : Nat) : Nat := if clu < clusterOf firstService then clu / 512 else (clu - clusterOf firstService) / 2

/-- Drops entries from every TLB and walk cache of a module; a booking whose pinned entry goes remembers the page (R316). -/
def Hw.tlbDrop (h : Hw) (module : Nat) (k : TlbScope) (tenant va : Nat) : Hw :=
  let inMod (clu : Nat) : Bool := tlbModule clu == module
  { h with
    dies := h.dies.map (fun (e : Nat × Die) =>
      if e.1 / 8 = module then
        (e.1, { e.2 with
          tlb := e.2.tlb.filter (fun t => !t.dropped k tenant va)
          wcache := e.2.wcache.filter (fun t => !t.dropped k tenant va) })
      else e)
    clusters := h.clusters.map (fun (e : Nat × Cluster) =>
      if inMod e.1 then
        (e.1, { e.2 with
          tlb := e.2.tlb.filter (fun t => !t.dropped k tenant va)
          bookings := e.2.bookings.map (fun (b : Nat × Booking) =>
            (b.1, { b.2 with
              dropped := b.2.dropped ++
                ((e.2.tlb.filter (fun t => t.dropped k tenant va && t.pin.contains b.1)).map (fun t => (t.vbase, pageBytes (leafSize t.q0.toNat)))) })) })
      else e) }

/-- An address range of a tenant was translated through a dropped entry. -/
def staleRange (k : TlbScope) (tenant va : Nat) (es : List TlbEntry) (t addr size : Nat) : Bool :=
  match k with
  | .every => true
  | .all => t == tenant
  | .addr => t == tenant &&
      ((es.any (fun e => e.covers tenant addr || e.covers tenant (addr + size - 1))) ||
        (decide (addr / 4096 ≤ va / 4096) && decide (va / 4096 ≤ (addr + size - 1) / 4096)))

/-- An outstanding access that was translated through a dropped entry and is not yet performed. -/
def Outst.stale (o : Outst) (k : TlbScope) (tenant va : Nat) (es : List TlbEntry) : Bool :=
  o.acc.virt && !o.performed && o.acc.pieces != [] && staleRange k tenant va es o.acc.tenant o.acc.addr o.acc.size

/-- The entries of a module's TLBs that an invalidation names. -/
def Hw.tlbNamed (h : Hw) (module : Nat) (k : TlbScope) (tenant va : Nat) : List TlbEntry :=
  ((h.dies.filter (fun (e : Nat × Die) => e.1 / 8 == module)).flatMap (fun e => e.2.tlb.filter (fun t => t.dropped k tenant va))) ++
    ((h.clusters.filter (fun (e : Nat × Cluster) => tlbModule e.1 == module)).flatMap (fun e =>
      e.2.tlb.filter (fun t => t.dropped k tenant va)))

/-- The accesses that an invalidation waits for, four numbers each: core, transaction, and for a request of the matrix unit its row, one
higher, and its part. -/
def Hw.staleOps (h : Hw) (module : Nat) (k : TlbScope) (tenant va : Nat) : List Nat :=
  let es := h.tlbNamed module k tenant va
  (h.cores.filter (fun (e : Nat × Core) => moduleOf e.1 == module)).flatMap (fun e =>
    (e.2.out.filter (fun o => o.stale k tenant va es)).flatMap (fun o => [e.1, o.acc.txn, 0, 0]) ++
      (e.2.arun.toList ++ e.2.trun.toList).flatMap (fun m =>
        (m.flight.filter (fun r => r.virt && !r.performed && r.pieces != [] && staleRange k tenant va es m.acc.tenant r.addr r.len)).flatMap
          (fun r => [e.1, m.txn, r.row + 1, r.part])))

/-- The accesses of such a list that are not performed yet. -/
def Hw.staleLeft (h : Hw) : List Nat → List Nat
  | core :: txn :: row :: part :: l =>
    let waits := if row = 0 then (match h.findOut core txn with | some o => !o.performed | none => false)
      else match (h.core core).running txn with
        | some m => (match m.inFlight (row - 1) part with | some r => !r.performed | none => false)
        | none => false
    (if waits then [core, txn, row, part] else []) ++ h.staleLeft l
  | _ => []

/-- TLBINV: the entries are dropped, and the result waits for the accesses that they translated. -/
def execTlbinv (sw : Bool) (k : TlbScope) (a b : GReg) (s : State) : Res :=
  s.withCur fun c => s.window c (b.toNat + 2) <|
    let srcs := match k with | .addr => regRun b.toNat 3 | .all => [b.toNat] | .every => []
    s.reads c srcs <|
      let q (i : Nat) : Nat := (s.hw.cgn c (b.toNat + i)).toNat
      if k = .addr ∧ bits (q 2) 63 8 ≠ 0 then s.faultWith c .reservedValue 0 (b.toNat + 2)
      else if k ≠ .every ∧ 63 < q 0 then s.faultWith c .reservedValue 0 b.toNat
      else s.onHw fun h =>
        let m := moduleOf c.core
        let va := q 2 * 2 ^ 64 + q 1
        let txn := h.nextTxn
        let waits := h.staleOps m k (q 0) va
        ((((({ h with nextTxn := txn + 1 }).owe c txn a.toNat c.core .plain).tlbDrop m k (q 0) va).after 280 .tlbinvComplete
          (.nats ([c.core, txn] ++ waits)))).retire c sw 1

/-- The result of a TLBINV comes once every access translated by a dropped entry is performed at its bank (R181). -/
def execTlbinvComplete (s : State) : Res :=
  match s.hw.arg with
  | .nats (core :: txn :: waits) =>
    .next <|
      let left := s.hw.staleLeft waits
      if left = [] then s.payOwed core txn 0
      else s.onHw (fun h => h.after 1 .tlbinvComplete (.nats ([core, txn] ++ left)))
  | _ => .fault .noArgument

/-! ### The answers of BRS (R178) -/

/-- An address lies in the range that an answer names. -/
def inAnswer (va len a : Nat) : Bool := decide (va ≤ a) && decide (a < va + len)

/-- The page requests of a tenant that an answer serves are gone. -/
def Hw.dropRequests (h : Hw) (module tenant va len : Nat) : Hw :=
  h.modMod module (fun m => { m with
    pageReqs := m.pageReqs.filter (fun q =>
      !(q.tenant == tenant && decide (q.va / q.bytes * q.bytes < va + len) && decide (va < q.va / q.bytes * q.bytes + q.bytes))) })

/-- Contexts of a tenant in a module that are parked on a page that an answer serves, with the address. -/
def Hw.pageWaiters (h : Hw) (module tenant va len : Nat) : List (Nat × Nat × Nat) :=
  (h.cores.filter (fun (e : Nat × Core) => moduleOf e.1 == module && (h.tenantOf e.1).getD 0 == tenant)).flatMap (fun e =>
    e.2.slots.filterMap (fun (x : Nat × Ctx) =>
      match x.2.park with
      | some (.page a) => if inAnswer va len a then some (e.1, x.1, a) else none
      | _ => none))

/-- Copy engines of a tenant in a module that hold a command at a page that an answer serves: whether its reads and whether its writes
wait for that. -/
def Hw.copiesHeld (h : Hw) (module tenant va len : Nat) : List (Nat × Bool × Bool) :=
  (h.cores.filter (fun (e : Nat × Core) => moduleOf e.1 == module)).filterMap (fun e =>
    match e.2.copy with
    | some m =>
      let on (a : Option Nat) : Bool := match a with | some a => inAnswer va len a | none => false
      if m.tenant == tenant && (on m.prog.heldR || on m.prog.heldW) then some (e.1, on m.prog.heldR, on m.prog.heldW) else none
    | none => none)

/-- Matrix commands of a tenant in a module that are held at a page that an answer serves (R178). -/
def Hw.matsHeld (h : Hw) (module tenant va len : Nat) : List (Nat × MCmd) :=
  (h.cores.filter (fun (e : Nat × Core) => moduleOf e.1 == module)).flatMap (fun e =>
    ((e.2.arun.toList ++ e.2.trun.toList).filter (fun m =>
      m.acc.tenant == tenant && (match m.held with | some a => inAnswer va len a | none => false))).map (fun m => (e.1, m)))

/-- Accesses held at the ports of a module for a page that an answer serves; they are held no longer. -/
def Hw.takeHeld (h : Hw) (module tenant va len : Nat) : List (Acc × Nat) × Hw :=
  let mine (p : Acc × Nat) : Bool := p.1.tenant == tenant && inAnswer va len p.2
  ((h.mod module).heldPages.filter mine,
    h.modMod module (fun m => { m with heldPages := m.heldPages.filter (fun p => !mine p) }))

/-- Accesses, parked contexts and engine commands go on with a page that an answer serves (R178). -/
def State.retryPages (s : State) (module tenant va len : Nat) : State :=
  let waiters := s.hw.pageWaiters module tenant va len
  let copies := s.hw.copiesHeld module tenant va len
  let t := (s.hw.dropRequests module tenant va len).takeHeld module tenant va len
  let s1 := waiters.foldl (fun s w => s.wake w.1 w.2.1) ({ s with hw := t.2 } : State)
  let s2 := t.1.foldl (fun s p =>
    match s.hw.findOut p.1.core p.1.txn with
    | some o => s.send o
    | none => s) s1
  (s.hw.matsHeld module tenant va len).foldl (fun s m => s.matResume m.1 m.2)
    (s2.onHw (fun h => copies.foldl (fun h c => h.copyResume c.1 c.2.1 c.2.2) h))

/-- A page moves (R152, R179, R414): every monitor armed on its old frame wakes, and the frame is copied with its tags and poison. -/
def State.moveFrame (s : State) (old new : Nat) : State :=
  let s1 := s.onHw (fun h => (leafRuns old).foldl (fun h r => h.wakeRange r.1 r.2) h)
  ((leafRuns old).zip (leafRuns new)).foldl (fun s p => s.onMem (fun m => m.copyTo p.1.1 p.2.1 p.1.2)) s1

/-- Steps 3 and 4 of a migration (R179), for each entry that BRS writes: where the leaf that stands there is Migrating and the new one, of
the same size, is not, the frame is moved (log 118). -/
def State.migrate (s : State) (tenant : Nat) : List Nat → State
  | pa :: q0 :: q1 :: r =>
    let o0 := s.mem.val (dramKeyOf pa) 8
    let o1 := s.mem.val (dramKeyOf pa + 8) 8
    let leaf (q : Nat) : Bool := bitAt q 0 && !bitAt q 1
    let moves := leaf o0 && leaf q0 && leafMig o1 = 1 && leafMig q1 = 0 && leafSize o0 = leafSize q0 && leafFrame o0 ≠ leafFrame q0
      && s.hw.leafAllowed (some tenant) q0
    ((if moves then s.moveFrame o0 q0 else s).writeLeaves (some tenant) [pa, q0, q1]).migrate tenant r
  | _ => s

/-- A retry wake (R178), with the leaves that BRS has written before it, three numbers each (R179). -/
def execPageWakeRetry (s : State) : Res :=
  match s.hw.arg with
  | .nats [module, tenant, va, len] => .next (s.retryPages module tenant va len)
  | .words [module, tenant, va, len] leaves => .next ((s.migrate tenant (leaves.map (fun w => w.toNat))).retryPages module tenant va len)
  | _ => .fault .noArgument

/-- A copy command that BRS denies completes with STATUS 3 (R157, R178): the sector at which it was held is given up. -/
def Hw.copyDeny (h : Hw) (c : Nat × Bool × Bool) : Hw :=
  let h1 := (h.copyFail c.1 3 0 c.1 h.now).modCopy c.1 (fun p => p.goesOn c.2.1 c.2.2)
  let h2 := if c.2.2 then h1.copyPast c.1 else h1
  match (h.core c.1).copy with
  | none => h
  | some m => if c.2.1 then h2.copyCut c.1 false else if c.2.2 && m.prog.rwait then h2.copyStep c.1 m.txn 1 h.now false else h2

/-- A deny wake (R178): parked contexts fault, held accesses and commands fail; a Spilled context wakes at its restore
(R83). -/
def execPageWakeDeny (s : State) : Res :=
  match s.hw.arg with
  | .nats [module, tenant, va, len] =>
    .next <|
      let waiters := s.hw.pageWaiters module tenant va len
      let copies := s.hw.copiesHeld module tenant va len
      let t := (s.hw.dropRequests module tenant va len).takeHeld module tenant va len
      let s1 := waiters.foldl (fun s w =>
        let x := s.hw.ctx w.1 w.2.1
        if x.park ≠ some (.page w.2.2) then s
        else if x.st = .spilled then s.setWoke w.1 w.2.1
        else
          match x.parkCur with
          | some c => s.onHw (fun h => h.raise w.1 w.2.1 (c.faultAt .pageDenied 2 w.2.2 true))
          | none => s) ({ s with hw := t.2 } : State)
      let s2 := t.1.foldl (fun s p => s.answer p.1.core p.1.txn (.fail .pageDenied 2 p.2)) s1
      s2.onHw (fun h =>
        (s.hw.matsHeld module tenant va len).foldl (fun h m => h.matFail m.1 m.2 3 0 none) (copies.foldl (fun h c => h.copyDeny c) h))
  | _ => .fault .noArgument

/-! ### Failures that come back (R29, R455, R456) -/

/-- A request has failed (R455): an access fails as R456 says, a message takes status 3. -/
def State.requestFails (s : State) (a : Arg) : Option State :=
  match a with
  | .acc acc cause =>
    some (s.answer acc.core acc.txn (.remote cause (match acc.pieces with | p :: _ => keyCore p.key | [] => keyCore acc.addr)))
  | .msg m cause => some ((s.onHw (fun h => h.owedFails m.sender m.txn cause m.core)).payOwed m.sender m.txn 3)
  | _ => none

/-- A failure report reaches the requester (R456). -/
def execRemoteFailureReport (s : State) : Res :=
  match s.requestFails s.hw.arg with
  | some t => .next t
  | none => .fault .noArgument

/-- No reply has come for 2^22 cycles (R29). -/
def execFabricTimeout (s : State) : Res :=
  match s.requestFails s.hw.arg with
  | some t => .next t
  | none => .fault .noArgument

end Sys2Proof.Machine
end

