-- ==== Sys2Proof/Machine/Tick.lean ====
section
/-! DEFINITION. The end of a cycle and the beginning of the next: eligibility and ageing (10_issue R211, R213), the results of
fixed latency that land, and the units that look for work each cycle. -/

namespace Sys2Proof.Machine

/-- A context that has yielded waits no longer: none of the contexts that it waits for is Ready and still to issue (R98). -/
def Core.yieldOver (k : Core) (x : Ctx) : Bool :=
  match x.yieldWait with
  | none => true
  | some (_, l) => l.all (fun i => (k.ctx i).st != .ready)

/-- A context is eligible for issue in this cycle, but for what its next chain asks (R211, R214, R216). -/
def Hw.eligible (h : Hw) (core slot : Nat) : Bool :=
  let k := h.core core
  let x := k.ctx slot
  x.st == .ready && decide (x.notBefore ≤ h.now) && !x.limWait && !x.arrHeld && k.yieldOver x && (match x.hazOn with | some n => !x.pending n | none => true) &&
    (!x.swWait || k.settled h.now slot) &&
    (if k.wheel then slot == h.count core % 16 else if x.booked then h.count core % 4 != 3 else true)

/-- Ageing at the end of a cycle (R213): an unbooked context that was eligible and did not issue counts; at AGE it is promoted
from the next cycle. -/
def Hw.age (h : Hw) : Hw :=
  h.cores.foldl (fun h (e : Nat × Core) =>
    if e.2.wheel then h
    else
      e.2.slots.foldl (fun h (y : Nat × Ctx) =>
        if h.eligible e.1 y.1 && !y.2.booked then
          let h1 := h.modCtx e.1 y.1 (fun x => { x with w := x.w + 1 })
          if e.2.age ≤ y.2.w + 1 ∧ y.2.eff ≠ 1 then h1.schedule (h.now + 1) .ageingPromotion (.nats [e.1, y.1]) else h1
        else h) h) h

/-- The units of a core that look for work in a cycle (R228, R253). -/
def State.pollCore (s : State) (core : Nat) : State :=
  let s1 := if (s.hw.core core).spillWork then s.enginePoll core else s
  if s1.hw.dispatchWork core then s1.onHw (fun h => h.schedule h.now .dispatcherStart (.nats [core])) else s1

/-- One cycle passes: the bookings that end in it, then the results of the next cycle, the slots that become Free and the units that look
for work. -/
def State.tick (s : State) : State :=
  let s1 := s.onHw fun h =>
    let h1 := h.age.bookTick
    ({ h1 with now := h1.now + 1 } : Hw).landAll.freeSlots
  (s1.hw.cores.map (fun (e : Nat × Core) => e.1)).foldl State.pollCore s1

end Sys2Proof.Machine
end

