-- ==== Sys2Proof/Machine/Dispatch.lean ====
section
/-! DEFINITION. What each instruction does: one arm for each constructor of `Instr`, each a direct call of its meaning. -/

namespace Sys2Proof.Machine

def exec (i : Instr) (s : State) : Host.Outcome State Fault Refusal :=
  match i with
  | .nop sw => Sys2Proof.Machine.execNop sw s
  | .mov sw a b => Sys2Proof.Machine.execMov sw a b s
  | .movWc sw a b => Sys2Proof.Machine.execMovWc sw a b s
  | .movRc sw a b => Sys2Proof.Machine.execMovRc sw a b s
  | .movRlc sw a b => Sys2Proof.Machine.execMovRlc sw a b s
  | .li sw a imm => Sys2Proof.Machine.execLi sw a imm s
  | .lih sw a imm => Sys2Proof.Machine.execLih sw a imm s
  | .add sw t a c b => Sys2Proof.Machine.execAdd sw t a c b s
  | .sub sw t a c b => Sys2Proof.Machine.execSub sw t a c b s
  | .addi sw t a c imm => Sys2Proof.Machine.execAddi sw t a c imm s
  | .mul sw t a c b => Sys2Proof.Machine.execMul sw t a c b s
  | .mulh sw t a c b => Sys2Proof.Machine.execMulh sw t a c b s
  | .div sw t a c b => Sys2Proof.Machine.execDiv sw t a c b s
  | .rem sw t a c b => Sys2Proof.Machine.execRem sw t a c b s
  | .and sw a c b => Sys2Proof.Machine.execAnd sw a c b s
  | .or sw a c b => Sys2Proof.Machine.execOr sw a c b s
  | .xor sw a c b => Sys2Proof.Machine.execXor sw a c b s
  | .andn sw a c b => Sys2Proof.Machine.execAndn sw a c b s
  | .shl sw a c b => Sys2Proof.Machine.execShl sw a c b s
  | .shr sw a c b => Sys2Proof.Machine.execShr sw a c b s
  | .sar sw a c b => Sys2Proof.Machine.execSar sw a c b s
  | .shi sw k a c imm => Sys2Proof.Machine.execShi sw k a c imm s
  | .rot sw a c b => Sys2Proof.Machine.execRot sw a c b s
  | .clz sw a b => Sys2Proof.Machine.execClz sw a b s
  | .popc sw a b => Sys2Proof.Machine.execPopc sw a b s
  | .min sw t a c b => Sys2Proof.Machine.execMin sw t a c b s
  | .max sw t a c b => Sys2Proof.Machine.execMax sw t a c b s
  | .cmp sw k t a c b => Sys2Proof.Machine.execCmp sw k t a c b s
  | .cmpi sw k t a c imm => Sys2Proof.Machine.execCmpi sw k t a c imm s
  | .sel sw k a c b => Sys2Proof.Machine.execSel sw k a c b s
  | .ext sw t a b => Sys2Proof.Machine.execExt sw t a b s
  | .bfx sw sgn a c imm => Sys2Proof.Machine.execBfx sw sgn a c imm s
  | .bfi sw a c imm => Sys2Proof.Machine.execBfi sw a c imm s
  | .lea sw hi a m => Sys2Proof.Machine.execLea sw hi a m s
  | .br sw k a imm => Sys2Proof.Machine.execBr sw k a imm s
  | .jmp sw imm => Sys2Proof.Machine.execJmp sw imm s
  | .jmpr sw b => Sys2Proof.Machine.execJmpr sw b s
  | .calld sw imm => Sys2Proof.Machine.execCalld sw imm s
  | .ret sw => Sys2Proof.Machine.execRet sw s
  | .loop sw lc b imm => Sys2Proof.Machine.execLoop sw lc b imm s
  | .ld sw k rx a m => Sys2Proof.Machine.execLd sw k rx a m s
  | .st sw k rx a m => Sys2Proof.Machine.execSt sw k rx a m s
  | .ldp sw k md a p => Sys2Proof.Machine.execLdp sw k md a p s
  | .stp sw k md a p => Sys2Proof.Machine.execStp sw k md a p s
  | .atom sw op t rx a m => Sys2Proof.Machine.execAtom sw op t rx a m s
  | .fence sw imm => Sys2Proof.Machine.execFence sw imm s
  | .send sw a c b => Sys2Proof.Machine.execSend sw a c b s
  | .take sw a b => Sys2Proof.Machine.execTake sw a b s
  | .clrf sw a => Sys2Proof.Machine.execClrf sw a s
  | .mwait sw a m => Sys2Proof.Machine.execMwait sw a m s
  | .srr sw a n => Sys2Proof.Machine.execSrr sw a n s
  | .srw sw n b => Sys2Proof.Machine.execSrw sw n b s
  | .epush sw e b => Sys2Proof.Machine.execEpush sw e b s
  | .epop sw a e => Sys2Proof.Machine.execEpop sw a e s
  | .trap sw a n => Sys2Proof.Machine.execTrap sw a n s
  | .brk sw n => Sys2Proof.Machine.execBrk sw n s
  | .yield sw => Sys2Proof.Machine.execYield sw s
  | .quit sw => Sys2Proof.Machine.execQuit sw s
  | .spawn sw a c b => Sys2Proof.Machine.execSpawn sw a c b s
  | .bar sw clu a ch => Sys2Proof.Machine.execBar sw clu a ch s
  | .barArr sw clu ch => Sys2Proof.Machine.execBarArr sw clu ch s
  | .barWt sw clu a ch => Sys2Proof.Machine.execBarWt sw clu a ch s
  | .barFmax sw clu a ch => Sys2Proof.Machine.execBarFmax sw clu a ch s
  | .barImax sw clu a ch => Sys2Proof.Machine.execBarImax sw clu a ch s
  | .barArm sw clu a ch => Sys2Proof.Machine.execBarArm sw clu a ch s
  | .ckpt sw m => Sys2Proof.Machine.execCkpt sw m s
  | .pmov sw p b => Sys2Proof.Machine.execPmov sw p b s
  | .pmovGet sw a p => Sys2Proof.Machine.execPmovGet sw a p s
  | .vadd h a c b => Sys2Proof.Machine.execVadd h a c b s
  | .vsub h a c b => Sys2Proof.Machine.execVsub h a c b s
  | .vmul h a c b => Sys2Proof.Machine.execVmul h a c b s
  | .vfma h a c b => Sys2Proof.Machine.execVfma h a c b s
  | .vfms h a c b => Sys2Proof.Machine.execVfms h a c b s
  | .vmin h a c b => Sys2Proof.Machine.execVmin h a c b s
  | .vmax h a c b => Sys2Proof.Machine.execVmax h a c b s
  | .vabs h a c => Sys2Proof.Machine.execVabs h a c s
  | .vneg h a c => Sys2Proof.Machine.execVneg h a c s
  | .vand h a c b => Sys2Proof.Machine.execVand h a c b s
  | .vor h a c b => Sys2Proof.Machine.execVor h a c b s
  | .vxor h a c b => Sys2Proof.Machine.execVxor h a c b s
  | .vnot h a c => Sys2Proof.Machine.execVnot h a c s
  | .vshl h a c b => Sys2Proof.Machine.execVshl h a c b s
  | .vshr h a c b => Sys2Proof.Machine.execVshr h a c b s
  | .vsar h a c b => Sys2Proof.Machine.execVsar h a c b s
  | .vcmp h k a c b => Sys2Proof.Machine.execVcmp h k a c b s
  | .vsel h a c b => Sys2Proof.Machine.execVsel h a c b s
  | .vcvt h tgt part a c => Sys2Proof.Machine.execVcvt h tgt part a c s
  | .vqnt h tgt part a c b => Sys2Proof.Machine.execVqnt h tgt part a c b s
  | .vdqnt h frm part a c b => Sys2Proof.Machine.execVdqnt h frm part a c b s
  | .vred h op a c => Sys2Proof.Machine.execVred h op a c s
  | .vscan h op excl a c => Sys2Proof.Machine.execVscan h op excl a c s
  | .vbcast h a src => Sys2Proof.Machine.execVbcast h a src s
  | .viota h a => Sys2Proof.Machine.execViota h a s
  | .vperm h a c b => Sys2Proof.Machine.execVperm h a c b s
  | .vgath h a b sg => Sys2Proof.Machine.execVgath h a b sg s
  | .vscat h a b sg => Sys2Proof.Machine.execVscat h a b sg s
  | .vsfu h f a c => Sys2Proof.Machine.execVsfu h f a c s
  | .vmsk sw op a c b => Sys2Proof.Machine.execVmsk sw op a c b s
  | .vmovm sw op => Sys2Proof.Machine.execVmovm sw op s
  | .vdot h a c b => Sys2Proof.Machine.execVdot h a c b s
  | .vclamp h a c b => Sys2Proof.Machine.execVclamp h a c b s
  | .vamax h a c => Sys2Proof.Machine.execVamax h a c s
  | .mgath sw toB b => Sys2Proof.Machine.execMgath sw toB b s
  | .mald sw b => Sys2Proof.Machine.execMald sw b s
  | .mbld sw b => Sys2Proof.Machine.execMbld sw b s
  | .mma sw g z cq acc ks => Sys2Proof.Machine.execMma sw g z cq acc ks s
  | .mzero sw f32 cq acc => Sys2Proof.Machine.execMzero sw f32 cq acc s
  | .mrd sw rnd nsat acc b => Sys2Proof.Machine.execMrd sw rnd nsat acc b s
  | .mwr sw acc b => Sys2Proof.Machine.execMwr sw acc b s
  | .mscl sw toB b => Sys2Proof.Machine.execMscl sw toB b s
  | .mstat sw a => Sys2Proof.Machine.execMstat sw a s
  | .baddq sw rnd acc b => Sys2Proof.Machine.execBaddq sw rnd acc b s
  | .segw sw a b => Sys2Proof.Machine.execSegw sw a b s
  | .segr sw a b => Sys2Proof.Machine.execSegr sw a b s
  | .segrHi sw a b => Sys2Proof.Machine.execSegrHi sw a b s
  | .pgprobe sw a m => Sys2Proof.Machine.execPgprobe sw a m s
  | .tlbinv sw k a b => Sys2Proof.Machine.execTlbinv sw k a b s
  | .codeinv sw a b => Sys2Proof.Machine.execCodeinv sw a b s
  | .codeinvAll sw a => Sys2Proof.Machine.execCodeinvAll sw a s
  | .fbegin sw imm => Sys2Proof.Machine.execFbegin sw imm s
  | .fcommit sw => Sys2Proof.Machine.execFcommit sw s
  | .fabort sw => Sys2Proof.Machine.execFabort sw s
  | .spill sw a b => Sys2Proof.Machine.execSpill sw a b s
  | .spillHold sw a b => Sys2Proof.Machine.execSpillHold sw a b s
  | .spillRel sw a b => Sys2Proof.Machine.execSpillRel sw a b s
  | .spillBase sw a b => Sys2Proof.Machine.execSpillBase sw a b s
  | .spillCkpt sw a b => Sys2Proof.Machine.execSpillCkpt sw a b s
  | .csave sw a b => Sys2Proof.Machine.execCsave sw a b s
  | .cload sw a b => Sys2Proof.Machine.execCload sw a b s
  | .fork sw a c b => Sys2Proof.Machine.execFork sw a c b s
  | .join sw a m => Sys2Proof.Machine.execJoin sw a m s
  | .depnew sw a m => Sys2Proof.Machine.execDepnew sw a m s
  | .deppub sw a m => Sys2Proof.Machine.execDeppub sw a m s
  | .signal sw rx a m => Sys2Proof.Machine.execSignal sw rx a m s
  | .enq sw l a m => Sys2Proof.Machine.execEnq sw l a m s
  | .taskid sw k a => Sys2Proof.Machine.execTaskid sw k a s
  | .steal sw a b => Sys2Proof.Machine.execSteal sw a b s
  | .book sw a b => Sys2Proof.Machine.execBook sw a b s
  | .bkq sw a b => Sys2Proof.Machine.execBkq sw a b s
  | .bkqWt sw a b => Sys2Proof.Machine.execBkqWt sw a b s
  | .bkcan sw a b => Sys2Proof.Machine.execBkcan sw a b s
  | .bkend sw => Sys2Proof.Machine.execBkend sw s
  | .gang sw a b => Sys2Proof.Machine.execGang sw a b s
  | .gangCancel sw a b => Sys2Proof.Machine.execGangCancel sw a b s
  | .pipew sw a ep => Sys2Proof.Machine.execPipew sw a ep s
  | .piper sw a ep => Sys2Proof.Machine.execPiper sw a ep s
  | .piperDone sw ep => Sys2Proof.Machine.execPiperDone sw ep s
  | .hnew sw a b => Sys2Proof.Machine.execHnew sw a b s
  | .hcopy sw a b => Sys2Proof.Machine.execHcopy sw a b s
  | .hdrop sw a => Sys2Proof.Machine.execHdrop sw a s
  | .hdropLost sw a => Sys2Proof.Machine.execHdropLost sw a s
  | .hbind sw a b => Sys2Proof.Machine.execHbind sw a b s
  | .hsend sw a c b => Sys2Proof.Machine.execHsend sw a c b s
  | .haddr sw a c sg => Sys2Proof.Machine.execHaddr sw a c sg s
  | .haddrLen sw a c => Sys2Proof.Machine.execHaddrLen sw a c s
  | .haddrWt sw a c => Sys2Proof.Machine.execHaddrWt sw a c s
  | .mcw sw a b => Sys2Proof.Machine.execMcw sw a b s
  | .mcsend sw a c b => Sys2Proof.Machine.execMcsend sw a c b s
  | .rslot sw a b => Sys2Proof.Machine.execRslot sw a b s
  | .redc sw a c b => Sys2Proof.Machine.execRedc sw a c b s
  | .redw sw a b => Sys2Proof.Machine.execRedw sw a b s
  | .lnkst sw a b => Sys2Proof.Machine.execLnkst sw a b s
  | .lnkstCtl sw a b => Sys2Proof.Machine.execLnkstCtl sw a b s
  | .ldmb sw k a m => Sys2Proof.Machine.execLdmb sw k a m s
  | .stmb sw k a m => Sys2Proof.Machine.execStmb sw k a m s
  | .blkcp sw a m => Sys2Proof.Machine.execBlkcp sw a m s
  | .crcb sw a m => Sys2Proof.Machine.execCrcb sw a m s
  | .vectorRowWrite => Sys2Proof.Machine.execVectorRowWrite s
  | .gatherElementReply => Sys2Proof.Machine.execGatherElementReply s
  | .sfuRequestDone => Sys2Proof.Machine.execSfuRequestDone s
  | .matrixLoadExec => Sys2Proof.Machine.execMatrixLoadExec s
  | .mmaGangStart => Sys2Proof.Machine.execMmaGangStart s
  | .mmaExec => Sys2Proof.Machine.execMmaExec s
  | .mrdExec => Sys2Proof.Machine.execMrdExec s
  | .mwrExec => Sys2Proof.Machine.execMwrExec s
  | .mzeroExec => Sys2Proof.Machine.execMzeroExec s
  | .msclExec => Sys2Proof.Machine.execMsclExec s
  | .baddqExec => Sys2Proof.Machine.execBaddqExec s
  | .latchEccError => Sys2Proof.Machine.execLatchEccError s
  | .tlbinvComplete => Sys2Proof.Machine.execTlbinvComplete s
  | .codeinvComplete => Sys2Proof.Machine.execCodeinvComplete s
  | .fcommitDecision => Sys2Proof.Machine.execFcommitDecision s
  | .coreImageComplete => Sys2Proof.Machine.execCoreImageComplete s
  | .mcwComplete => Sys2Proof.Machine.execMcwComplete s
  | .mcsendResult => Sys2Proof.Machine.execMcsendResult s
  | .plainAccessReply => Sys2Proof.Machine.execPlainAccessReply s
  | .relaxedLoadResult => Sys2Proof.Machine.execRelaxedLoadResult s
  | .storeAcknowledge => Sys2Proof.Machine.execStoreAcknowledge s
  | .tagRetryRequest => Sys2Proof.Machine.execTagRetryRequest s
  | .sendArrival => Sys2Proof.Machine.execSendArrival s
  | .sendStatus => Sys2Proof.Machine.execSendStatus s
  | .overflowDelivery => Sys2Proof.Machine.execOverflowDelivery s
  | .monitorWake => Sys2Proof.Machine.execMonitorWake s
  | .mwaitTimedWake => Sys2Proof.Machine.execMwaitTimedWake s
  | .yieldExpiry => Sys2Proof.Machine.execYieldExpiry s
  | .ageingPromotion => Sys2Proof.Machine.execAgeingPromotion s
  | .coreModeSet => Sys2Proof.Machine.execCoreModeSet s
  | .fenceComplete => Sys2Proof.Machine.execFenceComplete s
  | .copyCommandStart => Sys2Proof.Machine.execCopyCommandStart s
  | .copyCommandComplete => Sys2Proof.Machine.execCopyCommandComplete s
  | .tlbWalkComplete => Sys2Proof.Machine.execTlbWalkComplete s
  | .pageWakeRetry => Sys2Proof.Machine.execPageWakeRetry s
  | .pageWakeDeny => Sys2Proof.Machine.execPageWakeDeny s
  | .fabricTimeout => Sys2Proof.Machine.execFabricTimeout s
  | .remoteFailureReport => Sys2Proof.Machine.execRemoteFailureReport s
  | .barrierArmApplied => Sys2Proof.Machine.execBarrierArmApplied s
  | .barrierArrivalAtNode => Sys2Proof.Machine.execBarrierArrivalAtNode s
  | .barrierRelease => Sys2Proof.Machine.execBarrierRelease s
  | .barrierDeparture => Sys2Proof.Machine.execBarrierDeparture s
  | .corePeckRequest => Sys2Proof.Machine.execCorePeckRequest s
  | .corePeckArrival => Sys2Proof.Machine.execCorePeckArrival s
  | .clusterPeckRequest => Sys2Proof.Machine.execClusterPeckRequest s
  | .clusterPeckArrival => Sys2Proof.Machine.execClusterPeckArrival s
  | .dieQueueEnlarge => Sys2Proof.Machine.execDieQueueEnlarge s
  | .dispatcherStart => Sys2Proof.Machine.execDispatcherStart s
  | .taskReady => Sys2Proof.Machine.execTaskReady s
  | .grantSetLoadComplete => Sys2Proof.Machine.execGrantSetLoadComplete s
  | .stealRequest => Sys2Proof.Machine.execStealRequest s
  | .stealReply => Sys2Proof.Machine.execStealReply s
  | .stealWalkWaitExpiry => Sys2Proof.Machine.execStealWalkWaitExpiry s
  | .taskRetire => Sys2Proof.Machine.execTaskRetire s
  | .pairedCompare => Sys2Proof.Machine.execPairedCompare s
  | .cellReleaseInsert => Sys2Proof.Machine.execCellReleaseInsert s
  | .contextSpill => Sys2Proof.Machine.execContextSpill s
  | .spillComplete => Sys2Proof.Machine.execSpillComplete s
  | .forwardProgressSpill => Sys2Proof.Machine.execForwardProgressSpill s
  | .contextRestore => Sys2Proof.Machine.execContextRestore s
  | .restoreComplete => Sys2Proof.Machine.execRestoreComplete s
  | .checkpointSave => Sys2Proof.Machine.execCheckpointSave s
  | .checkpointRestore => Sys2Proof.Machine.execCheckpointRestore s
  | .brsResume => Sys2Proof.Machine.execBrsResume s
  | .brsDiscard => Sys2Proof.Machine.execBrsDiscard s
  | .codeMissRetry => Sys2Proof.Machine.execCodeMissRetry s
  | .codeFetchReply => Sys2Proof.Machine.execCodeFetchReply s
  | .codeInstall => Sys2Proof.Machine.execCodeInstall s
  | .codeNoSource => Sys2Proof.Machine.execCodeNoSource s
  | .brsCodeSearch => Sys2Proof.Machine.execBrsCodeSearch s
  | .peerContainerReply => Sys2Proof.Machine.execPeerContainerReply s
  | .residentTranslation => Sys2Proof.Machine.execResidentTranslation s
  | .packageLoadRequest => Sys2Proof.Machine.execPackageLoadRequest s
  | .packageUnloadRequest => Sys2Proof.Machine.execPackageUnloadRequest s
  | .packageUnloadComplete => Sys2Proof.Machine.execPackageUnloadComplete s
  | .graphLaunch => Sys2Proof.Machine.execGraphLaunch s
  | .bookingDecision => Sys2Proof.Machine.execBookingDecision s
  | .stagingBegin => Sys2Proof.Machine.execStagingBegin s
  | .stagingStepRetry => Sys2Proof.Machine.execStagingStepRetry s
  | .bookingStart => Sys2Proof.Machine.execBookingStart s
  | .bookingSlip => Sys2Proof.Machine.execBookingSlip s
  | .slackGrain => Sys2Proof.Machine.execSlackGrain s
  | .bookingOverrun => Sys2Proof.Machine.execBookingOverrun s
  | .gangJoinAtNode => Sys2Proof.Machine.execGangJoinAtNode s
  | .gangRelease => Sys2Proof.Machine.execGangRelease s
  | .gangMemberFault => Sys2Proof.Machine.execGangMemberFault s
  | .pipeEntryArrival => Sys2Proof.Machine.execPipeEntryArrival s
  | .pipeFreeReport => Sys2Proof.Machine.execPipeFreeReport s
  | .tensorReturn => Sys2Proof.Machine.execTensorReturn s
  | .deathAction => Sys2Proof.Machine.execDeathAction s
  | .returnReply => Sys2Proof.Machine.execReturnReply s
  | .multicastCopyArrival => Sys2Proof.Machine.execMulticastCopyArrival s
  | .reductionContribution => Sys2Proof.Machine.execReductionContribution s
  | .reductionSlotTimeout => Sys2Proof.Machine.execReductionSlotTimeout s
  | .reductionSlotExpiry => Sys2Proof.Machine.execReductionSlotExpiry s
  | .redwResult => Sys2Proof.Machine.execRedwResult s
  | .headerFlitRefused => Sys2Proof.Machine.execHeaderFlitRefused s
  | .dataFlitPoisoned => Sys2Proof.Machine.execDataFlitPoisoned s
  | .linkDown => Sys2Proof.Machine.execLinkDown s
  | .laneLost => Sys2Proof.Machine.execLaneLost s
  | .linkRetrainTimer => Sys2Proof.Machine.execLinkRetrainTimer s
  | .linkTrainingDone => Sys2Proof.Machine.execLinkTrainingDone s
  | .linkTrainingTimeout => Sys2Proof.Machine.execLinkTrainingTimeout s
  | .downNotice => Sys2Proof.Machine.execDownNotice s
  | .upNotice => Sys2Proof.Machine.execUpNotice s
  | .dramRefreshGrain => Sys2Proof.Machine.execDramRefreshGrain s
  | .scratchpadScrubGrain => Sys2Proof.Machine.execScratchpadScrubGrain s
  | .linkCalibrationGrain => Sys2Proof.Machine.execLinkCalibrationGrain s
  | .launchRequest => Sys2Proof.Machine.execLaunchRequest s
  | .trapReply => Sys2Proof.Machine.execTrapReply s
  | .eventForward => Sys2Proof.Machine.execEventForward s
  | .tenantAcknowledge => Sys2Proof.Machine.execTenantAcknowledge s
  | .clusterAllocation => Sys2Proof.Machine.execClusterAllocation s
  | .clusterClear => Sys2Proof.Machine.execClusterClear s
  | .tenantDeletion => Sys2Proof.Machine.execTenantDeletion s
  | .attestationRequest => Sys2Proof.Machine.execAttestationRequest s
  | .nvmeReadComplete => Sys2Proof.Machine.execNvmeReadComplete s
  | .powerOnReset => Sys2Proof.Machine.execPowerOnReset s
  | .i3cReset => Sys2Proof.Machine.execI3cReset s
  | .modnum => Sys2Proof.Machine.execModnum s
  | .moduleNumberWaitExpiry => Sys2Proof.Machine.execModuleNumberWaitExpiry s
  | .bootFirmwareVerify => Sys2Proof.Machine.execBootFirmwareVerify s
  | .bootDramTrain => Sys2Proof.Machine.execBootDramTrain s
  | .bootUplinkTrain => Sys2Proof.Machine.execBootUplinkTrain s
  | .bootKMapLock => Sys2Proof.Machine.execBootKMapLock s
  | .bootBrsVerify => Sys2Proof.Machine.execBootBrsVerify s
  | .bootRelease => Sys2Proof.Machine.execBootRelease s
  | .thermalThrottle => Sys2Proof.Machine.execThermalThrottle s
  | .thermalHalt => Sys2Proof.Machine.execThermalHalt s
  | .telemetrySample => Sys2Proof.Machine.execTelemetrySample s
  | .remoteAccessAtBank => Sys2Proof.Machine.execRemoteAccessAtBank s
  | .spawnArrival => Sys2Proof.Machine.execSpawnArrival s
  | .ownUplinksDown => Sys2Proof.Machine.execOwnUplinksDown s
  | .operatorRequest => Sys2Proof.Machine.execOperatorRequest s
  | .ultraEthernetSessionOpen => Sys2Proof.Machine.execUltraEthernetSessionOpen s

end Sys2Proof.Machine
end

