-- ==== Sys2Proof/Machine/Issue.lean ====
section
/-! DEFINITION. Fetch, the checks of 02_formats R46 and R52, the choice among contexts (10_issue R212 to R216), and what a step
does: a step that the part has bound itself to, an act of BRS or of the outside world, a deferred fault, a chain, or the passing
of a cycle. -/

namespace Sys2Proof.Machine

/-- The halfwords from a context's PC to CodeEnd (R46). -/
def Hw.codeFrom (h : Hw) (core slot : Nat) : List Half :=
  let x := h.ctx core slot
  (h.entry (clusterOf core) x.entry).code.drop x.pc

/-- Halfwords of a chain as a number, the first in the low bits (R82). -/
def halvesVal (ws : List Half) : Nat := ws.foldr (fun w n => w.toNat + 65536 * n) 0

/-- Where a chain stands (R54, R81). -/
def Hw.curAt (h : Hw) (core slot page op len : Nat) : Cur :=
  let x := h.ctx core slot
  { core := core, slot := slot, entry := x.entry, pc := x.pc, page := page, op := op, len := len,
    words := halvesVal ((h.codeFrom core slot).take len), codeEnd := (h.entry (clusterOf core) x.entry).cend }

/-- Forms that need a unit that a service core has not (R32). -/
def needsComputeCore (page : Nat) (i : Instr) : Bool :=
  page == 1 || page == 2 ||
    (match i with
     | .book _ _ _ => true | .bkq _ _ _ => true | .bkqWt _ _ _ => true | .bkcan _ _ _ => true | .bkend _ => true
     | .gang _ _ _ => true | .gangCancel _ _ _ => true | .pipew _ _ _ => true | .piper _ _ _ => true | .piperDone _ _ => true
     | .bar _ clu _ _ => clu | .barArr _ clu _ => clu | .barWt _ clu _ _ => clu | .barFmax _ clu _ _ => clu
     | .barImax _ clu _ _ => clu | .barArm _ clu _ _ => clu
     | .fork _ _ _ _ => true | .steal _ _ _ => true | .hnew _ _ _ => true
     | _ => false)

/-- A chain begins at or before the end of an active loop level and ends after it (05_scalar R135). -/
def Ctx.straddles (x : Ctx) (pc len : Nat) : Bool := x.levels.any (fun v => decide (pc ≤ (x.loopLv v).fin) && decide ((x.loopLv v).fin < pc + len - 1))

/-- The fault of R52 steps 6 and 7, of R32 or of R135 that a decoded chain meets before its form executes: cause, FRA.SUB, FRB. -/
def Hw.preCheck (h : Hw) (c : Cur) (ch : Chain) : Option (Cause × Nat × Nat) :=
  let x := h.curCtx c
  if serviceOnly ch.instr && !x.service then some (.privileged, 0, 0)
  else
    match (Chain.gRegs ch).find? (fun n => decide (x.wsize ≤ n)) with
    | some n => some (.registerWindow, 0, n)
    | none =>
      if (h.core c.core).svc && needsComputeCore ch.raw.page ch.instr then some (.undefinedInstruction, 44, c.words)
      else if x.straddles c.pc c.len then some (.loopLimit, 4, 0)
      else none

/-- A context issues its next chain: the chain is fetched, decoded and checked, and its form executes. -/
def State.attempt (s : State) (core slot : Nat) : Res :=
  if !(s.hw.ctx core slot).begun then .next (s.begin_ core slot)
  else
    match decodeChain (s.hw.codeFrom core slot) with
    | .error e =>
      let c := s.hw.curAt core slot e.page e.op (e.widx + 1)
      .next (s.faultWith c (if e.illegal then .illegalChain else .undefinedInstruction) 0 c.words)
    | .ok ch =>
      let c := s.hw.curAt core slot ch.raw.page ch.raw.op ch.raw.len
      match s.hw.preCheck c ch with
      | some (cause, sub, frb) => .next (s.faultWith c cause sub frb)
      | none => exec ch.instr (s.onHw (fun h => { h with cur := some c }))

/-- The attempt takes the core's issue cycle. -/
def State.issues (s : State) (core slot : Nat) : Bool :=
  match s.attempt core slot with
  | .next t => (t.hw.core core).lastIssue == some s.hw.now
  | _ => true

/-- The slot to issue among eligible ones (R212, R216): the lowest EFF, and round-robin from the pointer of that EFF. -/
def Core.pick (k : Core) (slots : List Nat) : Option Nat :=
  let best := slots.foldl (fun m i => min m (k.ctx i).eff) 3
  let mine := slots.filter (fun i => (k.ctx i).eff ≤ best)
  let p := SMap.get 0 k.ptr best
  ((List.range 64).map (fun i => (p + 1 + i) % 64)).find? (fun i => mine.contains i)

/-- A core is held until the boot order of its module releases it (24_bringup R479, R480, R482). -/
def Hw.released (h : Hw) (core : Nat) : Bool :=
  let b := (h.mod (moduleOf core)).boot
  b.code == 0xF && !b.halt

/-- Eligible slots of a core that has not yet issued in this cycle. -/
def Hw.candidates (h : Hw) (core : Nat) : List Nat :=
  let k := h.core core
  if k.lastIssue = some h.now || !h.released core then []
  else (k.slots.map (fun (e : Nat × Ctx) => e.1)).filter (fun i => h.eligible core i)

/-- What a core does with its issue cycle: a context whose next chain must wait is found first (R211), then one is chosen. -/
def State.issueCore (s : State) (core : Nat) : Option Res :=
  let cs := s.hw.candidates core
  match cs.find? (fun i => !s.issues core i) with
  | some i => some (s.attempt core i)
  | none =>
    match (s.hw.core core).pick cs with
    | some i => some (s.attempt core i)
    | none => none

/-- The first core, by number, with something to do. -/
def State.issueFirst (s : State) : List Nat → Option Res
  | [] => none
  | c :: r =>
    match s.issueCore c with
    | some t => some t
    | none => s.issueFirst r

/-- A context that stands at a chain boundary takes a deferred fault (R146). -/
def Hw.deferredNow (h : Hw) : Option (Nat × Nat × FaultRec) :=
  h.cores.foldl (fun m (e : Nat × Core) =>
    match m with
    | some d => some d
    | none =>
      e.2.slots.foldl (fun m (y : Nat × Ctx) =>
        match m, y.2.deferred with
        | some d, _ => some d
        | none, f :: _ => if y.2.st = .ready ∨ (y.2.st = .parked ∧ y.2.access = none) then some (e.1, y.1, f) else none
        | none, [] => none) none) none

/-- Takes the step at the head of a list, if it is due. -/
def firstDue (now : Nat) : List Due → Option (Due × List Due)
  | [] => none
  | d :: r => if d.at_ ≤ now then some (d, r) else none

/-- An act of BRS or of the outside world that is due, with those that are left. -/
def inputDue (now : Nat) (l : List Due) : Option (Due × List Due) :=
  match l.find? (fun d => decide (d.at_ ≤ now)) with
  | some d => some (d, l.erase d)
  | none => none

/-- The clocks of the module have stopped (24_bringup R486). -/
def Hw.stopped (h : Hw) : Bool :=
  let b := (h.mod h.self).boot
  b.halt && b.code == 0xE

/-- A reset from outside. -/
def Due.isReset (d : Due) : Bool := d.instr == .powerOnReset || d.instr == .i3cReset

/-- What a module whose clocks have stopped still does: it answers I3C and takes a reset (24_bringup R486). -/
def State.whileStopped (s : State) : Res :=
  match s.hw.inputs.find? Due.isReset with
  | some d => exec d.instr (s.onHw (fun h => { h with inputs := h.inputs.erase d, arg := d.arg }))
  | none => .next s

/-- One step of the machine while its clocks run (notes/assumptions/5.md). -/
def State.running (s : State) : Res :=
  match firstDue s.hw.now s.hw.agenda with
  | some (d, r) => exec d.instr (s.onHw (fun h => { h with agenda := r, arg := d.arg }))
  | none =>
    match inputDue s.hw.now s.hw.inputs with
    | some (d, r) => exec d.instr (s.onHw (fun h => { h with inputs := r, arg := d.arg }))
    | none =>
      match s.hw.deferredNow with
      | some (core, slot, f) =>
        .next (s.onHw fun h =>
          let x := h.ctx core slot
          (h.setCtx core slot { x with deferred := x.deferred.drop 1 }).raise core slot
            (if f.cause = .gangMember then { f with pc := x.pc, entry := x.entry } else f))
      | none =>
        match s.issueFirst (s.hw.cores.map (fun (e : Nat × Core) => e.1)) with
        | some t => t
        | none => .next s.tick

/-- One step of the machine. -/
def State.next (s : State) : Res := if s.hw.stopped then s.whileStopped else s.running

/-- A context of core 0 that is about to run a program: begun, Ready, with the largest window; in service mode where the
program begins with a service-only form. -/
def Ctx.starter (svc : Bool) : Ctx :=
  ({ Ctx.free with st := .ready, wsize := 128, begun := true, linksp := 0x6E000, ckptb := 0x5C000 }).setTs tsSVC svc

/-- The machine with a program in entry 0 of cluster 0 that a context of core 0 is about to run, the boot order done. -/
def State.loaded (s : State) (code : List Half) (svc : Bool) : State :=
  s.onHw fun h =>
    ((h.modMod 0 (fun m => { m with boot := { m.boot with code := 0xF } })).setCtx 0 0 (Ctx.starter svc)).modEntry 0 0 (fun _ =>
      { DEntry.none with st := .installed, code := code, run := 1, units := imageUnits code [] [] })

/-- A first instruction is service-only. -/
def startsService (code : List Half) : Bool :=
  match decode code with
  | .ok (i, _) => serviceOnly i
  | .error _ => false

end Sys2Proof.Machine
end

