-- ==== Sys2Proof/Machine/Step.lean ====
section
/-! DEFINITION. The step of the machine, and the placing of one instruction where the next step fetches it. -/

namespace Sys2Proof.Machine

/-- One step. -/
def step (s : State) : Host.Outcome State Fault Refusal := s.next

/-- `s` with one instruction of the opcode table placed as the program that the next step runs (notes/assumptions/2.md). -/
def State.withFetchWord (s : State) (nbits w : Nat) : State :=
  s.loaded (tableHalves nbits w ++ [0]) (startsService (tableHalves nbits w ++ [0]))

end Sys2Proof.Machine
end

