-- ==== Sys2Proof/Laws/PerInstr.lean ====
section
/-! SUPPORT. What is said of every instruction as syntax, one lemma per constructor: the words of a well-formed
instruction are at least one and at most five halfwords (02_formats R44, R57). -/

namespace Sys2Proof.Laws.Length

/-- The words of a well-formed instruction are a chain of one base halfword and at most four prefixes. -/
def Statement (i : Instr) : Prop := ∀ ws, i.wf = true → encode i = some ws → 1 ≤ ws.length ∧ ws.length ≤ 5

/-- As many PX words stand in a chain as its immediate takes. -/
theorem length_pxWords (k v : Nat) : (pxWords k v).length = k := by
  induction k with
  | zero => rfl
  | succ k ih => simp [pxWords, ih]

/-- A chain is its prefixes and one base halfword. -/
theorem length_words (f : FullForm) : f.words.length = f.prefixes + 1 := by
  simp only [FullForm.words, FullForm.prefixes, List.length_append, length_pxWords]
  cases f.needPG <;> cases f.needPB <;> cases f.needPR <;> simp [bit]

/-- The bound follows from the check of R44 alone. -/
theorem of_wf (i : Instr) : Statement i := by
  intro ws hw he
  obtain ⟨f, hf, rfl⟩ := Option.map_eq_some_iff.mp he
  simp only [Instr.wf, hf, Bool.and_eq_true, decide_eq_true_eq] at hw
  rw [length_words]
  omega

theorem nop (sw : Bool) : Statement (.nop sw) := of_wf _
theorem mov (sw : Bool) (a b : GReg) : Statement (.mov sw a b) := of_wf _
theorem movWc (sw : Bool) (a : BitVec 4) (b : GReg) : Statement (.movWc sw a b) := of_wf _
theorem movRc (sw : Bool) (a : GReg) (b : BitVec 4) : Statement (.movRc sw a b) := of_wf _
theorem movRlc (sw : Bool) (a : GReg) (b : Fin 3) : Statement (.movRlc sw a b) := of_wf _
theorem li (sw : Bool) (a : GReg) (imm : BitVec 40) : Statement (.li sw a imm) := of_wf _
theorem lih (sw : Bool) (a : GReg) (imm : BitVec 40) : Statement (.lih sw a imm) := of_wf _
theorem add (sw : Bool) (t : ITy) (a c b : GReg) : Statement (.add sw t a c b) := of_wf _
theorem sub (sw : Bool) (t : ITy) (a c b : GReg) : Statement (.sub sw t a c b) := of_wf _
theorem addi (sw : Bool) (t : ITy) (a c : GReg) (imm : BitVec 40) : Statement (.addi sw t a c imm) := of_wf _
theorem mul (sw : Bool) (t : ITy) (a c b : GReg) : Statement (.mul sw t a c b) := of_wf _
theorem mulh (sw : Bool) (t : ITy) (a c b : GReg) : Statement (.mulh sw t a c b) := of_wf _
theorem div (sw : Bool) (t : ITy) (a c b : GReg) : Statement (.div sw t a c b) := of_wf _
theorem rem (sw : Bool) (t : ITy) (a c b : GReg) : Statement (.rem sw t a c b) := of_wf _
theorem and (sw : Bool) (a c b : GReg) : Statement (.and sw a c b) := of_wf _
theorem or (sw : Bool) (a c b : GReg) : Statement (.or sw a c b) := of_wf _
theorem xor (sw : Bool) (a c b : GReg) : Statement (.xor sw a c b) := of_wf _
theorem andn (sw : Bool) (a c b : GReg) : Statement (.andn sw a c b) := of_wf _
theorem shl (sw : Bool) (a c b : GReg) : Statement (.shl sw a c b) := of_wf _
theorem shr (sw : Bool) (a c b : GReg) : Statement (.shr sw a c b) := of_wf _
theorem sar (sw : Bool) (a c b : GReg) : Statement (.sar sw a c b) := of_wf _
theorem shi (sw : Bool) (k : ShKind) (a c : GReg) (imm : BitVec 13) : Statement (.shi sw k a c imm) := of_wf _
theorem rot (sw : Bool) (a c b : GReg) : Statement (.rot sw a c b) := of_wf _
theorem clz (sw : Bool) (a b : GReg) : Statement (.clz sw a b) := of_wf _
theorem popc (sw : Bool) (a b : GReg) : Statement (.popc sw a b) := of_wf _
theorem min (sw : Bool) (t : ITy) (a c b : GReg) : Statement (.min sw t a c b) := of_wf _
theorem max (sw : Bool) (t : ITy) (a c b : GReg) : Statement (.max sw t a c b) := of_wf _
theorem cmp (sw : Bool) (k : Cond) (t : ITy) (a c b : GReg) : Statement (.cmp sw k t a c b) := of_wf _
theorem cmpi (sw : Bool) (k : Cond) (t : ITy) (a c : GReg) (imm : BitVec 40) : Statement (.cmpi sw k t a c imm) := of_wf _
theorem sel (sw : Bool) (k : Test) (a c b : GReg) : Statement (.sel sw k a c b) := of_wf _
theorem ext (sw : Bool) (t : ITy) (a b : GReg) : Statement (.ext sw t a b) := of_wf _
theorem bfx (sw : Bool) (sgn : Bool) (a c : GReg) (imm : BitVec 13) : Statement (.bfx sw sgn a c imm) := of_wf _
theorem bfi (sw : Bool) (a c : GReg) (imm : BitVec 13) : Statement (.bfi sw a c imm) := of_wf _
theorem lea (sw : Bool) (hi : Bool) (a : GReg) (m : MemOp) : Statement (.lea sw hi a m) := of_wf _
theorem br (sw : Bool) (k : BrTest) (a : GReg) (imm : BitVec 40) : Statement (.br sw k a imm) := of_wf _
theorem jmp (sw : Bool) (imm : BitVec 40) : Statement (.jmp sw imm) := of_wf _
theorem jmpr (sw : Bool) (b : GReg) : Statement (.jmpr sw b) := of_wf _
theorem calld (sw : Bool) (imm : BitVec 22) : Statement (.calld sw imm) := of_wf _
theorem ret (sw : Bool) : Statement (.ret sw) := of_wf _
theorem loop (sw : Bool) (lc : Fin 3) (b : GReg) (imm : BitVec 9) : Statement (.loop sw lc b imm) := of_wf _
theorem ld (sw : Bool) (k : LdKind) (rx : Bool) (a : GReg) (m : MemOp) : Statement (.ld sw k rx a m) := of_wf _
theorem st (sw : Bool) (k : StKind) (rx : Bool) (a : GReg) (m : MemOp) : Statement (.st sw k rx a m) := of_wf _
theorem ldp (sw : Bool) (k : LdKind) (md : PMode) (a : GReg) (p : BitVec 3) : Statement (.ldp sw k md a p) := of_wf _
theorem stp (sw : Bool) (k : StKind) (md : PMode) (a : GReg) (p : BitVec 3) : Statement (.stp sw k md a p) := of_wf _
theorem atom (sw : Bool) (op : AtomOp) (t : AtomTy) (rx : Bool) (a : GReg) (m : MemOp) : Statement (.atom sw op t rx a m) := of_wf _
theorem fence (sw : Bool) (imm : BitVec 13) : Statement (.fence sw imm) := of_wf _
theorem send (sw : Bool) (a c b : GReg) : Statement (.send sw a c b) := of_wf _
theorem take (sw : Bool) (a b : GReg) : Statement (.take sw a b) := of_wf _
theorem clrf (sw : Bool) (a : GReg) : Statement (.clrf sw a) := of_wf _
theorem mwait (sw : Bool) (a : GReg) (m : MemOp) : Statement (.mwait sw a m) := of_wf _
theorem srr (sw : Bool) (a : GReg) (n : BitVec 7) : Statement (.srr sw a n) := of_wf _
theorem srw (sw : Bool) (n : BitVec 7) (b : GReg) : Statement (.srw sw n b) := of_wf _
theorem epush (sw : Bool) (e : BitVec 3) (b : GReg) : Statement (.epush sw e b) := of_wf _
theorem epop (sw : Bool) (a : GReg) (e : BitVec 3) : Statement (.epop sw a e) := of_wf _
theorem trap (sw : Bool) (a : GReg) (n : BitVec 13) : Statement (.trap sw a n) := of_wf _
theorem brk (sw : Bool) (n : BitVec 4) : Statement (.brk sw n) := of_wf _
theorem yield (sw : Bool) : Statement (.yield sw) := of_wf _
theorem quit (sw : Bool) : Statement (.quit sw) := of_wf _
theorem spawn (sw : Bool) (a c b : GReg) : Statement (.spawn sw a c b) := of_wf _
theorem bar (sw : Bool) (clu : Bool) (a : GReg) (ch : BitVec 4) : Statement (.bar sw clu a ch) := of_wf _
theorem barArr (sw : Bool) (clu : Bool) (ch : BitVec 4) : Statement (.barArr sw clu ch) := of_wf _
theorem barWt (sw : Bool) (clu : Bool) (a : GReg) (ch : BitVec 4) : Statement (.barWt sw clu a ch) := of_wf _
theorem barFmax (sw : Bool) (clu : Bool) (a : GReg) (ch : BitVec 4) : Statement (.barFmax sw clu a ch) := of_wf _
theorem barImax (sw : Bool) (clu : Bool) (a : GReg) (ch : BitVec 4) : Statement (.barImax sw clu a ch) := of_wf _
theorem barArm (sw : Bool) (clu : Bool) (a : GReg) (ch : BitVec 4) : Statement (.barArm sw clu a ch) := of_wf _
theorem ckpt (sw : Bool) (m : MemOp) : Statement (.ckpt sw m) := of_wf _
theorem pmov (sw : Bool) (p : BitVec 3) (b : GReg) : Statement (.pmov sw p b) := of_wf _
theorem pmovGet (sw : Bool) (a : GReg) (p : BitVec 3) : Statement (.pmovGet sw a p) := of_wf _
theorem vadd (h : VHdr) (a c b : BitVec 3) : Statement (.vadd h a c b) := of_wf _
theorem vsub (h : VHdr) (a c b : BitVec 3) : Statement (.vsub h a c b) := of_wf _
theorem vmul (h : VHdr) (a c b : BitVec 3) : Statement (.vmul h a c b) := of_wf _
theorem vfma (h : VHdr) (a c b : BitVec 3) : Statement (.vfma h a c b) := of_wf _
theorem vfms (h : VHdr) (a c b : BitVec 3) : Statement (.vfms h a c b) := of_wf _
theorem vmin (h : VHdr) (a c b : BitVec 3) : Statement (.vmin h a c b) := of_wf _
theorem vmax (h : VHdr) (a c b : BitVec 3) : Statement (.vmax h a c b) := of_wf _
theorem vabs (h : VHdr) (a c : BitVec 3) : Statement (.vabs h a c) := of_wf _
theorem vneg (h : VHdr) (a c : BitVec 3) : Statement (.vneg h a c) := of_wf _
theorem vand (h : VHdr) (a c b : BitVec 3) : Statement (.vand h a c b) := of_wf _
theorem vor (h : VHdr) (a c b : BitVec 3) : Statement (.vor h a c b) := of_wf _
theorem vxor (h : VHdr) (a c b : BitVec 3) : Statement (.vxor h a c b) := of_wf _
theorem vnot (h : VHdr) (a c : BitVec 3) : Statement (.vnot h a c) := of_wf _
theorem vshl (h : VHdr) (a c b : BitVec 3) : Statement (.vshl h a c b) := of_wf _
theorem vshr (h : VHdr) (a c b : BitVec 3) : Statement (.vshr h a c b) := of_wf _
theorem vsar (h : VHdr) (a c b : BitVec 3) : Statement (.vsar h a c b) := of_wf _
theorem vcmp (h : VHdr) (k : Cond) (a : BitVec 2) (c b : BitVec 3) : Statement (.vcmp h k a c b) := of_wf _
theorem vsel (h : VHdr) (a c b : BitVec 3) : Statement (.vsel h a c b) := of_wf _
theorem vcvt (h : VHdr) (tgt : ETy) (part : BitVec 3) (a c : BitVec 3) : Statement (.vcvt h tgt part a c) := of_wf _
theorem vqnt (h : VHdr) (tgt : QFmt) (part : BitVec 3) (a c b : BitVec 3) : Statement (.vqnt h tgt part a c b) := of_wf _
theorem vdqnt (h : VHdr) (frm : QFmt) (part : BitVec 3) (a c b : BitVec 3) : Statement (.vdqnt h frm part a c b) := of_wf _
theorem vred (h : VHdr) (op : RedOp) (a c : BitVec 3) : Statement (.vred h op a c) := of_wf _
theorem vscan (h : VHdr) (op : RedOp) (excl : Bool) (a c : BitVec 3) : Statement (.vscan h op excl a c) := of_wf _
theorem vbcast (h : VHdr) (a : BitVec 3) (src : BcSrc) : Statement (.vbcast h a src) := of_wf _
theorem viota (h : VHdr) (a : BitVec 3) : Statement (.viota h a) := of_wf _
theorem vperm (h : VHdr) (a c b : BitVec 3) : Statement (.vperm h a c b) := of_wf _
theorem vgath (h : VHdr) (a b : BitVec 3) (sg : BitVec 3) : Statement (.vgath h a b sg) := of_wf _
theorem vscat (h : VHdr) (a b : BitVec 3) (sg : BitVec 3) : Statement (.vscat h a b sg) := of_wf _
theorem vsfu (h : VHdr) (f : SfuFn) (a c : BitVec 3) : Statement (.vsfu h f a c) := of_wf _
theorem vmsk (sw : Bool) (op : MskOp) (a c b : BitVec 2) : Statement (.vmsk sw op a c b) := of_wf _
theorem vmovm (sw : Bool) (op : MovmOp) : Statement (.vmovm sw op) := of_wf _
theorem vdot (h : VHdr) (a c b : BitVec 3) : Statement (.vdot h a c b) := of_wf _
theorem vclamp (h : VHdr) (a c b : BitVec 3) : Statement (.vclamp h a c b) := of_wf _
theorem vamax (h : VHdr) (a c : BitVec 3) : Statement (.vamax h a c) := of_wf _
theorem mgath (sw : Bool) (toB : Bool) (b : GReg) : Statement (.mgath sw toB b) := of_wf _
theorem mald (sw : Bool) (b : GReg) : Statement (.mald sw b) := of_wf _
theorem mbld (sw : Bool) (b : GReg) : Statement (.mbld sw b) := of_wf _
theorem mma (sw : Bool) (g z cq : Bool) (acc : BitVec 2) (ks : BitVec 4) : Statement (.mma sw g z cq acc ks) := of_wf _
theorem mzero (sw : Bool) (f32 cq : Bool) (acc : BitVec 2) : Statement (.mzero sw f32 cq acc) := of_wf _
theorem mrd (sw : Bool) (rnd : Rnd) (nsat : Bool) (acc : BitVec 2) (b : GReg) : Statement (.mrd sw rnd nsat acc b) := of_wf _
theorem mwr (sw : Bool) (acc : BitVec 2) (b : GReg) : Statement (.mwr sw acc b) := of_wf _
theorem mscl (sw : Bool) (toB : Bool) (b : GReg) : Statement (.mscl sw toB b) := of_wf _
theorem mstat (sw : Bool) (a : GReg) : Statement (.mstat sw a) := of_wf _
theorem baddq (sw : Bool) (rnd : Rnd) (acc : BitVec 2) (b : GReg) : Statement (.baddq sw rnd acc b) := of_wf _
theorem segw (sw : Bool) (a : BitVec 3) (b : GReg) : Statement (.segw sw a b) := of_wf _
theorem segr (sw : Bool) (a : GReg) (b : BitVec 3) : Statement (.segr sw a b) := of_wf _
theorem segrHi (sw : Bool) (a : GReg) (b : BitVec 3) : Statement (.segrHi sw a b) := of_wf _
theorem pgprobe (sw : Bool) (a : GReg) (m : MemOp) : Statement (.pgprobe sw a m) := of_wf _
theorem tlbinv (sw : Bool) (k : TlbScope) (a b : GReg) : Statement (.tlbinv sw k a b) := of_wf _
theorem codeinv (sw : Bool) (a b : GReg) : Statement (.codeinv sw a b) := of_wf _
theorem codeinvAll (sw : Bool) (a : GReg) : Statement (.codeinvAll sw a) := of_wf _
theorem fbegin (sw : Bool) (imm : BitVec 31) : Statement (.fbegin sw imm) := of_wf _
theorem fcommit (sw : Bool) : Statement (.fcommit sw) := of_wf _
theorem fabort (sw : Bool) : Statement (.fabort sw) := of_wf _
theorem spill (sw : Bool) (a b : GReg) : Statement (.spill sw a b) := of_wf _
theorem spillHold (sw : Bool) (a b : GReg) : Statement (.spillHold sw a b) := of_wf _
theorem spillRel (sw : Bool) (a b : GReg) : Statement (.spillRel sw a b) := of_wf _
theorem spillBase (sw : Bool) (a b : GReg) : Statement (.spillBase sw a b) := of_wf _
theorem spillCkpt (sw : Bool) (a b : GReg) : Statement (.spillCkpt sw a b) := of_wf _
theorem csave (sw : Bool) (a b : GReg) : Statement (.csave sw a b) := of_wf _
theorem cload (sw : Bool) (a b : GReg) : Statement (.cload sw a b) := of_wf _
theorem fork (sw : Bool) (a c b : GReg) : Statement (.fork sw a c b) := of_wf _
theorem join (sw : Bool) (a : GReg) (m : MemOp) : Statement (.join sw a m) := of_wf _
theorem depnew (sw : Bool) (a : GReg) (m : MemOp) : Statement (.depnew sw a m) := of_wf _
theorem deppub (sw : Bool) (a : GReg) (m : MemOp) : Statement (.deppub sw a m) := of_wf _
theorem signal (sw : Bool) (rx : Bool) (a : GReg) (m : MemOp) : Statement (.signal sw rx a m) := of_wf _
theorem enq (sw : Bool) (l : EnqLevel) (a : GReg) (m : MemOp) : Statement (.enq sw l a m) := of_wf _
theorem taskid (sw : Bool) (k : TaskIdSel) (a : GReg) : Statement (.taskid sw k a) := of_wf _
theorem steal (sw : Bool) (a b : GReg) : Statement (.steal sw a b) := of_wf _
theorem book (sw : Bool) (a b : GReg) : Statement (.book sw a b) := of_wf _
theorem bkq (sw : Bool) (a b : GReg) : Statement (.bkq sw a b) := of_wf _
theorem bkqWt (sw : Bool) (a b : GReg) : Statement (.bkqWt sw a b) := of_wf _
theorem bkcan (sw : Bool) (a b : GReg) : Statement (.bkcan sw a b) := of_wf _
theorem bkend (sw : Bool) : Statement (.bkend sw) := of_wf _
theorem gang (sw : Bool) (a b : GReg) : Statement (.gang sw a b) := of_wf _
theorem gangCancel (sw : Bool) (a b : GReg) : Statement (.gangCancel sw a b) := of_wf _
theorem pipew (sw : Bool) (a : GReg) (ep : BitVec 4) : Statement (.pipew sw a ep) := of_wf _
theorem piper (sw : Bool) (a : GReg) (ep : BitVec 4) : Statement (.piper sw a ep) := of_wf _
theorem piperDone (sw : Bool) (ep : BitVec 4) : Statement (.piperDone sw ep) := of_wf _
theorem hnew (sw : Bool) (a b : GReg) : Statement (.hnew sw a b) := of_wf _
theorem hcopy (sw : Bool) (a b : GReg) : Statement (.hcopy sw a b) := of_wf _
theorem hdrop (sw : Bool) (a : GReg) : Statement (.hdrop sw a) := of_wf _
theorem hdropLost (sw : Bool) (a : GReg) : Statement (.hdropLost sw a) := of_wf _
theorem hbind (sw : Bool) (a b : GReg) : Statement (.hbind sw a b) := of_wf _
theorem hsend (sw : Bool) (a c b : GReg) : Statement (.hsend sw a c b) := of_wf _
theorem haddr (sw : Bool) (a c : GReg) (sg : BitVec 3) : Statement (.haddr sw a c sg) := of_wf _
theorem haddrLen (sw : Bool) (a c : GReg) : Statement (.haddrLen sw a c) := of_wf _
theorem haddrWt (sw : Bool) (a c : GReg) : Statement (.haddrWt sw a c) := of_wf _
theorem mcw (sw : Bool) (a b : GReg) : Statement (.mcw sw a b) := of_wf _
theorem mcsend (sw : Bool) (a c b : GReg) : Statement (.mcsend sw a c b) := of_wf _
theorem rslot (sw : Bool) (a b : GReg) : Statement (.rslot sw a b) := of_wf _
theorem redc (sw : Bool) (a c b : GReg) : Statement (.redc sw a c b) := of_wf _
theorem redw (sw : Bool) (a b : GReg) : Statement (.redw sw a b) := of_wf _
theorem lnkst (sw : Bool) (a b : GReg) : Statement (.lnkst sw a b) := of_wf _
theorem lnkstCtl (sw : Bool) (a b : GReg) : Statement (.lnkstCtl sw a b) := of_wf _
theorem ldmb (sw : Bool) (k : BitVec 4) (a : GReg) (m : MemOp) : Statement (.ldmb sw k a m) := of_wf _
theorem stmb (sw : Bool) (k : BitVec 4) (a : GReg) (m : MemOp) : Statement (.stmb sw k a m) := of_wf _
theorem blkcp (sw : Bool) (a : GReg) (m : MemOp) : Statement (.blkcp sw a m) := of_wf _
theorem crcb (sw : Bool) (a : GReg) (m : MemOp) : Statement (.crcb sw a m) := of_wf _
theorem vectorRowWrite : Statement (.vectorRowWrite) := of_wf _
theorem gatherElementReply : Statement (.gatherElementReply) := of_wf _
theorem sfuRequestDone : Statement (.sfuRequestDone) := of_wf _
theorem matrixLoadExec : Statement (.matrixLoadExec) := of_wf _
theorem mmaGangStart : Statement (.mmaGangStart) := of_wf _
theorem mmaExec : Statement (.mmaExec) := of_wf _
theorem mrdExec : Statement (.mrdExec) := of_wf _
theorem mwrExec : Statement (.mwrExec) := of_wf _
theorem mzeroExec : Statement (.mzeroExec) := of_wf _
theorem msclExec : Statement (.msclExec) := of_wf _
theorem baddqExec : Statement (.baddqExec) := of_wf _
theorem latchEccError : Statement (.latchEccError) := of_wf _
theorem tlbinvComplete : Statement (.tlbinvComplete) := of_wf _
theorem codeinvComplete : Statement (.codeinvComplete) := of_wf _
theorem fcommitDecision : Statement (.fcommitDecision) := of_wf _
theorem coreImageComplete : Statement (.coreImageComplete) := of_wf _
theorem mcwComplete : Statement (.mcwComplete) := of_wf _
theorem mcsendResult : Statement (.mcsendResult) := of_wf _
theorem plainAccessReply : Statement (.plainAccessReply) := of_wf _
theorem relaxedLoadResult : Statement (.relaxedLoadResult) := of_wf _
theorem storeAcknowledge : Statement (.storeAcknowledge) := of_wf _
theorem tagRetryRequest : Statement (.tagRetryRequest) := of_wf _
theorem sendArrival : Statement (.sendArrival) := of_wf _
theorem sendStatus : Statement (.sendStatus) := of_wf _
theorem overflowDelivery : Statement (.overflowDelivery) := of_wf _
theorem monitorWake : Statement (.monitorWake) := of_wf _
theorem mwaitTimedWake : Statement (.mwaitTimedWake) := of_wf _
theorem yieldExpiry : Statement (.yieldExpiry) := of_wf _
theorem ageingPromotion : Statement (.ageingPromotion) := of_wf _
theorem coreModeSet : Statement (.coreModeSet) := of_wf _
theorem fenceComplete : Statement (.fenceComplete) := of_wf _
theorem copyCommandStart : Statement (.copyCommandStart) := of_wf _
theorem copyCommandComplete : Statement (.copyCommandComplete) := of_wf _
theorem tlbWalkComplete : Statement (.tlbWalkComplete) := of_wf _
theorem pageWakeRetry : Statement (.pageWakeRetry) := of_wf _
theorem pageWakeDeny : Statement (.pageWakeDeny) := of_wf _
theorem fabricTimeout : Statement (.fabricTimeout) := of_wf _
theorem remoteFailureReport : Statement (.remoteFailureReport) := of_wf _
theorem barrierArmApplied : Statement (.barrierArmApplied) := of_wf _
theorem barrierArrivalAtNode : Statement (.barrierArrivalAtNode) := of_wf _
theorem barrierRelease : Statement (.barrierRelease) := of_wf _
theorem barrierDeparture : Statement (.barrierDeparture) := of_wf _
theorem corePeckRequest : Statement (.corePeckRequest) := of_wf _
theorem corePeckArrival : Statement (.corePeckArrival) := of_wf _
theorem clusterPeckRequest : Statement (.clusterPeckRequest) := of_wf _
theorem clusterPeckArrival : Statement (.clusterPeckArrival) := of_wf _
theorem dieQueueEnlarge : Statement (.dieQueueEnlarge) := of_wf _
theorem dispatcherStart : Statement (.dispatcherStart) := of_wf _
theorem taskReady : Statement (.taskReady) := of_wf _
theorem grantSetLoadComplete : Statement (.grantSetLoadComplete) := of_wf _
theorem stealRequest : Statement (.stealRequest) := of_wf _
theorem stealReply : Statement (.stealReply) := of_wf _
theorem stealWalkWaitExpiry : Statement (.stealWalkWaitExpiry) := of_wf _
theorem taskRetire : Statement (.taskRetire) := of_wf _
theorem pairedCompare : Statement (.pairedCompare) := of_wf _
theorem cellReleaseInsert : Statement (.cellReleaseInsert) := of_wf _
theorem contextSpill : Statement (.contextSpill) := of_wf _
theorem spillComplete : Statement (.spillComplete) := of_wf _
theorem forwardProgressSpill : Statement (.forwardProgressSpill) := of_wf _
theorem contextRestore : Statement (.contextRestore) := of_wf _
theorem restoreComplete : Statement (.restoreComplete) := of_wf _
theorem checkpointSave : Statement (.checkpointSave) := of_wf _
theorem checkpointRestore : Statement (.checkpointRestore) := of_wf _
theorem brsResume : Statement (.brsResume) := of_wf _
theorem brsDiscard : Statement (.brsDiscard) := of_wf _
theorem codeMissRetry : Statement (.codeMissRetry) := of_wf _
theorem codeFetchReply : Statement (.codeFetchReply) := of_wf _
theorem codeInstall : Statement (.codeInstall) := of_wf _
theorem codeNoSource : Statement (.codeNoSource) := of_wf _
theorem brsCodeSearch : Statement (.brsCodeSearch) := of_wf _
theorem peerContainerReply : Statement (.peerContainerReply) := of_wf _
theorem residentTranslation : Statement (.residentTranslation) := of_wf _
theorem packageLoadRequest : Statement (.packageLoadRequest) := of_wf _
theorem packageUnloadRequest : Statement (.packageUnloadRequest) := of_wf _
theorem packageUnloadComplete : Statement (.packageUnloadComplete) := of_wf _
theorem graphLaunch : Statement (.graphLaunch) := of_wf _
theorem bookingDecision : Statement (.bookingDecision) := of_wf _
theorem stagingBegin : Statement (.stagingBegin) := of_wf _
theorem stagingStepRetry : Statement (.stagingStepRetry) := of_wf _
theorem bookingStart : Statement (.bookingStart) := of_wf _
theorem bookingSlip : Statement (.bookingSlip) := of_wf _
theorem slackGrain : Statement (.slackGrain) := of_wf _
theorem bookingOverrun : Statement (.bookingOverrun) := of_wf _
theorem gangJoinAtNode : Statement (.gangJoinAtNode) := of_wf _
theorem gangRelease : Statement (.gangRelease) := of_wf _
theorem gangMemberFault : Statement (.gangMemberFault) := of_wf _
theorem pipeEntryArrival : Statement (.pipeEntryArrival) := of_wf _
theorem pipeFreeReport : Statement (.pipeFreeReport) := of_wf _
theorem tensorReturn : Statement (.tensorReturn) := of_wf _
theorem deathAction : Statement (.deathAction) := of_wf _
theorem returnReply : Statement (.returnReply) := of_wf _
theorem multicastCopyArrival : Statement (.multicastCopyArrival) := of_wf _
theorem reductionContribution : Statement (.reductionContribution) := of_wf _
theorem reductionSlotTimeout : Statement (.reductionSlotTimeout) := of_wf _
theorem reductionSlotExpiry : Statement (.reductionSlotExpiry) := of_wf _
theorem redwResult : Statement (.redwResult) := of_wf _
theorem headerFlitRefused : Statement (.headerFlitRefused) := of_wf _
theorem dataFlitPoisoned : Statement (.dataFlitPoisoned) := of_wf _
theorem linkDown : Statement (.linkDown) := of_wf _
theorem laneLost : Statement (.laneLost) := of_wf _
theorem linkRetrainTimer : Statement (.linkRetrainTimer) := of_wf _
theorem linkTrainingDone : Statement (.linkTrainingDone) := of_wf _
theorem linkTrainingTimeout : Statement (.linkTrainingTimeout) := of_wf _
theorem downNotice : Statement (.downNotice) := of_wf _
theorem upNotice : Statement (.upNotice) := of_wf _
theorem dramRefreshGrain : Statement (.dramRefreshGrain) := of_wf _
theorem scratchpadScrubGrain : Statement (.scratchpadScrubGrain) := of_wf _
theorem linkCalibrationGrain : Statement (.linkCalibrationGrain) := of_wf _
theorem launchRequest : Statement (.launchRequest) := of_wf _
theorem trapReply : Statement (.trapReply) := of_wf _
theorem eventForward : Statement (.eventForward) := of_wf _
theorem tenantAcknowledge : Statement (.tenantAcknowledge) := of_wf _
theorem clusterAllocation : Statement (.clusterAllocation) := of_wf _
theorem clusterClear : Statement (.clusterClear) := of_wf _
theorem tenantDeletion : Statement (.tenantDeletion) := of_wf _
theorem attestationRequest : Statement (.attestationRequest) := of_wf _
theorem nvmeReadComplete : Statement (.nvmeReadComplete) := of_wf _
theorem powerOnReset : Statement (.powerOnReset) := of_wf _
theorem i3cReset : Statement (.i3cReset) := of_wf _
theorem modnum : Statement (.modnum) := of_wf _
theorem moduleNumberWaitExpiry : Statement (.moduleNumberWaitExpiry) := of_wf _
theorem bootFirmwareVerify : Statement (.bootFirmwareVerify) := of_wf _
theorem bootDramTrain : Statement (.bootDramTrain) := of_wf _
theorem bootUplinkTrain : Statement (.bootUplinkTrain) := of_wf _
theorem bootKMapLock : Statement (.bootKMapLock) := of_wf _
theorem bootBrsVerify : Statement (.bootBrsVerify) := of_wf _
theorem bootRelease : Statement (.bootRelease) := of_wf _
theorem thermalThrottle : Statement (.thermalThrottle) := of_wf _
theorem thermalHalt : Statement (.thermalHalt) := of_wf _
theorem telemetrySample : Statement (.telemetrySample) := of_wf _
theorem remoteAccessAtBank : Statement (.remoteAccessAtBank) := of_wf _
theorem spawnArrival : Statement (.spawnArrival) := of_wf _
theorem ownUplinksDown : Statement (.ownUplinksDown) := of_wf _
theorem operatorRequest : Statement (.operatorRequest) := of_wf _
theorem ultraEthernetSessionOpen : Statement (.ultraEthernetSessionOpen) := of_wf _

end Sys2Proof.Laws.Length
end

