-- ==== Sys2Proof/Safety.lean ====
section
/-! DEFINITION. The terms in which claims about the machine are stated: the invariant of its states, a chain whose operands are at
hand, the next states that chains of one shape give, what a step leaves alone, and a safe run. -/

namespace Sys2Proof.Machine

/-- The invariant of the model's states: memory is in its canonical form. -/
def State.Inv (s : State) : Prop := s.mem.wf = true

/-- A run of `n` steps is safe: it ends in no fault and no refusal, and in a state that meets the invariant. -/
def Safe (n : Nat) (s : State) : Prop := ∃ t, Sys2Proof.core.run n s = .next t ∧ State.Inv t

/-- A chain is being issued and the registers of a list are at hand (R85): none has a result outstanding, and all are full. -/
def State.atHand (s : State) (c : Cur) (rs : List Nat) : Prop :=
  s.hw.cur = some c ∧ ∀ n ∈ rs, (s.hw.curCtx c).pending n = false ∧ s.hw.isFull c.core c.slot n = true

/-- The next state of a chain that computes `v` into `a` at a latency, and issues its successor from the next cycle. -/
def State.result (s : State) (c : Cur) (sw : Bool) (a : GReg) (v : Word) (lat : Nat) : State :=
  s.onHw fun h => (h.setG c.core c.slot a.toNat v lat).retire c sw 1

/-- The port lets a chain make an access of a class (R144, R188): no fence is pending, and a relaxed one is below its limit, 16 outstanding
stores or 8 other accesses of the context. -/
def State.portFree (s : State) (c : Cur) (relaxed : Bool) (k : Cls) : Prop :=
  let x := s.hw.curCtx c
  let mine := (s.hw.core c.core).out.filter (fun o => o.uid == x.uid && o.acc.relaxed && (match o.acc.op with | .vrow _ => false | _ => true))
  x.fence = none ∧ (relaxed = true →
    if k = .w then (mine.filter (fun o => o.cls == .w)).length < 16 else (mine.filter (fun o => o.cls != .w)).length < 8)

/-- The state in which a page-15 form of a code makes step `i`: XSTEP names it (R105). -/
def State.atStep (s : State) (c : Cur) (code i : Nat) : State :=
  s.onHw (fun h => h.modCur c (fun x => { x with xstep := BitVec.ofNat 64 (2 ^ 10 + code % 4 * 2 ^ 8 + i % 256) }))

/-- A chain may read a range of its core's own scratchpad: every sector's tag is granted to it, and none is poisoned (R38, R412). -/
def State.readable (s : State) (c : Cur) (key len : Nat) : Prop :=
  keyCore key = c.core ∧ ∀ p ∈ piecesOf key len,
    s.mem.isPoison p.key = false ∧ s.hw.granted c.core (s.hw.curCtx c).gset.toNat (effTag s.mem p) = true

/-- The matrix unit takes a command of a chain now (R392, R401): its queues have room, nothing is locked, and no booking stands in the
cluster. -/
def State.matFree (s : State) (c : Cur) : Prop :=
  let x := s.hw.curCtx c
  let k := s.hw.core c.core
  s.hw.cur = some c ∧ x.booked = false ∧ x.fence = none ∧ (s.hw.cluster (clusterOf c.core)).bookings = [] ∧ k.aq.length < 7 ∧ k.tq.length < 7 ∧
    k.e2.length + k.e2Resv < 16 ∧ k.e3.length + k.e3Resv < 16 ∧ ∀ t, t < 4 → k.mmaLocks t = false ∧ k.tileLocks t = false

/-- A chain may read a range through `sg0` that stands in its core's own scratchpad, with no store of its context ahead (R184, R392). -/
def State.ownRow (s : State) (c : Cur) (off len ad : Nat) : Prop :=
  let x := s.hw.curCtx c
  (x.seg 0).virt = false ∧ segCheck (x.seg 0) off len { r := true } len = .ok ad ∧ s.readable c ad len ∧
    ∀ o ∈ (s.hw.core c.core).out, o.uid = x.uid → AccOp.writes o.acc.op = true → o.performed = true

/-- The vector unit takes a form on the rows of some pointers now (R360, R368, R370): nothing holds the chain or the unit, the context is not
booked and no booking stands in its cluster, and each row lies aligned in `sg0` and in the core's own scratchpad. -/
def State.vecReady (s : State) (c : Cur) (ps : List (BitVec 3)) : Prop :=
  let x := s.hw.curCtx c
  let k := s.hw.core c.core
  let g := x.seg 0
  s.hw.cur = some c ∧ x.booked = false ∧ x.fence = none ∧ x.maskPend = [] ∧ k.vread = none ∧ k.vecFree ≤ s.hw.now ∧
    (s.hw.cluster (clusterOf c.core)).bookings = [] ∧ c.core < 2 ^ 21 ∧ g.virt = false ∧ g.r = true ∧ g.w = true ∧ g.base % 128 = 0 ∧
    g.base / 2 ^ 20 = c.core ∧
    ∀ p ∈ ps, SMap.get 0 x.ptrAt p.toNat ≤ s.hw.now ∧ (x.ptr p.toNat).off.toNat % 128 = 0 ∧ (x.ptr p.toNat).off.toNat + 128 ≤ g.len ∧
      g.base % 2 ^ 20 + (x.ptr p.toNat).off.toNat + 128 ≤ 0x90000

/-- Every byte of memory, every tag and every poison bit reads as before. -/
def SameMemory (s t : State) : Prop :=
  ∀ k, t.mem.read k = s.mem.read k ∧ t.mem.tagOf k = s.mem.tagOf k ∧ t.mem.isPoison k = s.mem.isPoison k

/-- Nothing outside one core has changed: not the time, what is bound to come, the other cores, the clusters, dies, modules, or the cells
and slots of the network. -/
def OnlyCore (core : Nat) (s t : State) : Prop :=
  (∃ cores cur, t.hw = { s.hw with cores := cores, cur := cur }) ∧ ∀ d, d ≠ core → t.hw.core d = s.hw.core d

/-- On a core only contexts, full bits and the issue choice have changed: every register-file entry, core-common register, queue, engine,
latch, accumulator, grant set and barrier channel is as before. -/
def SameUnits (core : Nat) (s t : State) : Prop :=
  ∃ slots empty lastIssue ptr,
    t.hw.core core = { s.hw.core core with slots := slots, empty := empty, lastIssue := lastIssue, ptr := ptr }

/-- Another context of the core has changed at most in the list of contexts that it has yielded to (R98). -/
def OthersYield (core slot : Nat) (s t : State) : Prop :=
  ∀ j, j ≠ slot → t.hw.ctx core j = s.hw.ctx core j ∨ t.hw.ctx core j = (s.hw.ctx core j).yieldSeen slot s.hw.now

/-- Of a context only its place, its loops, what it waits for and its issue count have changed, and EFF is DECL again (R80, R213): its
segments, pointers, masks, TS, FRA, FRB and the other status registers stand. -/
def SameStatus (x y : Ctx) : Prop :=
  (∃ pc lp pend notBefore sw xstep role w,
    y = { x with pc := pc, lp := lp, pend := pend, notBefore := notBefore, swWait := sw, xstep := xstep, role := role, w := w }) ∧
  y.decl = x.decl

end Sys2Proof.Machine
end

