-- ==== Sys2Proof/Certificates/Slice0/Obligations.lean ====
section
/-! DEFINITION. The statements for the provers, from the numbered rules of spec/. OBLIGATIONS.json lists them. -/

open Sys2Proof Sys2Proof.Machine

/-! ### Scalar instructions (05_scalar) -/

/-- R112: the types by their codes, with width and kind; `In` reads the low w bits by kind, and `Out` extends the low w bits of a value to 64 by
kind: a result wraps at width w. -/
def Obligations.IntegerTypes : Prop :=
  ∀ (t : ITy) (v : Word) (x : Int),
    (ITy.code t, ityWidth t, itySigned t) ∈ [(0, 64, true), (1, 32, true), (2, 16, true), (3, 8, true), (4, 64, false), (5, 32, false),
        (6, 16, false), (7, 8, false)] ∧
      inTy t v = (if itySigned t then (v.setWidth (ityWidth t)).toInt else ((v.setWidth (ityWidth t)).toNat : Int)) ∧
      outTy t x = (if itySigned t then (BitVec.ofInt (ityWidth t) x).signExtend 64 else (BitVec.ofInt (ityWidth t) x).setWidth 64) ∧
      inTy t (outTy t x) = inTy t (BitVec.ofInt 64 x)

/-- R119, R120, R124, R125 with the latencies of R108: with its sources at hand each form answers the state in which its result is bound.

R121, R122, R123, R126: logic, shifts by the low six bits, counts and selection; a value is split into its bits.

R119: an unsigned carry of a sum is found by comparing it with one addend. R120, R122: the words of their examples. -/
def Obligations.ScalarResults : Prop :=
  (
    ∀ (s : State) (c : Cur) (sw : Bool) (t : ITy) (k : Cond) (a x y : GReg) (imm : BitVec 40),
      let p := inTy t (s.hw.cg c x)
      let q := inTy t (s.hw.cg c y)
      let i := inTy t (imm.signExtend 64)
      let w := ityWidth t
      let lat := if w = 64 then 34 else if w = 32 then 18 else if w = 16 then 10 else 6
      (s.atHand c (regs [x, y]) →
        exec (.add sw t a x y) s = .next (s.result c sw a (outTy t (p + q)) 2) ∧
        exec (.sub sw t a x y) s = .next (s.result c sw a (outTy t (p - q)) 2) ∧
        exec (.mul sw t a x y) s = .next (s.result c sw a (outTy t (p * q)) 4) ∧
        exec (.mulh sw t a x y) s = .next (s.result c sw a (outTy t (p * q / 2 ^ w)) 5) ∧
        exec (.div sw t a x y) s =
          .next (s.result c sw a (outTy t (if q = 0 then (if itySigned t then -1 else 2 ^ w - 1) else p.tdiv q)) lat) ∧
        exec (.rem sw t a x y) s = .next (s.result c sw a (outTy t (if q = 0 then p else p - q * p.tdiv q)) lat) ∧
        exec (.min sw t a x y) s = .next (s.result c sw a (outTy t (min p q)) 2) ∧
        exec (.max sw t a x y) s = .next (s.result c sw a (outTy t (max p q)) 2) ∧
        exec (.cmp sw k t a x y) s = .next (s.result c sw a (if condHolds k p q then 1 else 0) 2)) ∧
      (s.atHand c (regs [x]) →
        exec (.addi sw t a x imm) s = .next (s.result c sw a (outTy t (p + i)) 2) ∧
        exec (.cmpi sw k t a x imm) s = .next (s.result c sw a (if condHolds k p i then 1 else 0) 2) ∧
        exec (.ext sw t a x) s = .next (s.result c sw a (outTy t p) 2))
  ) ∧ (
    ∀ (s : State) (c : Cur) (sw : Bool) (k : Test) (kind : ShKind) (a x y : GReg) (n : BitVec 13),
      let p := s.hw.cg c x
      let q := s.hw.cg c y
      let d := (q.extractLsb' 0 6).toNat
      (s.atHand c (regs [x, y]) →
        exec (.and sw a x y) s = .next (s.result c sw a (p &&& q) 2) ∧
        exec (.or sw a x y) s = .next (s.result c sw a (p ||| q) 2) ∧
        exec (.xor sw a x y) s = .next (s.result c sw a (p ^^^ q) 2) ∧
        exec (.andn sw a x y) s = .next (s.result c sw a (p &&& ~~~q) 2) ∧
        exec (.shl sw a x y) s = .next (s.result c sw a (BitVec.ofNat 64 (p.toNat * 2 ^ d)) 2) ∧
        exec (.shr sw a x y) s = .next (s.result c sw a (BitVec.ofNat 64 (p.toNat / 2 ^ d)) 2) ∧
        exec (.sar sw a x y) s = .next (s.result c sw a (BitVec.ofInt 64 (p.toInt / 2 ^ d)) 2) ∧
        exec (.rot sw a x y) s = .next (s.result c sw a (BitVec.ofNat 64 (p.toNat * 2 ^ d + p.toNat / 2 ^ (64 - d))) 2)) ∧
      (s.atHand c (regs [x]) →
        (n.toNat ≤ 63 → exec (.shi sw kind a x n) s = .next (s.result c sw a (match kind with
          | .shl => BitVec.ofNat 64 (p.toNat * 2 ^ n.toNat) | .shr => BitVec.ofNat 64 (p.toNat / 2 ^ n.toNat)
          | .sar => BitVec.ofInt 64 (p.toInt / 2 ^ n.toNat)
          | .rot => BitVec.ofNat 64 (p.toNat * 2 ^ n.toNat + p.toNat / 2 ^ (64 - n.toNat))) 2)) ∧
        (63 < n.toNat → exec (.shi sw kind a x n) s = .next (s.faultWith c .reservedValue 4 0)) ∧
        (∃ z, exec (.clz sw a x) s = .next (s.result c sw a (BitVec.ofNat 64 z) 2) ∧ z ≤ 64 ∧ p.toNat < 2 ^ (64 - z) ∧
          (z < 64 → 2 ^ (63 - z) ≤ p.toNat)) ∧
        exec (.popc sw a x) s =
          .next (s.result c sw a (BitVec.ofNat 64 ((List.range 64).countP (fun i => p.getLsbD i))) 2)) ∧
      (s.atHand c (regs [a, x, y]) →
        exec (.sel sw k a x y) s = .next (s.result c sw a (if testHolds k (s.hw.cg c a) then p else q) 2))
  ) ∧ (
    (∀ p q : Word, condHolds .lt (inTy .z64 (outTy .z64 (inTy .z64 p + inTy .z64 q))) (inTy .z64 p) = true ↔ 2 ^ 64 ≤ p.toNat + q.toNat) ∧
    decode [0x7C01, 0x7A07, 0x1268] = .ok (.div false .s32 6 7 8, 3) ∧
    decode [0x7C02, 0x7A05, 0x7802, 0x2448] = .ok (.shi false .sar 4 5 40, 4)
  )

/-- R114, R116, R118: moves of a register and of a loop counter, the constant of LI, and NOP. -/
def Obligations.ConstantsAndMoves : Prop :=
  ∀ (s : State) (c : Cur) (sw : Bool) (a b : GReg) (lc : Fin 3) (imm : BitVec 40),
    (s.atHand c [] →
      exec (.nop sw) s = .next (s.onHw fun h => h.retire c sw 1) ∧
      exec (.li sw a imm) s = .next (s.result c sw a (BitVec.ofInt 64 imm.toInt) 2) ∧
      exec (.movRlc sw a lc) s = .next (s.result c sw a (((s.hw.curCtx c).loopLv lc.val).lc.setWidth 64) 2)) ∧
    (s.atHand c (regs [b]) → exec (.mov sw a b) s = .next (s.result c sw a (s.hw.cg c b) 2))

/-- R117: LIH shifts its register by 24 bits and inserts its immediate below; an immediate of more than 24 bits is refused with FRA.SUB 5; a
clear full bit of its register parks the context; the two chains of the rule's worked constant decode, and their sum is the constant. -/
def Obligations.ShiftedConstants : Prop :=
  ∀ (s : State) (c : Cur) (sw : Bool) (a : GReg) (imm : BitVec 40),
    let x := s.hw.curCtx c
    (s.atHand c (regs [a]) →
      (imm.toNat < 2 ^ 24 → exec (.lih sw a imm) s = .next (s.result c sw a (BitVec.ofNat 64 ((s.hw.cg c a).toNat * 2 ^ 24 + imm.toNat)) 2)) ∧
      (2 ^ 24 ≤ imm.toNat → exec (.lih sw a imm) s = .next (s.faultWith c .reservedValue 5 imm.toNat))) ∧
    (s.hw.cur = some c → x.pending a.toNat = false → s.hw.isFull c.core c.slot a.toNat = false → x.booked = false → imm.toNat < 2 ^ 24 →
      ∃ t, exec (.lih sw a imm) s = .next t ∧ t.mem = s.mem ∧ (t.hw.curCtx c).st = .parked ∧ (t.hw.curCtx c).park = some (.fullBit a.toNat) ∧
        (t.hw.curCtx c).pc = c.pc ∧ (t.hw.curCtx c).pend = x.pend) ∧
    decode [0x7802, 0x788D, 0x782B, 0x7878, 0x0459] = .ok (.li false 5 0x0123456789, 5) ∧
    decode [0x7802, 0x795E, 0x78DE, 0x065F] = .ok (.lih false 5 0xABCDEF, 4) ∧
    0x0123456789 * 2 ^ 24 + 0xABCDEF = 0x0123456789ABCDEF

/-- R115: a write of a core-common register at cycle t is what a read at cycle u sees from u = t + 8 on, and until then a read sees what it would
have seen without it, where the writes that the core keeps stand newest first, as they do at reset and after each write; at reset a read sees 0. -/
def Obligations.CoreCommonWrites : Prop :=
  ∀ (s : State) (c : Cur) (sw : Bool) (n m : BitVec 4) (a b : GReg),
    let ordered (k : Core) (u : Nat) : Prop :=
      k.ccs.Pairwise (fun (v w : CcWrite) => v.reg = w.reg → w.seen ≤ v.seen) ∧ ∀ w ∈ k.ccs, w.seen ≤ u + 8
    (s.atHand c (regs [b]) → ∃ t, exec (.movWc sw n b) s = .next t ∧ t.mem = s.mem ∧
      (ordered (s.hw.core c.core) s.hw.now → ordered (t.hw.core c.core) s.hw.now) ∧
      (∀ u, s.hw.now + 8 ≤ u → (t.hw.core c.core).ccSeen u n.toNat = s.hw.cg c b) ∧
      (∀ u, s.hw.now ≤ u → u < s.hw.now + 8 → ordered (s.hw.core c.core) s.hw.now →
        (t.hw.core c.core).ccSeen u n.toNat = (s.hw.core c.core).ccSeen u n.toNat) ∧
      (∀ u, s.hw.now ≤ u → m ≠ n → (t.hw.core c.core).ccSeen u m.toNat = (s.hw.core c.core).ccSeen u m.toNat)) ∧
    (∀ core u, (State.reset.hw.core core).ccSeen u m.toNat = 0 ∧ ordered (State.reset.hw.core core) u) ∧
    (s.atHand c [] →
      exec (.movRc sw a m) s = .next (s.result c sw a ((s.hw.core c.core).ccSeen s.hw.now m.toNat) 2))

/-- R128: extraction and insertion of a field of `len` bits at `lo`; a field that leaves the register is refused. -/
def Obligations.BitFields : Prop :=
  ∀ (s : State) (c : Cur) (sw sgn : Bool) (a x : GReg) (imm : BitVec 13),
    let lo := (imm.extractLsb' 0 6).toNat
    let len := (imm.extractLsb' 6 6).toNat + 1
    let p := s.hw.cg c x
    let f := p.toNat / 2 ^ lo % 2 ^ len
    (64 < lo + len → s.hw.cur = some c →
      exec (.bfx sw sgn a x imm) s = .next (s.faultWith c .reservedValue 3 imm.toNat) ∧
      exec (.bfi sw a x imm) s = .next (s.faultWith c .reservedValue 3 imm.toNat)) ∧
    (lo + len ≤ 64 → s.atHand c (regs [x]) →
      exec (.bfx sw sgn a x imm) s = .next (s.result c sw a
        (if sgn ∧ 2 ^ (len - 1) ≤ f then BitVec.ofInt 64 ((f : Int) - 2 ^ len) else BitVec.ofNat 64 f) 2)) ∧
    (lo + len ≤ 64 → s.atHand c (regs [a, x]) → ∃ v, exec (.bfi sw a x imm) s = .next (s.result c sw a v 2) ∧
      ∀ i, i < 64 → v.getLsbD i = if lo ≤ i ∧ i < lo + len then p.getLsbD (i - lo) else (s.hw.cg c a).getLsbD i) ∧
    decode [0x7A06, 0x780C, 0x3858] = .ok (.bfx false false 5 6 200, 3)

/-- R130, R131, R132: a branch that is taken, a jump and a jump to a register go to their target within the translation, two or three
cycles later, and outside it they fault; a branch that is not taken goes on. -/
def Obligations.Transfers : Prop :=
  ∀ (s : State) (c : Cur) (sw : Bool) (k : Test) (a b : GReg) (imm : BitVec 40),
    let t : Int := (c.pc : Int) + imm.toInt
    let go (t : Int) (d : Nat) : State :=
      if 0 ≤ t ∧ t ≤ (c.codeEnd : Int) then s.onHw (fun h => h.transfer c sw t.toNat d)
      else s.faultWith c .reservedValue 1 (t % 2 ^ 64).toNat
    let on : State := s.onHw (fun h => h.retire c sw 1)
    (s.atHand c (regs [a]) → exec (.br sw (.test k) a imm) s = .next (if testHolds k (s.hw.cg c a) then go t 2 else on)) ∧
    (s.atHand c [] →
      exec (.br sw .full a imm) s = .next (if s.hw.isFull c.core c.slot a.toNat then go t 2 else on) ∧
      exec (.br sw .empty a imm) s = .next (if s.hw.isFull c.core c.slot a.toNat then on else go t 2) ∧
      exec (.jmp sw imm) s = .next (go t 2)) ∧
    (s.atHand c (regs [b]) → exec (.jmpr sw b) s = .next (go ((s.hw.cg c b).toNat : Int) 3))

/-- R133: LOOP opens its level over the body that follows, and with a count of 0 goes past it; its checks come in their order.

R134: after a chain that ends a body with more iterations to come, its context goes back to the body's start, and the count falls by
one; after the last iteration the level ends with a count of 0.
Where it says more than the rules it is the model's choice: log 104. -/
def Obligations.Loops : Prop :=
  (
    ∀ (s : State) (c : Cur) (sw : Bool) (v : Fin 3) (b : GReg) (imm : BitVec 9),
      let x := s.hw.curCtx c
      let start := c.pc + c.len
      let last := start + imm.toNat - 1
      s.atHand c (regs [b]) → s.hw.cur = some c →
      ((imm.toNat = 0 ∨ 256 < imm.toNat ∨ c.codeEnd < last) → exec (.loop sw v b imm) s = .next (s.faultWith c .loopLimit 1 imm.toNat)) ∧
      (1 ≤ imm.toNat → imm.toNat ≤ 256 → last ≤ c.codeEnd → (x.loopLv v.val).active = true →
        exec (.loop sw v b imm) s = .next (s.faultWith c .loopLimit 2 v.val)) ∧
      (1 ≤ imm.toNat → imm.toNat ≤ 256 → last ≤ c.codeEnd → (x.loopLv v.val).active = false →
        (∀ u ∈ x.levels, (x.loopLv u).start ≤ start ∧ last ≤ (x.loopLv u).fin) →
        (2 ^ 32 ≤ (s.hw.cg c b).toNat → exec (.loop sw v b imm) s = .next (s.faultWith c .reservedValue 2 (s.hw.cg c b).toNat)) ∧
        (0 < (s.hw.cg c b).toNat → (s.hw.cg c b).toNat < 2 ^ 32 → ∃ t, exec (.loop sw v b imm) s = .next t ∧ t.mem = s.mem ∧
          (t.hw.curCtx c).pc = start ∧ (t.hw.curCtx c).notBefore = s.hw.now + 1 ∧
          (t.hw.curCtx c).loopLv v.val = ⟨true, start, last, (s.hw.cg c b).setWidth 32⟩) ∧
        ((s.hw.cg c b).toNat = 0 → ∃ t, exec (.loop sw v b imm) s = .next t ∧ t.mem = s.mem ∧
          ((∀ u ∈ x.levels, (x.loopLv u).fin ≠ last) → (t.hw.curCtx c).pc = last + 1)))
  ) ∧ (
    ∀ (x : Ctx) (v pc len : Nat),
      x.levels = [v] → (x.loopLv v).fin = pc + len - 1 →
      (1 < (x.loopLv v).lc.toNat →
        (x.advance pc len).pc = (x.loopLv v).start ∧ ((x.advance pc len).loopLv v).lc = (x.loopLv v).lc - 1 ∧
          ((x.advance pc len).loopLv v).active = true) ∧
      ((x.loopLv v).lc.toNat ≤ 1 →
        (x.advance pc len).pc = pc + len ∧ ((x.advance pc len).loopLv v).lc = 0 ∧ ((x.advance pc len).loopLv v).active = false)
  )

/-- R101, R129, R136, R138: addresses, pointers and segment registers are read and written by word.
Where it says more than the rules it is the model's choice: log 18, 31. -/
def Obligations.AddressesAndSegments : Prop :=
  ∀ (s : State) (c : Cur) (sw hi : Bool) (a b : GReg) (m : MemOp) (p g : BitVec 3),
    let x := s.hw.curCtx c
    let sg := x.seg m.sg.toNat
    let o := ((s.hw.cg c m.idx).toNat + m.disp.toInt) % 2 ^ 64
    (s.atHand c (regs [m.idx]) → 0 ≤ o → o + 1 ≤ (sg.len : Int) → sg.virt = true →
      exec (.lea sw hi a m) s =
        .next (s.result c sw a (BitVec.ofNat 64 (let ad := (sg.base + o.toNat) % 2 ^ 72; if hi then ad / 2 ^ 64 else ad)) 2)) ∧
    (s.atHand c (regs [m.idx]) → (sg.len : Int) < o + 1 → ∃ ad, exec (.lea sw hi a m) s =
      .next (s.onHw fun h => h.faultChain c (c.faultAt .segmentBounds 0 ad sg.virt))) ∧
    (s.atHand c (regs [b]) → (s.hw.cg c b).extractLsb' 20 12 = 0 → (s.hw.cg c b).extractLsb' 48 16 = 0 →
      ∃ t, exec (.pmov sw p b) s = .next t ∧ t.mem = s.mem ∧
        (t.hw.curCtx c).ptr p.toNat = ⟨(s.hw.cg c b).extractLsb' 0 20, (s.hw.cg c b).extractLsb' 32 16⟩ ∧
        (∀ j, j ≠ p.toNat → (t.hw.curCtx c).ptr j = x.ptr j)) ∧
    (s.atHand c [] → SMap.get 0 x.ptrAt p.toNat ≤ s.hw.now →
      exec (.pmovGet sw a p) s = .next (s.result c sw a
        (((x.ptr p.toNat).inc.setWidth 64 <<< 32) ||| (x.ptr p.toNat).off.setWidth 64) 2)) ∧
    (s.atHand c [] →
      exec (.segr sw a g) s = .next (s.result c sw a (BitVec.ofNat 64 (x.seg g.toNat).base) 2) ∧
      exec (.segrHi sw a g) s = .next (s.result c sw a (BitVec.ofNat 64 (Seg.word1 (x.seg g.toNat))) 2)) ∧
    (s.atHand c [b.toNat, b.toNat + 1] → b.toNat + 1 < x.wsize →
      let new := Seg.ofWords (s.hw.cgn c b.toNat).toNat (s.hw.cgn c (b.toNat + 1)).toNat
      (s.hw.cgn c (b.toNat + 1)).extractLsb' 13 11 = 0 → Seg.placed new = true →
      ((x.service = true ∨ new.len = 0 ∨ Seg.narrows new (x.seg g.toNat) = true) → ∃ t, exec (.segw sw g b) s = .next t ∧ t.mem = s.mem ∧
        (t.hw.curCtx c).late = x.late ++ [⟨s.hw.now + 2, .seg g.toNat new⟩]) ∧
      (x.service = false → new.len ≠ 0 → Seg.narrows new (x.seg g.toNat) = false →
        exec (.segw sw g b) s = .next (s.onHw fun h => h.faultChain c (c.faultAt .segmentRights 1 new.base new.virt))))

/-! ### Memory instructions and FENCE (06_memory, 08_ordering) -/

/-- R137, R147 to R151: with its operands at hand and its port free, a load, a store, an atomic or a page-15 step whose operand passes
Check starts its access at base + offset with the bytes or values that it read at issue; one that fails Check faults there.
Where it says more than the rules it is the model's choice: log 34, 105. -/
def Obligations.MemoryForms : Prop :=
  ∀ (s : State) (c : Cur) (sw rx : Bool) (ld : LdKind) (st : StKind) (op : AtomOp) (ty : AtomTy) (k : BitVec 4) (a : GReg) (m : MemOp) (ad : Nat),
    let x := s.hw.curCtx c
    let sg := x.seg m.sg.toNat
    let o := s.hw.memOffset c m
    let acc (f : AccOp) (rx : Bool) (n : Nat) : Acc := s.hw.mkAcc c f rx sg.virt ad n m.sg.toNat o.toNat
    let n := ldBytes ld
    let w := stBytes st
    let b := atomWidth ty / 8
    (s.atHand c [m.idx.toNat] → (LdKind.isSec ld = true → a.toNat + 3 < x.wsize) → s.portFree c rx .r →
      segCheck sg o n { r := true } (if n = 32 then 32 else 1) = .ok ad →
      exec (.ld sw ld rx a m) s = .next (s.access c sw (acc (.load ld (secRegs (LdKind.isSec ld) a.toNat)) rx n))) ∧
    (s.atHand c (m.idx.toNat :: secRegs (StKind.isSec st) a.toNat) → (StKind.isSec st = true → a.toNat + 3 < x.wsize) → s.portFree c rx .w →
      segCheck sg o w { w := true } (if w = 32 then 32 else 1) = .ok ad →
      exec (.st sw st rx a m) s = .next (s.access c sw (acc (.store (s.hw.storeBytes c st a.toNat)) rx w))) ∧
    (s.atHand c (m.idx.toNat :: [a.toNat]) → op ≠ .cas → s.portFree c rx .a → segCheck sg o b { r := true, w := true } b = .ok ad →
      exec (.atom sw op ty rx a m) s =
        .next (s.access c sw (acc (.atom op ty a.toNat (s.hw.cg c a) (s.hw.cgn c (a.toNat + 1))) rx b))) ∧
    (s.atHand c (m.idx.toNat :: [a.toNat, a.toNat + 1]) → a.toNat + 1 < x.wsize → s.portFree c rx .a →
      segCheck sg o b { r := true, w := true } b = .ok ad →
      exec (.atom sw .cas ty rx a m) s =
        .next (s.access c sw (acc (.atom .cas ty a.toNat (s.hw.cg c a) (s.hw.cgn c (a.toNat + 1))) rx b))) ∧
    (s.atHand c (m.idx.toNat :: [a.toNat]) → x.booked = false → s.portFree c false .plain → segCheck sg o 8 { r := true } 8 = .ok ad →
      exec (.mwait sw a m) s = .next (s.access c sw (acc (.mwait a.toNat (s.hw.cg c a)) false 8))) ∧
    (s.atHand c (m.idx.toNat :: [a.toNat]) → x.booked = true → exec (.mwait sw a m) s = .next (s.faultWith c .calendarViolation 4 0)) ∧
    (s.atHand c [m.idx.toNat] → s.portFree c false .r → ∀ cause, segCheck sg o 8 { r := true } 1 = .bad cause ad →
      exec (.ld sw (.val .s64) false a m) s = .next (s.onHw fun h => h.faultChain c (c.faultAt cause 0 ad sg.virt))) ∧
    (s.atHand c [m.idx.toNat] → a.toNat + k.toNat < x.wsize → x.fence = none → x.xstep = 0 → segCheck sg o 8 { r := true } 8 = .ok ad →
      let s1 := s.atStep c 0 0
      exec (.ldmb sw k a m) s = .next (s1.access c sw
        (s1.hw.mkAcc c (.stepLoad a.toNat (decide (k = 0))) false sg.virt ad 8 m.sg.toNat o.toNat))) ∧
    (s.atHand c [m.idx.toNat, a.toNat] → a.toNat + k.toNat < x.wsize → x.fence = none → x.xstep = 0 → segCheck sg o 8 { w := true } 8 = .ok ad →
      let s1 := s.atStep c 1 0
      exec (.stmb sw k a m) s = .next (s1.access c sw
        (s1.hw.mkAcc c (.stepStore (s.hw.cg c a).toNat (decide (k = 0))) false sg.virt ad 8 m.sg.toNat o.toNat)))

/-- R164, R165: the first step of a block copy and of a checksum reads its first 8 bytes; a length that is 0, too great or not a multiple of 8
is refused.
Where it says more than the rules it is the model's choice: log 30, 34. -/
def Obligations.BlockForms : Prop :=
  ∀ (s : State) (c : Cur) (sw : Bool) (a : GReg) (m : MemOp) (ad : Nat),
    let x := s.hw.curCtx c
    let sg := x.seg m.sg.toNat
    let o := s.hw.memOffset c m
    let n := (s.hw.cgn c (a.toNat + 1)).toNat
    s.atHand c [m.idx.toNat, a.toNat, a.toNat + 1] → a.toNat + 2 < x.wsize → x.fence = none → x.xstep = 0 →
    ((n = 0 ∨ 1024 < n ∨ n % 8 ≠ 0) → exec (.blkcp sw a m) s = .next (s.faultWith c .reservedValue 0 n)) ∧
    ((n = 0 ∨ 2048 < n ∨ n % 8 ≠ 0) → exec (.crcb sw a m) s = .next (s.faultWith c .reservedValue 0 n)) ∧
    (0 < n → n % 8 = 0 → segCheck sg o 8 { r := true } 8 = .ok ad →
      (n ≤ 1024 → let s1 := s.atStep c 2 0
        exec (.blkcp sw a m) s = .next (s1.access c sw
          (s1.hw.mkAcc c (.stepLoad (a.toNat + 2) false) false sg.virt ad 8 m.sg.toNat o.toNat))) ∧
      (n ≤ 2048 → let s1 := s.atStep c 3 0
        exec (.crcb sw a m) s = .next (s1.access c sw
          (s1.hw.mkAcc c (.stepCrc a.toNat ((s.hw.cg c a).toNat % 2 ^ 32) (decide (n = 8))) false sg.virt ad 8 m.sg.toNat o.toNat))))

/-- R147, R148, R150: an access through a pointer is relaxed and in scratch; the pointer moves by its increment as the mode says, and with
a virtual sg0 the form faults.
Where it says more than the rules it is the model's choice: log 31. -/
def Obligations.PointerForms : Prop :=
  ∀ (s : State) (c : Cur) (sw : Bool) (ty : ITy) (st : StKind) (md : PMode) (a : GReg) (p : BitVec 3) (ad : Nat),
    let x := s.hw.curCtx c
    let q := x.ptr p.toNat
    let moved : Ptr := match md with | .keep => q | .inc => ⟨q.off + q.inc.signExtend 20, q.inc⟩ | .dec => ⟨q.off - q.inc.signExtend 20, q.inc⟩
    SMap.get 0 x.ptrAt p.toNat ≤ s.hw.now → x.booked = false → x.st = .ready →
    let move (t : State) : State := t.onHw fun h => h.modCur c fun y => { y with p := SMap.set y.p p.toNat moved }
    let acc (f : AccOp) (n : Nat) : Acc := s.hw.mkAcc c f true false ad n 0 q.off.toNat
    (s.atHand c [] → s.portFree c true .r → (x.seg 0).virt = false → segCheck (x.seg 0) q.off.toNat (ityWidth ty / 8) { r := true } 1 = .ok ad →
      exec (.ldp sw (.val ty) md a p) s = .next (move (s.access c sw (acc (.load (.val ty) [a.toNat]) (ityWidth ty / 8))))) ∧
    (s.atHand c [a.toNat] → st ≠ .sec → s.portFree c true .w → (x.seg 0).virt = false →
      segCheck (x.seg 0) q.off.toNat (stBytes st) { w := true } 1 = .ok ad →
      exec (.stp sw st md a p) s = .next (move (s.access c sw (acc (.store (bytesLE (stBytes st) (s.hw.cg c a).toNat)) (stBytes st))))) ∧
    (s.atHand c [] → s.portFree c true .r → (x.seg 0).virt = true →
      exec (.ldp sw (.val ty) md a p) s =
        .next (s.onHw fun h => h.faultChain c (c.faultAt .segmentRights 0 (((x.seg 0).base + q.off.toNat) % 2 ^ 72) true)))

/-- R143, R144: what starting an access does in an unbooked context: the registers that it will write are empty, the context is parked at
its chain with reason memory where the access is plain, and goes on where it is relaxed. Memory, every register value, every other core, and the
context's segments, pointers, masks and status registers have not changed.
Where it says more than the rules it is the model's choice: log 29, 109. -/
def Obligations.AccessStarts : Prop :=
  ∀ (s : State) (c : Cur) (sw : Bool) (a : Acc),
    s.hw.cur = some c → a.core = c.core → a.slot = c.slot → a.txn = s.hw.nextTxn → (s.hw.curCtx c).booked = false →
    let t := s.access c sw a
    let x := s.hw.curCtx c
    let y := t.hw.curCtx c
    t.mem = s.mem ∧ (t.hw.core c.core).rf = (s.hw.core c.core).rf ∧
      (∀ r ∈ accRegs a.op, r ≠ 0 → t.hw.isFull c.core c.slot r = false ∧ y.pending r = true) ∧
      (∀ r, r ∉ accRegs a.op → t.hw.isFull c.core c.slot r = s.hw.isFull c.core c.slot r) ∧
      (a.relaxed = false → y.st = .parked ∧ y.park = some .memory ∧ y.pc = c.pc ∧ y.access = some c) ∧
      (a.relaxed = true → y.st = (s.hw.curCtx c).st ∧ y.notBefore = s.hw.now + 1) ∧
      (t.hw.core c.core).out.length = (s.hw.core c.core).out.length + 1 ∧
      (∃ slots empty out lastIssue ptr, t.hw.core c.core =
        { s.hw.core c.core with slots := slots, empty := empty, out := out, lastIssue := lastIssue, ptr := ptr }) ∧
      OthersYield c.core c.slot s t ∧ (∀ d, d ≠ c.core → ∃ out, t.hw.core d = { s.hw.core d with out := out }) ∧
      y.sg = x.sg ∧ y.p = x.p ∧ y.m = x.m ∧ y.ts = x.ts ∧ y.fra = x.fra ∧ y.frb = x.frb ∧ y.decl = x.decl ∧ y.prio = x.prio ∧ y.otag = x.otag ∧
      y.gset = x.gset ∧ y.prin = x.prin ∧ y.linksp = x.linksp ∧ y.ckptb = x.ckptb ∧ y.steald = x.steald ∧ y.taskr = x.taskr ∧ y.bookid = x.bookid

/-- R38, R140, R141, R142: at its bank, a store writes its bytes with its tag; under another tag the rest of the sector becomes 0, and a
store that covers the sector clears its poison. Every byte outside the sector stands, and under the sector's own tag every byte outside the
store.

R140, R142, R418: a load at its bank takes the bytes and the poison of its sector, with the decision on the tag where the bank is its own core's.

R142, R151, R412: at its bank an atomic on a sector whose tag it is granted writes the value that its operation gives and answers the old
one; without the grant it writes nothing, and answers 0.
Where it says more than the rules it is the model's choice: log 13, 14. -/
def Obligations.WritesAtBank : Prop :=
  (
    ∀ (s : State) (a : Acc) (bs : List Byte) (p : Piece) (due : Nat),
      s.Inv → s.hw.arg = .acc a due → (∀ o, s.hw.findOut a.core a.txn = some o →
        { o.acc with group := a.group, gword := a.gword, pieces := a.pieces } = a) → a.op = .store bs → a.pieces = [p] → p.off = 0 →
          p.len = bs.length →
      bs ≠ [] → p.key % 32 + p.len ≤ 32 → (s.hw.core (keyCore p.key)).imaging = false → s.kRefused a = none →
      ∃ t, exec .remoteAccessAtBank s = .next t ∧ t.Inv ∧ t.mem.readN p.key p.len = bs ∧ t.mem.tagOf p.key = a.otag ∧
        (p.len = 32 → t.mem.isPoison p.key = false) ∧
        (∀ j, j / 32 ≠ p.key / 32 → t.mem.read j = s.mem.read j ∧ t.mem.tagOf j = s.mem.tagOf j ∧ t.mem.isPoison j = s.mem.isPoison j) ∧
        (∀ j, j / 32 = p.key / 32 → (j < p.key ∨ p.key + p.len ≤ j) →
          t.mem.read j = if s.mem.tagOf p.key = a.otag then s.mem.read j else 0)
  ) ∧ (
    ∀ (s : State) (a : Acc) (o : Outst) (ld : LdKind) (rs : List Nat) (p : Piece) (due : Nat),
      s.hw.arg = .acc a due → s.hw.findOut a.core a.txn = some o → o.acc = a → o.sent = true → o.todo = [p] → a.op = .load ld rs → a.pieces = [p] →
      (s.hw.core (keyCore p.key)).imaging = false → s.kRefused a = none → (s.hw.ctx a.core a.slot).st ≠ .spilled →
      ∃ t u r, exec .remoteAccessAtBank s = .next t ∧ t.mem = s.mem ∧ t.hw.findOut a.core a.txn = some u ∧ u.got = o.got ++ [r] ∧ u.performed = true ∧
        r.bytes = s.mem.readN p.key p.len ∧ r.poison = s.mem.isPoison p.key ∧ r.tag = effTag s.mem p ∧
        (keyCore p.key = a.core → r.grant = some (s.granted a p)) ∧ (keyCore p.key ≠ a.core → r.grant = none) ∧
        (⟨max due s.hw.now, Acc.replyStep a, .accRes a .pieces⟩ : Due) ∈ t.hw.agenda
  ) ∧ (
    ∀ (s : State) (a : Acc) (op : AtomOp) (r : Nat) (x y : Word) (p : Piece) (due : Nat),
      s.Inv → s.hw.arg = .acc a due → (∀ o, s.hw.findOut a.core a.txn = some o →
        { o.acc with group := a.group, gword := a.gword, pieces := a.pieces } = a) → a.op = .atom op .s64 r x y → a.pieces = [p] → p.len = 8 →
      p.key % 8 = 0 → keyCore p.key = a.core → s.kRefused a = none → s.mem.isPoison p.key = false → (s.hw.ctx a.core a.slot).st ≠ .spilled →
      let old := s.mem.val p.key 8
      let new : Nat := match op with
        | .add => (old + x.toNat) % 2 ^ 64 | .and => (BitVec.ofNat 64 old &&& x).toNat | .or => (BitVec.ofNat 64 old ||| x).toNat
        | .xor => (BitVec.ofNat 64 old ^^^ x).toNat | .min => if (BitVec.ofNat 64 old).toInt ≤ x.toInt then old else x.toNat
        | .max => if x.toInt ≤ (BitVec.ofNat 64 old).toInt then old else x.toNat | .swap => x.toNat
        | .cas => if old = x.toNat then y.toNat else old
      ∃ t, exec .remoteAccessAtBank s = .next t ∧
        (s.granted a p = true → t.mem.val p.key 8 = new ∧
          (⟨max due s.hw.now, Acc.replyStep a, .accRes a (.data old [])⟩ : Due) ∈ t.hw.agenda) ∧
        (s.granted a p = false → t.mem = s.mem ∧
          (⟨max due s.hw.now, Acc.replyStep a, .accRes a (.data 0 [])⟩ : Due) ∈ t.hw.agenda) ∧
        (∀ j, j < p.key ∨ p.key + 8 ≤ j → t.mem.read j = s.mem.read j)
  )

/-- R143, R144, R148: the answer of a load is written into its register at the type of the form, and the register is full; the context that
a plain load parked goes on behind it.

R144, R145, R418: the acknowledgement of a store ends it; the reply of a bank that left the decision on a tag to the requester sends the
access again where the requester's set grants the tag, and otherwise answers 0.
Where it says more than the rules it is the model's choice: log 29. -/
def Obligations.Replies : Prop :=
  (
    ∀ (s : State) (a : Acc) (o : Outst) (ty : ITy) (p : Piece) (q : PieceRes) (r v : Nat),
      (s.hw.arg = .accRes a (.data v []) ∨ (s.hw.arg = .accRes a .pieces ∧ o.acc.pieces = [p] ∧ o.got = [q] ∧ q.piece = p ∧ q.refused = false ∧
        s.admitted o.acc q = true ∧ q.poison = false ∧ valLE q.bytes = v)) →
      o.got.length ≤ 1 → (∀ e ∈ o.got, s.admitted o.acc e = true) →
      s.hw.findOut a.core a.txn = some o → o.acc.op = .load (.val ty) [r] → o.acc.core = a.core →
      o.acc.slot = a.slot → o.acc.txn = a.txn → o.dropped = false → s.hw.alive a.core a.slot o.uid = true → 0 < r →
      ((s.hw.ctx a.core a.slot).st = .parked ∨ (s.hw.ctx a.core a.slot).st = .ready) →
      (s.hw.ctx a.core a.slot).pend.any (fun q => q.ofTxn r a.txn) = true →
      (∀ i ∈ [Instr.plainAccessReply, Instr.relaxedLoadResult], ∃ t, exec i s = .next t ∧ t.mem = s.mem ∧
        t.hw.g a.core a.slot r = outTy ty (inTy ty (BitVec.ofNat 64 v)) ∧ t.hw.isFull a.core a.slot r = true ∧
        (∀ n, n ≠ r → t.hw.g a.core a.slot n = s.hw.g a.core a.slot n) ∧
        (o.acc.relaxed = false → (s.hw.ctx a.core a.slot).access.isSome → (t.hw.ctx a.core a.slot).st = .ready)) 
  ) ∧ (
    ∀ (s : State) (a : Acc) (o : Outst) (bs : List Byte) (tag : Nat),
      s.hw.findOut a.core a.txn = some o → o.acc.core = a.core → o.acc.slot = a.slot → o.acc.txn = a.txn →
      (s.hw.arg = .accRes a (.data 0 []) → o.acc.op = .store bs → o.acc.relaxed = true → ∃ t, exec .storeAcknowledge s = .next t ∧ t.mem = s.mem ∧
        ∀ e ∈ (t.hw.core a.core).out, e.acc.txn ≠ a.txn) ∧
      (s.hw.arg = .accRes a (.tag tag) → s.hw.granted a.core o.acc.gset tag = true →
        exec .tagRetryRequest s = .next (s.onHw fun h =>
          (h.modOut a.core a.txn (fun e => { e with acc := { o.acc with group := tag / 64 } })).toBank { o.acc with group := tag / 64 } 0)) ∧
      (s.hw.arg = .accRes a (.tag tag) → s.hw.granted a.core o.acc.gset tag = false → (∃ r, o.acc.op = .join r) →
        ∃ t, exec .tagRetryRequest s = .next t ∧ t.mem = s.mem ∧
          (⟨s.hw.now, Acc.replyStep o.acc, .accRes o.acc (.data 0 [])⟩ : Due) ∈ t.hw.agenda)
  )

/-- R154, R155, R157: EPUSH puts a copy command behind those that wait, and reserves its completion; EPOP gives the context its own oldest
completion, or the oldest event record, and parks on an empty FIFO.
Where it says more than the rules it is the model's choice: log 37. -/
def Obligations.EngineFifos : Prop :=
  ∀ (s : State) (c : Cur) (sw : Bool) (a b : GReg) (src dst : Nat) (m : Compl) (l : List Compl) (r : BitVec 256) (q : List (BitVec 256)),
    let x := s.hw.curCtx c
    let k := s.hw.core c.core
    let w (i : Nat) : Nat := (s.hw.cgn c (b.toNat + i)).toNat
    let len := w 2 % 2 ^ 32
    (s.atHand c (regRun b.toNat 4) → b.toNat + 3 < x.wsize → x.booked = false → s.hw.unitBarred c.core 2 = false → x.fence = none →
      w 0 / 2 ^ 46 % 4 = 0 → w 1 < 2 ^ 40 → w 2 / 2 ^ 32 = 0 → 0 < len → len ≤ 0x10000000 → w 3 = 0 →
      segCheck (x.seg (w 0 / 2 ^ 40 % 8)) (w 0 % 2 ^ 40 : Nat) len { r := true } 1 = .ok src →
      segCheck (x.seg (w 0 / 2 ^ 43 % 8)) (w 1 : Nat) len { w := true } 1 = .ok dst →
      k.e0.length < 16 → k.e1.length + k.e1Resv < 16 → ∃ t cmd, exec (.epush sw 0 b) s = .next t ∧ t.mem = s.mem ∧
        (cmd ∈ (t.hw.core c.core).e0 ∨ (t.hw.core c.core).copy = some cmd) ∧ (t.hw.core c.core).e1Resv = k.e1Resv + 1 ∧
        cmd.src = src ∧ cmd.dst = dst ∧ cmd.len = len ∧ cmd.fill = false ∧ cmd.ident = w 0 / 2 ^ 48 ∧ cmd.uid = x.uid) ∧
    (s.atHand c [] → a.toNat < x.wsize → k.e1 = m :: l → m.uid = x.uid →
      ∃ t, exec (.epop sw a 1) s = .next t ∧ t.mem = s.mem ∧ (t.hw.core c.core).e1 = l ∧
        (a.toNat ≠ 0 → Pend.fixed a.toNat (s.hw.now + 2) m.word ∈ (t.hw.curCtx c).pend)) ∧
    (s.atHand c [] → a.toNat < x.wsize → x.booked = false → (∀ e ∈ k.e1, e.uid ≠ x.uid) →
      exec (.epop sw a 1) s = .next (s.onHw fun h => h.parkChain c (.engine 1))) ∧
    (s.atHand c [] → a.toNat + 3 < x.wsize → 0 < a.toNat → k.e4 = r :: q → ∃ t, exec (.epop sw a 4) s = .next t ∧ t.mem = s.mem ∧
      (t.hw.core c.core).e4 = q ∧
        ∀ i, i < 4 → Pend.fixed (a.toNat + i) (s.hw.now + 2) (r.extractLsb' (64 * i) 64) ∈ (t.hw.curCtx c).pend)

/-- R186, R187, R190: a fence whose set is empty completes at once with TS.FST 0; otherwise it is pending, and completes when the last member
of its set is done, TS.FST and TS.FMOD telling of a failure in another module.

R152: a write to a monitored sector, and 1,024 cycles after a timed arming, wake the context that waits on its monitor.
Where it says more than the rules it is the model's choice: log 14, 35, 36, 113. -/
def Obligations.FencesAndMonitors : Prop :=
  (
    ∀ (s : State) (c : Cur) (sw : Bool) (imm : BitVec 13) (core slot uid : Nat) (f : FenceRec),
      let x := s.hw.curCtx c
      let pred := (imm.extractLsb' 0 5).toNat
      let scope := (imm.extractLsb' 10 3).toNat
      let set := s.fenceSet c pred scope
      (s.atHand c [] → x.fence = none → x.booked = false → pred ≠ 0 → (imm.extractLsb' 5 5).toNat ≠ 0 → scope ≤ 4 →
        ∃ t, exec (.fence sw imm) s = .next t ∧ t.mem = s.mem ∧
          (set = [] → (t.hw.curCtx c).ts.toNat / 2 ^ 29 % 4 = 0 ∧ (t.hw.curCtx c).fence = none) ∧
          (set ≠ [] → (t.hw.curCtx c).fence = some ⟨set, (imm.extractLsb' 5 5).toNat, none, 0, imm.toNat⟩)) ∧
      (s.atHand c [] → (pred = 0 ∨ (imm.extractLsb' 5 5).toNat = 0 ∨ 4 < scope) →
        exec (.fence sw imm) s = .next (s.faultWith c .reservedValue 7 imm.toNat)) ∧
      (s.hw.arg = .nats [core, slot, uid] → (s.hw.ctx core slot).fence = some f → (s.hw.ctx core slot).uid = uid → f.set = [] →
        (s.hw.ctx core slot).st = .ready → (s.hw.ctx core slot).park = none → ∃ t, exec .fenceComplete s = .next t ∧ t.mem = s.mem ∧
          (t.hw.ctx core slot).fence = none ∧
          (f.fail = none → (t.hw.ctx core slot).ts.toNat / 2 ^ 29 % 4 = 0) ∧
          (∀ d, f.fail = some d → (t.hw.ctx core slot).ts.toNat / 2 ^ 29 % 4 = 1 ∧ (t.hw.ctx core slot).ts.toNat / 2 ^ 31 % 2 ^ 8 = d % 2 ^ 8))
  ) ∧ (
    ∀ (s : State) (core slot uid ad : Nat),
      s.hw.arg = .nats [core, slot, uid] → (s.hw.ctx core slot).uid = uid → (s.hw.ctx core slot).st = .parked →
      (s.hw.ctx core slot).park = some (.monitor ad) →
      ∀ i ∈ [Instr.monitorWake, Instr.mwaitTimedWake], ∃ t, exec i s = .next t ∧ t.mem = s.mem ∧ (t.hw.ctx core slot).st = .ready ∧
        (t.hw.ctx core slot).park = none ∧ OnlyCore core s t
  )

/-- R155 to R159: a copy command on addresses that need no translation starts with the figures of its two ranges, one cycle for each sector
between scratchpads and 3 with DRAM, chunk by chunk where its destination begins inside its source, and its first read follows; a destination
sector in the core's own scratchpad whose bytes are at hand is written with the tag of its source, and after the last the completion is bound;
when it comes it stands in e1 with status 0 and the length.
Where it says more than the rules it is the model's choice: log 8, 15. -/
def Obligations.CopyCommands : Prop :=
  ∀ (s : State) (core : Nat) (m : CopyCmd) (g : CopySeg) (bs : List Byte) (tag late : Nat),
    (s.hw.core core).copy = some m →
    (s.hw.arg = .nats [core] → m.dstVirt = false → m.srcVirt = false → ∃ t p, exec .copyCommandStart s = .next t ∧ t.mem = s.mem ∧
      (t.hw.core core).copy = some { m with prog := p } ∧ p.cut = 0 ∧ p.rd = 0 ∧ p.ld = s.hw.latency core m.dst ∧
      p.ls = (if m.fill then 0 else s.hw.latency core m.src) ∧
      p.rate = (if keyDram m.dst = true ∨ (m.fill = false ∧ keyDram m.src = true) then 3 else 1) ∧
      (p.chunked = true ↔ m.fill = false ∧ m.src < m.dst ∧ m.dst < m.src + m.len) ∧
      (⟨s.hw.now + p.ls / 2, .copyCommandStart, .nats [core, m.txn, 1, 0]⟩ : Due) ∈ t.hw.agenda) ∧
    (s.Inv → s.hw.arg = .nats [core, m.txn, 2, late] → m.dstVirt = false → m.prog.stop = none → m.prog.segs = [g] → 0 < g.len →
      g.off = 0 → g.len + m.dst % 32 ≤ 32 → m.dst < 2 ^ 41 → keyCore m.dst = core →
      m.prog.buf = [⟨g.off, bs, tag, false⟩] → bs.length = g.len → m.done = g.off → m.poison = false →
      ∃ t p, exec .copyCommandStart s = .next t ∧ t.Inv ∧ t.mem.readN m.dst g.len = bs ∧ t.mem.tagOf m.dst = tag ∧
        (∀ j, j / 32 ≠ m.dst / 32 → t.mem.read j = s.mem.read j ∧ t.mem.tagOf j = s.mem.tagOf j ∧ t.mem.isPoison j = s.mem.isPoison j) ∧
        (∀ j, j / 32 = m.dst / 32 → (j < m.dst ∨ m.dst + g.len ≤ j) → t.mem.read j = if s.mem.tagOf m.dst = tag then s.mem.read j else 0) ∧
        (t.hw.core core).copy = some { m with done := g.len, prog := p } ∧
        (m.prog.cut = m.len → m.len = g.len → ∃ at_, s.hw.now ≤ at_ ∧
          (⟨at_, .copyCommandComplete, .nats [core, m.txn, 0, m.len, 0, core]⟩ : Due) ∈ t.hw.agenda)) ∧
    (∀ cause target, s.hw.arg = .nats [core, m.txn, 0, m.len, cause, target] → s.hw.alive core m.slot m.uid = true →
      s.hw.isQuiet core m.slot m.txn = false →
      ∃ t, exec .copyCommandComplete s = .next t ∧ t.mem = s.mem ∧ (⟨m.uid, copyWord m 0 m.len⟩ : Compl) ∈ (t.hw.core core).e1)


/-! ### Contexts, code and regions (04_context, 13_kernel, 22_link) -/

/-- R77, R78, R79: SRR reads each status register, SRW of a register without a field that task mode may write is Privileged, an unassigned
number is UndefinedInstruction; a task's write of TS takes effect from cycle 2 and clears the flags that it names.
Where it says more than the rules it is the model's choice: log 18, 115. -/
def Obligations.StatusRegisters : Prop :=
  ∀ (s : State) (c : Cur) (sw : Bool) (a b : GReg) (n : BitVec 7),
    let x := s.hw.curCtx c
    let k := s.hw.core c.core
    let v := s.hw.cg c b
    (s.atHand c [] →
      (n.toNat < 0x17 → ∃ w, exec (.srr sw a n) s = .next (s.result c sw a w 2) ∧
        (n = 0x00 → w = x.ts) ∧ (n = 0x01 → w = x.fra) ∧ (n = 0x02 → w = x.frb) ∧ (n = 0x03 → w = x.xstep) ∧ (n = 0x04 → w = x.role) ∧
        (n = 0x05 → w = x.prio.setWidth 64) ∧ (n = 0x06 → w = BitVec.ofNat 64 k.age) ∧ (n = 0x07 → w = x.otag.setWidth 64) ∧
        (n = 0x08 → w = x.gset.setWidth 64) ∧ (n = 0x09 → w = x.prin.setWidth 64) ∧ (n = 0x0A → w = x.linksp.setWidth 64) ∧
        (n = 0x0B → w = x.ckptb.setWidth 64) ∧ (n = 0x0C → w = BitVec.ofNat 64 k.deqb) ∧ (n = 0x0D → w = BitVec.ofNat 64 k.deql) ∧
        (n = 0x0E → w = x.steald.setWidth 64) ∧ (n = 0x0F → w = BitVec.ofNat 64 k.ovfb) ∧ (n = 0x10 → w = BitVec.ofNat 64 k.ovfl) ∧
        (n = 0x11 → w = x.taskr.setWidth 64) ∧ (n = 0x12 → w = BitVec.ofNat 64 (s.hw.count c.core)) ∧ (n = 0x13 → w = BitVec.ofNat 64 c.core) ∧
        (n = 0x14 → w = BitVec.ofNat 64 c.slot) ∧ (n = 0x15 → w = 0x0B02) ∧ (n = 0x16 → w = x.bookid.setWidth 64)) ∧
      (0x17 ≤ n.toNat → exec (.srr sw a n) s = .next (s.faultWith c .undefinedInstruction 0 n.toNat) ∧
        exec (.srw sw n b) s = .next (s.faultWith c .undefinedInstruction 0 n.toNat)) ∧
      (n.toNat < 0x17 → n ≠ 0x00 → n ≠ 0x04 → n ≠ 0x0E → x.service = false →
        exec (.srw sw n b) s = .next (s.faultWith c .privileged 0 n.toNat))) ∧
    (s.atHand c (regs [b]) →
      (v &&& 0x1FFFF810 = 0 → ∃ t, exec (.srw sw 0x00 b) s = .next t ∧ t.mem = s.mem ∧
        (t.hw.curCtx c).late = x.late ++ [⟨s.hw.now + 2, .status 0 v⟩] ∧ (t.hw.curCtx c).ts = x.ts) ∧
      (v &&& 0x1FFFF810 ≠ 0 → exec (.srw sw 0x00 b) s = .next (s.faultWith c .reservedValue 0 0)) ∧
      ((v.toNat / 16 ≠ 0 ∨ v.toNat / 4 % 4 = 0) → exec (.srw sw 0x04 b) s = .next (s.faultWith c .reservedValue 0 4)) ∧
      ((v.toNat < 16 ∧ v.toNat / 4 ≠ 0) → ∃ t, exec (.srw sw 0x04 b) s = .next t ∧
        (t.hw.curCtx c).late = x.late ++ [⟨s.hw.now + 2, .status 4 v⟩])) ∧
    (x.service = false → ((k.writeStatus c.slot 0 v).ctx c.slot).ts = x.ts &&& ~~~(v &&& 0xF) ∧
      (k.writeStatus c.slot 0x0E v).ctx c.slot = { x with steald := v.setWidth 2 })

/-- R87 to R92, R95: SEND empties its result register and sends its value to the target, where it is written into an empty register, held
in the overflow deque, or refused; the status comes back; TAKE and CLRF empty a register, and the oldest held value is delivered.
Where it says more than the rules it is the model's choice: log 12, 39. -/
def Obligations.Messages : Prop :=
  ∀ (s : State) (c : Cur) (sw : Bool) (a d b : GReg) (m : Msg) (o : Owed) (e : OvfEntry) (due core slot uid n txn st : Nat),
    let x := s.hw.curCtx c
    let w := (s.hw.cg c d).toNat
    let target := w / 2 ^ 16 % 2 ^ 21
    let lat := s.hw.scratchLatency c.core target
    (s.atHand c (regs [d, b]) → w < 2 ^ 37 → w / 2 ^ 14 % 4 = 0 → w / 2 ^ 7 % 2 = 0 → x.booked = false → x.fence = none →
      s.hw.routeFails c.core ((s.hw.tenantOf c.core).getD 0) true target lat = none →
      ∃ t q, exec (.send sw a d b) s = .next t ∧ t.mem = s.mem ∧ (a ≠ 0 → t.hw.isFull c.core c.slot a.toNat = false ∧
        (t.hw.curCtx c).pending a.toNat = true) ∧
        (⟨s.hw.now + (lat / 2 + 1), .sendArrival, .msg q (s.hw.now + lat)⟩ : Due) ∈ t.hw.agenda ∧
        q.core = target ∧ q.slot = w / 2 ^ 8 % 64 ∧ q.reg = w % 2 ^ 7 ∧ q.val = s.hw.cg c b ∧ q.sender = c.core) ∧
    (s.hw.arg = .msg m due → (s.hw.core m.core).imaging = false → (m.svc = true ∨ m.core = m.sender ∨ s.hw.tenantOf m.core = some m.tenant) →
      s.hw.coreDisabled m.core = false → 0 < m.reg →
      let y := s.hw.ctx m.core m.slot
      let k := s.hw.core m.core
      m.reg < y.wsize → (y.st = .ready ∨ y.st = .parked) → m.reg ∉ y.just → y.pending m.reg = false →
      (k.fullBit y m.reg = false → k.heldFor m.slot m.reg = false → ∃ t, exec .sendArrival s = .next t ∧ t.mem = s.mem ∧
        t.hw.g m.core m.slot m.reg = m.val ∧ t.hw.isFull m.core m.slot m.reg = true ∧
        (⟨max due s.hw.now, .sendStatus, .nats [m.sender, m.txn, 0, 0, m.core]⟩ : Due) ∈ t.hw.agenda ∧
        (y.park = some (.fullBit m.reg) → (t.hw.ctx m.core m.slot).st = .ready)) ∧
      (k.fullBit y m.reg = true → 0 < k.ovfFree → ∃ t l p, exec .sendArrival s = .next t ∧
        (t.hw.core m.core).ovf = l ++ [⟨p, m.val, m.reg, m.slot, m.sender⟩] ∧
        l.map (fun e => (e.val, e.reg, e.slot, e.sender)) = k.ovf.map (fun e => (e.val, e.reg, e.slot, e.sender)) ∧
          t.hw.g m.core m.slot m.reg = s.hw.g m.core m.slot m.reg ∧
        (⟨max due s.hw.now, .sendStatus, .nats [m.sender, m.txn, 1, 0, m.core]⟩ : Due) ∈ t.hw.agenda) ∧
      (k.fullBit y m.reg = true → k.ovfFree = 0 → ∃ t, exec .sendArrival s = .next t ∧ t.mem = s.mem ∧
        t.hw.g m.core m.slot m.reg = s.hw.g m.core m.slot m.reg ∧
        (⟨max due s.hw.now, .sendStatus, .nats [m.sender, m.txn, 2, 3, m.core]⟩ : Due) ∈ t.hw.agenda)) ∧
    (∀ cause target, s.hw.arg = .nats [core, txn, st, cause, target] → (s.hw.core core).owed.find? (fun q => q.txn == txn) = some o →
      o.hand = none → 0 < o.reg → s.hw.alive core o.slot o.uid = true →
      ((s.hw.ctx core o.slot).st = .ready ∨ (s.hw.ctx core o.slot).st = .parked) →
      (s.hw.ctx core o.slot).pend.any (fun p => p.ofTxn o.reg txn) = true → ∃ t, exec .sendStatus s = .next t ∧ t.mem = s.mem ∧
        t.hw.g core o.slot o.reg = BitVec.ofNat 64 st ∧ t.hw.isFull core o.slot o.reg = true ∧ (∀ q ∈ (t.hw.core core).owed, q.txn ≠ txn)) ∧
    (s.hw.arg = .nats [core, slot, uid, n] → 0 < n → s.hw.alive core slot uid = true → (s.hw.ctx core slot).st ≠ .spilled →
      (s.hw.core core).ovf.find? (fun q => q.slot == slot && q.reg == n) = some e → (s.hw.ctx core slot).pending n = false →
      s.hw.isFull core slot n = false → ∃ t, exec .overflowDelivery s = .next t ∧ t.mem = s.mem ∧ t.hw.g core slot n = e.val ∧
        t.hw.isFull core slot n = true ∧ (t.hw.core core).ovf = (s.hw.core core).ovf.erase e) ∧
    (s.atHand c (regs [b]) → b ≠ 0 → ∃ t, exec (.take sw a b) s = .next t ∧ t.mem = s.mem ∧ t.hw.isFull c.core c.slot b.toNat = false ∧
      (a ≠ b → a ≠ 0 → Pend.fixed a.toNat (s.hw.now + 2) (s.hw.cg c b) ∈ (t.hw.curCtx c).pend) ∧
      ((s.hw.core c.core).heldFor c.slot b.toNat = true →
        (⟨s.hw.now + 3, .overflowDelivery, .nats [c.core, c.slot, x.uid, b.toNat]⟩ : Due) ∈ t.hw.agenda)) ∧
    (s.hw.cur = some c → (x.pending b.toNat = true → exec (.clrf sw b) s = .next (s.faultWith c .reservedValue 0 0)) ∧
      (x.pending b.toNat = false → ∃ t, exec (.clrf sw b) s = .next t ∧ t.mem = s.mem ∧
        (b ≠ 0 → t.hw.isFull c.core c.slot b.toNat = false) ∧ (∀ j, j ≠ b.toNat → t.hw.isFull c.core c.slot j = s.hw.isFull c.core c.slot j)))

/-- R96, R228, R416: SPAWN sends its arguments; its target takes a slot, a window and the grant set, and the context begins at offset 0 of
its kernel once it is Ready and its set is loaded, or parks with reason code.
Where it says more than the rules it is the model's choice: log 38. -/
def Obligations.Spawns : Prop :=
  ∀ (s : State) (c : Cur) (sw : Bool) (a d b : GReg) (ws : List Word) (sender txn core slot uid wsz tenant svc due base e i : Nat),
    let x := s.hw.curCtx c
    let w := (s.hw.cg c d).toNat
    let target := w / 2 ^ 16 % 2 ^ 21
    let lat := s.hw.scratchLatency c.core target
    let y := s.hw.ctx core slot
    (s.atHand c (d.toNat :: regRun b.toNat 4) → b.toNat + 3 < x.wsize → w < 2 ^ 37 → w % 16 = 0 → x.booked = false →
      w / 2 ^ 8 % 2 ^ 8 < (s.hw.entry (clusterOf c.core) x.entry).imports.length →
      s.hw.routeFails c.core ((s.hw.tenantOf c.core).getD 0) true target lat = none →
      ∃ t r, exec (.spawn sw a d b) s = .next t ∧ t.mem = s.mem ∧ (a ≠ 0 → t.hw.isFull c.core c.slot a.toNat = false) ∧
        (∃ l, (⟨s.hw.now + (lat / 2 + 1), .spawnArrival, .words l r⟩ : Due) ∈ t.hw.agenda ∧
          l.take 4 = [c.core, s.hw.nextTxn, target, w / 2 ^ 4 % 16]) ∧
        r.take 4 = (regRun b.toNat 4).map (s.hw.cgn c)) ∧
    (s.hw.arg = .words [sender, txn, core, wsz, tenant, svc, due] ws → (s.hw.core core).imaging = false →
      (svc ≠ 0 ∨ core = sender ∨ s.hw.tenantOf core = some tenant) → s.hw.coreDisabled core = false →
      s.hw.grantNeed core (ws.getD 21 0).toNat (ws.getD 22 0).toNat ≠ .refused →
      ((s.hw.core core).findSlot s.hw.now = some slot → (s.hw.core core).findWindow s.hw.now ((wsz + 1) * 8) = some base →
        ∃ t, exec .spawnArrival s = .next t ∧ t.mem = s.mem ∧ (t.hw.ctx core slot).st = .starting ∧
          (t.hw.ctx core slot).wsize = (wsz + 1) * 8 ∧ (∀ j, j < 4 → t.hw.g core slot (j + 1) = ws.getD j 0) ∧
          (⟨max due s.hw.now, .sendStatus, .nats [sender, txn, 0, 0, core]⟩ : Due) ∈ t.hw.agenda) ∧
      ((s.hw.core core).findSlot s.hw.now = none → ∃ t, exec .spawnArrival s = .next t ∧ t.mem = s.mem ∧
        (∀ j, t.hw.ctx core j = s.hw.ctx core j) ∧
        (⟨max due s.hw.now, .sendStatus, .nats [sender, txn, 2, 3, core]⟩ : Due) ∈ t.hw.agenda)) ∧
    (s.hw.arg = .nats [core, slot, uid] → y.st = .starting → y.uid = uid → y.notBefore ≤ s.hw.now →
      ((s.hw.core core).grantSet y.gset.toNat).state = 2 →
      (s.hw.installed (clusterOf core) y.kernel = some e → ∃ t, exec .taskReady s = .next t ∧ t.mem = s.mem ∧
        (t.hw.ctx core slot).st = .ready ∧ (t.hw.ctx core slot).entry = e ∧ (t.hw.ctx core slot).pc = 0) ∧
      (s.hw.installed (clusterOf core) y.kernel = none → ∃ t j, exec .taskReady s = .next t ∧ t.mem = s.mem ∧
        (t.hw.ctx core slot).st = .parked ∧ (t.hw.ctx core slot).park = some (.code j))) ∧
    (s.hw.arg = .nats [core, i] → ((s.hw.core core).grantSet i).state = 1 → ∃ t, exec .grantSetLoadComplete s = .next t ∧ t.mem = s.mem ∧
      (t.hw.core core).grantSet i = { (s.hw.core core).grantSet i with state := 2 } ∧
      (y.st = .starting → y.gset.toNat = i → y.notBefore ≤ s.hw.now →
        (⟨s.hw.now, .taskReady, .nats [core, slot, y.uid]⟩ : Due) ∈ t.hw.agenda))

/-- R98, R99, R100, R213, R217, R474: TRAP posts a request that BRS answers in the register; BRK faults with its number; YIELD steps back
until the others of its priority have issued, at most for 64 cycles; a context that has waited AGE cycles competes at EFF 1; BRS sets a core's mode
while all of its slots are Free.
Where it says more than the rules it is the model's choice: log 12, 17. -/
def Obligations.TrapsAndTurns : Prop :=
  ∀ (s : State) (c : Cur) (sw : Bool) (a : GReg) (n : BitVec 13) (k : BitVec 4) (q : TrapReq) (o : Owed) (core slot txn mode u e : Nat) (l : List Nat),
    let x := s.hw.curCtx c
    let y := s.hw.ctx core slot
    (s.atHand c (regs [a]) → x.booked = false → ∃ t, exec (.trap sw a n) s = .next t ∧ t.mem = s.mem ∧
      (a ≠ 0 → t.hw.isFull c.core c.slot a.toNat = false) ∧
      (t.hw.mod (moduleOf c.core)).traps = (s.hw.mod (moduleOf c.core)).traps ++ [⟨c.core, s.hw.nextTxn, n.toNat, s.hw.cg c a, x.prin.toNat,
        x.flags⟩]) ∧
    (s.hw.arg = .nats [core, txn] → (s.hw.mod (moduleOf core)).traps.find? (fun r => r.core == core && r.txn == txn) = some q →
      (s.hw.core core).owed.find? (fun r => r.txn == txn) = some o → o.hand = none → 0 < o.reg → s.hw.alive core o.slot o.uid = true →
      ((s.hw.ctx core o.slot).st = .ready ∨ (s.hw.ctx core o.slot).st = .parked) →
      (s.hw.ctx core o.slot).pend.any (fun p => p.ofTxn o.reg txn) = true → ∃ t v, exec .trapReply s = .next t ∧ t.mem = s.mem ∧
        t.hw.g core o.slot o.reg = v ∧ t.hw.isFull core o.slot o.reg = true ∧
        (q.n = 0 → v = q.arg) ∧ (q.n = 1 → 7 < q.arg.toNat → v = BitVec.allOnes 64) ∧ (q.n = 3 → v = 0) ∧ (4 ≤ q.n → v = BitVec.allOnes 64)) ∧
    (s.hw.cur = some c → exec (.brk sw k) s = .next (s.faultWith c .breakpoint k.toNat 0)) ∧
    (s.hw.cur = some c → x.booked = false →
      (((s.hw.core c.core).wheel = true ∨ ∀ p ∈ (s.hw.core c.core).slots, p.1 ≠ c.slot → p.2.st ≠ .ready ∨ x.eff < p.2.eff) →
        exec (.yield sw) s = .next (s.onHw fun h => h.retire c sw 1)) ∧
      ((s.hw.core c.core).wheel = false → (∃ z, (e, z) ∈ (s.hw.core c.core).slots ∧ e ≠ c.slot ∧ z.st = .ready ∧ z.eff ≤ x.eff) →
        ∃ t r, exec (.yield sw) s = .next t ∧ t.mem = s.mem ∧ (t.hw.curCtx c).yieldWait = some (s.hw.nextTxn, r) ∧ e ∈ r ∧
          (⟨s.hw.now + 64, .yieldExpiry, .nats [c.core, c.slot, s.hw.nextTxn]⟩ : Due) ∈ t.hw.agenda)) ∧
    (s.hw.arg = .nats [core, slot, u] → y.yieldWait = some (u, l) →
      ∃ t, exec .yieldExpiry s = .next t ∧ t.mem = s.mem ∧ t.hw.ctx core slot = { y with yieldWait := none } ∧ OnlyCore core s t) ∧
    (s.hw.arg = .nats [core, slot] → y.st = .ready → y.booked = false → (s.hw.core core).wheel = false → (s.hw.core core).age ≤ y.w → 0 < y.w →
      ∃ t, exec .ageingPromotion s = .next t ∧ t.mem = s.mem ∧ (t.hw.ctx core slot).eff = 1 ∧ (t.hw.ctx core slot).decl = y.decl ∧
        OnlyCore core s t) ∧
    ((∀ p ∈ (s.hw.core core).slots, p.2.st = .free) →
      (s.hw.arg = .nats [core, mode] → ∃ t, exec .coreModeSet s = .next t ∧ t.mem = s.mem ∧ t.hw.core core = s.hw.core core ∧
        (⟨s.hw.now + 16 - s.hw.count core % 16, .coreModeSet, .nats [core, mode, 1]⟩ : Due) ∈ t.hw.agenda)) ∧
    (s.hw.arg = .nats [core, mode, 1] → ∃ t, exec .coreModeSet s = .next t ∧ t.mem = s.mem ∧ OnlyCore core s t ∧
      t.hw.core core = { s.hw.core core with wheel := decide (mode = 1) })

/-- R97, R274 to R277, R86: CALLD begins its frame and looks up its import at the end of cycle 1; on a hit the frame is written and the import
runs at offset 0, 6 cycles after the issue; RET reads its frame, looks up the digest in it, and goes on at its call site, 8 cycles after the
issue; with no frame it is QUIT, and the slot is Free from cycle 8 on; BRS frees the slot of a Faulted context.
Where it says more than the rules it is the model's choice: log 28, 40, 44. -/
def Obligations.CallsAndReturns : Prop :=
  ∀ (s : State) (c : Cur) (sw : Bool) (imm : BitVec 22) (a : Acc) (o : Outst) (f : DEntry) (g : BitVec 256) (e site loc xid : Nat) (core slot : Nat),
    let x := s.hw.curCtx c
    let clu := clusterOf c.core
    let d := s.hw.entry clu x.entry
    let n := imm.toNat
    let key := x.frameKey c.core x.depth
    let top := x.frameKey c.core (x.depth - 1)
    let v := g.toNat + xid * 2 ^ 256 + 2 ^ 352 + loc * 2 ^ 353 + site * 2 ^ 372
    let y := s.hw.ctx a.core a.slot
    let clv := clusterOf a.core
    let under (q : AccOp) : Prop := s.hw.findOut a.core a.txn = some o ∧ o.acc.op = q ∧ o.acc.core = a.core ∧ o.acc.slot = a.slot ∧
      o.acc.txn = a.txn ∧ o.dropped = false ∧ o.got = [] ∧ s.hw.alive a.core a.slot o.uid = true
    (s.hw.cur = some c → (s.hw.core c.core).settled s.hw.now c.slot = true → x.inRegion = false → x.booked = false →
      (n < 2 ^ 20 → n % 2 ^ 8 < d.imports.length → n / 2 ^ 8 < d.sites.length → d.sites.getD (n / 2 ^ 8) 0 = c.pc + c.len → x.levels = [] →
        x.depth ≠ 31 → ∃ t b, exec (.calld sw imm) s = .next t ∧ t.mem = s.mem ∧ (t.hw.curCtx c).st = .parked ∧
          (t.hw.curCtx c).park = some .memory ∧ b.op = .call (d.imports.getD (n % 2 ^ 8) 0) (d.frame (n / 2 ^ 8)) ∧ b.addr = key ∧
          b.core = c.core ∧ b.slot = c.slot ∧ (∃ q ∈ (t.hw.core c.core).out, q.acc = b) ∧
          (⟨s.hw.now + (2 + s.hw.frameHold c key), .plainAccessReply, .accRes b .armed⟩ : Due) ∈ t.hw.agenda) ∧
      ((2 ^ 20 ≤ n ∨ d.imports.length ≤ n % 2 ^ 8) → exec (.calld sw imm) s = .next (s.faultWith c .reservedValue 18 n)) ∧
      (x.depth ≠ 0 → ∃ t, exec (.ret sw) s = .next t ∧ t.mem = s.mem ∧ (t.hw.curCtx c).st = .parked ∧
        (t.hw.curCtx c).park = some .memory ∧ ∃ q ∈ (t.hw.core c.core).out, q.acc.op = .frame ∧ q.acc.addr = top ∧ q.acc.txn = s.hw.nextTxn)) ∧
    (s.Inv → s.hw.arg = .accRes a .armed → site < 2 ^ 12 → under (.call g (f.frame site)) → o.acc.addr % 32 = 0 → s.hw.installed clv g = some e →
      ∃ t, exec .plainAccessReply s = .next t ∧ (t.hw.ctx a.core a.slot).st = .ready ∧ (t.hw.ctx a.core a.slot).entry = e ∧
        (t.hw.ctx a.core a.slot).pc = 0 ∧ (t.hw.ctx a.core a.slot).linksp = y.linksp + 64 ∧
        (t.hw.ctx a.core a.slot).notBefore = s.hw.now + 4 ∧ t.mem.val o.acc.addr 32 = f.digest.toNat ∧
        t.mem.val (o.acc.addr + 40) 8 = site * 2 ^ 52 + (if f.isLocal then 2 ^ 33 else 0) + 2 ^ 32 ∧ t.mem.val (o.acc.addr + 48) 16 = 0 ∧
        (∀ j, j < o.acc.addr ∨ o.acc.addr + 64 ≤ j → t.mem.read j = s.mem.read j)) ∧
    (site < 2 ^ 12 → loc < 2 → xid < 2 ^ 64 →
      (s.hw.arg = .accRes a (.data v []) → under .frame → ∃ t q, exec .plainAccessReply s = .next t ∧ t.mem = s.mem ∧
        t.hw.findOut a.core a.txn = some q ∧ q.acc.op = .retTo v ∧
        (⟨s.hw.now + 1, .plainAccessReply, .accRes a .armed⟩ : Due) ∈ t.hw.agenda) ∧
      (s.hw.arg = .accRes a .armed → under (.retTo v) → s.hw.installed clv g = some e → site < (s.hw.entry clv e).sites.length →
        (s.hw.entry clv e).sites.getD site 0 ≤ (s.hw.entry clv e).cend → ∃ t, exec .plainAccessReply s = .next t ∧ t.mem = s.mem ∧
          (t.hw.ctx a.core a.slot).st = .ready ∧ (t.hw.ctx a.core a.slot).entry = e ∧
          (t.hw.ctx a.core a.slot).pc = (s.hw.entry clv e).sites.getD site 0 ∧ (t.hw.ctx a.core a.slot).linksp = y.linksp - 64 ∧
          (t.hw.ctx a.core a.slot).notBefore = s.hw.now + 2 ∧ (t.hw.ctx a.core a.slot).levels = [])) ∧
    (s.hw.cur = some c → ∃ t, exec (.quit sw) s = .next t ∧ t.mem = s.mem ∧ (t.hw.curCtx c).st = .leaving false ∧
      (t.hw.curCtx c).freeAt = s.hw.now + 8 ∧ (x.depth = 0 → exec (.ret sw) s = .next t)) ∧
    (s.hw.arg = .nats [core, slot] →
      ((s.hw.ctx core slot).st = .faulted → ∃ t, exec .brsDiscard s = .next t ∧ t.mem = s.mem ∧ (t.hw.ctx core slot).st = .leaving true ∧
        (t.hw.ctx core slot).freeAt = s.hw.now + 8) ∧
      ((s.hw.ctx core slot).st ≠ .faulted → exec .brsDiscard s = .next s)) ∧
    ((s.hw.freeSlot core slot).ctx core slot).st = .free

/-- R269 to R272, R279: a queued miss is tried again; the die and the module are asked in turn; a sound image is installed where it fits, and
wakes the contexts that wait for it; with no source they fault; an invalidation ends an entry that runs nothing and drains one that runs.
Where it says more than the rules it is the model's choice: log 12, 17, 110. -/
def Obligations.CodeStore : Prop :=
  ∀ (s : State) (c : Cur) (sw : Bool) (a b : GReg) (q : Miss) (img : DEntry) (l : List DEntry) (clu e load m core slot txn tenant one digest : Nat),
    let d := s.hw.entry clu e
    let x := s.hw.ctx core slot
    (s.hw.arg = .nats [clu] → (s.hw.cluster clu).missq = [q] → q.at_ < s.hw.now → (∀ j, (s.hw.entry clu j).st ≠ .verified) → clusterOf q.core = clu →
      (s.hw.ctx q.core q.slot).uid = q.uid → (s.hw.ctx q.core q.slot).park = some (.code 64) → s.hw.lookup clu q.digest = none →
      (s.hw.cluster clu).choose q.digest = some e → ∃ t, exec .codeMissRetry s = .next t ∧ t.mem = s.mem ∧
        (t.hw.entry clu e).st = .loading ∧ (t.hw.entry clu e).digest = q.digest ∧ (t.hw.ctx q.core q.slot).park = some (.code e) ∧
        (t.hw.cluster clu).missq = []) ∧
    (d.st = .loading → d.load = load → ∀ step, s.hw.arg = .nats [clu, e, load, step, m, core, slot] →
      let near (p : Nat) : Bool := p / 64 == clu / 64
      let there (p : Nat) : Bool := if step = 1 then near p && p != clu else p / 512 == clu / 512 && !near p
      (s.hw.holders (s.hw.cluster clu).owner d.digest there = img :: l → ∃ t, exec .codeFetchReply s = .next t ∧ t.mem = s.mem ∧
        (t.hw.entry clu e).st = .loading ∧ (t.hw.entry clu e).code = img.code ∧ (t.hw.entry clu e).digest = d.digest ∧
        (⟨s.hw.now + 32 * imageUnits img.code img.sites img.imports, .codeInstall, .nats [clu, e, load, step, m, core, slot]⟩ : Due) ∈ t.hw.agenda) ∧
      (DEntry.sound d = true → d.poisoned = false → ∃ t, exec .codeInstall s = .next t ∧ t.mem = s.mem ∧ (t.hw.entry clu e).st = .verified ∧
        (t.hw.entry clu e).code = d.code ∧ (t.hw.entry clu e).units = imageUnits d.code d.sites d.imports ∧
        (⟨s.hw.now + 8, .codeInstall, .nats [clu, e, load]⟩ : Due) ∈ t.hw.agenda) ∧
      ((DEntry.sound d = false ∨ d.poisoned = true) → step = 1 → ∃ t, exec .codeInstall s = .next t ∧ t.mem = s.mem ∧ t.hw.entry clu e = d ∧
        (⟨max s.hw.now (m + 401), .codeFetchReply, .nats [clu, e, load, 2, m, core, slot]⟩ : Due) ∈ t.hw.agenda) ∧
      (s.hw.holders (s.hw.cluster clu).owner d.digest there = [] → ∃ t, exec .codeFetchReply s = .next t ∧ t.mem = s.mem ∧
        (step = 1 → (⟨max s.hw.now (m + 401), .codeFetchReply, .nats [clu, e, load, 2, m, core, slot]⟩ : Due) ∈ t.hw.agenda) ∧
        (step = 2 → ∃ r, (t.hw.mod (clu / 512)).searches = (s.hw.mod (clu / 512)).searches ++ [r] ∧ r.digest = d.digest ∧ r.step = 1))) ∧
    (s.hw.arg = .nats [clu, e, load] → d.load = load →
      (d.st = .verified → d.due ≤ s.hw.now → (s.hw.cluster clu).unitsUsed + d.units ≤ 256 → ∃ t, exec .codeInstall s = .next t ∧
        (t.hw.entry clu e).st = .installed ∧ (t.hw.entry clu e).stamp = s.hw.now ∧
        (clusterOf core = clu → x.st = .parked → x.park = some (.code e) → (t.hw.ctx core slot).st = .ready)) ∧
      (d.st = .loading → ∃ t, exec .codeNoSource s = .next t ∧ (t.hw.entry clu e).st = .absent ∧
        (clusterOf core = clu → x.st = .parked → x.park = some (.code e) → (t.hw.ctx core slot).st = .faulted ∧
          (t.hw.ctx core slot).fra.toNat % 2 ^ 16 = 19 * 2 ^ 8 + 9 ∧ (t.hw.ctx core slot).frb = d.digest.setWidth 64))) ∧
    ((s.hw.curCtx c).booked = false → (s.hw.curCtx c).fence = none →
      (s.atHand c (regRun b.toNat 4) → b.toNat + 3 < (s.hw.curCtx c).wsize → ∃ t r, exec (.codeinv sw a b) s = .next t ∧ t.mem = s.mem ∧
        (a ≠ 0 → t.hw.isFull c.core c.slot a.toNat = false) ∧
        (⟨s.hw.now + 300, .codeinvComplete, .nats [c.core, s.hw.nextTxn, (s.hw.tenantOf c.core).getD 64, 1, r]⟩ : Due) ∈ t.hw.agenda) ∧
      (s.hw.cur = some c → ∃ t, exec (.codeinvAll sw a) s = .next t ∧ t.mem = s.mem ∧ (a ≠ 0 → t.hw.isFull c.core c.slot a.toNat = false) ∧
        (⟨s.hw.now + 300, .codeinvComplete, .nats [c.core, s.hw.nextTxn, (s.hw.tenantOf c.core).getD 64, 0, 0]⟩ : Due) ∈ t.hw.agenda)) ∧
    (s.hw.arg = .nats [core, txn, tenant, one, digest] → clu / 512 = moduleOf core → (s.hw.cluster clu).owner = some tenant →
      (one = 1 → d.digest = BitVec.ofNat 256 digest) → d.st = .installed → ∃ t, exec .codeinvComplete s = .next t ∧
        (t.hw.entry clu e).st ≠ .installed ∧ (0 < d.run → (t.hw.entry clu e).st = .draining ∧ (t.hw.entry clu e).code = d.code))

/-- R457 to R460: FBEGIN writes the checkpoint and opens the region; FCOMMIT waits for its operations, then closes it, or rolls back where one
has failed; FABORT rolls back. A rollback takes the registers from the checkpoint, and goes on at the region's target.
Where it says more than the rules it is the model's choice: log 20, 41. -/
def Obligations.Regions : Prop :=
  ∀ (s : State) (c : Cur) (sw : Bool) (imm : BitVec 31) (r : Region) (uid txn cause target : Nat),
    let x := s.hw.curCtx c
    let dest : Int := (c.pc : Int) + imm.toInt
    let key := x.ckptKey c.core
    let back (t : State) (cause target : Nat) : Prop := t.mem = s.mem ∧ (t.hw.curCtx c).st = .ready ∧ (t.hw.curCtx c).pc = r.target ∧
      (t.hw.curCtx c).inRegion = false ∧
      (t.hw.curCtx c).region = none ∧ (t.hw.curCtx c).ts.toNat / 2 ^ 39 % 2 ^ 4 = cause % 2 ^ 4 ∧
        (t.hw.curCtx c).ts.toNat / 2 ^ 43 % 2 ^ 21 = target % 2 ^ 21 ∧
      (t.hw.curCtx c).notBefore = s.hw.now + (8 + x.wsize / 4) ∧
      (∀ i, 0 < i → i < x.wsize → t.hw.cgn c i = BitVec.ofNat 64 (s.mem.val (key + 0x80 + 8 * i) 8) ∧
        t.hw.isFull c.core c.slot i = decide (s.mem.val key 16 / 2 ^ i % 2 = 1))
    (s.hw.cur = some c →
      (s.Inv → x.inRegion = false → 0 ≤ dest → dest ≤ (c.codeEnd : Int) → ∃ t, exec (.fbegin sw imm) s = .next t ∧ (t.hw.curCtx c).inRegion = true ∧
        (t.hw.curCtx c).region = some ⟨dest.toNat, [], [], none⟩ ∧ (t.hw.curCtx c).ts.toNat / 2 ^ 39 % 2 ^ 4 = 0 ∧ (t.hw.curCtx c).st = .parked ∧
        (t.hw.curCtx c).park = some .memory ∧
        (∀ i, i < x.wsize → t.mem.val (key + 0x80 + 8 * i) 8 = (s.hw.cgn c i).toNat) ∧
        (∃ q, (⟨s.hw.now + (8 + x.wsize / 4), .plainAccessReply, .accRes q (.data 0 [])⟩ : Due) ∈ t.hw.agenda)) ∧
      (x.inRegion = true → exec (.fbegin sw imm) s = .next (s.faultWith c .reservedValue 40 0)) ∧
      (x.inRegion = true → x.region = some r → r.ops = [] → ∃ t, exec (.fcommit sw) s = .next t ∧ t.mem = s.mem ∧
        (t.hw.curCtx c).st = .parked ∧ (t.hw.curCtx c).park = some .commit ∧
        (⟨s.hw.now, .fcommitDecision, .nats [c.core, c.slot, x.uid]⟩ : Due) ∈ t.hw.agenda) ∧
      (x.inRegion = false → exec (.fcommit sw) s = .next (s.faultWith c .reservedValue 41 0) ∧
        exec (.fabort sw) s = .next (s.faultWith c .reservedValue 41 0)) ∧
      (x.inRegion = true → x.region = some r → s.mem.poisonIn key (32 * (4 + x.wsize / 4)) = none →
        ∃ t, exec (.fabort sw) s = .next t ∧ back t 0 0)) ∧
    (s.hw.arg = .nats [c.core, c.slot, uid] → x.uid = uid → x.st = .parked → x.park = some .commit → x.parkCur = some c → x.region = some r →
      (r.failed = none → ∃ t, exec .fcommitDecision s = .next t ∧ t.mem = s.mem ∧ (t.hw.curCtx c).st = .ready ∧
        (t.hw.curCtx c).inRegion = false ∧ (t.hw.curCtx c).region = none ∧ (t.hw.curCtx c).notBefore = s.hw.now + 1) ∧
      (r.failed = some (txn, cause, target) → s.mem.poisonIn key (32 * (4 + x.wsize / 4)) = none →
        ∃ t, exec .fcommitDecision s = .next t ∧ back t cause target))

/-! ### Barriers, gangs and pipes (09_barrier, 16_group) -/

/-- R200 to R207: an arrival that completes its phase goes on with the release word at cycle 2, and the phase count rises; one that does not
complete it parks; `.arr` records a split and goes on; `.wt` takes the word that its record keeps, or parks; `.arm` sets the mask. A cluster
scope's node is reached at the end of cycle 4.
Where it says more than the rules it is the model's choice: log 109. -/
def Obligations.BarrierChains : Prop :=
  ∀ (s : State) (c : Cur) (sw clu : Bool) (a : GReg) (ch : BitVec 4),
    let x := s.hw.curCtx c
    let k := s.hw.chan false c.core ch.toNat
    let v := (s.hw.cg c a).toNat % 2 ^ 32
    let all := k.arrived ||| BitVec.ofNat 64 (2 ^ c.slot)
    let word (val : Nat) : Nat := (if k.dep then 2 ^ 63 else 0) + (k.phase + 1).toNat * 2 ^ 32 + val
    let comes (i : Instr) (val : Nat) : Prop := ∃ t, exec i s = .next t ∧ t.mem = s.mem ∧
      (t.hw.chan false c.core ch.toNat).arrived = 0 ∧ (t.hw.chan false c.core ch.toNat).phase = k.phase + 1 ∧
      (t.hw.curCtx c).notBefore = s.hw.now + 2 ∧ (t.hw.curCtx c).st = x.st ∧
      (a ≠ 0 → Pend.fixed a.toNat (s.hw.now + 2) (BitVec.ofNat 64 (word val)) ∈ (t.hw.curCtx c).pend) ∧
      (⟨s.hw.now + 2, .barrierRelease, .nats [0, c.core, ch.toNat]⟩ : Due) ∈ t.hw.agenda
    let parks (i : Instr) : Prop := ∃ t w, exec i s = .next t ∧ t.mem = s.mem ∧ (t.hw.curCtx c).st = .parked ∧
      (t.hw.curCtx c).park = some (.barrier false ch.toNat) ∧ (t.hw.chan false c.core ch.toNat).arrived = all ∧
      (t.hw.chan false c.core ch.toNat).waiters = k.waiters ++ [w] ∧ (a ≠ 0 → t.hw.isFull c.core c.slot a.toNat = false)
    x.fence = none → x.st = .ready →
    (s.atHand c [a.toNat] → x.booked = false → k.active = true → k.mask.getLsbD c.slot = true → k.arrived.getLsbD c.slot = false →
      k.releasing = false → x.waiting = none →
      (all &&& k.mask = k.mask →
        comes (.bar sw false a ch) (k.val.getD 0) ∧
        (k.comb ≠ .fmax → comes (.barImax sw false a ch)
          (if (BitVec.ofNat 32 (k.val.getD v)).toInt < (BitVec.ofNat 32 v).toInt then v else k.val.getD v)) ∧
        (k.comb ≠ .imax → k.val = none → v ≤ 0x7F800000 → comes (.barFmax sw false a ch) v) ∧
        (k.comb ≠ .imax → 0x7F800000 < v % 2 ^ 31 → comes (.barFmax sw false a ch) 0x7FC00000)) ∧
      (all &&& k.mask ≠ k.mask → parks (.bar sw false a ch) ∧ (k.comb ≠ .fmax → parks (.barImax sw false a ch)) ∧
        (k.comb ≠ .imax → parks (.barFmax sw false a ch)))) ∧
    (s.atHand c [a.toNat] → x.booked = false → ∀ i ∈ [Instr.bar sw true a ch, .barFmax sw true a ch, .barImax sw true a ch],
      ∃ t l, exec i s = .next t ∧ t.mem = s.mem ∧ (t.hw.curCtx c).st = .parked ∧ (t.hw.curCtx c).park = some (.barrier true ch.toNat) ∧
        (⟨s.hw.now + 5, .barrierArrivalAtNode, .words l []⟩ : Due) ∈ t.hw.agenda ∧ l.take 3 = [c.core, c.slot, x.uid]) ∧
    (s.hw.cur = some c → x.split.valid = false →
      (k.active = true → k.mask.getLsbD c.slot = true → k.arrived.getLsbD c.slot = false → k.releasing = false → all &&& k.mask ≠ k.mask →
        ∃ t, exec (.barArr sw false ch) s = .next t ∧ t.mem = s.mem ∧ (t.hw.chan false c.core ch.toNat).arrived = all ∧
          (t.hw.curCtx c).split.valid = true ∧ (t.hw.curCtx c).split.chan = ch.toNat ∧ (t.hw.curCtx c).split.clu = false ∧
          (t.hw.curCtx c).split.reld = false ∧ (t.hw.curCtx c).notBefore = s.hw.now + 1) ∧
      (k.active = false → exec (.barArr sw false ch) s = .next (s.faultWith c .reservedValue 8 0)) ∧
      exec (.barWt sw clu a ch) s = .next (s.faultWith c .reservedValue 11 0)) ∧
    (s.hw.cur = some c → x.split.valid = true → exec (.barArr sw clu ch) s = .next (s.faultWith c .reservedValue 11 0)) ∧
    (s.hw.cur = some c → x.split.valid = true → x.split.clu = clu → x.split.chan = ch.toNat →
      (x.split.reld = true → ∃ t, exec (.barWt sw clu a ch) s = .next t ∧ t.mem = s.mem ∧ (t.hw.curCtx c).split.valid = false ∧
        (a ≠ 0 → Pend.fixed a.toNat (s.hw.now + 2) (BitVec.ofNat 64
          ((if x.split.dep then 2 ^ 63 else 0) + x.split.phase % 65536 * 2 ^ 32 + x.split.val.toNat)) ∈ (t.hw.curCtx c).pend) ∧
        (t.hw.curCtx c).notBefore = s.hw.now + 1) ∧
      (x.split.reld = false → x.booked = false → ∃ t, exec (.barWt sw clu a ch) s = .next t ∧ t.mem = s.mem ∧
        (t.hw.curCtx c).st = .parked ∧ (t.hw.curCtx c).park = some (.barrier clu ch.toNat))) ∧
    (s.atHand c [a.toNat] →
      let mk := (s.hw.cg c a).toNat
      (mk ≠ 0 → k.gang = false → (k.active = false ∨ k.arrived = 0 ∨ k.releasing = true) → ((s.hw.core c.core).wheel = true → mk < 2 ^ 16) →
        ∃ t, exec (.barArm sw false a ch) s = .next t ∧ t.mem = s.mem ∧ (t.hw.chan false c.core ch.toNat).active = true ∧
          (t.hw.chan false c.core ch.toNat).mask = s.hw.cg c a ∧ (t.hw.chan false c.core ch.toNat).arrived = 0 ∧
          (t.hw.curCtx c).notBefore = s.hw.now + 1) ∧
      (x.booked = false → ∃ t, exec (.barArm sw true a ch) s = .next t ∧ t.mem = s.mem ∧ (t.hw.curCtx c).st = .parked ∧
        (⟨s.hw.now + 5, .barrierArmApplied, .nats [c.core, c.slot, x.uid, ch.toNat, mk]⟩ : Due) ∈ t.hw.agenda))

/-- R201 to R208: the node applies an `.arm` and records an arrival; the release writes its word for each waiter and each split record; a slot
that departs leaves the masks, and completes a phase in which all others have arrived.
Where it says more than the rules it is the model's choice: log 43, 109. -/
def Obligations.BarrierSteps : Prop :=
  ∀ (s : State) (p : Cur) (w : BarWait) (r : BarRel) (q : Nat × Nat × Nat) (core slot uid kind val reg txn sw ch mk b at_ : Nat)
    (entry pc page op len words codeEnd : Nat) (l : List Word),
    let x := s.hw.ctx core slot
    let clu := clusterOf core
    let k := s.hw.chan true clu ch
    let all := k.arrived ||| BitVec.ofNat 64 (2 ^ (core % 16))
    (s.hw.arg = .nats [core, slot, uid, ch, mk] → s.hw.alive core slot uid = true → x.st = .parked → x.parkCur = some p →
      s.hw.armRefused true clu ch mk = none → mk ≠ 0 → ∃ t, exec .barrierArmApplied s = .next t ∧ t.mem = s.mem ∧
        (t.hw.chan true clu ch).active = true ∧ (t.hw.chan true clu ch).mask = BitVec.ofNat 64 mk ∧ (t.hw.chan true clu ch).arrived = 0 ∧
        (t.hw.ctx core slot).st = .ready ∧ (t.hw.ctx core slot).notBefore = s.hw.now + 3) ∧
    (s.hw.arg = .words [core, slot, uid, kind, val, reg, txn, sw, ch, entry, pc, page, op, len, words, codeEnd] l →
      s.hw.alive core slot uid = true → kind ≠ 1 → k.active = true → k.mask.getLsbD (core % 16) = true →
      (kind = 3 → k.comb ≠ .imax) → (kind = 4 → k.comb ≠ .fmax) → k.arrived.getLsbD (core % 16) = false → k.releasing = false →
      ∃ t, exec .barrierArrivalAtNode s = .next t ∧ t.mem = s.mem ∧
        (all &&& k.mask ≠ k.mask → (t.hw.chan true clu ch).arrived = all ∧ (t.hw.chan true clu ch).phase = k.phase) ∧
        (all &&& k.mask = k.mask → (t.hw.chan true clu ch).arrived = 0 ∧ (t.hw.chan true clu ch).phase = k.phase + 1 ∧
          (⟨s.hw.now + 5, .barrierRelease, .nats [1, clu, ch]⟩ : Due) ∈ t.hw.agenda)) ∧
    (s.hw.arg = .nats [b, at_, ch] → (s.hw.chan (b == 1) at_ ch).rels = [r] → (s.hw.chan (b == 1) at_ ch).held = [] →
      (r.waiters = [w] → r.splits = [] → s.hw.alive w.core w.slot w.uid = true → (s.hw.ctx w.core w.slot).st = .parked →
        (s.hw.ctx w.core w.slot).parkCur = some p → ∀ full, (s.hw.ctx w.core w.slot).waiting = some (reg, w.txn, full) → 0 < reg →
        ∃ t, exec .barrierRelease s = .next t ∧ t.mem = s.mem ∧ t.hw.g w.core w.slot reg = BitVec.ofNat 64 r.word ∧
          t.hw.isFull w.core w.slot reg = true ∧ (t.hw.ctx w.core w.slot).st = .ready ∧ (t.hw.ctx w.core w.slot).notBefore = s.hw.now ∧
          (t.hw.chan (b == 1) at_ ch).rels = [] ∧ (t.hw.chan (b == 1) at_ ch).releasing = false) ∧
      (r.waiters = [] → r.splits = [q] → s.hw.alive q.1 q.2.1 q.2.2 = true → (s.hw.ctx q.1 q.2.1).st = .ready →
        (s.hw.ctx q.1 q.2.1).split.valid = true → (s.hw.ctx q.1 q.2.1).split.clu = (b == 1) → (s.hw.ctx q.1 q.2.1).split.chan = ch →
        ∃ t, exec .barrierRelease s = .next t ∧ t.mem = s.mem ∧ (t.hw.ctx q.1 q.2.1).split.reld = true ∧
          (t.hw.ctx q.1 q.2.1).split.val = BitVec.ofNat 32 r.word ∧ (t.hw.ctx q.1 q.2.1).split.phase = r.word / 2 ^ 32 % 2 ^ 16)) ∧
    (s.hw.arg = .nats [core, slot] → ch < 8 →
      let d := s.hw.chan false core ch
      let rest := d.mask &&& ~~~(BitVec.ofNat 64 (2 ^ slot))
      d.active = true → d.mask.getLsbD slot = true → ∃ t, exec .barrierDeparture s = .next t ∧ t.mem = s.mem ∧
        (t.hw.chan false core ch).mask = rest ∧ (t.hw.chan false core ch).active = decide (rest ≠ 0) ∧
        (rest ≠ 0 → d.arrived &&& rest = rest → d.releasing = false →
          (⟨s.hw.now + 3, .barrierRelease, .nats [0, core, ch]⟩ : Due) ∈ t.hw.agenda) ∧
        (rest ≠ 0 → d.arrived &&& rest ≠ rest → (t.hw.chan false core ch).dep = true ∧ (t.hw.chan false core ch).arrived = d.arrived))

/-- R330 to R339: GANG sends its member's join, with its pipe table, to the node; the first join holds the channel, the last forms the gang,
and each member then receives its status word; a member's fault breaks the gang, and the others fault with GangMember.
Where it says more than the rules it is the model's choice: log 46, 47. -/
def Obligations.Gangs : Prop :=
  ∀ (s : State) (c : Cur) (sw : Bool) (a b : GReg) (ms : List Nat) (x : Gang) (j : GangJoin) (p : Cur) (core slot uid w reg txn sb cancel entry pc page op len words codeEnd clu g v ad : Nat)
    (table : List Nat) (l : List Word) (full : Bool),
    let y := s.hw.curCtx c
    let word := (s.hw.cg c b).toNat
    let off := (s.hw.cgn c (b.toNat + 1)).toNat
    let sends (i : Instr) (d : Nat) (e : List Nat) : Prop := ∃ t r, exec i s = .next t ∧ t.mem = s.mem ∧ (t.hw.curCtx c).st = .parked ∧
      (t.hw.curCtx c).park = some (.barrier true (word % 16)) ∧ (a ≠ 0 → t.hw.isFull c.core c.slot a.toNat = false) ∧
      (⟨s.hw.now + d, .gangJoinAtNode, .words r []⟩ : Due) ∈ t.hw.agenda ∧ r.take 4 = [c.core, c.slot, y.uid, word] ∧ r.drop 15 = e
    (s.atHand c [b.toNat, b.toNat + 1] → b.toNat + 1 < y.wsize → y.booked = false → s.hw.gangRect (clusterOf c.core) word = some ms →
      c.core ∈ ms → ∀ i ∈ [Instr.gang sw a b, .gangCancel sw a b],
      (off = 0 → sends i 5 []) ∧
      (off ≠ 0 → (y.seg 0).virt = false →
        let n := if s.mem.val ad 8 ≤ 8 then s.mem.val ad 8 else 0
        segCheck (y.seg 0) off 8 { r := true } 32 = .ok ad → segCheck (y.seg 0) off (8 + 8 * n) { r := true } 32 = .ok ad →
        s.readable c ad 8 → s.readable c (ad + 8) (8 * n) →
        sends i (8 + (8 + 8 * n + 31) / 32) (s.mem.val ad 8 :: (List.range n).map (fun i => s.mem.val (ad + 8 + 8 * i) 8)))) ∧
    (s.hw.arg = .words (core :: slot :: uid :: w :: reg :: txn :: sb :: cancel :: entry :: pc :: page :: op :: len :: words :: codeEnd :: table) l →
      s.hw.alive core slot uid = true → cancel ≠ 1 →
      (s.hw.gang (clusterOf core) (w % 16) = none → s.hw.gangRect (clusterOf core) w = some ms → (∃ m ∈ ms, m ≠ core) →
        (s.hw.chan true (clusterOf core) (w % 16)).active = false → (s.hw.chan true (clusterOf core) (w % 16)).gang = false →
        (s.hw.chan true (clusterOf core) (w % 16)).releasing = false → ∃ t z, exec .gangJoinAtNode s = .next t ∧ t.mem = s.mem ∧
          t.hw.gang (clusterOf core) (w % 16) = some z ∧ z.word = w ∧ z.members = ms ∧ z.state = .forming ∧ z.joins.map (fun o => o.core) = [core] ∧
          (t.hw.chan true (clusterOf core) (w % 16)).gang = true ∧ (t.hw.chan true (clusterOf core) (w % 16)).active = true) ∧
      (s.hw.gang (clusterOf core) (w % 16) = some x → x.state = .forming → x.booking = 0 → x.word = w → (∀ o ∈ x.joins, o.core ≠ core) →
        (∀ m ∈ x.members, m = core ∨ ∃ o ∈ x.joins, o.core = m) →
        let me : GangJoin := ⟨core, slot, uid, reg, txn, ⟨core, slot, entry, pc, page, op, len, words, codeEnd⟩, sb == 1, table⟩
        let y := { x with joins := x.joins ++ [me] }
        ∃ t, exec .gangJoinAtNode s = .next t ∧ t.mem = s.mem ∧ t.hw.gang (clusterOf core) (w % 16) = some y ∧
          (t.hw.ctx core slot).gang = some (clusterOf core, w % 16) ∧
          (⟨s.hw.now + 1, .gangRelease, .nats [clusterOf core, w % 16, w, 0]⟩ : Due) ∈ t.hw.agenda)) ∧
    (s.hw.arg = .nats [clu, g, w, 0] → s.hw.gang clu g = some x → x.word = w → x.booking = 0 → x.state = .forming → x.joined = true →
      (s.hw.gangValid x = true → ∃ t, exec .gangRelease s = .next t ∧ t.mem = s.mem ∧
        t.hw.gang clu g = some { x with state := .formed, formedAt := s.hw.now } ∧
        (⟨s.hw.now + 4, .gangRelease, .nats [clu, g, w, 0]⟩ : Due) ∈ t.hw.agenda ∧
        (j ∈ x.joins → (∀ o ∈ x.joins, o.core = j.core → o = j) → (t.hw.core j.core).pipes = j.pipes x.members)) ∧
      (s.hw.gangValid x = false → j ∈ x.joins → (∀ o ∈ x.joins, o.core = j.core → o = j) → s.hw.alive j.core j.slot j.uid = true →
        (s.hw.ctx j.core j.slot).st = .parked → ∃ t, exec .gangRelease s = .next t ∧ t.mem = s.mem ∧ t.hw.gang clu g = none ∧
          (t.hw.ctx j.core j.slot).st = .faulted ∧ (t.hw.ctx j.core j.slot).frb = 0 ∧ (t.hw.chan true clu g).gang = false)) ∧
    (s.hw.arg = .nats [clu, g, w, 0] → s.hw.gang clu g = some x → x.word = w → x.booking = 0 → x.state ≠ .forming → j ∈ x.joins →
      (∀ o ∈ x.joins, o.core = j.core → o = j) →
      s.hw.alive j.core j.slot j.uid = true → (s.hw.ctx j.core j.slot).st = .parked → (s.hw.ctx j.core j.slot).waiting = some (reg, j.txn, full) →
      (s.hw.ctx j.core j.slot).parkCur = some p → 0 < reg → j.core ∈ x.members → ∃ t, exec .gangRelease s = .next t ∧ t.mem = s.mem ∧
        (t.hw.ctx j.core j.slot).st = .ready ∧ t.hw.isFull j.core j.slot reg = true ∧
        t.hw.g j.core j.slot reg = BitVec.ofNat 64 (g % 16 * 2 ^ 32 + x.gid % 65536 * 2 ^ 16 + (x.members.length - 1) % 16 * 16 +
          (x.members.takeWhile (fun m => m != j.core)).length % 16)) ∧
    (s.hw.arg = .nats [core, slot, uid, txn, v] → s.hw.alive core slot uid = true → (s.hw.ctx core slot).st = .parked →
      (s.hw.ctx core slot).waiting = some (reg, txn, full) → (s.hw.ctx core slot).parkCur = some p → 0 < reg →
      ∃ t, exec .gangRelease s = .next t ∧ t.mem = s.mem ∧ (t.hw.ctx core slot).st = .ready ∧ t.hw.g core slot reg = BitVec.ofNat 64 v) ∧
    (s.hw.arg = .nats [clu, g, core] → s.hw.gang clu g = some x → x.state = .formed → ∃ t, exec .gangMemberFault s = .next t ∧ t.mem = s.mem ∧
      t.hw.gang clu g = some { x with state := .broken, faulted := core } ∧
      (j ∈ x.joins → j.core ≠ core → s.hw.alive j.core j.slot j.uid = true → (s.hw.ctx j.core j.slot).gang = some (clu, g) →
        (s.hw.ctx j.core j.slot).st = .parked → (t.hw.ctx j.core j.slot).st = .faulted ∧ (t.hw.ctx j.core j.slot).fra.toNat % 2 ^ 8 = 0x10 ∧
          (t.hw.ctx j.core j.slot).frb = BitVec.ofNat 64 core))

/-- R331, R338 to R342: PIPEW counts an entry, which is read and sent once its context's earlier stores are performed, and is written whole
into the reader's ring and counted there; PIPER gives the address of the next entry and frees the one
before; the writer learns of a freed entry. A full pipe parks its writer, an empty one its reader.
Where it says more than the rules it is the model's choice: log 46, 47. -/
def Obligations.Pipes : Prop :=
  ∀ (s : State) (c : Cur) (sw : Bool) (a : GReg) (ep : BitVec 4) (g : Gang) (p : Pipe) (ad wcore wslot uid txn e core off src w slot : Nat)
    (rest : List Nat) (bs : List Byte),
    let x := s.hw.curCtx c
    let dist (k m : Nat) : Nat := (k % 4 - m % 4) + (m % 4 - k % 4) + ((k / 4 % 4 - m / 4 % 4) + (m / 4 % 4 - k / 4 % 4))
    let hops (m : Nat) : Nat := dist c.core m
    let from_ := (s.hw.cg c a).toNat
    (s.hw.cur = some c → 8 ≤ ep.toNat → exec (.pipew sw a ep) s = .next (s.faultWith c .reservedValue 29 0) ∧
      exec (.piper sw a ep) s = .next (s.faultWith c .reservedValue 29 0) ∧
      exec (.piperDone sw ep) s = .next (s.faultWith c .reservedValue 29 0)) ∧
    (ep.toNat < 8 → s.hw.formedGang c.core = some g → SMap.find? (s.hw.core c.core).pipes ep.toNat = some p → p.peer ∉ g.left →
      (p.write = true → s.atHand c [a.toNat] → x.fence = none → (x.seg 0).virt = false → segCheck (x.seg 0) from_ p.width { r := true } 32 = .ok ad →
        ((p.wc - p.fc).toNat ≠ p.depth → ∃ t, exec (.pipew sw a ep) s = .next t ∧ t.mem = s.mem ∧
          SMap.find? (t.hw.core c.core).pipes ep.toNat = some { p with wc := p.wc + 1 } ∧ (t.hw.curCtx c).notBefore = s.hw.now + 1 ∧
          (s.hw.earlierStores c = [] → (⟨s.hw.now + 1, .pipeEntryArrival, .nats [c.core, c.slot, x.uid, s.hw.nextTxn, ep.toNat, p.peer,
            p.buf + p.width * (p.wc.toNat % p.depth), ad, p.width]⟩ : Due) ∈ t.hw.agenda)) ∧
        ((p.wc - p.fc).toNat = p.depth → x.booked = false →
          exec (.pipew sw a ep) s = .next (s.onHw fun h => h.parkChain c (.pipe ep.toNat)))) ∧
      (p.write = false → s.hw.cur = some c →
        (p.tc ≠ p.wc → ∃ t, exec (.piper sw a ep) s = .next t ∧ t.mem = s.mem ∧
          SMap.find? (t.hw.core c.core).pipes ep.toNat = some { p with held := true, tc := p.tc + 1, fc := if p.held then p.fc + 1 else p.fc } ∧
          (a ≠ 0 → Pend.fixed a.toNat (s.hw.now + 2) (BitVec.ofNat 64 (p.buf + p.width * (p.tc.toNat % p.depth))) ∈ (t.hw.curCtx c).pend) ∧
          (p.held = true → (⟨s.hw.now + (2 + 2 * hops p.peer), .pipeFreeReport, .nats [p.peer, ep.toNat]⟩ : Due) ∈ t.hw.agenda)) ∧
        (p.tc = p.wc → x.booked = false → ∃ t, exec (.piper sw a ep) s = .next t ∧ t.mem = s.mem ∧ (t.hw.curCtx c).st = .parked ∧
          (t.hw.curCtx c).park = some (.pipe ep.toNat)) ∧
        (p.held = true → ∃ t, exec (.piperDone sw ep) s = .next t ∧ t.mem = s.mem ∧
          SMap.find? (t.hw.core c.core).pipes ep.toNat = some { p with held := false, fc := p.fc + 1 } ∧
          (⟨s.hw.now + (2 + 2 * hops p.peer), .pipeFreeReport, .nats [p.peer, ep.toNat]⟩ : Due) ∈ t.hw.agenda) ∧
        (p.held = false → exec (.piperDone sw ep) s = .next (s.onHw fun h => h.retire c sw 1)))) ∧
    (s.hw.arg = .nats [wcore, wslot, uid, txn, e, core, off, src, w] → ∃ t l, exec .pipeEntryArrival s = .next t ∧ t.mem = s.mem ∧
      (⟨max (max s.hw.now (s.hw.core wcore).pipeLink + 3 + 2 * dist wcore core + (w + 127) / 128) (SMap.get 0 (s.hw.core wcore).pipeLast wslot),
        .pipeEntryArrival, .blob l (s.mem.readN src w)⟩ : Due) ∈ t.hw.agenda ∧ l.take 7 = [wcore, wslot, uid, txn, e, core, off] ∧
      (t.hw.core wcore).pipeLink = max s.hw.now (s.hw.core wcore).pipeLink + (w + 127) / 128) ∧
    (SMap.find? (s.hw.core core).pipes e = some p →
      (s.Inv → s.hw.arg = .blob (wcore :: wslot :: uid :: txn :: e :: core :: off :: rest) bs → (s.hw.core core).imaging = false →
        bs.length = 32 * rest.length → off % 32 = 0 → ∃ t, exec .pipeEntryArrival s = .next t ∧
          t.mem.readN (core * 2 ^ 20 + off) (32 * rest.length) = bs ∧
          SMap.find? (t.hw.core core).pipes e = some { p with wc := p.wc + 1 } ∧
          ((s.hw.ctx core slot).st = .parked → (s.hw.ctx core slot).park = some (.pipe e) → (t.hw.ctx core slot).st = .ready)) ∧
      (s.hw.arg = .nats [core, e] → ∃ t, exec .pipeFreeReport s = .next t ∧ t.mem = s.mem ∧
        SMap.find? (t.hw.core core).pipes e = some { p with fc := p.fc + 1 } ∧
        ((s.hw.ctx core slot).st = .parked → (s.hw.ctx core slot).park = some (.pipe e) → (t.hw.ctx core slot).st = .ready)))

/-! ### The vector unit (18_vector) -/

/-- R360, R366, R368, R370, R383, R385: with the unit free, its pointers at hand and its rows good, each vector form starts a job that reads its
distinct source rows in the order C, B, A and writes its destination rows; each pointer that it names advances once; memory has not changed.
Where it says more than the rules it is the model's choice: log 69, 70, 75. -/
def Obligations.VectorStarts : Prop :=
  ∀ (s : State) (c : Cur) (h : VHdr) (cd : Cond) (m : BitVec 2) (a b d : BitVec 3) (r : GReg) (ty : ETy) (q : QFmt) (pt : BitVec 3) (op : RedOp) (ex : Bool)
    (k : BitVec 8) (f : SfuFn) (sg : BitVec 3),
    let x := s.hw.curCtx c
    let row (p : BitVec 3) : Nat := (x.seg 0).base + (x.ptr p.toNat).off.toNat
    let starts (i : Instr) (op : VOp) (src dst : List (BitVec 3)) : Prop := ∃ t j, exec i s = .next t ∧ t.mem = s.mem ∧
      (t.hw.curCtx c).notBefore = s.hw.now + 1 ∧ (t.hw.core c.core).vjobs = (s.hw.core c.core).vjobs ++ [j] ∧ j.op = op ∧ j.ty = h.ty ∧
        j.rnd = h.rnd ∧
      j.mask = x.mask h.mask.toNat ∧ j.reads.map VRead.key = (src.map row).eraseDups ∧ j.dests.map Prod.fst = dst.map row ∧
      (t.hw.core c.core).vread = some j.id ∧ (⟨s.hw.now + 1, .vectorRowWrite, .nats [c.core, j.id, 0]⟩ : Due) ∈ t.hw.agenda ∧
      (∀ p, (t.hw.curCtx c).ptr p.toNat = if p ∈ src ++ dst then ⟨(x.ptr p.toNat).off + (x.ptr p.toNat).inc.signExtend 20, (x.ptr p.toNat).inc⟩
        else x.ptr p.toNat)
    (s.vecReady c [d, b, a] →
      starts (.vadd h a d b) .add [d, b] [a] ∧ starts (.vsub h a d b) .sub [d, b] [a] ∧ starts (.vmul h a d b) .mul [d, b] [a] ∧
      starts (.vfma h a d b) .fma [d, b, a] [a] ∧ starts (.vfms h a d b) .fms [d, b, a] [a] ∧
      starts (.vmin h a d b) .min [d, b] [a] ∧ starts (.vmax h a d b) .max [d, b] [a] ∧
      starts (.vand h a d b) .and [d, b] [a] ∧ starts (.vor h a d b) .or [d, b] [a] ∧ starts (.vxor h a d b) .xor [d, b] [a] ∧
      starts (.vshl h a d b) .shl [d, b] [a] ∧ starts (.vshr h a d b) .shr [d, b] [a] ∧ starts (.vsar h a d b) .sar [d, b] [a] ∧
      starts (.vsel h a d b) .sel [d, b] [a] ∧ starts (.vperm h a d b) .perm [d, b] [a] ∧ starts (.vdot h a d b) .dot [d, b] [a] ∧
      starts (.vclamp h a d b) .clamp [d, b] [a] ∧ starts (.vdqnt h q pt a d b) (.dqnt q pt.toNat) [d, b] [a] ∧
      (row a ≠ row b → starts (.vqnt h q pt a d b) (.qnt q pt.toNat) [d] [a, b]) ∧
      (row a = row b → exec (.vqnt h q pt a d b) s = .next (s.faultWith c .reservedValue 31 a.toNat))) ∧
    (s.vecReady c [d, b] → (m ≠ 0 → starts (.vcmp h cd m d b) (.cmp cd) [d, b] []) ∧
      exec (.vcmp h cd 0 d b) s = .next (s.faultWith c .reservedValue 30 0)) ∧
    (s.vecReady c [d, a] →
      starts (.vabs h a d) .abs [d] [a] ∧ starts (.vneg h a d) .neg [d] [a] ∧ starts (.vnot h a d) .not [d] [a] ∧
      starts (.vcvt h ty pt a d) (.cvt ty pt.toNat) [d] [a] ∧ starts (.vred h op a d) (.red op) [d] [a] ∧
      starts (.vscan h op ex a d) (.scan op ex) [d] [a] ∧ starts (.vbcast h a (.lane d k)) (.bcast k.toNat) [d] [a] ∧
      starts (.vamax h a d) .amax [d] [a] ∧
      ((s.hw.core c.core).sfuq.length < 8 → starts (.vsfu h f a d) (.sfu f) [d] [a])) ∧
    (s.vecReady c [a] → starts (.viota h a) .iota [] [a] ∧ (s.atHand c (regs [r]) → starts (.vbcast h a (.reg r)) .bcreg [] [a])) ∧
    (s.vecReady c [b, a] → (x.seg sg.toNat).virt = false → starts (.vgath h a b sg) .gath [b] [a] ∧ starts (.vscat h a b sg) .scat [b, a] [])

/-- R361, R362, R372 to R376, R382, R349: what the integer lane forms compute for an enabled lane; a disabled lane's bytes are not written;
VSEL writes every lane; VCMP gives 0 for a disabled lane; an FP32 NaN gives the canonical NaN, and holds for `.ne` alone. -/
def Obligations.LaneResults : Prop :=
  ∀ (t : ETy) (r : Rnd) (ns : Bool) (mask : BitVec 256) (reg c b a i j : Nat) (k : Cond),
    let out (op : VOp) : VOut := vecOut op t r ns mask reg c b a
    let res (op : VOp) : Nat := lane t (((out op).rows.map (fun p => p.1.toNat)).headD 0) i
    let w := t.bits
    let x := lane t c i
    let y := lane t b i
    (t.isI = true → i < t.lanes → mask.getLsbD i = true →
      res .add = (x + y) % 2 ^ w ∧ res .sub = (x + (2 ^ w - y)) % 2 ^ w ∧ res .mul = x * y % 2 ^ w ∧
      res .fma = (lane t a i + x * y) % 2 ^ w ∧ res .and = x &&& y ∧ res .or = x ||| y ∧ res .xor = x ^^^ y ∧ res .not = 2 ^ w - 1 - x ∧
      res .neg = (2 ^ w - x) % 2 ^ w ∧ res .shl = (if w ≤ y then 0 else x * 2 ^ y % 2 ^ w) ∧ res .shr = (if w ≤ y then 0 else x / 2 ^ y) ∧
      sext (res .sar) w = sext x w / ((2 ^ min y w : Nat) : Int) ∧
      laneInt t (res .min) = min (laneInt t x) (laneInt t y) ∧ laneInt t (res .max) = max (laneInt t x) (laneInt t y) ∧
      res .sel = x ∧ res (.bcast j) = lane t c j ∧ res .bcreg = reg % 2 ^ w ∧ res .iota = i % 2 ^ w ∧ res .perm = lane t c (y % t.lanes) ∧
      (out (.cmp k)).mask.getLsbD i = condHolds k (laneInt t x) (laneInt t y)) ∧
    (t.isI = true → i < t.lanes → mask.getLsbD i = false → res .sel = y ∧ (out (.cmp k)).mask.getLsbD i = false) ∧
    (t.isI = true → j < 128 → ∀ op ∈ [VOp.add, .sub, .mul, .and, .or, .xor, .not, .neg, .shl, .shr, .sar, .min, .max, .iota, .perm],
      ((out op).rows.map (fun p => p.2.getLsbD j)) = [mask.getLsbD (8 * j / w)]) ∧
    (t = .f32 → i < 32 → mask.getLsbD i = true → 0x7F800000 < x % 2 ^ 31 →
      res .add = 0x7FC00000 ∧ res .sub = 0x7FC00000 ∧ res .mul = 0x7FC00000 ∧ res .fma = 0x7FC00000 ∧
      (out (.cmp k)).mask.getLsbD i = decide (k = .ne))

/-- R366, R368, R371, R383 to R385: the bank cycles of a job: its last read computes the rows and binds their writes to n + 7; a write changes
the enabled bytes of its row; a scatter writes its lane; a gather's row is written at the later of n + 7 and the cycle after the last reply, and
that of the special-function unit at the later of n + 7 and 3 cycles after its end.

R386, R387, R362: VMSK combines masks and VMOVM moves one to or from four registers, or counts it, with latency 2; `m0` reads all ones, and
as a destination it is a fault.
Where it says more than the rules it is the model's choice: log 73, 74. -/
def Obligations.VectorStepsAndMasks : Prop :=
  (
    ∀ (s : State) (j : VJob) (e : VRead) (w : VWrite) (v : VElem) (core id txn tx key lane_ ad : Nat) (d : BitVec 1024) (en : BitVec 128),
      let k := s.hw.core core
      s.hw.vjob core id = some j → j.id = id →
      (s.hw.arg = .nats [core, id, 0] → j.reads = [e] → e.due ≤ s.hw.now → e.args = [0] → k.readWaits s.hw.now j e.txn e.key 128 = false →
        s.hw.rowScrubbed core j e.key = false → j.poison = none →
        (∀ p ∈ piecesOf e.key 128, s.mem.isPoison p.key = false ∧ s.hw.granted j.acc.core j.acc.gset (effTag s.mem p) = true) →
        (∀ cd, j.op ≠ .cmp cd) → (∀ f, j.op ≠ .sfu f) → j.op ≠ .gath → j.op ≠ .scat → j.dests = [(key, tx)] →
        (vecOut j.op j.ty j.rnd j.nsat j.mask j.reg.toNat (s.mem.val e.key 128) (j.row 1) (j.row 2)).rows = [(d, en)] →
        ∃ t u, exec .vectorRowWrite s = .next t ∧ t.mem = s.mem ∧ t.hw.vjob core id = some u ∧ u.writes = [⟨key, tx, d, en, s.hw.now + 7⟩] ∧
          (t.hw.core core).vread = none ∧ (⟨s.hw.now + 7, .vectorRowWrite, .nats [core, id, 1, tx]⟩ : Due) ∈ t.hw.agenda) ∧
      (s.Inv → s.hw.arg = .nats [core, id, 1, txn] → j.writes.find? (fun u => u.txn == txn) = some w → w.due = s.hw.now →
        k.bankTaken s.hw.now id (bankOf w.key) = false → k.storeAhead j.uid w.txn j.txns w.key 128 = false →
          s.hw.rowScrubbed core j w.key = false → w.key % 128 = 0 →
        ∃ t, exec .vectorRowWrite s = .next t ∧
          (∀ i, i < 128 → w.en.getLsbD i = true → t.mem.read (w.key + i) = BitVec.ofNat 8 (w.data.toNat / 2 ^ (8 * i)) ∧
            t.mem.tagOf (w.key + i) = j.acc.otag) ∧
          (∀ i, i < 128 → w.en.getLsbD i = false → s.mem.tagOf (w.key + i) = j.acc.otag → t.mem.read (w.key + i) = s.mem.read (w.key + i)) ∧
          (∀ i, i < w.key ∨ w.key + 128 ≤ i → t.mem.read i = s.mem.read i ∧ t.mem.tagOf i = s.mem.tagOf i)) ∧
      (s.Inv → s.hw.arg = .nats [core, id, 0] → j.op = .scat → j.elems = [v] → v.sent = false → keyCore v.key = core → v.lanes = [(lane_, ad)] →
        v.key % 32 = 0 →
        v.key ≤ ad → ad + j.ty.bits / 8 ≤ v.key + 32 → j.ty.isI = true → k.readWaits s.hw.now j v.txn v.key 32 = false →
          s.hw.rowScrubbed core j v.key = false →
        ∃ t, exec .gatherElementReply s = .next t ∧ t.mem.val ad (j.ty.bits / 8) = lane j.ty (j.row 2) lane_ ∧ t.mem.tagOf ad = j.acc.otag ∧
          (∀ i, i / 32 ≠ v.key / 32 → t.mem.read i = s.mem.read i)) ∧
      (s.hw.arg = .nats [core, id, 2, txn] → j.op = .gath → j.elems = [v] → v.txn = txn → v.got = none → k.vread ≠ some id → j.poison = none →
        j.dests = [(key, tx)] →
        (lanesOut j.ty (fun i => (SMap.find? j.rows (16 + i)).isSome) (fun i => (SMap.get 0 j.rows (16 + i)).toNat)).rows = [(d, en)] →
        ∃ t u, exec .gatherElementReply s = .next t ∧ t.mem = s.mem ∧ t.hw.vjob core id = some u ∧
          u.writes = [⟨key, tx, d, en, max (j.n + 7) (s.hw.now + 1)⟩]) ∧
      (s.hw.arg = .nats [core, id] → s.hw.alive core j.slot j.uid = true → j.dests = [(key, tx)] →
        (vecOut j.op j.ty j.rnd j.nsat j.mask j.reg.toNat (j.row 0) (j.row 1) (j.row 2)).rows = [(d, en)] →
        ∃ t u, exec .sfuRequestDone s = .next t ∧ t.mem = s.mem ∧ t.hw.vjob core id = some u ∧
          u.writes = [⟨key, tx, d, en, max (j.n + 7) (s.hw.now + 3)⟩])
  ) ∧ (
    ∀ (s : State) (c : Cur) (sw : Bool) (op : MskOp) (m p q : BitVec 2) (a b : GReg),
      let x := s.hw.curCtx c
      let v := x.mask p.toNat
      let u := x.mask q.toNat
      let sets (i : Instr) (r : BitVec 256) : Prop := ∃ t, exec i s = .next t ∧ t.mem = s.mem ∧
        (t.hw.curCtx c).maskPend = [⟨m.toNat, s.hw.now + 2, r, none⟩] ∧ (t.hw.curCtx c).notBefore = s.hw.now + 1
      x.mask 0 = BitVec.allOnes 256 ∧
      (s.atHand c [] → x.maskPend = [] →
        (m ≠ 0 → sets (.vmsk sw .and m p q) (v &&& u) ∧ sets (.vmsk sw .or m p q) (v ||| u) ∧ sets (.vmsk sw .xor m p q) (v ^^^ u) ∧
          sets (.vmsk sw .andn m p q) (v &&& ~~~u) ∧ sets (.vmsk sw .not m p q) (~~~v)) ∧
        exec (.vmsk sw op 0 p q) s = .next (s.faultWith c .reservedValue 30 0) ∧
        exec (.vmovm sw (.put 0 b)) s = .next (s.faultWith c .reservedValue 30 0) ∧
        (a.toNat + 3 < x.wsize → ∃ t, exec (.vmovm sw (.get a p)) s = .next t ∧ t.mem = s.mem ∧
          ∀ i, i < 4 → a.toNat + i ≠ 0 → Pend.fixed (a.toNat + i) (s.hw.now + 2) (v.extractLsb' (64 * i) 64) ∈ (t.hw.curCtx c).pend) ∧
        exec (.vmovm sw (.cnt a p)) s =
          .next (s.result c sw a (BitVec.ofNat 64 ((List.range 256).countP (fun i => v.getLsbD i))) 2)) ∧
      (s.atHand c (regRun b.toNat 4) → x.maskPend = [] → m ≠ 0 → b.toNat + 3 < x.wsize →
        sets (.vmovm sw (.put m b)) (s.hw.cgn c (b.toNat + 3) ++ s.hw.cgn c (b.toNat + 2) ++ s.hw.cgn c (b.toNat + 1) ++ s.hw.cgn c b.toNat))
  )


/-! ### The matrix unit (19_matrix) -/

/-- R392 to R395, R398, R401, R402, R405 to R407: with the unit free, a matrix chain puts its command on its path: the descriptor or bias row
is read at issue and its rows are checked; a malformed descriptor, a slice above 3, a scale above 255 and a `.g` outside a formed gang fault.
Where it says more than the rules it is the model's choice: log 30, 47, 78, 80. -/
def Obligations.MatrixIssue : Prop :=
  ∀ (s : State) (c : Cur) (sw f32 z cq tob nsat : Bool) (rnd : Rnd) (acc : BitVec 2) (ks : BitVec 4) (a b : GReg) (ad id cqb fmt n sseg cseg trow : Nat),
    let x := s.hw.curCtx c
    let k := s.hw.core c.core
    let q (i : Nat) : Nat := s.mem.val (ad + 8 * i) 8
    let sb := latchScales fmt
    let pushes (i : Instr) (op : MOp) (tile d : Nat) (more : State → MCmd → Prop) : Prop := ∃ t m, exec i s = .next t ∧ t.mem = s.mem ∧
      (t.hw.curCtx c).notBefore = s.hw.now + d ∧ m ∈ (t.hw.core c.core).matCmds ∧ m.txn = s.hw.nextTxn ∧ m.op = op ∧ m.tile = tile ∧
      m.uid = x.uid ∧ more t m
    let rows (seg : Nat) (need : Need) (size : Nat) : Prop := ∀ i, i ≤ n → ∃ e, segCheck (x.seg seg) ((q 1 + i * q 2 : Nat) : Int) size need 1 = .ok e
    let wide : Prop := q 1 < 2 ^ 40 ∧ q 2 < 2 ^ 40 ∧ q 3 < 2 ^ 40 ∧ q 4 < 2 ^ 40 ∧ id < 2 ^ 16 ∧ cqb < 2 ∧ n < 32 ∧ sseg < 8 ∧ cseg < 8 ∧ trow < 32
    let cmd (m : MCmd) : Prop := m.fmt = fmt ∧ m.last = n ∧ m.doff = q 1 ∧ m.dstr = q 2 ∧ m.ident = id ∧ m.cq = decide (cqb = 1)
    (s.matFree c →
      pushes (.mzero sw f32 cq acc) (.mzero f32) acc.toNat 1 (fun _ m => m.cq = cq) ∧
      (ks.toNat < 4 → pushes (.mma sw false z cq acc ks) (.mma false z (ks.toNat + 1)) acc.toNat 1 (fun _ m => m.cq = cq ∧ m.gang = none) ∧
        (∀ clu ch y, x.gang = some (clu, ch) → s.hw.gang clu ch = some y → y.state = .formed →
          pushes (.mma sw true z cq acc ks) (.mma true z (ks.toNat + 1)) acc.toNat 1 (fun _ m => m.gang = some (ch, y.formedAt, y.members))) ∧
        (x.gang = none → exec (.mma sw true z cq acc ks) s = .next (s.faultWith c .reservedValue 33 0))) ∧
      (4 ≤ ks.toNat → exec (.mma sw f32 z cq acc ks) s = .next (s.faultWith c .reservedValue 34 0))) ∧
    (s.atHand c [] → ∃ w, exec (.mstat sw a) s = .next (s.result c sw a w 2) ∧ w.extractLsb' 56 8 = 0 ∧ w.extractLsb' 0 12 = 0 ∧
      w.extractLsb' 32 3 = BitVec.ofNat 3 k.latA.fmt ∧ w.extractLsb' 36 3 = BitVec.ofNat 3 k.latB.fmt ∧
      (k.latA.valid = false → w.getLsbD 35 = false) ∧ (k.arun = none → w.getLsbD 35 = k.latA.valid ∧ w.getLsbD 39 = k.latB.valid) ∧
      (∀ t, t < 4 → w.getLsbD (44 + t) = (k.mmaLocks t || k.tileLocks t) ∧ w.getLsbD (48 + t) = (k.tile t).f32 ∧
        w.getLsbD (52 + t) = decide ((k.tile t).inv ≠ []))) ∧
    (s.matFree c → s.atHand c [b.toNat] →
      ((s.hw.cg c b).toNat < 256 → pushes (.mscl sw tob b) (.mscl tob (s.hw.cg c b).toNat) 0 1 (fun _ _ => True)) ∧
      (256 ≤ (s.hw.cg c b).toNat → exec (.mscl sw tob b) s = .next (s.faultWith c .reservedValue 35 0)) ∧
      (s.ownRow c (s.hw.cg c b).toNat 128 ad →
        pushes (.baddq sw rnd acc b) (.baddq rnd (BitVec.ofNat 1024 (s.mem.val ad 128))) acc.toNat 4 (fun _ _ => True)) ∧
      (s.ownRow c (s.hw.cg c b).toNat 64 ad →
        (q 7 ≠ 0 → ∀ i ∈ [Instr.mald sw b, .mbld sw b, .mgath sw tob b, .mrd sw rnd nsat acc b, .mwr sw acc b],
          exec i s = .next (s.faultWith c .reservedValue 32 0)) ∧
        (wide → q 0 = id * 2 ^ 48 + cqb * 2 ^ 39 + fmt * 2 ^ 36 + n * 2 ^ 31 + sseg * 2 ^ 26 + cseg * 2 ^ 23 → fmt < 6 → q 1 % 128 = 0 →
          q 2 % 128 = 0 →
          (sb = 0 → cseg = 0 ∧ q 3 = 0 ∧ q 4 = 0) → (sb ≠ 0 → q 3 % sb = 0 ∧ q 4 % sb = 0) → q 6 = 0 → q 7 = 0 →
          (q 5 = 0 → rows sseg { r := true } 128 →
            (sb ≠ 0 → ∀ i, i ≤ n → ∃ e, segCheck (x.seg cseg) ((q 3 + i * q 4 : Nat) : Int) sb { r := true } 1 = .ok e) →
            pushes (.mald sw b) .ald 0 5 (fun t m => cmd m ∧ (t.hw.core c.core).e2Resv = k.e2Resv + cqb) ∧
            pushes (.mbld sw b) .bld 0 5 (fun t m => cmd m ∧ (t.hw.core c.core).e2Resv = k.e2Resv + cqb)) ∧
          (q 5 < 2 ^ 20 → (∃ e, segCheck (x.seg 0) ((q 5 : Nat) : Int) 128 { r := true } 128 = .ok e) →
            pushes (.mgath sw tob b) (.gath tob) 0 5 (fun t m => cmd m ∧ (t.hw.core c.core).e3Resv = k.e3Resv + cqb))) ∧
        (wide → q 0 = id * 2 ^ 48 + cqb * 2 ^ 39 + fmt * 2 ^ 36 + n * 2 ^ 31 + sseg * 2 ^ 26 + trow * 2 ^ 18 → fmt < 8 → trow + n ≤ 31 →
          q 1 % min (outBytes fmt) 32 = 0 → q 2 % min (outBytes fmt) 32 = 0 → q 4 = 0 → q 5 = 0 → q 6 = 0 → q 7 = 0 →
          (q 3 < 2 ^ 17 → rows sseg { w := true } (outBytes fmt) →
            pushes (.mrd sw rnd nsat acc b) (.mrd rnd nsat) acc.toNat 5 (fun _ m => cmd m ∧ m.trow = trow ∧
              m.band = if q 3 / 2 ^ 16 = 1 then q 3 % 2 ^ 16 else 0x3F80)) ∧
          (q 3 = 0 → (fmt = 0 ∨ fmt = 7) → rows sseg { r := true } (outBytes fmt) →
            pushes (.mwr sw acc b) .mwr acc.toNat 5 (fun _ m => cmd m ∧ m.trow = trow)))))

/-- R389, R398, R400, R405, R406: how long a command computes and what it leaves in its tile or latch; a `.g` MMA goes by its gang's node, whose
latches are forwarded along rows and columns; an error in a latch or tile shows as invalid operands.

R396, R403, R404, R408: a load's row is kept as it comes, and at its end the latch holds the rows with their format, and the completion its
identifier and code; MRD writes its bytes at the bank with the context's tag; MWR's rows stand in its tile at its end.
Where it says more than the rules it is the model's choice: log 76, 79, 82. -/
def Obligations.MatrixSteps : Prop :=
  (
    ∀ (s : State) (m : MCmd) (p : MPhase) (core txn clu ch formed at_ i ks v row col tl : Nat) (g z f b : Bool) (r : Rnd) (bias : BitVec 1024) (l : List Nat) (ws : List Word),
      let k := s.hw.core core
      let tile (t : State) (n : Nat) : Tile := (t.hw.core core).tile n
      let ends (t : State) (d : Nat) (i : Instr) : Prop := (⟨s.hw.now + d, i, .nats [core, txn, 4, 0]⟩ : Due) ∈ t.hw.agenda
      (s.hw.arg = .nats [core, txn, 0] →
        (∃ t, exec .mzeroExec s = .next t ∧ t.mem = s.mem ∧ ends t 32 .mzeroExec) ∧
        (∃ t, exec .baddqExec s = .next t ∧ t.mem = s.mem ∧ ends t 32 .baddqExec) ∧
        (k.running txn = some m → m.op = .mscl b v → (k.latch b).valid = true → (k.latch b).fmt < 4 →
          ∃ t, exec .msclExec s = .next t ∧ t.mem = s.mem ∧ ends t 1 .msclExec) ∧
        (k.running txn = some m → m.gang = none → m.op = .mma g z ks → k.latA.valid = true → k.latB.valid = true →
          (pairMode k.latA.fmt k.latB.fmt = some f → (z = true ∨ (k.tile m.tile).f32 = f) → ∃ t, exec .mmaExec s = .next t ∧ t.mem = s.mem ∧
            ends t (ks * (if 4 ≤ k.latA.fmt then 128 else 64)) .mmaExec) ∧
          (pairMode k.latA.fmt k.latB.fmt = none → m.fail = none → ∃ t, exec .mmaExec s = .next t ∧ t.mem = s.mem ∧ (∀ n, tile t n = tile s n) ∧
            (⟨s.hw.now + 1, .mmaExec, .nats [core, txn, 4, 4]⟩ : Due) ∈ t.hw.agenda)) ∧
        (k.running txn = some m → m.gang = some (ch, formed, l) → m.broken = false → ∃ t, exec .mmaExec s = .next t ∧ t.mem = s.mem ∧
          (⟨s.hw.now + 5, .mmaGangStart, .nats [0, clusterOf core, ch, formed, core, txn, s.hw.now]⟩ : Due) ∈ t.hw.agenda)) ∧
      (s.hw.arg = .nats [core, txn, 4, 0] → k.running txn = some m →
        (m.op = .mzero f → ∃ t, exec .mzeroExec s = .next t ∧ t.mem = s.mem ∧ tile t m.tile = ⟨f, [], []⟩) ∧
        (m.op = .mma g z ks → k.latA.fmt < 4 → i < 1024 → ∃ t, exec .mmaExec s = .next t ∧ t.mem = s.mem ∧ (tile t m.tile).f32 = false ∧
          (let units (x : Latch) (n : Nat) : List (Option Int) :=
            rowUnits x.fmt (SMap.get 0 x.rows n).toNat (SMap.get 0 x.scales n).toNat (ks * latchPer k.latA.fmt)
          let d := rowDot (units k.latA (i / 32)) (units k.latB (i % 32))
          (tile t m.tile).entry i = (if z then 0 else (tile s m.tile).entry i) + BitVec.ofInt 128 (d.1 * 2 ^ 18) ∧
            (tile t m.tile).isInv i = ((!z && (tile s m.tile).isInv i) || d.2))) ∧
        (m.op = .mscl b v → v < 256 → ∃ t, exec .msclExec s = .next t ∧ t.mem = s.mem ∧ ((t.hw.core core).latch b).rows = (k.latch b).rows ∧
          ∀ i j, i < 32 → j < latchScales (k.latch b).fmt → (SMap.get 0 ((t.hw.core core).latch b).scales i).toNat / 2 ^ (8 * j) % 256 = v) ∧
        (m.op = .baddq r bias → i < 1024 → ∃ t, exec .baddqExec s = .next t ∧ t.mem = s.mem ∧ (tile t m.tile).f32 = (tile s m.tile).f32 ∧
          (let x := fp32.value (bias.toNat / 2 ^ (32 * (i % 32)) % 2 ^ 32)
          ((tile s m.tile).f32 = true →
            (tile t m.tile).entry i = BitVec.ofNat 128 (fp32.round r false ((fp32.value (((tile s m.tile).entry i).toNat % 2 ^ 32)).add r x))) ∧
          ((tile s m.tile).f32 = false → x.special = true → (tile t m.tile).isInv i = true ∧ (tile t m.tile).entry i = (tile s m.tile).entry i)))) ∧
      (s.hw.arg = .nats [0, clu, ch, formed, core, txn, at_] → k.running txn = some m → m.fail = none → m.broken = false →
        m.gang = some (ch, formed, [core]) →
        ∃ t, exec .mmaGangStart s = .next t ∧ t.mem = s.mem ∧ (⟨s.hw.now + 1, .mmaGangStart, .nats [1, clu, ch, formed]⟩ : Due) ∈ t.hw.agenda) ∧
      (s.hw.arg = .nats [1, clu, ch, formed] → (s.hw.cluster clu).mphase ch formed = some p → p.arrived = [(core, txn, at_)] →
        ∃ t, exec .mmaGangStart s = .next t ∧ t.mem = s.mem ∧ (⟨at_ + 10, .mmaGangStart, .words [2, core, txn] []⟩ : Due) ∈ t.hw.agenda) ∧
      (s.hw.arg = .words (2 :: l) ws → ∃ t, exec .mmaGangStart s = .next t ∧ t.mem = s.mem ∧
        ∀ n, n ∈ (pairsOf l).map Prod.fst → (t.hw.core n).latA = (s.hw.core (leadOf ((pairsOf l).map Prod.fst) n false)).latA ∧
          (t.hw.core n).latB = (s.hw.core (leadOf ((pairsOf l).map Prod.fst) n true)).latB) ∧
      (s.hw.arg = .ecc core (.latch b row) → (k.latch b).fmt < 4 → ∃ t, exec .latchEccError s = .next t ∧ t.mem = s.mem ∧
        (SMap.get 0 ((t.hw.core core).latch b).scales row).toNat = 2 ^ (8 * latchScales (k.latch b).fmt) - 1) ∧
      (s.hw.arg = .ecc core (.entry tl row col) → ∃ t, exec .latchEccError s = .next t ∧ t.mem = s.mem ∧
        ((k.tile tl).f32 = true → (tile t tl).entry (32 * row + col) = 0x7FC00000) ∧
        ((k.tile tl).f32 = false → (tile t tl).isInv (32 * row + col) = true))
  ) ∧ (
    ∀ (s : State) (m : MCmd) (r : MReq) (p : Piece) (core txn row col v : Nat) (rnd : Rnd) (nsat : Bool),
      let k := s.hw.core core
      (s.hw.arg = .nats [core, txn, 4, 0] → k.running txn = some m →
        (m.op = .ald → k.arun = some m → m.denied = [] → (m.rows.map Prod.fst).Nodup → ∃ t, exec .matrixLoadExec s = .next t ∧ t.mem = s.mem ∧
          (t.hw.core core).latA.valid = true ∧ (t.hw.core core).latA.fmt = m.fmt ∧
          (∀ i, SMap.get 0 (t.hw.core core).latA.rows i = SMap.get 0 m.rows i) ∧
          (m.cq = true → s.hw.alive core m.slot m.uid = true → s.hw.isQuiet core m.slot m.txn = false →
            (⟨m.uid, BitVec.ofNat 64 (m.ident % 2 ^ 16 * 2 ^ 48 + 2 ^ 40)⟩ : Compl) ∈ (t.hw.core core).e2)) ∧
        (m.op = .mrd rnd nsat → k.trun = some m → ∃ t, exec .mrdExec s = .next t ∧ t.mem = s.mem ∧
          (m.cq = true → s.hw.alive core m.slot m.uid = true → s.hw.isQuiet core m.slot m.txn = false → m.denied = [] →
            (⟨m.uid, BitVec.ofNat 64 (m.ident % 2 ^ 16 * 2 ^ 48 + 5 * 2 ^ 40 + m.tile % 4 * 2 ^ 32)⟩ : Compl) ∈ (t.hw.core core).e2)) ∧
        (m.op = .mwr → m.fmt = 0 → row < 32 → col < 32 → m.gotEntry row col = some (v, false) → ∃ t, exec .mwrExec s = .next t ∧ t.mem = s.mem ∧
          ((t.hw.core core).tile m.tile).f32 = true ∧ ((t.hw.core core).tile m.tile).entry (32 * row + col) = BitVec.ofNat 128 (v % 2 ^ 32))) ∧
      (k.running txn = some m → m.inFlight r.row r.part = some r →
        (s.hw.arg = .nats [core, txn, 2, r.row, r.part] → m.op = .ald → r.pieces = [p] → ∃ t u z, exec .matrixLoadExec s = .next t ∧ t.mem = s.mem ∧
          (t.hw.core core).running txn = some u ∧ u.inFlight r.row r.part = some z ∧ z.performed = true ∧
          z.got.map (fun e => (e.bytes, e.poison)) = [(s.mem.readN p.key p.len, s.mem.isPoison p.key)]) ∧
        (let z := s.matTake m r
        s.hw.arg = .nats [core, txn, 3, r.row, r.part] → m.op = .ald → r.part = 0 → z.poison = none → z.den = [] → m.denied = [] → m.txn = txn →
          ∃ t u, exec .matrixLoadExec s = .next t ∧ t.mem = s.mem ∧ (t.hw.core core).running txn = some u ∧
            SMap.get 0 u.rows r.row = BitVec.ofNat 1024 (valLE z.data)) ∧
        (s.Inv → s.hw.arg = .nats [core, txn, 2, r.row, r.part] → m.op = .mrd rnd nsat → r.pieces = [p] → p.off = 0 → r.data.length = p.len →
          0 < p.len →
          p.key % 32 + p.len ≤ 32 → ∃ t, exec .mrdExec s = .next t ∧ t.mem.readN p.key p.len = r.data ∧ t.mem.tagOf p.key = m.acc.otag ∧
            (∀ j, j / 32 ≠ p.key / 32 → t.mem.read j = s.mem.read j)))
  )


/-! ### Pages and failed requests (07_page, 22_link) -/

/-- R171, R172, R177 to R181, R29, R455, R456: PGPROBE parks its context until the translation is known; TLBINV drops the entries that it names and
completes when what they translated is performed; a plain access to a page that is not resident parks with reason page, and BRS wakes or
denies it; a failed message gives status 3, and a failed plain access a RemoteFailure fault.
Where it says more than the rules it is the model's choice: log 12, 32, 33, 45, 112, 114. -/
def Obligations.PagesAndFailures : Prop :=
  ∀ (s : State) (c p : Cur) (sw : Bool) (k : TlbScope) (a b : GReg) (m : MemOp) (q : Acc) (o : Outst) (w : Owed) (e : TlbEntry) (l : List TlbEntry) (msg : Msg)
    (ad clu core slot txn module tenant va len pa cause r : Nat),
    let x := s.hw.curCtx c
    let sg := x.seg m.sg.toNat
    let g (i : Nat) : Nat := (s.hw.cgn c (b.toNat + i)).toNat
    let y := s.hw.ctx core slot
    let owes : Prop := (s.hw.core core).owed.find? (fun u => u.txn == txn) = some w ∧ w.hand = none ∧ 0 < w.reg ∧
      s.hw.alive core w.slot w.uid = true ∧
      ((s.hw.ctx core w.slot).st = .ready ∨ (s.hw.ctx core w.slot).st = .parked) ∧ (s.hw.ctx core w.slot).pend.any (fun u => u.ofTxn w.reg txn) = true
    (s.atHand c [m.idx.toNat] → x.booked = false → segCheck sg (s.hw.memOffset c m) 1 {} 1 = .ok ad →
      let acc := s.hw.mkAcc c (.probe a.toNat) false sg.virt ad 1 m.sg.toNat (s.hw.memOffset c m).toNat
      ∃ t, exec (.pgprobe sw a m) s = .next t ∧ t.mem = s.mem ∧ (t.hw.curCtx c).st = .parked ∧ (t.hw.curCtx c).park = some .memory ∧
        (a ≠ 0 → t.hw.isFull c.core c.slot a.toNat = false) ∧
        (sg.virt = false → (⟨s.hw.now + 4, .plainAccessReply, .accRes acc (.data 0x60 [])⟩ : Due) ∈ t.hw.agenda) ∧
        (sg.virt = true → tlbFind (s.hw.cluster (clusterOf c.core)).tlb acc.tenant ad = some (e, l) → x.service = false →
          ∃ v, (⟨s.hw.now + 4, .plainAccessReply, .accRes acc (.data v [])⟩ : Due) ∈ t.hw.agenda ∧ v / 2 ^ 15 = leafTag e.q1.toNat ∧
            v / 2 ^ 11 % 2 ^ 4 = leafSize e.q0.toNat ∧ v / 2 ^ 5 % 4 = 0 ∧ v % 8 = 1)) ∧
    (s.hw.arg = .acc q va → s.hw.findOut q.core q.txn = some o → o.acc.relaxed = false → o.acc.core = q.core →
      (o.acc.op = .probe r → (s.walk q.core o.acc.tenant va).leaf = none → ∃ t v, exec .tlbWalkComplete s = .next t ∧ t.mem = s.mem ∧
        (⟨s.hw.now + 4, .plainAccessReply, .accRes o.acc (.data v [])⟩ : Due) ∈ t.hw.agenda) ∧
      (∀ ld rs, o.acc.op = .load ld rs → (s.walk q.core o.acc.tenant va).leaf = none → s.hw.alive q.core o.acc.slot o.uid = true →
        ∃ t, exec .tlbWalkComplete s = .next t ∧ t.mem = s.mem ∧ (t.hw.ctx q.core o.acc.slot).park = some (.page va))) ∧
    (b.toNat + 2 < x.wsize → s.atHand c (regRun b.toNat 3) → g 0 < 64 → g 2 < 256 → ∃ t r, exec (.tlbinv sw k a b) s = .next t ∧ t.mem = s.mem ∧
      (a ≠ 0 → t.hw.isFull c.core c.slot a.toNat = false) ∧
      (⟨s.hw.now + 280, .tlbinvComplete, .nats (c.core :: s.hw.nextTxn :: r)⟩ : Due) ∈ t.hw.agenda ∧
      (tlbModule clu = moduleOf c.core → ∀ e ∈ (t.hw.cluster clu).tlb, k ≠ .every ∧ (k = .all → e.tenant ≠ g 0) ∧
        (k = .addr → e.covers (g 0) (g 2 * 2 ^ 64 + g 1) = false))) ∧
    (s.hw.arg = .nats [core, txn] → owes → ∃ t, exec .tlbinvComplete s = .next t ∧ t.mem = s.mem ∧ t.hw.g core w.slot w.reg = 0 ∧
      t.hw.isFull core w.slot w.reg = true) ∧
    (s.hw.arg = .nats [module, tenant, va, len] → s.hw.copiesHeld module tenant va len = [] → s.hw.matsHeld module tenant va len = [] →
      (s.hw.mod module).heldPages = [] → moduleOf core = module → (s.hw.tenantOf core).getD 0 = tenant → y.st = .parked → y.park = some (.page pa) →
      va ≤ pa → pa < va + len →
      (∃ t, exec .pageWakeRetry s = .next t ∧ (t.hw.ctx core slot).st = .ready) ∧
      (y.parkCur = some p → ∃ t, exec .pageWakeDeny s = .next t ∧ (t.hw.ctx core slot).st = .faulted ∧
        (t.hw.ctx core slot).fra.toNat % 2 ^ 16 = 2 * 2 ^ 8 + 8 ∧ (t.hw.ctx core slot).frb = BitVec.ofNat 64 pa)) ∧
    (∀ i ∈ [Instr.fabricTimeout, .remoteFailureReport],
      (s.hw.arg = .msg msg cause → msg.sender = core → msg.txn = txn → owes → ∃ t, exec i s = .next t ∧ t.mem = s.mem ∧ t.hw.g core w.slot w.reg = 3 ∧
        t.hw.isFull core w.slot w.reg = true) ∧
      (s.hw.arg = .acc q cause → s.hw.findOut q.core q.txn = some o → o.acc.core = q.core → o.acc.txn = q.txn → o.acc.relaxed = false → cause < 256 →
        (∀ ld rs, o.acc.op = .load ld rs → s.hw.alive q.core o.acc.slot o.uid = true → s.hw.isQuiet q.core o.acc.slot q.txn = false →
          (s.hw.ctx q.core o.acc.slot).fence = none →
          (s.hw.ctx q.core o.acc.slot).region = none → ∃ t, exec i s = .next t ∧ t.mem = s.mem ∧ (t.hw.ctx q.core o.acc.slot).st = .faulted ∧
            (t.hw.ctx q.core o.acc.slot).fra.toNat % 2 ^ 16 = cause * 2 ^ 8 + 0x0E)))

/-! ### The spill engine and core images (12_preempt, 04_context) -/

/-- R256 to R258, R248: each SPILL form sends its request, which arrives half its figure later; an ill-formed word is ReservedValue; at the
target a request is queued, refused for want of a save base or of queue room, or sets the save base; CKPT passes when no checkpoint is
pending, and reads its table when one is.
Where it says more than the rules it is the model's choice: log 16, 54. -/
def Obligations.SpillRequests : Prop :=
  ∀ (s : State) (c : Cur) (sw : Bool) (a b : GReg) (m : MemOp) (ad n core slot rc txn base : Nat),
    let x := s.hw.curCtx c
    let w := (s.hw.cg c b).toNat
    let target := w / 2 ^ 16
    let fig := if dieOf c.core = dieOf target then 60 else 140
    let b1 := (s.hw.cgn c (b.toNat + 1)).toNat
    let k := s.hw.core core
    let back := (if dieOf rc = dieOf core then 60 else 140) / 2
    let answered (t : State) (v : Nat) : Prop := (⟨s.hw.now - 1 + back, .spillComplete, .nats [1, rc, txn, v]⟩ : Due) ∈ t.hw.agenda
    let sent (i : Instr) (form base : Nat) : Prop := ∃ t, exec i s = .next t ∧ t.mem = s.mem ∧ (a ≠ 0 → t.hw.isFull c.core c.slot a.toNat = false) ∧
      (⟨s.hw.now + (fig / 2 + 1), .contextSpill, .nats [form, target, w / 2 ^ 8 % 64, c.core, s.hw.nextTxn, base]⟩ : Due) ∈ t.hw.agenda
    let good : Prop := w < 2 ^ 37 ∧ w / 2 ^ 14 % 4 = 0 ∧ w % 2 ^ 8 = 0 ∧ s.hw.routeFails c.core 0 true target fig = none
    let known : Prop := s.hw.coreDisabled core = false ∧ (s.hw.tenantOf rc = none ∨ s.hw.tenantOf rc = s.hw.tenantOf core)
    (s.atHand c (regs [b]) →
      (good → sent (.spill sw a b) 0 0 ∧ sent (.spillHold sw a b) 1 0 ∧ sent (.spillRel sw a b) 2 0 ∧ sent (.spillCkpt sw a b) 4 0) ∧
      ((2 ^ 37 ≤ w ∨ w / 2 ^ 14 % 4 ≠ 0 ∨ w % 2 ^ 8 ≠ 0) →
        ∀ i ∈ [Instr.spill sw a b, .spillHold sw a b, .spillRel sw a b, .spillBase sw a b, .spillCkpt sw a b],
          exec i s = .next (s.faultWith c .reservedValue 15 w))) ∧
    (s.atHand c [b.toNat, b.toNat + 1] → b.toNat + 1 < x.wsize → good → w / 2 ^ 8 % 64 = 0 →
      (b1 % 65536 = 0 → b1 + 0x420000 ≤ 0xBC00000 → sent (.spillBase sw a b) 3 b1) ∧
      ((b1 % 65536 ≠ 0 ∨ 0xBC00000 < b1 + 0x420000) → exec (.spillBase sw a b) s = .next (s.faultWith c .reservedValue 15 b1))) ∧
    (s.hw.arg = .nats [n, core, slot, rc, txn, base] → n < 5 →
      (n ≠ 3 → k.saveBase = none → ∃ t, exec .contextSpill s = .next t ∧ t.mem = s.mem ∧ answered t 3) ∧
      (known → k.saveBase.isSome = true → n < 2 → k.spillReqs.length < 4 → k.engine.isSome = true → ∃ t, exec .contextSpill s = .next t ∧
        t.mem = s.mem ∧ (t.hw.core core).spillReqs = k.spillReqs ++ [⟨slot, n == 1, rc, txn⟩]) ∧
      (known → k.saveBase.isSome = true → n < 2 → k.spillReqs.length = 4 → ∃ t, exec .contextSpill s = .next t ∧ t.mem = s.mem ∧ answered t 2 ∧
        t.hw.core core = k) ∧
      (known → n = 3 → (k.slots.all (fun (e : Nat × Ctx) => e.2.st == .free) = true → ∃ t, exec .contextSpill s = .next t ∧ t.mem = s.mem ∧
          answered t 0 ∧ (t.hw.core core).saveBase = some base) ∧
        ((∃ e ∈ k.slots, e.2.st ≠ .free) → ∃ t, exec .contextSpill s = .next t ∧ answered t 1 ∧ (t.hw.core core).saveBase = k.saveBase))) ∧
    (s.atHand c [m.idx.toNat] → segCheck (x.seg m.sg.toNat) (s.hw.memOffset c m) 8 { r := true } 8 = .ok ad →
      ((x.booked = true ∨ x.ckptMark = none) → exec (.ckpt sw m) s = .next (s.onHw (fun h => h.retire c sw 1))) ∧
      (x.booked = false → x.ckptMark.isSome = true → s.portFree c false .plain → ∃ t, exec (.ckpt sw m) s = .next t ∧ t.mem = s.mem ∧
        (t.hw.curCtx c).st = .parked ∧ (t.hw.curCtx c).park = some .memory))

/-- R248 to R254, R259, R86: a taken context is Spilled and its slot stays its own; its image holds its registers and frees the engine; a
restore places the window and, from the image, gives the context its registers and its state; the forward-progress rule and a checkpoint's
save spill; a status of SPILL is written into its result register; a Faulted context resumes at FRA.PCOFF.
Where it says more than the rules it is the model's choice: log 40, 50, 51, 52, 53. -/
def Obligations.SpillsAndRestores : Prop :=
  ∀ (s : State) (o : SpillOp) (u : Owed) (core slot rc txn i base : Nat) (rs : List (Nat × Nat)) (r : List (Nat × List (Nat × Nat))) (q : SpillReq)
    (l : List SpillReq) (v : Nat),
    let k := s.hw.core core
    let x := s.hw.ctx core slot
    let key := s.hw.imageKey core slot
    let head := s.mem.val key 8
    let unread : Bool := k.vjobs.any (fun j => j.uid == x.uid && (match j.op with | .sfu _ => true | _ => false) && j.sfuEnd == 0)
    let saves (t : State) : Prop := t.mem = s.mem ∧ (t.hw.ctx core slot).st = .spilled ∧ (t.hw.ctx core slot).uid = x.uid ∧
      (∃ p, (t.hw.core core).engine = some p ∧ p.slot = slot ∧ p.restore = false) ∧
      (unread = false → ∃ due, s.hw.now + 96 + 3 * (16 + x.wsize / 4) ≤ due ∧ (⟨due, .spillComplete, .nats [0, core, slot,
        x.uid]⟩ : Due) ∈ t.hw.agenda) ∧
      (unread = true → (⟨s.hw.now + 1, .spillComplete, .nats [2, core, slot, x.uid]⟩ : Due) ∈ t.hw.agenda)
    (s.hw.arg = .nats [core] → k.engine = none → k.spillReqs = q :: l → q.slot = slot → x.st = .ready → x.booked = false → x.gang = none →
      x.arrHeld = false → ∃ t, exec .contextSpill s = .next t ∧ saves t ∧ (t.hw.core core).spillReqs = l) ∧
    (s.hw.arg = .nats [core, slot] → k.engine = none → x.yieldsWindow = true → ∃ t, exec .forwardProgressSpill s = .next t ∧ saves t) ∧
    (s.hw.arg = .nats [core] → k.engine = none → k.ckpts = (slot, rs) :: r → x.st = .parked → x.ckptMark.isSome = true →
      ∃ t, exec .checkpointSave s = .next t ∧ saves t ∧ (t.hw.ctx core slot).ckptMark = none ∧
        ∃ p, (t.hw.core core).engine = some p ∧ p.hold = 2 ∧ p.trig = 2 ∧ p.ranges = rs) ∧
    (s.Inv → s.hw.arg = .nats [0, core, slot, x.uid] → k.engine = some o → o.slot = slot → o.uid = x.uid → o.restore = false → x.maskPend = [] →
      x.st = .spilled → o.ranges = [] → o.answer = some (rc, txn) → x.wsize ≤ 128 → ∃ t, exec .spillComplete s = .next t ∧
        (t.hw.core core).engine = none ∧ (t.hw.ctx core slot).imaged = true ∧
        (i < x.wsize → t.mem.val (key + 0x200 + 8 * i) 8 = (s.hw.g core slot i).toNat) ∧
        (⟨s.hw.now + (if dieOf rc = dieOf core then 60 else 140) / 2, .spillComplete, .nats [1, rc, txn, 0]⟩ : Due) ∈ t.hw.agenda) ∧
    (s.hw.arg = .nats [1, core, txn, v] → k.owed.find? (fun e => e.txn == txn) = some u → u.hand = none → 0 < u.reg →
      s.hw.alive core u.slot u.uid = true → ((s.hw.ctx core u.slot).st = .ready ∨ (s.hw.ctx core u.slot).st = .parked) →
      (s.hw.ctx core u.slot).pend.any (fun e => e.ofTxn u.reg txn) = true →
      ∃ t, exec .spillComplete s = .next t ∧ t.mem = s.mem ∧ t.hw.g core u.slot u.reg = BitVec.ofNat 64 v ∧
        t.hw.isFull core u.slot u.reg = true) ∧
    (∀ j ∈ [Instr.contextRestore, .checkpointRestore],
      s.hw.arg = .nats [core, slot] → k.engine = none → s.wantsRestore core slot = true →
        k.findWindow s.hw.now (s.imageWindow core slot) = some base → x.noGrant = false →
        (badControl head = false → ∃ t p, exec j s = .next t ∧ t.mem = s.mem ∧ (t.hw.core core).engine = some p ∧ p.slot = slot ∧ p.restore = true ∧
          (t.hw.ctx core slot).wbase = base ∧ (t.hw.ctx core slot).wsize = 8 * (head / 2 ^ 49 % 16 + 1) ∧
          (k.saved = [] → (⟨s.hw.now + 96 + 3 * (16 + 8 * (head / 2 ^ 49 % 16 + 1) / 4), .restoreComplete, .nats [core, slot, x.uid]⟩ : Due) ∈
            t.hw.agenda)) ∧
        (badControl head = true → ∃ t, exec j s = .next t ∧ t.mem = s.mem ∧ (t.hw.ctx core slot).st = .faulted ∧
          (t.hw.ctx core slot).fra.toNat % 2 ^ 16 = 16 * 2 ^ 8 + 0x09)) ∧
    (s.hw.arg = .nats [core, slot, x.uid] → k.engine = some o → o.slot = slot → o.uid = x.uid → o.restore = true → x.st = .spilled →
      o.ranges = [] → k.ovf = [] → ∃ t, exec .restoreComplete s = .next t ∧ t.mem = s.mem ∧ (t.hw.core core).engine = none ∧
        (t.hw.ctx core slot).pc = head / 2 ^ 17 % 2 ^ 17 ∧ (t.hw.ctx core slot).entry = head / 2 ^ 34 % 2 ^ 6 ∧
        (t.hw.ctx core slot).ts = BitVec.ofNat 64 (s.mem.val (key + 0x170) 8) ∧
        (0 < i → i < x.wsize → t.hw.g core slot i = BitVec.ofNat 64 (s.mem.val (key + 0x200 + 8 * i) 8) ∧
          t.hw.isFull core slot i = (s.mem.val (key + 0x10) 16).testBit i) ∧
        (head / 2 ^ 60 % 16 = 3 → (t.hw.ctx core slot).st = .faulted) ∧
        (head / 2 ^ 60 % 16 ≠ 3 → (t.hw.ctx core slot).st = if head / 2 ^ 53 % 2 = 1 ∨ head / 2 ^ 60 % 16 = 1 then .ready else .parked)) ∧
    (s.hw.arg = .nats [core, slot] → x.st = .faulted → ∃ t, exec .brsResume s = .next t ∧ t.mem = s.mem ∧ (t.hw.ctx core slot).st = .ready ∧
      (x.imaged = false → (t.hw.ctx core slot).fra = x.fra ∧ (t.hw.ctx core slot).frb = x.frb ∧
        (x.fra.toNat % 2 ^ 8 ≠ 0x12 → (t.hw.ctx core slot).pc = x.fra.toNat / 2 ^ 39 % 2 ^ 17) ∧
        (∀ n, t.hw.g core slot n = s.hw.g core slot n)))

/-- R261, R262: CSAVE and CLOAD send their request, and an operand that breaks the rule is ReservedValue; a target that may not be saved or
loaded answers 1; an image of a core holds its scratchpad's bytes, and loading an image puts them back.
Where it says more than the rules it is the model's choice: log 21. -/
def Obligations.CoreImages : Prop :=
  ∀ (s : State) (c : Cur) (sw : Bool) (a b : GReg) (core rc txn load pa j : Nat),
    let w := (s.hw.cg c b).toNat
    let b1 := (s.hw.cgn c (b.toNat + 1)).toNat
    let fig := if dieOf c.core = dieOf w then 60 else 140
    let back := (if dieOf rc = dieOf core then 60 else 140) / 2
    let known : Prop := s.hw.coreDisabled core = false ∧ (s.hw.tenantOf rc = none ∨ s.hw.tenantOf rc = s.hw.tenantOf core)
    (b.toNat + 1 < (s.hw.curCtx c).wsize → s.atHand c [b.toNat, b.toNat + 1] →
      (w < 2 ^ 21 → b1 % 65536 = 0 → b1 < 2 ^ 49 → b1 % 2 ^ 28 + 0xC5000 ≤ 0xC000000 → s.hw.routeFails c.core 0 true w fig = none →
        ∀ p ∈ [(Instr.csave sw a b, 0), (.cload sw a b, 1)], ∃ t, exec p.1 s = .next t ∧ t.mem = s.mem ∧
          (a ≠ 0 → t.hw.isFull c.core c.slot a.toNat = false) ∧
          (⟨s.hw.now + (fig / 2 + 1), .coreImageComplete, .nats [0, p.2, w, b1, c.core, s.hw.nextTxn]⟩ : Due) ∈ t.hw.agenda) ∧
      (∀ i ∈ [Instr.csave sw a b, .cload sw a b],
        (2 ^ 21 ≤ w → exec i s = .next (s.faultWith c .reservedValue 15 0)) ∧
        (w < 2 ^ 21 → (b1 % 65536 ≠ 0 ∨ 2 ^ 49 ≤ b1 ∨ 0xC000000 < b1 % 2 ^ 28 + 0xC5000) → exec i s = .next (s.faultWith c .reservedValue 15 0)))) ∧
    (s.hw.arg = .nats [0, load, core, pa, rc, txn] →
      (known → (if load = 1 then s.mayCload core else s.mayCsave core) = true → ∃ t, exec .coreImageComplete s = .next t ∧ t.mem = s.mem ∧
        (t.hw.core core).imaging = true ∧ (pa / 2 ^ 28 = core →
          (⟨s.hw.now + 75744, .coreImageComplete, .nats [1, load, core, pa, rc, txn]⟩ : Due) ∈ t.hw.agenda)) ∧
      (known → (if load = 1 then s.mayCload core else s.mayCsave core) = false → ∃ t, exec .coreImageComplete s = .next t ∧ t.mem = s.mem ∧
        t.hw.core core = s.hw.core core ∧ (⟨s.hw.now - 1 + back, .spillComplete, .nats [1, rc, txn, 1]⟩ : Due) ∈ t.hw.agenda)) ∧
    (s.Inv → s.hw.arg = .nats [1, load, core, pa, rc, txn] → core < 2 ^ 21 → pa < 2 ^ 49 → load < 2 → ∃ t, exec .coreImageComplete s = .next t ∧
      (t.hw.core core).imaging = false ∧ (⟨s.hw.now - 1 + back, .spillComplete, .nats [1, rc, txn, 0]⟩ : Due) ∈ t.hw.agenda ∧
      (j < 0x90000 → load = 0 → t.mem.read (dramKeyOf pa + j) = s.mem.read (scratchKey core j) ∧
        t.mem.read (scratchKey core j) = s.mem.read (scratchKey core j)) ∧
      (j < 0x90000 → load = 1 → t.mem.read (scratchKey core j) = s.mem.read (dramKeyOf pa + j)))

/-! ### Tasks (11_queue) -/

/-- R232 to R235, R238 to R241: FORK, JOIN, the dependence forms and ENQ check their operands and make one access each, STEAL sends its request,
and TASKID reads the identity of the task; a booked context and a paired half are refused.
Where it says more than the rules it is the model's choice: log 45, 55. -/
def Obligations.TaskChains : Prop :=
  ∀ (s : State) (c : Cur) (sw rx : Bool) (a d b : GReg) (m : MemOp) (l : EnqLevel) (ad : Nat),
    let x := s.hw.curCtx c
    let sg := x.seg m.sg.toNat
    let o := s.hw.memOffset c m
    let acc (f : AccOp) (rx : Bool) (n : Nat) : Acc := s.hw.mkAcc c f rx false ad n m.sg.toNat o.toNat
    let w := (s.hw.cg c d).toNat
    let imports := (s.hw.entry (clusterOf c.core) x.entry).imports
    let go (i : Instr) (f : AccOp) (rx : Bool) (n : Nat) : Prop := exec i s = .next (s.access c sw (acc f rx n))
    (x.booked = false → s.portFree c false .plain → sg.virt = false →
      (s.atHand c [m.idx.toNat] →
        (segCheck sg o 8 { r := true } 8 = .ok ad → go (.join sw a m) (.join a.toNat) false 8) ∧
        (x.tsBit tsPAIRED = false → segCheck sg o 160 { r := true, w := true } 32 = .ok ad → go (.depnew sw a m) (.depnew a.toNat) false 8) ∧
        (segCheck sg o 8 { r := true, w := true } 32 = .ok ad → s.portFree c rx .a → go (.signal sw rx a m) (.signal a.toNat) rx 8) ∧
        (x.tsBit tsPAIRED = false → segCheck sg o 128 { r := true } 128 = .ok ad → go (.enq sw l a m) (.enq a.toNat l) false 128)) ∧
      (s.atHand c [m.idx.toNat, a.toNat] → segCheck sg o 8 { r := true, w := true } 32 = .ok ad →
        ((s.hw.cg c a).toNat < 2 ^ 32 → go (.deppub sw a m) (.deppub a.toNat (s.hw.cg c a).toNat) false 8) ∧
        (2 ^ 32 ≤ (s.hw.cg c a).toNat → exec (.deppub sw a m) s = .next (s.faultWith c .reservedValue 12 0)))) ∧
    (x.booked = false → x.tsBit tsPAIRED = false → s.portFree c false .plain → s.atHand c (d.toNat :: regRun b.toNat 4) →
      ((2 ^ 40 ≤ w ∨ w / 2 ^ 16 % 16 ≠ 0 ∨ w % 16 ≠ 0 ∨ imports.length ≤ w / 2 ^ 8 % 256) →
        exec (.fork sw a d b) s = .next (s.faultWith c .reservedValue 12 w)) ∧
      (w < 2 ^ 40 → w / 2 ^ 16 % 16 = 0 → w % 16 = 0 → w / 2 ^ 8 % 256 < imports.length → b.toNat + 3 < x.wsize →
        let e (ja : Nat) : BitVec 768 := s.hw.forkEntry c (imports.getD (w / 2 ^ 8 % 256) 0) ((regRun b.toNat 4).map (s.hw.cgn c)) (w / 16 % 16) ja
        (w / 2 ^ 20 = 0 → exec (.fork sw a d b) s =
          .next (s.access c sw (s.hw.mkAcc c (.fork a.toNat (e 0)) false false (scratchKey c.core 0) 0 0 0))) ∧
        (w / 2 ^ 20 ≠ 0 → (x.seg 0).virt = false → segCheck (x.seg 0) (w / 2 ^ 20 : Nat) 8 { r := true, w := true } 8 = .ok ad →
          exec (.fork sw a d b) s = .next (s.access c sw (s.hw.mkAcc c (.fork a.toNat (e ad)) false false ad 8 0 (w / 2 ^ 20)))))) ∧
    (s.atHand c (regs [b]) → x.booked = false → x.tsBit tsPAIRED = false →
      let v := (s.hw.cg c b).toNat
      let lat := s.hw.scratchLatency c.core v
      (v < 2 ^ 21 → s.hw.routeFails c.core ((s.hw.tenantOf c.core).getD 0) x.service v lat = none → ∃ t, exec (.steal sw a b) s = .next t ∧
        t.mem = s.mem ∧ (a ≠ 0 → t.hw.isFull c.core c.slot a.toNat = false) ∧
        (⟨s.hw.now + lat / 2, .stealRequest, .stolen [c.core, v, 1, x.steald.toNat, s.hw.nextTxn, s.hw.now + 2 * lat + 8, 0] none⟩ : Due) ∈
          t.hw.agenda) ∧
      (2 ^ 21 ≤ v → exec (.steal sw a b) s = .next (s.faultWith c .reservedValue 0 v))) ∧
    (s.hw.cur = some c →
      (x.booked = true → ∀ i ∈ [Instr.fork sw a d b, .join sw a m, .depnew sw a m, .deppub sw a m, .signal sw rx a m, .enq sw l a m, .steal sw a b],
        exec i s = .next (s.faultWith c .calendarViolation 4 0)) ∧
      (x.booked = false → x.tsBit tsPAIRED = true → ∀ i ∈ [Instr.fork sw a d b, .depnew sw a m, .enq sw l a m, .steal sw a b],
        exec i s = .next (s.faultWith c .reservedValue 13 0)) ∧
      exec (.taskid sw .tid a) s = .next (s.result c sw a (BitVec.ofNat 64 x.task.tid) 2) ∧
      exec (.taskid sw .join a) s = .next (s.result c sw a (BitVec.ofNat 64 x.task.joina) 2) ∧
      exec (.taskid sw .info a) s = .next (s.result c sw a (BitVec.ofNat 64
        (x.task.origin + 4 * (if x.tsBit tsPAIRED then 1 else 0) + 8 * (x.task.run % 2))) 2))

/-- R234, R235, R239: at the bank FORK pushes its entry at the owner end and counts its join word up, or answers 1 or 2; a dependence form
writes its cell and answers the old word, and the write that makes a bound, published count 0 clears BOUND and releases the record; a JOIN on 0
answers at once.
Where it says more than the rules it is the model's choice: log 56, 57. -/
def Obligations.TaskAccesses : Prop :=
  ∀ (s : State) (a : Acc) (p : Piece) (e : BitVec 768) (due r n : Nat),
    s.Inv → s.hw.arg = .acc a due → (∀ o, s.hw.findOut a.core a.txn = some o → { o.acc with group := a.group, gword := a.gword, pieces :=
      a.pieces } = a) → a.pieces = [p] →
    keyCore p.key = a.core → s.kRefused a = none → s.mem.isPoison p.key = false → (s.hw.ctx a.core a.slot).st ≠ .spilled →
    let k := s.hw.core a.core
    let old := s.mem.val p.key 8
    let bound := s.mem.val (p.key + 8) 8
    let answers (t : State) (v : Nat) : Prop := (⟨max due s.hw.now, Acc.replyStep a, .accRes a (.data v [])⟩ : Due) ∈ t.hw.agenda
    let outside (t : State) (len : Nat) : Prop := ∀ j, j < p.key ∨ p.key + len ≤ j → t.mem.read j = s.mem.read j
    (a.op = .fork r e → p.len = 8 → a.size = 8 → a.addr = p.key → p.key % 8 = 0 → k.deque.next ≤ s.hw.now →
      (k.deqCap = 0 → ∃ t, exec .remoteAccessAtBank s = .next t ∧ t.mem = s.mem ∧ answers t 2) ∧
      (0 < k.deqCap → k.deqCap ≤ k.deque.owner - k.deque.thief → ∃ t, exec .remoteAccessAtBank s = .next t ∧ t.mem = s.mem ∧ answers t 1) ∧
      (k.deque.owner - k.deque.thief < k.deqCap → s.granted a p = true → (p.key + 8 ≤ s.hw.deqKey a.core k.deque.owner ∨
        s.hw.deqKey a.core k.deque.owner + 96 ≤ p.key) →
        k.deqb % 32 = 0 → (p.key / 32 < s.hw.deqKey a.core k.deque.owner / 32 ∨ s.hw.deqKey a.core k.deque.owner / 32 + 3 ≤ p.key / 32) →
        ∃ t, exec .remoteAccessAtBank s = .next t ∧ answers t 0 ∧ (t.hw.core a.core).deque.owner = k.deque.owner + 1 ∧
          t.mem.val p.key 8 = (old + 1) % 2 ^ 64 ∧
          t.mem.val (s.hw.deqKey a.core k.deque.owner) 64 = e.toNat % 2 ^ 512)) ∧
    (p.len = 8 → p.key % 32 = 0 → s.granted a p = true →
      (a.op = .join r → old = 0 → ∃ t, exec .remoteAccessAtBank s = .next t ∧ t.mem = s.mem ∧ answers t 0) ∧
      (a.op = .signal r → let v := old / 2 ^ 63 * 2 ^ 63 + (old % 2 ^ 63 + 2 ^ 63 - 1) % 2 ^ 63
        let rel : Prop := bound % 2 = 1 ∧ v = 2 ^ 63
        ∃ t, exec .remoteAccessAtBank s = .next t ∧ answers t old ∧ t.mem.val p.key 8 = v ∧ outside t 16 ∧
          (rel → t.mem.val (p.key + 8) 8 = bound - 1 ∧ (⟨s.hw.now + 9, .cellReleaseInsert, .nats [p.key]⟩ : Due) ∈ t.hw.agenda) ∧
          (¬ rel → t.mem.val (p.key + 8) 8 = bound)) ∧
      (a.op = .deppub r n → let v := 2 ^ 63 + (old % 2 ^ 63 + n) % 2 ^ 63
        (bound % 2 = 1 → old < 2 ^ 63 → ∃ t, exec .remoteAccessAtBank s = .next t ∧ answers t old ∧ t.mem.val p.key 8 = v ∧ outside t 16 ∧
          (v = 2 ^ 63 → t.mem.val (p.key + 8) 8 = bound - 1 ∧ (⟨s.hw.now + 9, .cellReleaseInsert, .nats [p.key]⟩ : Due) ∈ t.hw.agenda)) ∧
        ((bound % 2 = 0 ∨ 2 ^ 63 ≤ old) → ∃ t, exec .remoteAccessAtBank s = .next t ∧ answers t old ∧ t.mem = s.mem)) ∧
      (a.op = .depnew r → a.addr = p.key → let ps := piecesOf (a.addr + 32) 128
        let q := s.readPieces { a with addr := a.addr + 32, pieces := ps } ps
        let rec_ : BitVec 1024 := BitVec.ofNat 1024 (valLE q.bytes)
        q.poison = false →
        (recInvalid rec_ = false → recPaired rec_ = false → s.hw.pinHeld a.tenant rec_ = true → ∃ t, exec .remoteAccessAtBank s = .next t ∧
          answers t a.addr ∧ t.mem.val p.key 8 = 0 ∧ t.mem.val (p.key + 8) 8 = 1 ∧ t.mem.val (p.key + 16) 16 = 0 ∧ outside t 32) ∧
        (recInvalid rec_ = true → ∃ t, exec .remoteAccessAtBank s = .next t ∧ t.mem = s.mem ∧
          (⟨max due s.hw.now, Acc.replyStep a, .accRes a (.fail .reservedValue 12 a.addr)⟩ : Due) ∈ t.hw.agenda)))

/-- R225, R226, R239: a core's and a cluster's peck hand out the first entries of the level above and they arrive 20 and 156 cycles later, into
the queue of the level; an enlarged die queue has more room; a released record enters the core queue, and an invalid one is reported.

R224, R228, R231, R236, R237, R241: the dispatcher starts the task at the head of its core queue; a victim yields its thief-end entry
to a thief that STEALD covers, and the entry reaches it; a task that retires counts its join word down and signals its cells; halves with equal
signatures retire, and unequal ones are reported.
Where it says more than the rules it is the model's choice: log 57, 59, 60, 61, 116. -/
def Obligations.TaskCourses : Prop :=
  (
    ∀ (s : State) (core clu die tenant cell : Nat) (e : QEntry) (b : CellBind),
      let k := s.hw.core core
      let c := s.hw.cluster clu
      let q := s.hw.dieQueue die tenant
      let upper := inOrder (c.queue.filter (fun e => e.forCore core))
      (s.hw.arg = .nats [core] → clusterOf core = clu →
        (upper = [] → ∃ t, exec .corePeckRequest s = .next t ∧ t.mem = s.mem ∧ (t.hw.core core).peckOut = false ∧ t.hw.agenda = s.hw.agenda) ∧
        (upper ≠ [] → ∃ t, exec .corePeckRequest s = .next t ∧ t.mem = s.mem ∧
          (⟨s.hw.now + 20, .corePeckArrival, .recs [core, 0] ((upper.take 8).map QEntry.pack)⟩ : Due) ∈ t.hw.agenda)) ∧
      (s.hw.arg = .recs [core, 0] [e.pack] → k.queue.length < 16 → ∃ t f, exec .corePeckArrival s = .next t ∧ t.mem = s.mem ∧
        (t.hw.core core).queue = k.queue ++ [f] ∧ f.rec_ = e.rec_ ∧ f.order = e.order ∧
        (⟨s.hw.now, .dispatcherStart, .nats [core]⟩ : Due) ∈ t.hw.agenda) ∧
      (s.hw.arg = .nats [clu] → c.owner = some tenant → clu / 64 = die → (∀ f ∈ q.entries, recPaired f.rec_ = false) →
        let first := (inOrder (q.entries.filter (fun f => f.forCluster clu))).take 8
        (first = [] → ∃ t, exec .clusterPeckRequest s = .next t ∧ t.mem = s.mem ∧ (t.hw.cluster clu).peckOut = false) ∧
        (first ≠ [] → ∃ t, exec .clusterPeckRequest s = .next t ∧ t.mem = s.mem ∧
          (⟨s.hw.now + 156, .clusterPeckArrival, .recs [clu, 0] (first.map QEntry.pack)⟩ : Due) ∈ t.hw.agenda)) ∧
      (s.hw.arg = .recs [clu, 0] [e.pack] → c.queue.length < 128 → ∃ t f, exec .clusterPeckArrival s = .next t ∧ t.mem = s.mem ∧
        (t.hw.cluster clu).queue = c.queue ++ [f] ∧ f.rec_ = e.rec_ ∧ f.order = e.order) ∧
      (s.hw.arg = .nats [die, tenant] → q.held = [] → ∃ t, exec .dieQueueEnlarge s = .next t ∧ t.mem = s.mem ∧
        (t.hw.dieQueue die tenant).cap = q.cap + q.setup ∧ (t.hw.dieQueue die tenant).entries = q.entries) ∧
      (s.hw.arg = .nats [cell] → SMap.find? s.hw.cells cell = some b → b.svc = true → keyCore cell = core →
        let r : BitVec 1024 := recPut (BitVec.ofNat 1024 (s.mem.val (cell + 32) 128)) 8 0 64 b.tid
        (recInvalid r = false → recPaired r = false → recPin r = false → k.queue.length < 16 → ∃ t f, exec .cellReleaseInsert s = .next t ∧
          t.mem = s.mem ∧ (t.hw.core core).queue = k.queue ++ [f] ∧ f.rec_ = r) ∧
        (recInvalid r = true → k.e4.length < 16 → k.e4Lost = false → ∃ t, exec .cellReleaseInsert s = .next t ∧ t.mem = s.mem ∧
          (t.hw.core core).queue = k.queue ∧
          (t.hw.core core).e4 = k.e4 ++ [eventRecord (s.hw.count core) core 0 (Cause.code .reservedValue) 1 kindOrphan 0 cell]))
  ) ∧ (
    ∀ (s : State) (core slot base thief turn txn st : Nat) (e : QEntry) (f : BitVec 768) (u : Owed) (j o : RetireJob),
      let k := s.hw.core core
      let lat := s.hw.scratchLatency thief core
      (s.Inv → s.hw.arg = .nats [core] → k.nextStart ≤ s.hw.now → s.hw.coreDisabled core = false → s.hw.isClearing (clusterOf core) = false →
        k.imaging = false → s.restorePending core = false → k.queue = [e] → e.requeue = none → e.half = none → k.deqEmpty = true →
        s.hw.room core e.rec_ = some (slot, base) → ∃ t, exec .dispatcherStart s = .next t ∧ (t.hw.core core).queue = [] ∧
          (t.hw.ctx core slot).st = .starting ∧ (t.hw.ctx core slot).wbase = base ∧ (t.hw.ctx core slot).wsize = recWindow e.rec_ ∧
          (t.hw.ctx core slot).otag = BitVec.ofNat 12 (recOtag e.rec_) ∧ (t.hw.ctx core slot).prin = BitVec.ofNat 32 (recPrin e.rec_) ∧
          (t.hw.ctx core slot).task.tid = recTid e.rec_ ∧ (t.hw.ctx core slot).taskr = BitVec.ofNat 20 (0x8E000 + 128 * slot) ∧
          (∀ i, i < 4 → t.hw.g core slot (i + 1) = BitVec.ofNat 64 (recQuad e.rec_ (4 + i))) ∧
          t.mem.readN (scratchKey core (0x8E000 + 128 * slot)) 128 = bytesLE 128 e.rec_.toNat ∧ (t.hw.core core).nextStart = s.hw.now + 8 ∧
          (⟨s.hw.now + 8, .taskReady, .nats [core, slot, (t.hw.ctx core slot).uid]⟩ : Due) ∈ t.hw.agenda) ∧
      (s.hw.arg = .stolen [thief, core, 0, 0] none → s.hw.now < k.deque.next → ∃ t, exec .stealRequest s = .next t ∧ t.mem = s.mem ∧
        (t.hw.core core).deque = { k.deque with next := k.deque.next + 1 } ∧
        (⟨k.deque.next, .stealRequest, .stolen [thief, core, 0, 1] none⟩ : Due) ∈ t.hw.agenda) ∧
      (s.hw.arg = .stolen [thief, core, 0, turn] none → (turn = 1 ∨ k.deque.next ≤ s.hw.now) → s.hw.coreDisabled core = false →
        s.hw.tenantOf core = s.hw.tenantOf thief →
        (k.deqEmpty = true → ∃ t, exec .stealRequest s = .next t ∧ t.mem = s.mem ∧
          (⟨s.hw.now + (lat - lat / 2), .stealReply, .stolen [thief, core, 0] none⟩ : Due) ∈ t.hw.agenda) ∧
        (k.deqEmpty = false → let g := s.deqEntry core k.deque.thief
          domainCovers (bits (entQuad g 9) 16 15) (bits (entQuad g 11) 20 0) thief = true → ∃ t, exec .stealRequest s = .next t ∧ t.mem = s.mem ∧
            (t.hw.core core).deque = { k.deque with thief := k.deque.thief + 1, next := if turn = 1 then k.deque.next else s.hw.now + 1 } ∧
            (⟨s.hw.now + (lat - lat / 2), .stealReply, .stolen [thief, core, 0] (some g)⟩ : Due) ∈ t.hw.agenda)) ∧
      (s.hw.arg = .stolen [core, thief, 0] (some f) → ∃ t, exec .stealReply s = .next t ∧ t.mem = s.mem ∧ (t.hw.core core).walk.entry = some f ∧
        (⟨s.hw.now, .dispatcherStart, .nats [core]⟩ : Due) ∈ t.hw.agenda) ∧
      (s.hw.arg = .nats [core, txn, st] → k.owed.find? (fun e => e.txn == txn) = some u → u.hand = none → 0 < u.reg →
        s.hw.alive core u.slot u.uid = true → ((s.hw.ctx core u.slot).st = .ready ∨ (s.hw.ctx core u.slot).st = .parked) →
        (s.hw.ctx core u.slot).pend.any (fun e => e.ofTxn u.reg txn) = true →
        ∃ t, exec .stealReply s = .next t ∧ t.mem = s.mem ∧ t.hw.g core u.slot u.reg = BitVec.ofNat 64 st ∧ t.hw.isFull core u.slot u.reg = true) ∧
      (s.hw.arg = .nats [core] → k.walk.until_ ≤ s.hw.now → ∃ t, exec .stealWalkWaitExpiry s = .next t ∧ t.mem = s.mem ∧
        t.hw.core core = { k with walk := { k.walk with until_ := 0 } }) ∧
      (s.Inv → s.hw.arg = .retire j → j.paired = false →
        (j.joina ≠ 0 → s.retireReach j j.joina 1 8 = true → j.joina % 8 = 0 → ∃ t, exec .taskRetire s = .next t ∧
          t.mem.val j.joina 8 = (s.mem.val j.joina 8 + 2 ^ 64 - 1) % 2 ^ 64 ∧
          (∀ n, n < j.joina ∨ j.joina + 8 ≤ n → t.mem.read n = s.mem.read n)) ∧
        (j.joina = 0 → 0 < j.succn → s.retireReach j j.slist 8 8 = true → let cell := s.mem.val j.slist 8 % 2 ^ 41
          s.retireReach j cell 32 32 = true → let w := s.mem.val cell 8
          ∃ t, exec .taskRetire s = .next t ∧ t.mem.val cell 8 = w / 2 ^ 63 * 2 ^ 63 + (w % 2 ^ 63 + 2 ^ 63 - 1) % 2 ^ 63)) ∧
      (s.hw.arg = .retire j → (s.hw.mod (moduleOf j.core)).halves = [o] → o.tid = j.tid → o.tenant = j.tenant → o.half ≠ j.half → o.run = j.run →
        (o.sig = j.sig → ∃ t, exec .pairedCompare s = .next t ∧ t.mem = s.mem ∧ (t.hw.mod (moduleOf j.core)).halves = [] ∧
          (⟨s.hw.now, .taskRetire, .retire { j with paired := false }⟩ : Due) ∈ t.hw.agenda) ∧
        (o.sig ≠ j.sig → j.run ≠ 0 → j.half = 1 → (s.hw.core j.core).e4.length < 16 → (s.hw.core j.core).e4Lost = false → ∃ t,
          exec .pairedCompare s = .next t ∧ t.mem = s.mem ∧ t.hw.agenda = s.hw.agenda ∧ (t.hw.core j.core).e4 = (s.hw.core j.core).e4 ++
            [eventRecord (s.hw.count j.core) j.core j.slot 2 0 kindPaired o.sig.toNat j.sig.toNat]))
  )


/-! ### The calendar (15_calendar) -/

/-- R306, R308, R323, R325 to R327: BOOK without a block sends its request, which is decided 17 cycles later, and a descriptor that breaks the
rules is ReservedValue; BKQ reads a status word; `.wt` waits in Booked-waiting, or reads the word of a booking that has ended; BKCAN cancels or
answers 1; BKEND ends a booked context's part; a booked context may not use the others.
Where it says more than the rules it is the model's choice: log 62, 67, 105. -/
def Obligations.CalendarChains : Prop :=
  ∀ (s : State) (c : Cur) (sw : Bool) (a b : GReg) (k : Booking),
    let x := s.hw.curCtx c
    let clu := clusterOf c.core
    let q (i : Nat) : Nat := (s.hw.cgn c (b.toNat + i)).toNat
    let n := q 0 % 2 ^ 16
    let sorted : Prop := ((s.hw.cluster clu).bookings.map (fun (e : Nat × Booking) => e.1)).Pairwise (fun i j => i < j)
    (s.atHand c (regRun b.toNat 3) → b.toNat + 2 < x.wsize → x.booked = false → q 2 = 0 →
      (q 0 / 2 ^ 16 % 32 = 0 → q 1 < 2 ^ 9 → 0 < q 0 / 2 ^ 52 % 2 ^ 12 → n = 2 ^ (c.core % 16) → ∃ t r, exec (.book sw a b) s = .next t ∧
        t.mem = s.mem ∧ (t.hw.curCtx c).st = .parked ∧ (t.hw.curCtx c).park = some .memory ∧
        (a ≠ 0 → t.hw.isFull c.core c.slot a.toNat = false) ∧
        (t.hw.cluster clu).bookReqs = (s.hw.cluster clu).bookReqs ++ [r] ∧ r.core = c.core ∧ r.slot = c.slot ∧ r.reg = a.toNat ∧ r.q0 = q 0 ∧
        r.q1 = q 1 ∧ r.due = s.hw.now + 17 ∧ (⟨s.hw.now + 17, .bookingDecision, .nats [clu]⟩ : Due) ∈ t.hw.agenda) ∧
      ((q 0 / 2 ^ 16 % 32 ≠ 0 ∨ q 1 / 2 ^ 10 ≠ 0 ∨ q 0 / 2 ^ 52 % 2 ^ 12 = 0 ∨ n = 0) →
        exec (.book sw a b) s = .next (s.faultWith c .reservedValue 22 0))) ∧
    (s.atHand c (regs [b]) →
      (s.hw.booking clu n = none → exec (.bkq sw a b) s = .next (s.result c sw a (BitVec.allOnes 64) 8)) ∧
      (s.hw.booking clu n = some k → k.num < 2 ^ 16 → ∃ v, exec (.bkq sw a b) s = .next (s.result c sw a v 8) ∧ v.toNat % 2 ^ 16 = k.num ∧
        v.toNat / 2 ^ 16 % 2 ^ 32 = k.s % 2 ^ 32 ∧ v.toNat / 2 ^ 48 % 16 = k.ext % 16 ∧ v.getLsbD 59 = k.slip ∧ v.getLsbD 60 = k.flt ∧
        v.toNat / 2 ^ 61 = (match k.state with | .booked => 1 | .staging => 2 | .running => 3 | .finished => 4 | .overrun => 5 | .cancelled => 7)) ∧
      (x.booked = false →
        (s.hw.booking clu n = none → exec (.bkqWt sw a b) s = .next (s.faultWith c .reservedValue 23 0) ∧
          exec (.bkcan sw a b) s = .next (s.result c sw a 1 8)) ∧
        (s.hw.booking clu n = some k →
          (k.self_ = true → k.core = c.core → k.slot = c.slot → k.uid = x.uid →
            ((k.state = .booked ∨ k.state = .staging) → ∃ t, exec (.bkqWt sw a b) s = .next t ∧ t.mem = s.mem ∧ (t.hw.curCtx c).st = .booked ∧
              (a ≠ 0 → t.hw.isFull c.core c.slot a.toNat = false)) ∧
            (k.state ≠ .booked → k.state ≠ .staging → exec (.bkqWt sw a b) s = .next (s.result c sw a k.status 8))) ∧
          (k.state ≠ .booked → k.state ≠ .staging → exec (.bkcan sw a b) s = .next (s.result c sw a 1 8)) ∧
          ((k.state = .booked ∨ k.state = .staging) → k.self_ = true → k.wt = none → k.num = n → sorted → ∃ t, exec (.bkcan sw a b) s = .next t ∧
            t.mem = s.mem ∧ (a ≠ 0 → Pend.fixed a.toNat (s.hw.now + 8) 0 ∈ (t.hw.curCtx c).pend) ∧
            (∀ r, t.hw.booking clu n = some r → r.state = .cancelled))))) ∧
    (s.hw.cur = some c →
      (x.booked = true → (b.toNat + 2 < x.wsize → exec (.book sw a b) s = .next (s.faultWith c .calendarViolation 4 0)) ∧
        (∀ i ∈ [Instr.bkqWt sw a b, .bkcan sw a b], exec i s = .next (s.faultWith c .calendarViolation 4 0)) ∧
        ∃ t, exec (.bkend sw) s = .next t ∧ t.mem = s.mem ∧ t.hw.bookEnds = s.hw.bookEnds ++ [(c.core, x.bookid.toNat, 0)] ∧
          (t.hw.curCtx c).notBefore = s.hw.now + 1) ∧
      (x.booked = false → exec (.bkend sw) s = .next (s.faultWith c .reservedValue 24 0)))

/-- R309 to R314, R318, R319, R323, R324: a request that fits is Booked at its start grain, and its word comes 15 cycles after the decision;
staging begins and is tried again each grain; a booking whose steps are done runs and its context is booked, another slips once and is then
Cancelled; at its end it takes a grain of slack, or is Overrun and its context spilled.
Where it says more than the rules it is the model's choice: log 63, 64, 65, 66. -/
def Obligations.CalendarCourse : Prop :=
  ∀ (s : State) (q : BookReq) (b : Booking) (m : BMember) (p : Cur) (clu core slot uid txn v n num start why g reg : Nat) (full : Bool),
    let c := s.hw.cluster clu
    let now := s.hw.now
    let x := s.hw.ctx core slot
    let next := s.hw.grainNow clu + 1
    let sorted : Prop := (c.bookings.map (fun (e : Nat × Booking) => e.1)).Pairwise (fun i j => i < j)
    let at_ (t : State) (st : BState) : Prop := ∃ r, t.hw.booking clu num = some r ∧ r.state = st
    (s.hw.arg = .nats [clu] → c.bookReqs = [q] → q.due ≤ now → s.hw.alive q.core q.slot q.uid = true →
      (s.hw.ctx q.core q.slot).waitsFor q.txn = true → s.hw.bookFit clu ((s.hw.count (16 * clu) - 1) / 16) q = (why, start) →
      let word := if why = 0 then start % 2 ^ 32 * 2 ^ 16 + c.nextNum else 2 ^ 60 + why * 2 ^ 56
      ∃ t, exec .bookingDecision s = .next t ∧ t.mem = s.mem ∧ (t.hw.cluster clu).bookReqs = [] ∧
        (⟨now + 15, .bookingDecision, .nats [clu, q.core, q.slot, q.uid, q.txn, word]⟩ : Due) ∈ t.hw.agenda ∧
        (why ≠ 0 → (t.hw.cluster clu).bookings = c.bookings) ∧
        (why = 0 → ∃ r, t.hw.booking clu c.nextNum = some r ∧ r.state = .booked ∧ r.s = start ∧ r.q0 = q.q0 ∧
          (⟨max now (s.hw.grainAt clu (start - 64)), .stagingBegin, .nats [clu, c.nextNum, start]⟩ : Due) ∈ t.hw.agenda ∧
          (⟨s.hw.grainAt clu start, .bookingStart, .nats [clu, c.nextNum, start]⟩ : Due) ∈ t.hw.agenda)) ∧
    (s.hw.arg = .nats [n, core, slot, uid, txn, v] → s.hw.alive core slot uid = true → x.st = .parked → x.waiting = some (reg, txn, full) → 0 < reg →
      x.parkCur = some p → ∃ t, exec .bookingDecision s = .next t ∧ t.mem = s.mem ∧ t.hw.g core slot reg = BitVec.ofNat 64 v ∧
        t.hw.isFull core slot reg = true ∧ (t.hw.ctx core slot).st = .ready) ∧
    (s.hw.arg = .nats [clu, num, start] → s.hw.booking clu num = some b → b.num = num → b.s = start →
      (b.self_ = true → b.wins = [] → (∀ m ∈ b.members, m.steps % 4 = 3) →
        (b.state = .booked → ∃ t, exec .stagingBegin s = .next t ∧ t.mem = s.mem ∧ at_ t .staging ∧
          (next < start → (⟨s.hw.grainAt clu next, .stagingStepRetry, .nats [clu, num, start]⟩ : Due) ∈ t.hw.agenda)) ∧
        (b.state = .staging → ∃ t, exec .stagingStepRetry s = .next t ∧ t.mem = s.mem ∧ at_ t .staging ∧
          (next < start → (⟨s.hw.grainAt clu next, .stagingStepRetry, .nats [clu, num, start]⟩ : Due) ∈ t.hw.agenda))) ∧
      (b.state = .staging → b.self_ = true → b.members = [m] → m.core = core → m.slot = some slot → b.core = core → b.slot = slot → b.uid = x.uid →
        (m.steps % 128 = 127 → (s.hw.core core).imaging = false → b.wt = some txn → x.st = .booked → x.parkCur = some p →
          x.waiting = some (reg, txn, full) →
          ∃ t, exec .bookingStart s = .next t ∧ t.mem = s.mem ∧ at_ t .running ∧ (t.hw.ctx core slot).st = .ready ∧
            (t.hw.ctx core slot).booked = true ∧ (t.hw.ctx core slot).bookid = BitVec.ofNat 16 num ∧ (t.hw.ctx core slot).notBefore = now ∧
            (⟨s.hw.grainAt clu (start + b.q0 / 2 ^ 52 % 2 ^ 12 + b.ext), .slackGrain, .nats [clu, num,
              start + b.q0 / 2 ^ 52 % 2 ^ 12 + b.ext]⟩ : Due) ∈
              t.hw.agenda) ∧
        (m.steps % 32 ≠ 31 → ∃ t, exec .bookingStart s = .next t ∧ t.mem = s.mem ∧ at_ t .staging ∧
          (⟨now, .bookingSlip, .nats [clu, num, start]⟩ : Due) ∈ t.hw.agenda)) ∧
      (b.state = .staging → b.self_ = true → b.wt = none →
        let fit := c.fit num b.q0 b.q1 (bookCores clu b.q0) b.pages true (max (b.d + b.early) (start + 1)) (fitLimit b.q0 b.d true)
        ((b.slip = true ∨ fit = none) → sorted → ∃ t, exec .bookingSlip s = .next t ∧ t.mem = s.mem ∧
          ∀ r, t.hw.booking clu num = some r → r.state = .cancelled) ∧
        (b.slip = false → fit = some g → ∃ t, exec .bookingSlip s = .next t ∧ t.mem = s.mem ∧ at_ t .booked ∧
          ∃ r, t.hw.booking clu num = some r ∧ r.s = g ∧ r.slip = true ∧ (⟨s.hw.grainAt clu g, .bookingStart, .nats [clu, num,
            g]⟩ : Due) ∈ t.hw.agenda))) ∧
    (s.hw.arg = .nats [clu, num, g] → s.hw.booking clu num = some b → b.num = num → b.state = .running →
      b.s + b.q0 / 2 ^ 52 % 2 ^ 12 + b.ext = g →
      let more : Prop := b.ext < b.q0 / 2 ^ 24 % 16 ∧ (b.q0 / 2 ^ 28 % 2 ^ 12 = 0 ∨ g + 1 ≤ b.d + b.q0 / 2 ^ 28 % 2 ^ 12) ∧
        c.slackOpen num b.q1 (bookCores clu b.q0) g = true
      (more → ∃ t, exec .slackGrain s = .next t ∧ t.mem = s.mem ∧ t.hw.booking clu num = some { b with ext := b.ext + 1 } ∧
        (⟨s.hw.grainAt clu (g + 1), .slackGrain, .nats [clu, num, g + 1]⟩ : Due) ∈ t.hw.agenda) ∧
      (¬ more → ∃ t, exec .slackGrain s = .next t ∧ t.mem = s.mem ∧ (⟨now, .bookingOverrun, .nats [clu, num]⟩ : Due) ∈ t.hw.agenda)) ∧
    (s.hw.arg = .nats [clu, num] → s.hw.booking clu num = some b → b.num = num → b.state = .running → b.members = [m] → m.core = core →
      m.slot = some slot → m.stop = none → m.entry = none → x.deferred = [] → b.chan = none → x.access = none → x.taskr = 0 →
      (∀ e ∈ s.hw.bookEnds, e.1 ≠ core) → sorted → ∃ t, exec .bookingOverrun s = .next t ∧ t.mem = s.mem ∧
        (t.hw.ctx core slot).st = .parked ∧ (t.hw.ctx core slot).booked = false ∧ (t.hw.ctx core slot).fra.toNat % 2 ^ 8 = 0x0C ∧
        (t.hw.ctx core slot).fra.toNat / 2 ^ 39 % 2 ^ 17 = x.pc % 2 ^ 17 ∧ (t.hw.ctx core slot).frb = 0 ∧
        (t.hw.core core).overruns = (s.hw.core core).overruns ++ [slot] ∧ ∀ r, t.hw.booking clu num = some r → r.state = .overrun)

/-! ### Counted tensors (21_tensor) -/

/-- R426, R435 to R441: each tensor form checks its operands and makes one access to a record; HCOPY and HSEND of a handle with weight split it
in registers; a handle that is not well formed is HandleInvalid.
Where it says more than the rules it is the model's choice: log 83, 84. -/
def Obligations.TensorChains : Prop :=
  ∀ (s : State) (c : Cur) (sw : Bool) (a d b : GReg) (sg : BitVec 3),
    let x := s.hw.curCtx c
    let va := (s.hw.cg c a).toNat
    let vb := (s.hw.cg c b).toNat
    let vd := (s.hw.cg c d).toNat
    let v1 := (s.hw.cgn c (b.toNat + 1)).toNat
    let good (h : Nat) : Prop := h % 2 ^ 24 ≠ 0 ∧ h % 2 ^ 24 ≤ 131071
    let reads (s : State) (i : Instr) (f : AccOp) (rx : Bool) (key : Nat) : Prop := exec i s = .next (s.access c sw (s.hw.recAcc c f rx key))
    let home (h : Nat) : Nat := dramKeyOf (h / 2 ^ 37 % 2 ^ 21 * 2 ^ 28 + Config.recordArea + 32 * (h % 2 ^ 24))
    let own := dramKeyOf (c.core % 2 ^ 21 * 2 ^ 28 + Config.recordArea)
    let half : Word := BitVec.ofNat 64 (vb - 2 ^ 58)
    let half1 (r : GReg) : Hw → Hw := fun w => w.setG c.core c.slot r.toNat half 1
    x.booked = false → x.tsBit tsPAIRED = false → s.portFree c false .plain → (s.hw.core c.core).svc = false →
    (s.atHand c [b.toNat, b.toNat + 1] → b.toNat + 1 < x.wsize →
      (vb / 2 ^ 16 % 2 ^ 16 = 0 → vb / 2 ^ 7 % 2 = 0 → vb % 64 ≤ 47 → (vb / 2 ^ 6 % 2 = 1 ∨ (vb / 2 ^ 8 % 256 = 0 ∧ v1 < 2 ^ 41)) →
        reads s (.hnew sw a b) (.hnew a.toNat (vb % 64 * 2 ^ 42) v1 (vb / 2 ^ 32 * 2 ^ 32 + vb / 2 ^ 6 % 2 * 2 ^ 8 + vb / 2 ^ 8 % 256)) false own) ∧
      ((vb / 2 ^ 16 % 2 ^ 16 ≠ 0 ∨ vb / 2 ^ 7 % 2 = 1 ∨ 47 < vb % 64) → exec (.hnew sw a b) s = .next (s.faultWith c .reservedValue 36 vb)) ∧
      ((v1 / 2 ^ 41 ≠ 0 ∨ v1 % 32 ≠ 0) → exec (.hbind sw a b) s = .next (s.faultWith c .reservedValue 37 v1)) ∧
      (v1 < 2 ^ 41 → v1 % 32 = 0 → good vb → reads s (.hbind sw a b) (.hbind a.toNat v1 vb vb 0) false (home vb)) ∧
      (v1 < 2 ^ 41 → v1 % 32 = 0 → ¬ good vb → exec (.hbind sw a b) s = .next (s.faultWith c .handleInvalid 2 vb))) ∧
    (s.atHand c [b.toNat] →
      (a ≠ b → good vb → 2 ^ 58 ≤ vb →
        exec (.hcopy sw a b) s = .next (s.onHw fun w => (half1 a (half1 b w)).retire c sw 1)) ∧
      (a ≠ b → good vb → vb < 2 ^ 58 → reads s (.hcopy sw a b) (.hindir a.toNat b.toNat vb none) false own) ∧
      (a ≠ b → ¬ good vb → exec (.hcopy sw a b) s = .next (s.faultWith c .handleInvalid 2 vb)) ∧
      (a = b → exec (.hcopy sw a b) s = .next (s.faultWith c .reservedValue 38 0))) ∧
    (s.atHand c [a.toNat] → s.portFree c true .w →
      (good va → exec (.hdrop sw a) s = .next ((s.onHw (fun w => w.setG c.core c.slot a.toNat 0 1)).access c sw
        (s.hw.recAcc c (.tret va (2 ^ (va / 2 ^ 58))) true (home va)))) ∧
      (¬ good va → exec (.hdrop sw a) s = .next (s.faultWith c .handleInvalid 2 va))) ∧
    (s.atHand c [a.toNat, a.toNat + 1] → a.toNat + 1 < x.wsize → s.portFree c true .w → good va → let n := (s.hw.cgn c (a.toNat + 1)).toNat
      (0 < n → n ≤ 2 ^ 47 → reads s (.hdropLost sw a) (.tret va n) true (home va)) ∧
      ((n = 0 ∨ 2 ^ 47 < n) → exec (.hdropLost sw a) s = .next (s.faultWith c .reservedValue 36 n))) ∧
    (s.atHand c (regs [d, b]) → a ≠ b → a ≠ 0 → b ≠ 0 → vd < 2 ^ 37 → vd / 2 ^ 14 % 4 = 0 → vd / 2 ^ 7 % 2 = 0 → good vb → 2 ^ 58 ≤ vb →
      ∃ t, exec (.hsend sw a d b) s = .next t ∧ t.mem = s.mem ∧ t.hw.isFull c.core c.slot a.toNat = false ∧
        Pend.fixed b.toNat (s.hw.now + 1) half ∈ (t.hw.curCtx c).pend ∧ (t.hw.curCtx c).notBefore = s.hw.now + 1) ∧
    (s.atHand c [d.toNat] →
      (good vd →
        reads s (.haddr sw a d sg) (.haddr a.toNat 0 vd vd 0 (x.seg sg.toNat).base (x.seg sg.toNat).len (x.seg sg.toNat).virt) false (home vd) ∧
        reads s (.haddrLen sw a d) (.haddr a.toNat 1 vd vd 0 0 0 false) false (home vd) ∧
        reads s (.haddrWt sw a d) (.haddr a.toNat 2 vd vd 0 0 0 false) false (home vd)) ∧
      (¬ good vd → ∀ i ∈ [Instr.haddr sw a d sg, .haddrLen sw a d, .haddrWt sw a d], exec i s = .next (s.faultWith c .handleInvalid 2 vd)))

/-- R429, R432 to R434, R436, R439, R441: a record is allocated with its next generation; a return adds its scruples, and the one that completes
the weight frees the record and publishes the finaliser's cell in the cycle after; too many, or a stale handle, writes nothing; a bind writes the
cell once; a read answers the record.
Where it says more than the rules it is the model's choice: log 83, 85, 86. -/
def Obligations.TensorRecords : Prop :=
  ∀ (s : State) (a : Acc) (o : Outst) (due r i q0 q2 q3 h h0 n cell core held base len : Nat) (virt : Bool),
    let key := dramKeyOf (h / 2 ^ 37 % 2 ^ 21 * 2 ^ 28 + Config.recordArea + 32 * (h % 2 ^ 24))
    let rec_ := s.mem.trec key
    let named : Prop := h % 2 ^ 24 ≠ 0 ∧ h % 2 ^ 24 ≤ 131071 ∧ rec_.kind ≠ 0 ∧ rec_.gen = h / 2 ^ 24 % 2 ^ 13
    let replied (t : State) (v : AccRes) : Prop := (⟨max due s.hw.now, Acc.replyStep a, .accRes a v⟩ : Due) ∈ t.hw.agenda
    let returned (t : State) (v : AccRes) : Prop := (⟨s.hw.now + 2, .returnReply, .accRes a v⟩ : Due) ∈ t.hw.agenda
    let outside (t : State) (k : Nat) : Prop := ∀ j, j < k ∨ k + 32 ≤ j → t.mem.read j = s.mem.read j
    s.Inv → (∀ p ∈ a.pieces, (s.hw.core (keyCore p.key)).imaging = false) → s.mem.isPoison key = false →
    (s.hw.arg = .acc a due → (∀ o, s.hw.findOut a.core a.txn = some o → { o.acc with group := a.group, gword := a.gword, pieces := a.pieces } = a) →
      (a.op = .hnew r q0 q2 q3 → q2 < 2 ^ 64 → q3 < 2 ^ 64 →
        (s.mem.freeRecord a.core 131071 1 = none → ∃ t, exec .remoteAccessAtBank s = .next t ∧ t.mem = s.mem ∧ replied t (.data 0 [])) ∧
        (s.mem.freeRecord a.core 131071 1 = some i → let k := recordKey a.core i
          let g := ((s.mem.trec k).gen + 1) % 8192
          ∃ t, exec .remoteAccessAtBank s = .next t ∧ outside t k ∧ replied t (.data (handleOf (q0 / 2 ^ 42 % 64) a.core g i) []) ∧
            t.mem.trec k = ⟨1, g, false, q0 / 2 ^ 42 % 64, 0, 0, q2, q3⟩)) ∧
      (a.op = .hbind r cell h0 h n → cell < 2 ^ 41 →
        (¬ named → ∃ t, exec .remoteAccessAtBank s = .next t ∧ t.mem = s.mem ∧ replied t (.fail .handleInvalid 1 h)) ∧
        (named → rec_.kind = 1 → rec_.bound = true → ∃ t, exec .remoteAccessAtBank s = .next t ∧ t.mem = s.mem ∧ replied t (.data 1 [])) ∧
        (named → rec_.kind = 1 → rec_.bound = false → ∃ t, exec .remoteAccessAtBank s = .next t ∧ outside t key ∧ replied t (.data 0 []) ∧
          t.mem.trec key = { rec_ with bound := true, cell := cell })) ∧
      (a.op = .haddr r n h0 h i base len virt → (∀ d ∈ s.hw.agenda, s.hw.now < d.at_) →
        (named → ∃ t, exec .remoteAccessAtBank s = .next t ∧ t.mem = s.mem ∧ replied t (.data (s.mem.val key 32) [])) ∧
        (¬ named → ∃ t, exec .remoteAccessAtBank s = .next t ∧ t.mem = s.mem ∧ replied t (.fail .handleInvalid 1 h))) ∧
      (a.op = .tret h n → (∀ d ∈ s.hw.agenda, s.hw.now < d.at_) →
        SMap.find? (s.hw.core (h / 2 ^ 37 % 2 ^ 21)).retAt (h % 2 ^ 24) ≠ some s.hw.now →
        (¬ named → ∃ t, exec .tensorReturn s = .next t ∧ t.mem = s.mem ∧ returned t (.fail .handleInvalid 1 h)) ∧
        (named → 2 ^ rec_.w0 < rec_.retd + n → ∃ t, exec .tensorReturn s = .next t ∧ t.mem = s.mem ∧ returned t (.data 0 [])) ∧
        (named → rec_.retd + n < 2 ^ rec_.w0 → rec_.w0 ≤ 47 → ∃ t, exec .tensorReturn s = .next t ∧ outside t key ∧ returned t (.data 0 []) ∧
          t.mem.trec key = { rec_ with retd := rec_.retd + n }) ∧
        (named → rec_.retd + n = 2 ^ rec_.w0 → rec_.w0 ≤ 47 → ∃ t, exec .tensorReturn s = .next t ∧ outside t key ∧ returned t (.data 0 []) ∧
          t.mem.trec key = { rec_ with kind := 0, retd := rec_.retd + n } ∧
          (rec_.kind = 1 → rec_.bound = true →
            (⟨s.hw.now + 1, .deathAction, .nats [0, h / 2 ^ 37 % 2 ^ 21, rec_.cell]⟩ : Due) ∈ t.hw.agenda) ∧
          (rec_.kind = 2 → (⟨s.hw.now + 1, .deathAction, .nats [2, h / 2 ^ 37 % 2 ^ 21, rec_.q2]⟩ : Due) ∈ t.hw.agenda)))) ∧
    (s.hw.arg = .nats [0, core, cell] → s.hw.routeFails core ((s.hw.tenantOf core).getD 0) false (keyCore cell) 0 = none →
      ∃ t, exec .deathAction s = .next t ∧ t.mem = s.mem ∧
        (⟨s.hw.now + s.hw.scratchLatency core (keyCore cell), .deathAction, .nats [1, core, cell]⟩ : Due) ∈ t.hw.agenda) ∧
    (s.hw.arg = .nats [1, core, cell] → cell < 2 ^ 41 → cell % 2 ^ 20 + 32 ≤ 0x90000 → cell % 32 = 0 → s.mem.isPoison cell = false →
      s.mem.val (cell + 8) 8 % 2 = 1 → s.mem.val cell 8 < 2 ^ 63 → ∃ t, exec .deathAction s = .next t ∧
        t.mem.val cell 8 = 2 ^ 63 + s.mem.val cell 8) ∧
    (s.hw.arg = .nats [2, core, held] → let lat := s.hw.dramLatency core (held / 2 ^ 37 % 2 ^ 21)
      s.hw.routeFails core ((s.hw.tenantOf core).getD 0) false (held / 2 ^ 37 % 2 ^ 21) lat = none →
        ∃ t, exec .deathAction s = .next t ∧ t.mem = s.mem ∧
        (⟨s.hw.now + lat, .tensorReturn, .nats [core, (s.hw.tenantOf core).getD 0, held, 1, s.hw.now + lat]⟩ : Due) ∈ t.hw.agenda) ∧
    (s.hw.arg = .accRes a (.data 0 []) → s.hw.findOut a.core a.txn = some o → o.acc.core = a.core → o.acc.slot = a.slot → o.acc.txn = a.txn →
      o.acc.op = .tret h n → o.acc.relaxed = true → ∃ t, exec .returnReply s = .next t ∧ t.mem = s.mem ∧
        ∀ e ∈ (t.hw.core a.core).out, e.acc.txn ≠ a.txn)

/-! ### The link and the Filxis tree (22_link) -/

/-- R453, R461 to R463, R466 to R468: the page-6 forms check their operands; MCW and RSLOT read their bitmap; MCSEND sends a copy to every
member, or answers NOGRP; REDC sends its contribution; REDW parks with reason barrier; LNKST sends its request; a booked context may use
none of them but MCW.
Where it says more than the rules it is the model's choice: log 87, 89, 90, 91. -/
def Obligations.TreeChains : Prop :=
  ∀ (s : State) (c : Cur) (sw : Bool) (a d b : GReg) (g : McGroup) (ad : Nat),
    let x := s.hw.curCtx c
    let vb := (s.hw.cg c b).toNat
    let vd := (s.hw.cg c d).toNat
    let v1 := (s.hw.cgn c (b.toNat + 1)).toNat
    let txn := s.hw.nextTxn
    let tenant := (s.hw.tenantOf c.core).getD 0
    let hops (l : Nat) : Nat := if l = 0 then 10 else if l = 1 then 18 else if l = 2 then 30 else 70
    let bytes (l : Nat) : Nat := if l = 0 then 2 else if l = 1 then 16 else if l = 2 then 128 else 1024
    let lvl := vb / 2 ^ 46 % 4
    let two (p : Prop) : Prop := s.atHand c [b.toNat, b.toNat + 1] → b.toNat + 1 < x.wsize → p
    let waits (t : State) : Prop := t.mem = s.mem ∧ (a ≠ 0 → t.hw.isFull c.core c.slot a.toNat = false)
    s.portFree c false .plain →
    (two (
      (vb / 2 ^ 17 = 0 → vb / 2 ^ 14 % 4 = 0 → v1 % 32 = 0 → scratchHole v1 1024 = none →
        (∀ q ∈ (s.hw.mod (moduleOf c.core)).mcws, q.group ≠ vb % 256) →
        exec (.mcw sw a b) s = .next (s.access c sw (s.hw.mkAcc c (.bitmap true a.toNat vb) false false v1 1024 0 0))) ∧
      ((vb / 2 ^ 17 ≠ 0 ∨ vb / 2 ^ 14 % 4 ≠ 0 ∨ v1 % 32 ≠ 0) → exec (.mcw sw a b) s = .next (s.faultWith c .reservedValue 42 0)))) ∧
    (x.booked = false →
      two (
        (vb / 2 ^ 11 % 2 ^ 37 = 0 → vb / 4 % 64 = 0 → vb / 2 ^ 48 ≠ 0 →
          segCheck (x.seg 0) (v1 : Nat) (bytes (vb % 4)) { r := true } 32 = .ok ad →
          exec (.rslot sw a b) s =
            .next (s.access c sw (s.hw.mkAcc c (.bitmap false a.toNat vb) false (x.seg 0).virt ad (bytes (vb % 4)) 0 v1))) ∧
        ((vb / 2 ^ 11 % 2 ^ 37 ≠ 0 ∨ vb / 4 % 64 ≠ 0 ∨ vb / 2 ^ 48 = 0) → exec (.rslot sw a b) s = .next (s.faultWith c .reservedValue 43 0)) ∧
        (a.toNat + 1 < x.wsize → v1 = 0 → ∃ t, exec (.redw sw a b) s = .next t ∧ waits t ∧ t.hw.isFull c.core c.slot (a.toNat + 1) = false ∧
          (t.hw.curCtx c).st = .parked ∧ (t.hw.curCtx c).park = some (.barrier true 64) ∧
          (⟨s.hw.now + hops lvl, .redwResult, .nats [0, c.core, c.slot, x.uid, txn, tenant, vb, s.hw.now + 2 * hops lvl]⟩ : Due) ∈ t.hw.agenda)) ∧
      (s.atHand c (regs [d, b]) →
        (vd / 2 ^ 24 = 0 → vd / 2 ^ 14 % 4 = 0 → vd / 2 ^ 7 % 2 = 0 →
          (SMap.find? (s.hw.mod (moduleOf c.core)).groups (vd / 2 ^ 16 % 256) = none → ∃ t, exec (.mcsend sw a d b) s = .next t ∧ waits t ∧
            (⟨s.hw.now + 20, .mcsendResult, .nats [c.core, txn, 1]⟩ : Due) ∈ t.hw.agenda) ∧
          (SMap.find? (s.hw.mod (moduleOf c.core)).groups (vd / 2 ^ 16 % 256) = some g → (g.tenant = tenant ∨ x.service = true) →
            ∃ t, exec (.mcsend sw a d b) s = .next t ∧ waits t ∧ ∀ r ∈ g.cores, let lat := s.hw.scratchLatency c.core r
              ∃ m : Msg, (⟨s.hw.now + (lat / 2 + 1), .multicastCopyArrival, .msg m (s.hw.now + lat)⟩ : Due) ∈ t.hw.agenda ∧ m.core = r ∧
                m.slot = vd / 2 ^ 8 % 64 ∧ m.reg = vd % 2 ^ 7 ∧ m.val = s.hw.cg c b ∧ m.txn = txn)) ∧
        ((vd / 2 ^ 24 ≠ 0 ∨ vd / 2 ^ 14 % 4 ≠ 0 ∨ vd / 2 ^ 7 % 2 ≠ 0) → exec (.mcsend sw a d b) s = .next (s.faultWith c .reservedValue 0 0)) ∧
        (s.hw.releaseWaits c = [] → ∃ t, exec (.redc sw a d b) s = .next t ∧ waits t ∧
          (⟨s.hw.now + hops (vd / 2 ^ 46 % 4), .reductionContribution, .nats [0, c.core, txn, tenant, vd, vb]⟩ : Due) ∈ t.hw.agenda)) ∧
      (s.atHand c [b.toNat] →
        (vb < 48 → ∃ t, exec (.lnkst sw a b) s = .next t ∧ waits t ∧
          (⟨s.hw.now + 70, .reductionContribution, .nats [3, c.core, txn, vb, 0, 0]⟩ : Due) ∈ t.hw.agenda) ∧
        (vb / 2 ^ 10 = 0 → vb / 64 % 4 = 0 → vb % 64 < 48 → vb / 2 ^ 8 % 4 ≠ 3 → ∃ t, exec (.lnkstCtl sw a b) s = .next t ∧ waits t ∧
          (⟨s.hw.now + 70, .reductionContribution, .nats [3, c.core, txn, vb % 64, 1, vb / 2 ^ 8 % 4]⟩ : Due) ∈ t.hw.agenda) ∧
        ((2 ^ 10 ≤ vb ∨ vb / 64 % 4 ≠ 0 ∨ 48 ≤ vb % 64) → ∀ i ∈ [Instr.lnkst sw a b, .lnkstCtl sw a b],
          exec i s = .next (s.faultWith c .reservedValue 39 0)))) ∧
    (s.hw.cur = some c → x.booked = true → ∀ i ∈ [Instr.mcsend sw a d b, .rslot sw a b, .redc sw a d b, .redw sw a b, .lnkst sw a b,
      .lnkstCtl sw a b],
      exec i s = .next (s.faultWith c .calendarViolation 2 0))

/-- R461 to R468: the nodes switch to a group's new version, and MCW's status follows; a copy is delivered as a message is, and the last one
gives MCSEND its counts; a contribution is combined once a member, and the last one closes its slot; a slot opens with its operation's
identity, closes at its time, and a closed one is collected with its status word or becomes free.
Where it says more than the rules it is the model's choice: log 88, 90. -/
def Obligations.TreeSteps : Prop :=
  ∀ (s : State) (m : Msg) (q : McSend) (w : Mcw) (u : Owed) (o : Outst) (core slot uid txn tenant handle v ww i gen due acc st md g : Nat) (ms : List Nat),
    let hops (l : Nat) : Nat := if l = 0 then 10 else if l = 1 then 18 else if l = 2 then 30 else 70
    let wide (l : Nat) : Nat := if l = 0 then 16 else if l = 1 then 128 else if l = 2 then 1024 else 8192
    let lvl := handle / 2 ^ 46 % 4
    let node := handle % 2 ^ 21
    let key := 32 * (2 ^ 21 * lvl + node) + handle / 2 ^ 41 % 32
    let r := s.hw.red key
    let owes (core txn : Nat) : Prop := (s.hw.core core).owed.find? (fun e => e.txn == txn) = some u ∧ u.hand = none ∧ 0 < u.reg ∧
      s.hw.alive core u.slot u.uid = true ∧ ((s.hw.ctx core u.slot).st = .ready ∨ (s.hw.ctx core u.slot).st = .parked) ∧
      (s.hw.ctx core u.slot).pend.any (fun e => e.ofTxn u.reg txn) = true
    let gets (t : State) (core v : Nat) : Prop := t.hw.g core u.slot u.reg = BitVec.ofNat 64 v ∧ t.hw.isFull core u.slot u.reg = true
    (s.hw.arg = .nats (0 :: md :: g :: 0 :: tenant :: ms) → ∃ t, exec .mcwComplete s = .next t ∧ t.mem = s.mem ∧
      SMap.find? (t.hw.mod md).groups g = some ⟨tenant, ms⟩ ∧ (⟨s.hw.now + 140, .mcwComplete, .nats [1, md, g]⟩ : Due) ∈ t.hw.agenda) ∧
    (s.hw.arg = .nats [1, md, g] → (s.hw.mod md).mcws = [w] → w.group = g → owes w.core w.txn → ∃ t, exec .mcwComplete s = .next t ∧
      gets t w.core 0) ∧
    (s.hw.arg = .msg m due → (s.hw.core m.core).imaging = false → (m.svc = true ∨ m.core = m.sender ∨ s.hw.tenantOf m.core = some m.tenant) →
      s.hw.coreDisabled m.core = false → 0 < m.reg → let y := s.hw.ctx m.core m.slot
      m.reg < y.wsize → (y.st = .ready ∨ y.st = .parked) → m.reg ∉ y.just → y.pending m.reg = false →
      (s.hw.core m.core).fullBit y m.reg = false → (s.hw.core m.core).heldFor m.slot m.reg = false →
      (s.hw.core m.sender).mcs.find? (fun e => e.txn == m.txn) = some q → ∃ t, exec .multicastCopyArrival s = .next t ∧ t.mem = s.mem ∧
        t.hw.g m.core m.slot m.reg = m.val ∧ t.hw.isFull m.core m.slot m.reg = true ∧
        (t.hw.core m.sender).mcs.find? (fun e => e.txn == m.txn) = some { q with left := q.left - 1 } ∧
        (q.left = 1 → (⟨max q.due (due + 2), .mcsendResult, .nats [m.sender, m.txn, 0]⟩ : Due) ∈ t.hw.agenda)) ∧
    (owes core txn →
      (s.hw.arg = .nats [core, txn, 1] → ∃ t, exec .mcsendResult s = .next t ∧ t.mem = s.mem ∧ gets t core (2 ^ 63)) ∧
      (s.hw.arg = .nats [core, txn, 0] → (s.hw.core core).mcs.find? (fun e => e.txn == txn) = some q → ∃ t, exec .mcsendResult s = .next t ∧
        t.mem = s.mem ∧ gets t core (q.held % 65536 * 65536 + q.fail % 65536)) ∧
      (s.hw.arg = .nats [1, core, txn, v] → ∃ t, exec .reductionContribution s = .next t ∧ t.mem = s.mem ∧ gets t core v)) ∧
    (handle / 2 ^ 21 % 2 ^ 20 = 0 → node % wide lvl = 0 → handle / 2 ^ 48 % 2 ^ 16 ≠ 0 → handle < 2 ^ 64 →
      (s.hw.arg = .nats [0, core, txn, tenant, handle, v] → SMap.find? s.hw.nodeAt (32 * (2 ^ 21 * lvl + node)) ≠ some s.hw.now →
        let back (t : State) (status : Nat) : Prop := (⟨s.hw.now + hops lvl, .reductionContribution, .nats [1, core, txn,
          status]⟩ : Due) ∈ t.hw.agenda
        let member := core % wide lvl
        ((r.st ≠ .opened ∨ r.gen ≠ handle / 2 ^ 48 ∨ r.tenant ≠ tenant) → ∃ t, exec .reductionContribution s = .next t ∧ t.mem = s.mem ∧ back t 3 ∧
          t.hw.red key = r) ∧
        (r.st = .opened → r.gen = handle / 2 ^ 48 → r.tenant = tenant →
          ((core / wide lvl * wide lvl ≠ node ∨ member ∉ r.members) → ∃ t, exec .reductionContribution s = .next t ∧ back t 2 ∧ t.hw.red key = r) ∧
          (core / wide lvl * wide lvl = node → member ∈ r.members →
            (member ∈ r.done → ∃ t, exec .reductionContribution s = .next t ∧ back t 1 ∧ t.hw.red key = r) ∧
            (member ∉ r.done → r.waits = [] → ∃ t, exec .reductionContribution s = .next t ∧ t.mem = s.mem ∧ back t 0 ∧
              (t.hw.red key).done = member :: r.done ∧
              (t.hw.red key).st = (if r.done.length + 1 = r.members.length then .closed else .opened) ∧
              (r.op = 0 → (t.hw.red key).acc = r.acc + BitVec.ofNat 64 v) ∧
              (r.op = 1 → (t.hw.red key).acc.toInt = max r.acc.toInt (BitVec.ofNat 64 v).toInt) ∧
              (r.op = 2 → (t.hw.red key).acc.toInt = min r.acc.toInt (BitVec.ofNat 64 v).toInt) ∧
              (r.op = 5 → (t.hw.red key).acc = r.acc &&& BitVec.ofNat 64 v) ∧ (r.op = 6 → (t.hw.red key).acc = r.acc ||| BitVec.ofNat 64 v) ∧
              (r.op = 7 → (t.hw.red key).acc = r.acc ^^^ BitVec.ofNat 64 v))))) ∧
      (s.hw.arg = .nats [0, core, slot, uid, txn, tenant, handle, due] →
        (r.st = .closed → r.gen = handle / 2 ^ 48 → r.tenant = tenant → r.taken = false → r.waits = [] → s.hw.alive core slot uid = true →
          r.op ≠ 3 → r.op ≠ 4 → ∃ t bs, exec .redwResult s = .next t ∧ t.mem = s.mem ∧ t.hw.red key = { r with taken := true } ∧
            (⟨due, .redwResult, .blob [1, core, slot, uid, txn, key + 1, r.acc.toNat, r.status] bs⟩ : Due) ∈ t.hw.agenda) ∧
        ((r.st = .free ∨ r.gen ≠ handle / 2 ^ 48 ∨ r.tenant ≠ tenant ∨ r.taken = true) → ∃ t, exec .redwResult s = .next t ∧ t.mem = s.mem ∧
          (⟨due, .redwResult, .blob [1, core, slot, uid, txn, 0, 0, 2 ^ 62] []⟩ : Due) ∈ t.hw.agenda))) ∧
    (s.hw.arg = .nats (2 :: core :: txn :: tenant :: ww :: ms) → let l := ww % 4
      let first := core / wide l * wide l
      i < 32 → (s.hw.red (32 * (2 ^ 21 * l + first) + i)).st = .free → (∀ j, j < i → (s.hw.red (32 * (2 ^ 21 * l + first) + j)).st ≠ .free) →
      ∃ t h, exec .reductionContribution s = .next t ∧ t.mem = s.mem ∧
        (⟨s.hw.now + hops l, .reductionContribution, .nats [1, core, txn, h]⟩ : Due) ∈ t.hw.agenda ∧
        (t.hw.red (32 * (2 ^ 21 * l + first) + i)).st = .opened ∧ (t.hw.red (32 * (2 ^ 21 * l + first) + i)).members = ms ∧
        (t.hw.red (32 * (2 ^ 21 * l + first) + i)).done = [] ∧ (t.hw.red (32 * (2 ^ 21 * l + first) + i)).tenant = tenant ∧
        let a := (t.hw.red (32 * (2 ^ 21 * l + first) + i)).acc
        (ww / 2 ^ 8 % 8 = 1 → a.toInt = -2 ^ 63) ∧ (ww / 2 ^ 8 % 8 = 2 → a.toInt = 2 ^ 63 - 1) ∧ (ww / 2 ^ 8 % 8 = 3 → a = 0xFF800000) ∧
        (ww / 2 ^ 8 % 8 = 4 → a = 0x7F800000) ∧ (ww / 2 ^ 8 % 8 = 5 → a = BitVec.allOnes 64) ∧
        ((ww / 2 ^ 8 % 8 = 0 ∨ 6 ≤ ww / 2 ^ 8 % 8) → a = 0)) ∧
    (s.hw.arg = .nats [i, gen] → (s.hw.red i).gen = gen →
      ((s.hw.red i).st = .opened → (s.hw.red i).waits = [] → ∃ t, exec .reductionSlotTimeout s = .next t ∧ t.mem = s.mem ∧
        t.hw.red i = { s.hw.red i with st := .closed }) ∧
      ((s.hw.red i).st = .closed → ∃ t, exec .reductionSlotExpiry s = .next t ∧ t.mem = s.mem ∧ (t.hw.red i).st = .free)) ∧
    (s.hw.arg = .blob [1, core, slot, uid, txn, gen, acc, st] [] → s.hw.findOut core txn = some o → o.acc.op = .redw i → o.acc.core = core →
      o.acc.slot = slot →
      o.acc.txn = txn → 0 < i → s.hw.alive core slot o.uid = true → ((s.hw.ctx core slot).st = .ready ∨ (s.hw.ctx core slot).st = .parked) →
      (s.hw.ctx core slot).pend.any (fun e => e.ofTxn i txn) = true → (s.hw.ctx core slot).pend.any (fun e => e.ofTxn (i + 1) txn) = true →
      ∃ t, exec .redwResult s = .next t ∧ t.mem = s.mem ∧ t.hw.g core slot i = BitVec.ofNat 64 acc ∧ t.hw.g core slot (i + 1) = BitVec.ofNat 64 st ∧
        (0 < gen → (s.hw.red (gen - 1)).taken = true → (t.hw.red (gen - 1)).st = .free))

/-- R450 to R452: a refused header is counted and replayed, and the fourth in a row takes the uplink Down; errors of data are counted, and poisoned
data leaves its sector poisoned; an uplink loses lanes, fails, trains, and trains again; a module learns which modules are down, and that
it has no uplink.
Where it says more than the rules it is the model's choice: log 12, 92. -/
def Obligations.Uplinks : Prop :=
  ∀ (s : State) (m u key x n : Nat),
    let l := (s.hw.mod m).link u
    let at_ (i : Instr) (st : LinkState) : Prop := ∃ t, exec i s = .next t ∧ t.mem = s.mem ∧ ((t.hw.mod m).link u).st = st
    let carries : Prop := l.st = .up ∨ l.st = .degraded
    let quiet : Prop := ∀ c, moduleOf c = m → (s.hw.core c).out = [] ∧ (s.hw.core c).owed = [] ∧ (s.hw.core c).arun = none ∧ (s.hw.core c).trun = none
    (s.hw.arg = .nats [m, u, 0] → carries →
      (l.refused < 3 → ∃ t, exec .headerFlitRefused s = .next t ∧ t.mem = s.mem ∧ ((t.hw.mod m).link u).st = l.st ∧
        ((t.hw.mod m).link u).refused = l.refused + 1 ∧ ((t.hw.mod m).link u).replay = min 65535 (l.replay + 1)) ∧
      (3 ≤ l.refused → at_ .headerFlitRefused .down)) ∧
    (s.hw.arg = .nats [m, u] →
      (∃ t, exec .dataFlitPoisoned s = .next t ∧ t.mem = s.mem ∧ ((t.hw.mod m).link u).corr = min 65535 (l.corr + 1)) ∧
      (carries → ∃ t, exec .linkDown s = .next t ∧ t.mem = s.mem ∧ ((t.hw.mod m).link u).st = .down ∧
        (⟨s.hw.now + 2 ^ 20, .linkRetrainTimer, .nats [m, u, l.epoch + 1]⟩ : Due) ∈ t.hw.agenda) ∧
      (l.st = .up → 0 < l.lanes → ∃ t, exec .laneLost s = .next t ∧ t.mem = s.mem ∧ ((t.hw.mod m).link u).st = .degraded ∧
        ((t.hw.mod m).link u).lanes = l.lanes - 1) ∧
      (l.st = .degraded → 2 < l.lanes → ∃ t, exec .laneLost s = .next t ∧ t.mem = s.mem ∧ ((t.hw.mod m).link u).st = .degraded ∧
        ((t.hw.mod m).link u).lanes = l.lanes - 1) ∧
      (l.st = .degraded → l.lanes ≤ 2 → at_ .laneLost .down)) ∧
    (s.Inv → s.hw.arg = .nats [m, u, key] → ∃ t, exec .dataFlitPoisoned s = .next t ∧ ((t.hw.mod m).link u).poisn = min 65535 (l.poisn + 1) ∧
      t.mem.isPoison key = true ∧ ∀ k, t.mem.read k = s.mem.read k) ∧
    (s.hw.arg = .nats [m, u, l.epoch] →
      (l.st = .down → ∃ t, exec .linkRetrainTimer s = .next t ∧ t.mem = s.mem ∧ ((t.hw.mod m).link u).st = .training ∧
        (⟨s.hw.now + 65536, .linkTrainingTimeout, .nats [m, u, l.epoch + 1]⟩ : Due) ∈ t.hw.agenda) ∧
      (l.st = .training → at_ .linkTrainingTimeout .down)) ∧
    (s.hw.arg = .nats [m, u, n] → l.st = .training →
      (n = 8 → at_ .linkTrainingDone .up) ∧ (4 ≤ n → n < 8 → at_ .linkTrainingDone .degraded)) ∧
    (s.hw.arg = .nats [m, x] →
      (quiet → ∃ t, exec .downNotice s = .next t ∧ t.mem = s.mem ∧ x ∈ (t.hw.mod m).downs) ∧
      (∃ t, exec .upNotice s = .next t ∧ t.mem = s.mem ∧ x ∉ (t.hw.mod m).downs ∧
        ∀ y, y ≠ x → (y ∈ (t.hw.mod m).downs ↔ y ∈ (s.hw.mod m).downs))) ∧
    (s.hw.arg = .nats [m] → (s.hw.mod m).linked = false → (s.hw.mod m).lastUp + 65536 ≤ s.hw.now → (s.hw.mod m).ownDown = false → quiet →
      ∃ t, exec .ownUplinksDown s = .next t ∧ t.mem = s.mem ∧ (t.hw.mod m).ownDown = true)

/-! ### Packages, tenants and the resident service (14_package, 23_service, 24_bringup) -/

/-- R290, R294, R298, R301 to R303, R477: a search goes from the packages to the store, the peers and the resident translator, and may find no
source; a load is Loading until BRS ends it, with the code of the first check that it fails or as a Loaded package; an unload waits and then
drops the package; a launched graph's nodes are released by their counts; what an NVMe read brings stands in K frames.
Where it says more than the rules it is the model's choice: log 17, 94, 95, 99, 110. -/
def Obligations.Packages : Prop :=
  ∀ (s : State) (q : Search) (p : Package) (rec_ : BitVec 1024) (bs : List Byte) (img : DEntry) (f : List Byte) (g : PForm)
    (clu e load session tn n pa prin gset otag prio reqid cell len : Nat),
    let me := s.hw.self
    let ten := (s.hw.mod (clu / 512)).tenant q.tenant
    let t0 := (s.hw.mod me).tenant tn
    let searching (t : State) (l : List Search) : Prop := (t.hw.mod (clu / 512)).searches = l
    let packAt (t : State) (n : Nat) : Option Package := SMap.find? ((t.hw.mod me).tenant tn).packs n
    let said (t : State) (b : List Byte) : Prop := (t.hw.mod me).sent = (s.hw.mod me).sent ++ [(session, b)]
    (searching s [q] → q.clu = clu → q.entry = e → q.load = load → s.hw.arg = .nats [clu, e, load] →
      (q.step = 1 → ten.packs = [] → ∃ t, exec .brsCodeSearch s = .next t ∧ t.mem = s.mem ∧
        searching t [{ q with form := none, moves := [], step := 2 }]) ∧
      (q.step = 2 → ten.store = [] → ∃ t, exec .nvmeReadComplete s = .next t ∧ t.mem = s.mem ∧
        searching t [if ten.peers = [] then { q with step := 4, peers := [] } else { q with step := 3, peers := ten.peers }]) ∧
      (q.step = 3 → ∃ t, exec .peerContainerReply s = .next t ∧ t.mem = s.mem ∧
        searching t [if 1 < q.peers.length then { q with peers := q.peers.drop 1 } else { q with step := 4, peers := [] }]) ∧
      (q.step = 4 → q.form = none → ten.store = [] → ∃ t, exec .residentTranslation s = .next t ∧ t.mem = s.mem ∧ searching t [] ∧
        (⟨s.hw.now, .codeNoSource, .nats [clu, e, load]⟩ : Due) ∈ t.hw.agenda) ∧
      (q.step = 4 → q.form = some f → portableOf q.digest f = some g → translateForm g (segsWith g.segs q.moves) = some img →
        (s.hw.entry clu e).st = .loading → (s.hw.entry clu e).load = load → ∃ t, exec .residentTranslation s = .next t ∧ t.mem = s.mem ∧
          searching t [] ∧ (t.hw.entry clu e).code = img.code ∧
          (⟨s.hw.now + 32 * imageUnits img.code img.sites img.imports, .codeInstall,
            .nats [clu, e, load, 3, s.hw.now, q.core, q.slot]⟩ : Due) ∈ t.hw.agenda)) ∧
    (s.Inv → s.hw.arg = .blob [pa] bs → bs ≠ [] →
      (∀ i, pa / 65536 ≤ i → i ≤ (pa + bs.length - 1) / 65536 → i ∈ (s.hw.mod (moduleOf (pa / 2 ^ 28))).kmap) →
      ∃ t, exec .nvmeReadComplete s = .next t ∧ t.mem.readN (dramKeyOf pa) bs.length = bs) ∧
    (s.hw.sessionTenant session = some tn →
      (s.hw.arg = .blob [session] bs → ∃ t r, exec .packageLoadRequest s = .next t ∧ t.mem = s.mem ∧ packAt t t0.freePack = some r ∧
        r.st = .loading ∧ r.bytes = bs) ∧
      (s.hw.arg = .nats [session, n] → packAt s n = some p → p.st = .loading → let code := t0.loadCode n p.bytes
        (code ≠ 0 → ∃ t, exec .packageLoadRequest s = .next t ∧ t.mem = s.mem ∧ packAt t n = none ∧ said t (bytesLE 1 code ++ bytesLE 2 n)) ∧
        (code = 0 → pkgPlan p.bytes = [] → ∃ t r, exec .packageLoadRequest s = .next t ∧ t.mem = s.mem ∧ packAt t n = some r ∧ r.st = .loaded ∧
          r.name = BitVec.ofNat 256 (bval p.bytes 8 32) ∧ said t (bytesLE 1 0 ++ bytesLE 2 n) ∧
          (t.hw.mod me).boot.npkg = (s.hw.mod me).boot.npkg + 1)) ∧
      (s.hw.arg = .nats [session, n] → packAt s n = some p → p.st = .loaded → s.hw.inputs = [] → ∃ t, exec .packageUnloadRequest s = .next t ∧
        t.mem = s.mem ∧ packAt t n = some { p with st := .unloading })) ∧
    (s.hw.arg = .nats [tn, n] → packAt s n = some p → p.st = .unloading → s.hw.packBusy tn n p = false →
      ∃ t, exec .packageUnloadComplete s = .next t ∧
      packAt t n = none ∧ (t.hw.mod me).boot.npkg = (s.hw.mod me).boot.npkg + 1) ∧
    (s.Inv → s.hw.arg = .nats [session, tn, n, prin, gset, otag, prio, reqid] → packAt s n = some p → p.nodes = [rec_] → p.edges = [] →
      (s.hw.placeCells (s.hw.tenantCores me tn) [0] (s.hw.scratchUsed me tn) = none → ∃ t, exec .graphLaunch s = .next t ∧ t.mem = s.mem ∧
        (⟨s.hw.now + 64, .graphLaunch, s.hw.arg⟩ : Due) ∈ t.hw.agenda) ∧
      (s.hw.placeCells (s.hw.tenantCores me tn) [0] (s.hw.scratchUsed me tn) = some [(cell, len)] → cell % 32 = 0 →
        ∃ t id, exec .graphLaunch s = .next t ∧
        said t (bytesLE 8 reqid ++ bytesLE 8 id ++ bytesLE 8 0) ∧ (⟨s.hw.now + 9, .cellReleaseInsert, .nats [cell]⟩ : Due) ∈ t.hw.agenda ∧
        t.mem.val (cell + 32) 128 = (nodeRecord rec_ ⟨prin, gset, otag, prio⟩ id 0 cell).toNat))

/-- R36, R417, R469 to R476, R484: a session is bound to a tenant while BRS runs; a launch enters its die queue or is answered with its status; a
graph launch is begun; records are forwarded, and freed when acknowledged; the operator's requests; a cluster is allocated with its cores' set-up;
a clearing ends contexts, waits, and leaves zeros; a deletion clears the tenant's clusters and drops it; a report is sent.
Where it says more than the rules it is the model's choice: log 12, 17, 97, 100, 101. -/
def Obligations.Tenants : Prop :=
  ∀ (s : State) (m : LaunchMsg) (recs : List (BitVec 256)) (nonce : List Byte) (grants : BitVec 4096)
    (session tn n clu mode elim age deqb deql ovfb ovfl save cap root droot i j otag log x : Nat),
    let me := s.hw.self
    let md := s.hw.mod me
    let ten := md.tenant tn
    let said (t : State) (b : List Byte) : Prop := (t.hw.mod me).sent = md.sent ++ [(session, b)]
    let q8 := bits m.toNat 575 512
    let q9 := bits m.toNat 639 576
    let reqid := bits m.toNat 703 640
    let active : Prop := s.hw.serving = true ∧ ten.exist = true ∧ ten.deleting = false
    (s.hw.arg = .nats [session, tn] → active → SMap.find? md.sessions session = none → session < 65536 →
      ∃ t, exec .ultraEthernetSessionOpen s = .next t ∧ t.mem = s.mem ∧ SMap.find? (t.hw.mod me).sessions session = some tn) ∧
    (s.hw.sessionTenant session = some tn → s.hw.arg = .launch session m →
      (s.hw.launchStatus tn m ≠ 0 → ∃ t, exec .launchRequest s = .next t ∧ t.mem = s.mem ∧
        said t (bytesLE 8 reqid ++ bytesLE 8 0 ++ bytesLE 8 (s.hw.launchStatus tn m * 2 ^ 60)) ∧ t.hw.dies = s.hw.dies) ∧
      (s.hw.launchStatus tn m = 0 → q8 / 2 ^ 16 % 2 ^ 16 = 0 → ∃ t, exec .launchRequest s = .next t ∧ t.mem = s.mem ∧
        ∃ l, (⟨s.hw.now, .graphLaunch, .nats (session :: tn :: q9 / 2 ^ 48 :: l)⟩ : Due) ∈ t.hw.agenda) ∧
      (s.hw.launchStatus tn m = 0 → q8 / 2 ^ 16 % 2 ^ 16 ≠ 0 → q9 / 2 ^ 29 % 2 = 0 → me < 256 → let die := 8 * me + q8 / 2 ^ 8 % 2 ^ 8
        ∃ t tid, exec .launchRequest s = .next t ∧ t.mem = s.mem ∧ said t (bytesLE 8 reqid ++ bytesLE 8 tid ++ bytesLE 8 0) ∧
          ∃ e ∈ (t.hw.dieQueue die tn).entries, recTid e.rec_ = tid % 2 ^ 64 ∧ e.rec_.toNat % 2 ^ 512 = m.toNat % 2 ^ 512 ∧
            recPrin e.rec_ = q8 / 2 ^ 32 ∧ recPaired e.rec_ = q8.testBit 2)) ∧
    (s.hw.sessionTenant session = some tn →
      (s.hw.arg = .nats [session, 0] → (ten.events.drop ten.eventSent).take 64 = recs → recs ≠ [] →
        ∃ t, exec .eventForward s = .next t ∧ t.mem = s.mem ∧
        said t (recs.flatMap (fun r => bytesLE 32 r.toNat)) ∧ ((t.hw.mod me).tenant tn).eventSent = ten.eventSent + recs.length ∧
        ((t.hw.mod me).tenant tn).events = ten.events) ∧
      (s.hw.arg = .nats [session, 0, n] → n ≤ ten.eventSent → ∃ t, exec .tenantAcknowledge s = .next t ∧ t.mem = s.mem ∧
        ((t.hw.mod me).tenant tn).events = ten.events.drop n ∧ ((t.hw.mod me).tenant tn).eventSent = ten.eventSent - n)) ∧
    (s.hw.serving = true → ten.exist = false → tn < 64 → s.hw.arg = .operator (.createTenant tn) → ∃ t, exec .operatorRequest s = .next t ∧
      t.mem = s.mem ∧ (t.hw.mod me).tenant tn = { Tenant.none with exist := true }) ∧
    (s.hw.sessionTenant session = some tn → s.hw.arg = .operator (.readMap session) → ∃ t, exec .operatorRequest s = .next t ∧ t.mem = s.mem ∧
      said t md.capMap) ∧
    (active → ten.dir.length < 4096 → n < 2 ^ 32 → otag < 4096 → s.hw.arg = .operator (.setPrincipal tn n otag grants) →
      ∃ t, exec .operatorRequest s = .next t ∧ SMap.find? ((t.hw.mod me).tenant tn).dir n = some ⟨otag, grants⟩) ∧
    (active → s.hw.arg = .nats [clu, tn, mode, elim, age, deqb, deql, ovfb, ovfl, save, cap, root, droot] → clu / 512 = me → me < 256 →
      (s.hw.cluster clu).owner = none → clu ∉ md.clearing → 2 ≤ elim → elim ≤ 64 → deql ≤ 0x5C000 → ovfl ≤ 0x5C000 →
      ∃ t, exec .clusterAllocation s = .next t ∧ (t.hw.cluster clu).owner = some tn ∧ (t.hw.cluster clu).elim = elim ∧
        ((t.hw.mod me).tenant tn).pageRoot = root ∧
        (i < 16 → s.hw.coreDisabled (16 * clu + i) = false → let k := t.hw.core (16 * clu + i)
          k.age = age ∧ k.deqb = deqb ∧ k.deql = deql ∧ k.ovfb = ovfb ∧ k.ovfl = ovfl ∧ k.saveBase = some save ∧
          (⟨s.hw.now, .coreModeSet, .nats [16 * clu + i, mode]⟩ : Due) ∈ t.hw.agenda)) ∧
    ((∀ p ∈ s.hw.clusterSlots clu, (s.hw.ctx p.1 p.2).st = .free) →
      (s.hw.arg = .nats [clu] → ∃ t, exec .clusterClear s = .next t ∧ t.mem = s.mem ∧ clu ∈ (t.hw.mod (clu / 512)).clearing ∧
        (⟨s.hw.now, .clusterClear, .nats [clu, 1]⟩ : Due) ∈ t.hw.agenda) ∧
      (s.hw.arg = .nats [clu, x] → clu ∈ (s.hw.mod (clu / 512)).clearing →
        (s.hw.quiet clu = false → ∃ t, exec .clusterClear s = .next t ∧ t.mem = s.mem ∧
          (⟨s.hw.now + 16, .clusterClear, .nats [clu, 1]⟩ : Due) ∈ t.hw.agenda) ∧
        (s.Inv → s.hw.quiet clu = true → clu < 2 ^ 17 → ∃ t, exec .clusterClear s = .next t ∧ t.Inv ∧ (t.hw.cluster clu).owner = none ∧
          clu ∉ (t.hw.mod (clu / 512)).clearing ∧
          (i < 16 → j < 2 ^ 20 → t.mem.read (scratchKey (16 * clu + i) j) = 0 ∧ t.mem.tagOf (scratchKey (16 * clu + i) j) = 0) ∧
          (n < 2 ^ 21 → n / 16 ≠ clu → j < 2 ^ 20 → t.mem.read (scratchKey n j) = s.mem.read (scratchKey n j))))) ∧
    (s.hw.arg = .nats [tn] → ten.exist = true → ∃ t, exec .tenantDeletion s = .next t ∧ t.mem = s.mem ∧ ((t.hw.mod me).tenant tn).deleting = true ∧
      (∀ c ∈ ten.clusters, (⟨s.hw.now, .clusterClear, .nats [c]⟩ : Due) ∈ t.hw.agenda) ∧
      (⟨s.hw.now, .tenantDeletion, .nats [tn, 1]⟩ : Due) ∈ t.hw.agenda) ∧
    (s.hw.arg = .nats [tn, 1] →
      (ten.clusters ≠ [] → ∃ t, exec .tenantDeletion s = .next t ∧ t.mem = s.mem ∧
        (⟨s.hw.now + 16, .tenantDeletion, .nats [tn, 1]⟩ : Due) ∈ t.hw.agenda) ∧
      (ten.clusters = [] → ∃ t, exec .tenantDeletion s = .next t ∧ t.mem = s.mem ∧ SMap.find? (t.hw.mod me).tenants tn = none ∧
        ∀ e ∈ (t.hw.mod me).sessions, e.2 ≠ tn)) ∧
    (s.hw.arg = .blob [session, log] nonce → s.hw.serving = true → (session = 65536 ∨ s.hw.sessionTenant session = some tn) →
      ∃ t b, exec .attestationRequest s = .next t ∧ t.mem = s.mem ∧ said t b ∧ b.take 288 = s.hw.report nonce)

/-- R480 to R487, R22, R39: reset drops what was under way and clears the scratchpads; the boot order goes on from step to step, or halts with its
code; BRS then runs; the clock falls and rises by steps, and the module halts when it is too hot; telemetry is sampled every 65,536 cycles;
scrubs poison what fails its check.
Where it says more than the rules it is the model's choice: log 12, 23, 24, 25, 102, 108. -/
def Obligations.BootOrder : Prop :=
  ∀ (s : State) (l : List ThermalReading) (a b : Option (List Byte)) (img : List Byte) (granules : List Nat) (leaves : List Word)
    (n core cnt key j : Nat) (die : Nat) (rest bad : List Nat),
    let me := s.hw.self
    let m := s.hw.mod me
    let bt := m.boot
    let boot (t : State) : Boot := (t.hw.mod me).boot
    let goes (i : Instr) (code : Nat) : Prop := ∃ t, exec i s = .next t ∧ t.mem = s.mem ∧ (boot t).code = code ∧ (boot t).halt = false
    let halts (i : Instr) (code : Nat) : Prop := ∃ t, exec i s = .next t ∧ t.mem = s.mem ∧ (boot t).code = code ∧ (boot t).halt = true
    let fresh (i : Instr) : Prop := ∃ t, exec i s = .next t ∧ t.Inv ∧ t.hw.now = s.hw.now ∧ t.hw.count core = 0 ∧
      t.hw.agenda = State.reset.hw.agenda.map (fun d => { d with at_ := s.hw.now + d.at_ }) ∧
      boot t = Boot.reset ∧ t.hw.core core = Core.reset ∧ (j < 2 ^ 20 → t.mem.read (scratchKey core j) = 0) ∧
      (Config.dramKey ≤ key → t.mem.read key = s.mem.read key)
    (s.Inv → me < 256 → core < 2 ^ 21 + 2 ^ 13 → moduleOf core = me → fresh .powerOnReset ∧ (s.hw.arg = .nats [0xA5] → fresh .i3cReset)) ∧
    (s.hw.arg = .nats [n] → n ≠ 0xA5 → exec .i3cReset s = .next s) ∧
    (s.hw.arg = .nats [n] → bt.code = 1 → bt.halt = false → bt.numbered = false → n < 256 → (n = me ∨ s.hw.hasModule n = false) →
      ∃ t, exec .modnum s = .next t ∧ t.mem = s.mem ∧ t.hw.self = n ∧ (t.hw.mod n).boot.code = 2 ∧ (t.hw.mod n).boot.numbered = true) ∧
    exec .moduleNumberWaitExpiry s = .next s ∧
    (bt.halt = false →
      (bt.code = 2 → s.hw.arg = .blobs a b → let good := (vendorImage a).isSome || (vendorImage b).isSome
        ∃ t, exec .bootFirmwareVerify s = .next t ∧ t.mem = s.mem ∧ (boot t).code = (if good = true then 4 else 3) ∧ (boot t).halt = !good) ∧
      (bt.code = 4 →
        (s.Inv → s.hw.arg = .nats [] → ∃ t, exec .bootDramTrain s = .next t ∧ t.Inv ∧ (boot t).code = 5 ∧
          (t.hw.mod me).disabled = m.fused ∧
          (me * 2 ^ 41 ≤ n → n < (me + 1) * 2 ^ 41 → t.mem.read (dramKeyOf n) = 0 ∧ t.mem.tagOf (dramKeyOf n) = 0 ∧
            t.mem.isPoison (dramKeyOf n) = false)) ∧
        (s.hw.arg = .nats (die :: rest) → halts .bootDramTrain 4)) ∧
      (bt.code = 5 → ∃ t, exec .bootUplinkTrain s = .next t ∧ t.mem = s.mem ∧ (boot t).code = 6 ∧
        (n < 48 → ((t.hw.mod me).link n).st = .training)) ∧
      (bt.code = 6 → s.hw.arg = .words granules leaves → ∃ t, exec .bootKMapLock s = .next t ∧ (boot t).code = 7 ∧ (t.hw.mod me).kmap = granules ∧
        (t.hw.mod me).klocked = true) ∧
      (bt.code = 7 → s.hw.arg = .blobs a b →
        (a = some img → imageSigner img = some bt.signer → goes .bootBrsVerify 8) ∧
        (a = some img → imageSigner img ≠ some bt.signer → halts .bootBrsVerify 7) ∧ (a = none → halts .bootBrsVerify 7)) ∧
      (bt.code = 8 → goes .bootRelease 0xF ∧ (n < 32 → ∃ t, exec .bootRelease s = .next t ∧ (t.hw.core (firstService + 32 * me + n)).svc = true))) ∧
    (s.hw.arg = .thermal l → let h := (s.hw.sense l).mod me
      ((950 < h.hottest ∨ 3200000 < h.power) → ∃ t, exec .thermalThrottle s = .next t ∧ t.mem = s.mem ∧ (boot t).clock = min 15 (bt.clock + 1)) ∧
      (h.hottest ≤ 902 → h.power ≤ 3040000 → ∃ t, exec .thermalThrottle s = .next t ∧ t.mem = s.mem ∧ (boot t).clock = bt.clock - 1) ∧
      (1050 ≤ h.hottest → ∃ t, exec .thermalHalt s = .next t ∧ t.mem = s.mem ∧ (boot t).halt = true ∧ (boot t).code = 0xE ∧ (boot t).die = h.hotDie) ∧
      (h.hottest < 1050 → ∃ t, exec .thermalHalt s = .next t ∧ t.mem = s.mem ∧ boot t = bt)) ∧
    (∃ t, exec .telemetrySample s = .next t ∧ t.mem = s.mem ∧ (t.hw.mod me).telem = m.sample me (s.hw.now - m.since) ∧
      (⟨s.hw.now + 65536, .telemetrySample, .none⟩ : Due) ∈ t.hw.agenda) ∧
    (s.Inv → s.hw.arg = .nats (core :: cnt :: bad) → bad.Nodup → let grain := s.hw.grainNow (clusterOf core)
      let finds (i : Instr) (dram : Bool) (site rate : Nat) : Prop := SMap.get 0 (s.hw.core core).scrubAt site < grain →
        (∀ k ∈ bad, keyCore k = core ∧ keyDram k = dram ∧ k % 32 = 0) → cnt + 2 * bad.length ≤ 2 * rate → ∃ t, exec i s = .next t ∧
          (∀ k ∈ bad, t.mem.isPoison k = true) ∧ (∀ k, t.mem.read k = s.mem.read k) ∧ let place := 8 * (dieOf core % 8)
          let errors (u : State) (p : Nat) : Nat := SMap.get 0 (u.hw.mod (moduleOf core)).ecc (place + p)
          errors t site = errors s site + cnt ∧ errors t 3 = errors s 3 + bad.length
      (grain % 256 = 255 → finds .dramRefreshGrain true 0 4) ∧ (grain % 1024 = 511 → finds .scratchpadScrubGrain false 1 64) ∧
      (grain % 256 ≠ 255 → exec .dramRefreshGrain s = .next s) ∧ (grain % 1024 ≠ 511 → exec .scratchpadScrubGrain s = .next s)) ∧
    exec .linkCalibrationGrain s = .next s

/-! ### The machine as a whole -/

/-- R77, R479, R480, R451: after reset the cycle counter is 0, every slot of every core is Free with empty register files, and the status registers
hold the values of R77; scratchpads and tags are clear; the boot ROM is at step 1, no core is released, no uplink is up, the K map is empty; and
the state meets the invariant.
Where it says more than the rules it is the model's choice: log 6, 7. -/
def Obligations.ResetState : Prop :=
  let h := State.reset.hw
  State.reset.Inv ∧ h.now = 0 ∧
    (∀ core slot n, (h.ctx core slot).st = .free ∧ h.g core slot n = 0 ∧ h.isFull core slot n = true) ∧
    (∀ core slot, h.status core slot 0x00 = some 0 ∧ h.status core slot 0x01 = some 0 ∧ h.status core slot 0x02 = some 0 ∧
      h.status core slot 0x03 = some 0 ∧ h.status core slot 0x04 = some 0xA ∧ h.status core slot 0x06 = some 1024 ∧
      h.status core slot 0x0C = some 0 ∧ h.status core slot 0x0D = some 0 ∧ h.status core slot 0x0E = some 1 ∧ h.status core slot 0x0F = some 0 ∧
      h.status core slot 0x10 = some 0 ∧ h.status core slot 0x12 = some 0 ∧ h.status core slot 0x15 = some 0x0B02 ∧
        h.status core slot 0x16 = some 0) ∧
    (∀ core, (h.core core).wheel = false ∧ h.released core = false ∧ (h.core core).e4 = []) ∧
    (∀ core j, State.reset.mem.read (scratchKey core j) = 0 ∧ State.reset.mem.tagOf (scratchKey core j) = 0) ∧
    (∀ clu e, (h.entry clu e).st = .absent ∧ (h.cluster clu).owner = none) ∧
    (h.mod h.self).boot.status = 1 ∧ (∀ u, ((h.mod h.self).link u).st = .off) ∧ (h.mod h.self).kmap = [] ∧ (h.mod h.self).tenants = []

/-- The invariant of memory is kept: from every state whose memory is in its canonical form, a step leads to one whose memory is. -/
def Obligations.StepKeepsMemory : Prop := ∀ s t : State, s.Inv → step s = .next t → t.Inv

/-- R43 to R46, R57: the words of a well-formed instruction decode to that instruction, with every operand at every value that the encoding
admits, whatever stands behind them, and the chain has as many halfwords as its encoding. -/
def Obligations.EncodedDecodes : Prop :=
  ∀ (i : Instr) (ws rest : List Half), i.wf = true → encode i = some ws → decode (ws ++ rest) = .ok (i, ws.length)

/-- R52, R54, R212: where nothing else is due and one context of the first core may issue, the step runs the instruction that its halfwords
decode to, with the chain's place noted; halfwords that do not decode raise IllegalChain or UndefinedInstruction.
Where it says more than the rules it is the model's choice: log 5. -/
def Obligations.StepRunsDecoded : Prop :=
  ∀ (s : State) (core slot : Nat) (rest : List Nat) (ch : Chain) (e : BadChain),
    let c := s.hw.curAt core slot ch.raw.page ch.raw.op ch.raw.len
    s.hw.stopped = false → (∀ d ∈ s.hw.agenda, s.hw.now < d.at_) → (∀ d ∈ s.hw.inputs, s.hw.now < d.at_) → s.hw.deferredNow = none →
    s.hw.cores.map (fun (e : Nat × Core) => e.1) = core :: rest → s.hw.candidates core = [slot] → slot < 64 → (s.hw.ctx core slot).begun = true →
    (decodeChain (s.hw.codeFrom core slot) = .ok ch → s.hw.preCheck c ch = none →
      step s = exec ch.instr (s.onHw (fun h => { h with cur := some c }))) ∧
    (∀ cause sub frb, decodeChain (s.hw.codeFrom core slot) = .ok ch → s.hw.preCheck c ch = some (cause, sub, frb) →
      step s = .next (s.faultWith c cause sub frb)) ∧
    (decodeChain (s.hw.codeFrom core slot) = .error e →
      let c := s.hw.curAt core slot e.page e.op (e.widx + 1)
      step s = .next (s.faultWith c (if e.illegal then .illegalChain else .undefinedInstruction) 0 c.words))

/-- Words that the spec writes out decode to the instructions it gives them: `hold` (R257), `ckpt` (R258), `fork` (R234), `join` (R235),
`enq.die` (R238), `taskid` (R240), `steal` (R241). -/
def Obligations.SpecWords : Prop :=
  decode [0x7E60, 0x7C01, 0x1046] = .ok (.spillHold false 4 6, 3) ∧
    decode [0x7840, 0x7202] = .ok (.ckpt false ⟨2, 0, 64⟩, 2) ∧
    decode [0x7E80, 0x7A0A, 0x009C] = .ok (.fork false 9 10 12, 3) ∧
    decode [0x7E80, 0x7810, 0x0271] = .ok (.join false 7 ⟨1, 0, 16⟩, 3) ∧
    decode [0x7E80, 0x7C02, 0x0A42] = .ok (.enq false .die 4 ⟨2, 0, 0⟩, 3) ∧
    decode [0x7E80, 0x0C30] = .ok (.taskid false .tid 3, 2) ∧
    decode [0x7E80, 0x0EBC] = .ok (.steal false 11 12, 2)

/-- No instruction is refused, and every form that a chain carries completes: while a chain is being issued it answers a next state, whatever its
operands and the state are (a fault of R12 is the next state that it takes). -/
def Obligations.NothingRefused : Prop :=
  ∀ (i : Instr) (s : State), (∀ r, exec i s ≠ .refused r) ∧ (i.fullForm.isSome = true → s.hw.cur.isSome = true → ∃ t, exec i s = .next t)

/-- R11, R12, R81 to R83, R103, R206, R339: a chain that faults changes no register and no byte; its context is Faulted at the chain, with FRA and
FRB written and no other status register changed but its issue role, and a record goes to `e4`; nothing else has changed on other cores.
Where it says more than the rules it is the model's choice: log 30, 48. -/
def Obligations.FaultsTaken : Prop :=
  ∀ (s : State) (c : Cur) (cause : Cause) (sub frb : Nat),
    let x := s.hw.curCtx c
    let t := s.faultWith c cause sub frb
    let y := t.hw.curCtx c
    let k := s.hw.core c.core
    let fra := Cause.code cause + sub % 2 ^ 8 * 2 ^ 8 + (c.len - 1) % 2 ^ 3 * 2 ^ 20 + c.op % 2 ^ 6 * 2 ^ 23 + c.page % 2 ^ 4 * 2 ^ 29 +
      c.entry % 2 ^ 6 * 2 ^ 33 + c.pc % 2 ^ 17 * 2 ^ 39
    x.waiting = none → t.mem = s.mem ∧ y.st = .faulted ∧ y.park = none ∧ y.fra = BitVec.ofNat 64 fra ∧ y.frb = BitVec.ofNat 64 frb ∧ y.pc = c.pc ∧
      (∀ n, t.hw.g c.core c.slot n = s.hw.g c.core c.slot n ∧ t.hw.isFull c.core c.slot n = s.hw.isFull c.core c.slot n) ∧
      y.ts = x.ts ∧ y.decl = x.decl ∧ y.prio = x.prio ∧ y.otag = x.otag ∧ y.gset = x.gset ∧ y.prin = x.prin ∧ y.linksp = x.linksp ∧
      y.ckptb = x.ckptb ∧ y.steald = x.steald ∧ y.taskr = x.taskr ∧ y.bookid = x.bookid ∧ y.sg = x.sg ∧ y.p = x.p ∧ y.m = x.m ∧ y.lp = x.lp ∧
      (k.e4.length < 16 → k.e4Lost = false → (t.hw.core c.core).e4 =
        k.e4 ++ [eventRecord (s.hw.count c.core) c.core c.slot (Cause.code cause) x.flags 0x0001 fra (frb % 2 ^ 64)]) ∧
      (t.hw.core c.core).rf = k.rf ∧ (∀ d, d ≠ c.core → t.hw.core d = s.hw.core d) ∧
      ((k.chans.any (fun (e : Nat × Chan) => e.2.active && e.2.mask.getLsbD c.slot)) = true →
        (⟨s.hw.now, .barrierDeparture, .nats [c.core, c.slot]⟩ : Due) ∈ t.hw.agenda) ∧
      (∀ cl g, x.gang = some (cl, g) → cause ≠ .gangMember → (⟨s.hw.now, .gangMemberFault, .nats [cl, g, c.core]⟩ : Due) ∈ t.hw.agenda) ∧
      (x.booked = true → t.hw.bookEnds = s.hw.bookEnds ++ [(c.core, x.bookid.toNat, 1)])

/-- R107, R108, R10: the scalar forms with one result, and what they leave alone. With its registers at hand, and SHI's amount from 0 to 63, each
answers a next state, which differs only in the result that is bound for the destination, its full bit, and the issuing context's place and
issue count; where the destination is `g0` the result is discarded. -/
def Obligations.ScalarFrame : Prop :=
  ∀ (s : State) (c : Cur) (sw : Bool) (ty : ITy) (cd : Cond) (ts : Test) (kind : ShKind) (a x y : GReg) (imm : BitVec 40) (n : BitVec 6),
    let o := s.hw.curCtx c
    s.atHand c (regs [a, x, y]) →
    ∀ i ∈ [Instr.add sw ty a x y, .sub sw ty a x y, .mul sw ty a x y, .mulh sw ty a x y, .div sw ty a x y, .rem sw ty a x y, .min sw ty a x y,
        .max sw ty a x y, .cmp sw cd ty a x y, .addi sw ty a x imm, .cmpi sw cd ty a x imm, .ext sw ty a x, .and sw a x y, .or sw a x y,
        .xor sw a x y, .andn sw a x y, .shl sw a x y, .shr sw a x y, .sar sw a x y, .rot sw a x y, .sel sw ts a x y, .clz sw a x, .popc sw a x,
        .shi sw kind a x (n.setWidth 13), .mov sw a x, .li sw a imm], ∃ t, exec i s = .next t ∧
      let r := t.hw.curCtx c
      t.mem = s.mem ∧ OnlyCore c.core s t ∧ SameUnits c.core s t ∧ SameStatus o r ∧
        OthersYield c.core c.slot s t ∧
        (∀ n, t.hw.g c.core c.slot n = s.hw.g c.core c.slot n) ∧ (∀ n, n ≠ a.toNat → t.hw.isFull c.core c.slot n = s.hw.isFull c.core c.slot n) ∧
        (a ≠ 0 → t.hw.isFull c.core c.slot a.toNat = false ∧ ∃ u v, r.pend = o.pend ++ [.fixed a.toNat u v]) ∧
        (a = 0 → t.hw.isFull c.core c.slot 0 = true ∧ r.pend = o.pend)

/-- R85, R107, R316: a form whose source has a result outstanding is not issued and waits with TS.HAZ set; one whose source is empty parks with
reason full bit; in a booked context either is CalendarViolation with SUB 1; as time passes, a result due in the next cycle lands in its
register, and the register is full.
Where it says more than the rules it is the model's choice: log 105. -/
def Obligations.OperandsWait : Prop :=
  ∀ (s : State) (c : Cur) (sw : Bool) (a b : GReg) (core slot r : Nat) (v : Word) (k : Core) (x : Ctx),
    let o := s.hw.curCtx c
    (s.hw.cur = some c →
      (o.pending b.toNat = true → o.booked = false → o.pend.any (fun p => match p with | .trap n _ => n == b.toNat | _ => false) = false →
        ∃ t, exec (.mov sw a b) s = .next t ∧ t.mem = s.mem ∧ t.hw.cur = none ∧ (t.hw.curCtx c).pc = o.pc ∧ (t.hw.curCtx c).pend = o.pend ∧
          (t.hw.curCtx c).tsBit tsHAZ = true ∧ s.hw.now < (t.hw.curCtx c).notBefore ∧ (t.hw.core c.core).lastIssue = (s.hw.core c.core).lastIssue) ∧
      (o.pending b.toNat = false → s.hw.isFull c.core c.slot b.toNat = false → o.booked = false →
        ∃ t, exec (.mov sw a b) s = .next t ∧ t.mem = s.mem ∧ (t.hw.curCtx c).st = .parked ∧ (t.hw.curCtx c).park = some (.fullBit b.toNat) ∧
          (t.hw.curCtx c).pc = c.pc ∧ (t.hw.curCtx c).pend = o.pend) ∧
      ((o.pending b.toNat = true ∨ s.hw.isFull c.core c.slot b.toNat = false) → o.booked = true →
        exec (.mov sw a b) s = .next (s.faultWith c .calendarViolation 1 0))) ∧
    (s.hw.cores = [(core, k)] → k.slots = [(slot, x)] → x.pend = [.fixed r (s.hw.now + 1) v] → 0 < r → x.maskPend = [] → x.late = [] →
      s.hw.bookEnds = [] → s.hw.stopped = false → (∀ d ∈ s.hw.agenda, s.hw.now < d.at_) → (∀ d ∈ s.hw.inputs, s.hw.now < d.at_) →
      s.hw.deferredNow = none → s.issueFirst [core] = none → ∃ t, step s = .next t ∧ t.mem = s.mem ∧ t.hw.now = s.hw.now + 1 ∧
        t.hw.g core slot r = v ∧ t.hw.isFull core slot r = true ∧ (t.hw.ctx core slot).pend = [])
end

