-- ==== Sys2Proof/Laws/State.lean ====
section
/-! SUPPORT. One lemma for each field and each update of the records of State, so that no proof unfolds an update. -/

namespace Sys2Proof.Machine

/-! ### State -/

@[simp] theorem State.onHw_hw (s : State) (f : Hw → Hw) : (s.onHw f).hw = f s.hw := rfl
@[simp] theorem State.onHw_mem (s : State) (f : Hw → Hw) : (s.onHw f).mem = s.mem := rfl
@[simp] theorem State.onMem_hw (s : State) (f : Mem → Mem) : (s.onMem f).hw = s.hw := rfl
@[simp] theorem State.onMem_mem (s : State) (f : Mem → Mem) : (s.onMem f).mem = f s.mem := rfl

/-! ### Hw -/

@[simp] theorem Hw.setCore_now (h : Hw) (c : Nat) (k : Core) : (h.setCore c k).now = h.now := rfl
@[simp] theorem Hw.setCore_agenda (h : Hw) (c : Nat) (k : Core) : (h.setCore c k).agenda = h.agenda := rfl
@[simp] theorem Hw.setCore_inputs (h : Hw) (c : Nat) (k : Core) : (h.setCore c k).inputs = h.inputs := rfl
@[simp] theorem Hw.setCore_cur (h : Hw) (c : Nat) (k : Core) : (h.setCore c k).cur = h.cur := rfl
@[simp] theorem Hw.setCore_arg (h : Hw) (c : Nat) (k : Core) : (h.setCore c k).arg = h.arg := rfl
@[simp] theorem Hw.setCore_self (h : Hw) (c : Nat) (k : Core) : (h.setCore c k).self = h.self := rfl
@[simp] theorem Hw.setCore_clusters (h : Hw) (c : Nat) (k : Core) : (h.setCore c k).clusters = h.clusters := rfl
@[simp] theorem Hw.setCore_dies (h : Hw) (c : Nat) (k : Core) : (h.setCore c k).dies = h.dies := rfl
@[simp] theorem Hw.setCore_mods (h : Hw) (c : Nat) (k : Core) : (h.setCore c k).mods = h.mods := rfl
@[simp] theorem Hw.setCore_cells (h : Hw) (c : Nat) (k : Core) : (h.setCore c k).cells = h.cells := rfl
@[simp] theorem Hw.setCore_reds (h : Hw) (c : Nat) (k : Core) : (h.setCore c k).reds = h.reds := rfl
@[simp] theorem Hw.setCore_nodeAt (h : Hw) (c : Nat) (k : Core) : (h.setCore c k).nodeAt = h.nodeAt := rfl
@[simp] theorem Hw.setCore_bookEnds (h : Hw) (c : Nat) (k : Core) : (h.setCore c k).bookEnds = h.bookEnds := rfl
@[simp] theorem Hw.setCore_freeCtr (h : Hw) (c : Nat) (k : Core) : (h.setCore c k).freeCtr = h.freeCtr := rfl
@[simp] theorem Hw.setCore_nextTxn (h : Hw) (c : Nat) (k : Core) : (h.setCore c k).nextTxn = h.nextTxn := rfl

@[simp] theorem Hw.modCore_now (h : Hw) (c : Nat) (f : Core → Core) : (h.modCore c f).now = h.now := rfl
@[simp] theorem Hw.modCore_agenda (h : Hw) (c : Nat) (f : Core → Core) : (h.modCore c f).agenda = h.agenda := rfl
@[simp] theorem Hw.modCore_inputs (h : Hw) (c : Nat) (f : Core → Core) : (h.modCore c f).inputs = h.inputs := rfl
@[simp] theorem Hw.modCore_cur (h : Hw) (c : Nat) (f : Core → Core) : (h.modCore c f).cur = h.cur := rfl
@[simp] theorem Hw.modCore_arg (h : Hw) (c : Nat) (f : Core → Core) : (h.modCore c f).arg = h.arg := rfl
@[simp] theorem Hw.modCore_self (h : Hw) (c : Nat) (f : Core → Core) : (h.modCore c f).self = h.self := rfl
@[simp] theorem Hw.modCore_clusters (h : Hw) (c : Nat) (f : Core → Core) : (h.modCore c f).clusters = h.clusters := rfl
@[simp] theorem Hw.modCore_dies (h : Hw) (c : Nat) (f : Core → Core) : (h.modCore c f).dies = h.dies := rfl
@[simp] theorem Hw.modCore_mods (h : Hw) (c : Nat) (f : Core → Core) : (h.modCore c f).mods = h.mods := rfl
@[simp] theorem Hw.modCore_cells (h : Hw) (c : Nat) (f : Core → Core) : (h.modCore c f).cells = h.cells := rfl
@[simp] theorem Hw.modCore_reds (h : Hw) (c : Nat) (f : Core → Core) : (h.modCore c f).reds = h.reds := rfl
@[simp] theorem Hw.modCore_nodeAt (h : Hw) (c : Nat) (f : Core → Core) : (h.modCore c f).nodeAt = h.nodeAt := rfl
@[simp] theorem Hw.modCore_bookEnds (h : Hw) (c : Nat) (f : Core → Core) : (h.modCore c f).bookEnds = h.bookEnds := rfl
@[simp] theorem Hw.modCore_freeCtr (h : Hw) (c : Nat) (f : Core → Core) : (h.modCore c f).freeCtr = h.freeCtr := rfl
@[simp] theorem Hw.modCore_nextTxn (h : Hw) (c : Nat) (f : Core → Core) : (h.modCore c f).nextTxn = h.nextTxn := rfl

@[simp] theorem Hw.setCtx_now (h : Hw) (c s : Nat) (x : Ctx) : (h.setCtx c s x).now = h.now := rfl
@[simp] theorem Hw.setCtx_agenda (h : Hw) (c s : Nat) (x : Ctx) : (h.setCtx c s x).agenda = h.agenda := rfl
@[simp] theorem Hw.setCtx_inputs (h : Hw) (c s : Nat) (x : Ctx) : (h.setCtx c s x).inputs = h.inputs := rfl
@[simp] theorem Hw.setCtx_cur (h : Hw) (c s : Nat) (x : Ctx) : (h.setCtx c s x).cur = h.cur := rfl
@[simp] theorem Hw.setCtx_arg (h : Hw) (c s : Nat) (x : Ctx) : (h.setCtx c s x).arg = h.arg := rfl
@[simp] theorem Hw.setCtx_self (h : Hw) (c s : Nat) (x : Ctx) : (h.setCtx c s x).self = h.self := rfl
@[simp] theorem Hw.setCtx_clusters (h : Hw) (c s : Nat) (x : Ctx) : (h.setCtx c s x).clusters = h.clusters := rfl
@[simp] theorem Hw.setCtx_dies (h : Hw) (c s : Nat) (x : Ctx) : (h.setCtx c s x).dies = h.dies := rfl
@[simp] theorem Hw.setCtx_mods (h : Hw) (c s : Nat) (x : Ctx) : (h.setCtx c s x).mods = h.mods := rfl
@[simp] theorem Hw.setCtx_cells (h : Hw) (c s : Nat) (x : Ctx) : (h.setCtx c s x).cells = h.cells := rfl
@[simp] theorem Hw.setCtx_reds (h : Hw) (c s : Nat) (x : Ctx) : (h.setCtx c s x).reds = h.reds := rfl
@[simp] theorem Hw.setCtx_nodeAt (h : Hw) (c s : Nat) (x : Ctx) : (h.setCtx c s x).nodeAt = h.nodeAt := rfl
@[simp] theorem Hw.setCtx_bookEnds (h : Hw) (c s : Nat) (x : Ctx) : (h.setCtx c s x).bookEnds = h.bookEnds := rfl
@[simp] theorem Hw.setCtx_freeCtr (h : Hw) (c s : Nat) (x : Ctx) : (h.setCtx c s x).freeCtr = h.freeCtr := rfl
@[simp] theorem Hw.setCtx_nextTxn (h : Hw) (c s : Nat) (x : Ctx) : (h.setCtx c s x).nextTxn = h.nextTxn := rfl

@[simp] theorem Hw.modCtx_now (h : Hw) (c s : Nat) (f : Ctx → Ctx) : (h.modCtx c s f).now = h.now := rfl
@[simp] theorem Hw.modCtx_agenda (h : Hw) (c s : Nat) (f : Ctx → Ctx) : (h.modCtx c s f).agenda = h.agenda := rfl
@[simp] theorem Hw.modCtx_inputs (h : Hw) (c s : Nat) (f : Ctx → Ctx) : (h.modCtx c s f).inputs = h.inputs := rfl
@[simp] theorem Hw.modCtx_cur (h : Hw) (c s : Nat) (f : Ctx → Ctx) : (h.modCtx c s f).cur = h.cur := rfl
@[simp] theorem Hw.modCtx_arg (h : Hw) (c s : Nat) (f : Ctx → Ctx) : (h.modCtx c s f).arg = h.arg := rfl
@[simp] theorem Hw.modCtx_self (h : Hw) (c s : Nat) (f : Ctx → Ctx) : (h.modCtx c s f).self = h.self := rfl
@[simp] theorem Hw.modCtx_clusters (h : Hw) (c s : Nat) (f : Ctx → Ctx) : (h.modCtx c s f).clusters = h.clusters := rfl
@[simp] theorem Hw.modCtx_dies (h : Hw) (c s : Nat) (f : Ctx → Ctx) : (h.modCtx c s f).dies = h.dies := rfl
@[simp] theorem Hw.modCtx_mods (h : Hw) (c s : Nat) (f : Ctx → Ctx) : (h.modCtx c s f).mods = h.mods := rfl
@[simp] theorem Hw.modCtx_cells (h : Hw) (c s : Nat) (f : Ctx → Ctx) : (h.modCtx c s f).cells = h.cells := rfl
@[simp] theorem Hw.modCtx_reds (h : Hw) (c s : Nat) (f : Ctx → Ctx) : (h.modCtx c s f).reds = h.reds := rfl
@[simp] theorem Hw.modCtx_nodeAt (h : Hw) (c s : Nat) (f : Ctx → Ctx) : (h.modCtx c s f).nodeAt = h.nodeAt := rfl
@[simp] theorem Hw.modCtx_bookEnds (h : Hw) (c s : Nat) (f : Ctx → Ctx) : (h.modCtx c s f).bookEnds = h.bookEnds := rfl
@[simp] theorem Hw.modCtx_freeCtr (h : Hw) (c s : Nat) (f : Ctx → Ctx) : (h.modCtx c s f).freeCtr = h.freeCtr := rfl
@[simp] theorem Hw.modCtx_nextTxn (h : Hw) (c s : Nat) (f : Ctx → Ctx) : (h.modCtx c s f).nextTxn = h.nextTxn := rfl

@[simp] theorem Hw.modSlot_now (h : Hw) (c s : Nat) (f : Core → Ctx → Core) : (h.modSlot c s f).now = h.now := rfl
@[simp] theorem Hw.modSlot_agenda (h : Hw) (c s : Nat) (f : Core → Ctx → Core) : (h.modSlot c s f).agenda = h.agenda := rfl
@[simp] theorem Hw.modSlot_inputs (h : Hw) (c s : Nat) (f : Core → Ctx → Core) : (h.modSlot c s f).inputs = h.inputs := rfl
@[simp] theorem Hw.modSlot_cur (h : Hw) (c s : Nat) (f : Core → Ctx → Core) : (h.modSlot c s f).cur = h.cur := rfl
@[simp] theorem Hw.modSlot_arg (h : Hw) (c s : Nat) (f : Core → Ctx → Core) : (h.modSlot c s f).arg = h.arg := rfl
@[simp] theorem Hw.modSlot_self (h : Hw) (c s : Nat) (f : Core → Ctx → Core) : (h.modSlot c s f).self = h.self := rfl
@[simp] theorem Hw.modSlot_clusters (h : Hw) (c s : Nat) (f : Core → Ctx → Core) : (h.modSlot c s f).clusters = h.clusters := rfl
@[simp] theorem Hw.modSlot_dies (h : Hw) (c s : Nat) (f : Core → Ctx → Core) : (h.modSlot c s f).dies = h.dies := rfl
@[simp] theorem Hw.modSlot_mods (h : Hw) (c s : Nat) (f : Core → Ctx → Core) : (h.modSlot c s f).mods = h.mods := rfl
@[simp] theorem Hw.modSlot_cells (h : Hw) (c s : Nat) (f : Core → Ctx → Core) : (h.modSlot c s f).cells = h.cells := rfl
@[simp] theorem Hw.modSlot_reds (h : Hw) (c s : Nat) (f : Core → Ctx → Core) : (h.modSlot c s f).reds = h.reds := rfl
@[simp] theorem Hw.modSlot_nodeAt (h : Hw) (c s : Nat) (f : Core → Ctx → Core) : (h.modSlot c s f).nodeAt = h.nodeAt := rfl
@[simp] theorem Hw.modSlot_bookEnds (h : Hw) (c s : Nat) (f : Core → Ctx → Core) : (h.modSlot c s f).bookEnds = h.bookEnds := rfl
@[simp] theorem Hw.modSlot_freeCtr (h : Hw) (c s : Nat) (f : Core → Ctx → Core) : (h.modSlot c s f).freeCtr = h.freeCtr := rfl
@[simp] theorem Hw.modSlot_nextTxn (h : Hw) (c s : Nat) (f : Core → Ctx → Core) : (h.modSlot c s f).nextTxn = h.nextTxn := rfl

@[simp] theorem Hw.modCur_now (h : Hw) (c : Cur) (f : Ctx → Ctx) : (h.modCur c f).now = h.now := rfl
@[simp] theorem Hw.modCur_agenda (h : Hw) (c : Cur) (f : Ctx → Ctx) : (h.modCur c f).agenda = h.agenda := rfl
@[simp] theorem Hw.modCur_inputs (h : Hw) (c : Cur) (f : Ctx → Ctx) : (h.modCur c f).inputs = h.inputs := rfl
@[simp] theorem Hw.modCur_cur (h : Hw) (c : Cur) (f : Ctx → Ctx) : (h.modCur c f).cur = h.cur := rfl
@[simp] theorem Hw.modCur_arg (h : Hw) (c : Cur) (f : Ctx → Ctx) : (h.modCur c f).arg = h.arg := rfl
@[simp] theorem Hw.modCur_self (h : Hw) (c : Cur) (f : Ctx → Ctx) : (h.modCur c f).self = h.self := rfl
@[simp] theorem Hw.modCur_clusters (h : Hw) (c : Cur) (f : Ctx → Ctx) : (h.modCur c f).clusters = h.clusters := rfl
@[simp] theorem Hw.modCur_dies (h : Hw) (c : Cur) (f : Ctx → Ctx) : (h.modCur c f).dies = h.dies := rfl
@[simp] theorem Hw.modCur_mods (h : Hw) (c : Cur) (f : Ctx → Ctx) : (h.modCur c f).mods = h.mods := rfl
@[simp] theorem Hw.modCur_cells (h : Hw) (c : Cur) (f : Ctx → Ctx) : (h.modCur c f).cells = h.cells := rfl
@[simp] theorem Hw.modCur_reds (h : Hw) (c : Cur) (f : Ctx → Ctx) : (h.modCur c f).reds = h.reds := rfl
@[simp] theorem Hw.modCur_nodeAt (h : Hw) (c : Cur) (f : Ctx → Ctx) : (h.modCur c f).nodeAt = h.nodeAt := rfl
@[simp] theorem Hw.modCur_bookEnds (h : Hw) (c : Cur) (f : Ctx → Ctx) : (h.modCur c f).bookEnds = h.bookEnds := rfl
@[simp] theorem Hw.modCur_freeCtr (h : Hw) (c : Cur) (f : Ctx → Ctx) : (h.modCur c f).freeCtr = h.freeCtr := rfl
@[simp] theorem Hw.modCur_nextTxn (h : Hw) (c : Cur) (f : Ctx → Ctx) : (h.modCur c f).nextTxn = h.nextTxn := rfl

@[simp] theorem Hw.modCluster_now (h : Hw) (c : Nat) (f : Cluster → Cluster) : (h.modCluster c f).now = h.now := rfl
@[simp] theorem Hw.modCluster_agenda (h : Hw) (c : Nat) (f : Cluster → Cluster) : (h.modCluster c f).agenda = h.agenda := rfl
@[simp] theorem Hw.modCluster_inputs (h : Hw) (c : Nat) (f : Cluster → Cluster) : (h.modCluster c f).inputs = h.inputs := rfl
@[simp] theorem Hw.modCluster_cur (h : Hw) (c : Nat) (f : Cluster → Cluster) : (h.modCluster c f).cur = h.cur := rfl
@[simp] theorem Hw.modCluster_arg (h : Hw) (c : Nat) (f : Cluster → Cluster) : (h.modCluster c f).arg = h.arg := rfl
@[simp] theorem Hw.modCluster_self (h : Hw) (c : Nat) (f : Cluster → Cluster) : (h.modCluster c f).self = h.self := rfl
@[simp] theorem Hw.modCluster_cores (h : Hw) (c : Nat) (f : Cluster → Cluster) : (h.modCluster c f).cores = h.cores := rfl
@[simp] theorem Hw.modCluster_dies (h : Hw) (c : Nat) (f : Cluster → Cluster) : (h.modCluster c f).dies = h.dies := rfl
@[simp] theorem Hw.modCluster_mods (h : Hw) (c : Nat) (f : Cluster → Cluster) : (h.modCluster c f).mods = h.mods := rfl
@[simp] theorem Hw.modCluster_cells (h : Hw) (c : Nat) (f : Cluster → Cluster) : (h.modCluster c f).cells = h.cells := rfl
@[simp] theorem Hw.modCluster_reds (h : Hw) (c : Nat) (f : Cluster → Cluster) : (h.modCluster c f).reds = h.reds := rfl
@[simp] theorem Hw.modCluster_nodeAt (h : Hw) (c : Nat) (f : Cluster → Cluster) : (h.modCluster c f).nodeAt = h.nodeAt := rfl
@[simp] theorem Hw.modCluster_bookEnds (h : Hw) (c : Nat) (f : Cluster → Cluster) : (h.modCluster c f).bookEnds = h.bookEnds := rfl
@[simp] theorem Hw.modCluster_freeCtr (h : Hw) (c : Nat) (f : Cluster → Cluster) : (h.modCluster c f).freeCtr = h.freeCtr := rfl
@[simp] theorem Hw.modCluster_nextTxn (h : Hw) (c : Nat) (f : Cluster → Cluster) : (h.modCluster c f).nextTxn = h.nextTxn := rfl

@[simp] theorem Hw.modDie_now (h : Hw) (d : Nat) (f : Die → Die) : (h.modDie d f).now = h.now := rfl
@[simp] theorem Hw.modDie_agenda (h : Hw) (d : Nat) (f : Die → Die) : (h.modDie d f).agenda = h.agenda := rfl
@[simp] theorem Hw.modDie_inputs (h : Hw) (d : Nat) (f : Die → Die) : (h.modDie d f).inputs = h.inputs := rfl
@[simp] theorem Hw.modDie_cur (h : Hw) (d : Nat) (f : Die → Die) : (h.modDie d f).cur = h.cur := rfl
@[simp] theorem Hw.modDie_arg (h : Hw) (d : Nat) (f : Die → Die) : (h.modDie d f).arg = h.arg := rfl
@[simp] theorem Hw.modDie_self (h : Hw) (d : Nat) (f : Die → Die) : (h.modDie d f).self = h.self := rfl
@[simp] theorem Hw.modDie_cores (h : Hw) (d : Nat) (f : Die → Die) : (h.modDie d f).cores = h.cores := rfl
@[simp] theorem Hw.modDie_clusters (h : Hw) (d : Nat) (f : Die → Die) : (h.modDie d f).clusters = h.clusters := rfl
@[simp] theorem Hw.modDie_mods (h : Hw) (d : Nat) (f : Die → Die) : (h.modDie d f).mods = h.mods := rfl
@[simp] theorem Hw.modDie_cells (h : Hw) (d : Nat) (f : Die → Die) : (h.modDie d f).cells = h.cells := rfl
@[simp] theorem Hw.modDie_reds (h : Hw) (d : Nat) (f : Die → Die) : (h.modDie d f).reds = h.reds := rfl
@[simp] theorem Hw.modDie_nodeAt (h : Hw) (d : Nat) (f : Die → Die) : (h.modDie d f).nodeAt = h.nodeAt := rfl
@[simp] theorem Hw.modDie_bookEnds (h : Hw) (d : Nat) (f : Die → Die) : (h.modDie d f).bookEnds = h.bookEnds := rfl
@[simp] theorem Hw.modDie_freeCtr (h : Hw) (d : Nat) (f : Die → Die) : (h.modDie d f).freeCtr = h.freeCtr := rfl
@[simp] theorem Hw.modDie_nextTxn (h : Hw) (d : Nat) (f : Die → Die) : (h.modDie d f).nextTxn = h.nextTxn := rfl

@[simp] theorem Hw.modMod_now (h : Hw) (m : Nat) (f : Module → Module) : (h.modMod m f).now = h.now := rfl
@[simp] theorem Hw.modMod_agenda (h : Hw) (m : Nat) (f : Module → Module) : (h.modMod m f).agenda = h.agenda := rfl
@[simp] theorem Hw.modMod_inputs (h : Hw) (m : Nat) (f : Module → Module) : (h.modMod m f).inputs = h.inputs := rfl
@[simp] theorem Hw.modMod_cur (h : Hw) (m : Nat) (f : Module → Module) : (h.modMod m f).cur = h.cur := rfl
@[simp] theorem Hw.modMod_arg (h : Hw) (m : Nat) (f : Module → Module) : (h.modMod m f).arg = h.arg := rfl
@[simp] theorem Hw.modMod_self (h : Hw) (m : Nat) (f : Module → Module) : (h.modMod m f).self = h.self := rfl
@[simp] theorem Hw.modMod_cores (h : Hw) (m : Nat) (f : Module → Module) : (h.modMod m f).cores = h.cores := rfl
@[simp] theorem Hw.modMod_clusters (h : Hw) (m : Nat) (f : Module → Module) : (h.modMod m f).clusters = h.clusters := rfl
@[simp] theorem Hw.modMod_dies (h : Hw) (m : Nat) (f : Module → Module) : (h.modMod m f).dies = h.dies := rfl
@[simp] theorem Hw.modMod_cells (h : Hw) (m : Nat) (f : Module → Module) : (h.modMod m f).cells = h.cells := rfl
@[simp] theorem Hw.modMod_reds (h : Hw) (m : Nat) (f : Module → Module) : (h.modMod m f).reds = h.reds := rfl
@[simp] theorem Hw.modMod_nodeAt (h : Hw) (m : Nat) (f : Module → Module) : (h.modMod m f).nodeAt = h.nodeAt := rfl
@[simp] theorem Hw.modMod_bookEnds (h : Hw) (m : Nat) (f : Module → Module) : (h.modMod m f).bookEnds = h.bookEnds := rfl
@[simp] theorem Hw.modMod_freeCtr (h : Hw) (m : Nat) (f : Module → Module) : (h.modMod m f).freeCtr = h.freeCtr := rfl
@[simp] theorem Hw.modMod_nextTxn (h : Hw) (m : Nat) (f : Module → Module) : (h.modMod m f).nextTxn = h.nextTxn := rfl

@[simp] theorem Hw.schedule_now (h : Hw) (d : Nat) (i : Instr) (a : Arg) : (h.schedule d i a).now = h.now := rfl
@[simp] theorem Hw.schedule_inputs (h : Hw) (d : Nat) (i : Instr) (a : Arg) : (h.schedule d i a).inputs = h.inputs := rfl
@[simp] theorem Hw.schedule_cur (h : Hw) (d : Nat) (i : Instr) (a : Arg) : (h.schedule d i a).cur = h.cur := rfl
@[simp] theorem Hw.schedule_arg (h : Hw) (d : Nat) (i : Instr) (a : Arg) : (h.schedule d i a).arg = h.arg := rfl
@[simp] theorem Hw.schedule_self (h : Hw) (d : Nat) (i : Instr) (a : Arg) : (h.schedule d i a).self = h.self := rfl
@[simp] theorem Hw.schedule_cores (h : Hw) (d : Nat) (i : Instr) (a : Arg) : (h.schedule d i a).cores = h.cores := rfl
@[simp] theorem Hw.schedule_clusters (h : Hw) (d : Nat) (i : Instr) (a : Arg) : (h.schedule d i a).clusters = h.clusters := rfl
@[simp] theorem Hw.schedule_dies (h : Hw) (d : Nat) (i : Instr) (a : Arg) : (h.schedule d i a).dies = h.dies := rfl
@[simp] theorem Hw.schedule_mods (h : Hw) (d : Nat) (i : Instr) (a : Arg) : (h.schedule d i a).mods = h.mods := rfl
@[simp] theorem Hw.schedule_cells (h : Hw) (d : Nat) (i : Instr) (a : Arg) : (h.schedule d i a).cells = h.cells := rfl
@[simp] theorem Hw.schedule_reds (h : Hw) (d : Nat) (i : Instr) (a : Arg) : (h.schedule d i a).reds = h.reds := rfl
@[simp] theorem Hw.schedule_nodeAt (h : Hw) (d : Nat) (i : Instr) (a : Arg) : (h.schedule d i a).nodeAt = h.nodeAt := rfl
@[simp] theorem Hw.schedule_bookEnds (h : Hw) (d : Nat) (i : Instr) (a : Arg) : (h.schedule d i a).bookEnds = h.bookEnds := rfl
@[simp] theorem Hw.schedule_freeCtr (h : Hw) (d : Nat) (i : Instr) (a : Arg) : (h.schedule d i a).freeCtr = h.freeCtr := rfl
@[simp] theorem Hw.schedule_nextTxn (h : Hw) (d : Nat) (i : Instr) (a : Arg) : (h.schedule d i a).nextTxn = h.nextTxn := rfl

@[simp] theorem Hw.after_now (h : Hw) (d : Nat) (i : Instr) (a : Arg) : (h.after d i a).now = h.now := rfl
@[simp] theorem Hw.after_inputs (h : Hw) (d : Nat) (i : Instr) (a : Arg) : (h.after d i a).inputs = h.inputs := rfl
@[simp] theorem Hw.after_cur (h : Hw) (d : Nat) (i : Instr) (a : Arg) : (h.after d i a).cur = h.cur := rfl
@[simp] theorem Hw.after_arg (h : Hw) (d : Nat) (i : Instr) (a : Arg) : (h.after d i a).arg = h.arg := rfl
@[simp] theorem Hw.after_self (h : Hw) (d : Nat) (i : Instr) (a : Arg) : (h.after d i a).self = h.self := rfl
@[simp] theorem Hw.after_cores (h : Hw) (d : Nat) (i : Instr) (a : Arg) : (h.after d i a).cores = h.cores := rfl
@[simp] theorem Hw.after_clusters (h : Hw) (d : Nat) (i : Instr) (a : Arg) : (h.after d i a).clusters = h.clusters := rfl
@[simp] theorem Hw.after_dies (h : Hw) (d : Nat) (i : Instr) (a : Arg) : (h.after d i a).dies = h.dies := rfl
@[simp] theorem Hw.after_mods (h : Hw) (d : Nat) (i : Instr) (a : Arg) : (h.after d i a).mods = h.mods := rfl
@[simp] theorem Hw.after_cells (h : Hw) (d : Nat) (i : Instr) (a : Arg) : (h.after d i a).cells = h.cells := rfl
@[simp] theorem Hw.after_reds (h : Hw) (d : Nat) (i : Instr) (a : Arg) : (h.after d i a).reds = h.reds := rfl
@[simp] theorem Hw.after_nodeAt (h : Hw) (d : Nat) (i : Instr) (a : Arg) : (h.after d i a).nodeAt = h.nodeAt := rfl
@[simp] theorem Hw.after_bookEnds (h : Hw) (d : Nat) (i : Instr) (a : Arg) : (h.after d i a).bookEnds = h.bookEnds := rfl
@[simp] theorem Hw.after_freeCtr (h : Hw) (d : Nat) (i : Instr) (a : Arg) : (h.after d i a).freeCtr = h.freeCtr := rfl
@[simp] theorem Hw.after_nextTxn (h : Hw) (d : Nat) (i : Instr) (a : Arg) : (h.after d i a).nextTxn = h.nextTxn := rfl

@[simp] theorem Hw.unschedule_now (h : Hw) (p : Due → Bool) : (h.unschedule p).now = h.now := rfl
@[simp] theorem Hw.unschedule_inputs (h : Hw) (p : Due → Bool) : (h.unschedule p).inputs = h.inputs := rfl
@[simp] theorem Hw.unschedule_cur (h : Hw) (p : Due → Bool) : (h.unschedule p).cur = h.cur := rfl
@[simp] theorem Hw.unschedule_arg (h : Hw) (p : Due → Bool) : (h.unschedule p).arg = h.arg := rfl
@[simp] theorem Hw.unschedule_self (h : Hw) (p : Due → Bool) : (h.unschedule p).self = h.self := rfl
@[simp] theorem Hw.unschedule_cores (h : Hw) (p : Due → Bool) : (h.unschedule p).cores = h.cores := rfl
@[simp] theorem Hw.unschedule_clusters (h : Hw) (p : Due → Bool) : (h.unschedule p).clusters = h.clusters := rfl
@[simp] theorem Hw.unschedule_dies (h : Hw) (p : Due → Bool) : (h.unschedule p).dies = h.dies := rfl
@[simp] theorem Hw.unschedule_mods (h : Hw) (p : Due → Bool) : (h.unschedule p).mods = h.mods := rfl
@[simp] theorem Hw.unschedule_cells (h : Hw) (p : Due → Bool) : (h.unschedule p).cells = h.cells := rfl
@[simp] theorem Hw.unschedule_reds (h : Hw) (p : Due → Bool) : (h.unschedule p).reds = h.reds := rfl
@[simp] theorem Hw.unschedule_nodeAt (h : Hw) (p : Due → Bool) : (h.unschedule p).nodeAt = h.nodeAt := rfl
@[simp] theorem Hw.unschedule_bookEnds (h : Hw) (p : Due → Bool) : (h.unschedule p).bookEnds = h.bookEnds := rfl
@[simp] theorem Hw.unschedule_freeCtr (h : Hw) (p : Due → Bool) : (h.unschedule p).freeCtr = h.freeCtr := rfl
@[simp] theorem Hw.unschedule_nextTxn (h : Hw) (p : Due → Bool) : (h.unschedule p).nextTxn = h.nextTxn := rfl

@[simp] theorem Hw.issued_now (h : Hw) (c : Cur) : (h.issued c).now = h.now := rfl
@[simp] theorem Hw.issued_agenda (h : Hw) (c : Cur) : (h.issued c).agenda = h.agenda := rfl
@[simp] theorem Hw.issued_inputs (h : Hw) (c : Cur) : (h.issued c).inputs = h.inputs := rfl
@[simp] theorem Hw.issued_arg (h : Hw) (c : Cur) : (h.issued c).arg = h.arg := rfl
@[simp] theorem Hw.issued_self (h : Hw) (c : Cur) : (h.issued c).self = h.self := rfl
@[simp] theorem Hw.issued_clusters (h : Hw) (c : Cur) : (h.issued c).clusters = h.clusters := rfl
@[simp] theorem Hw.issued_dies (h : Hw) (c : Cur) : (h.issued c).dies = h.dies := rfl
@[simp] theorem Hw.issued_mods (h : Hw) (c : Cur) : (h.issued c).mods = h.mods := rfl
@[simp] theorem Hw.issued_cells (h : Hw) (c : Cur) : (h.issued c).cells = h.cells := rfl
@[simp] theorem Hw.issued_reds (h : Hw) (c : Cur) : (h.issued c).reds = h.reds := rfl
@[simp] theorem Hw.issued_nodeAt (h : Hw) (c : Cur) : (h.issued c).nodeAt = h.nodeAt := rfl
@[simp] theorem Hw.issued_bookEnds (h : Hw) (c : Cur) : (h.issued c).bookEnds = h.bookEnds := rfl
@[simp] theorem Hw.issued_freeCtr (h : Hw) (c : Cur) : (h.issued c).freeCtr = h.freeCtr := rfl
@[simp] theorem Hw.issued_nextTxn (h : Hw) (c : Cur) : (h.issued c).nextTxn = h.nextTxn := rfl

@[simp] theorem Hw.issued_cur (h : Hw) (c : Cur) : (h.issued c).cur = none := rfl

@[simp] theorem Hw.retire_now (h : Hw) (c : Cur) (sw : Bool) (d : Nat) : (h.retire c sw d).now = h.now := rfl
@[simp] theorem Hw.retire_agenda (h : Hw) (c : Cur) (sw : Bool) (d : Nat) : (h.retire c sw d).agenda = h.agenda := rfl
@[simp] theorem Hw.retire_inputs (h : Hw) (c : Cur) (sw : Bool) (d : Nat) : (h.retire c sw d).inputs = h.inputs := rfl
@[simp] theorem Hw.retire_arg (h : Hw) (c : Cur) (sw : Bool) (d : Nat) : (h.retire c sw d).arg = h.arg := rfl
@[simp] theorem Hw.retire_self (h : Hw) (c : Cur) (sw : Bool) (d : Nat) : (h.retire c sw d).self = h.self := rfl
@[simp] theorem Hw.retire_clusters (h : Hw) (c : Cur) (sw : Bool) (d : Nat) : (h.retire c sw d).clusters = h.clusters := rfl
@[simp] theorem Hw.retire_dies (h : Hw) (c : Cur) (sw : Bool) (d : Nat) : (h.retire c sw d).dies = h.dies := rfl
@[simp] theorem Hw.retire_mods (h : Hw) (c : Cur) (sw : Bool) (d : Nat) : (h.retire c sw d).mods = h.mods := rfl
@[simp] theorem Hw.retire_cells (h : Hw) (c : Cur) (sw : Bool) (d : Nat) : (h.retire c sw d).cells = h.cells := rfl
@[simp] theorem Hw.retire_reds (h : Hw) (c : Cur) (sw : Bool) (d : Nat) : (h.retire c sw d).reds = h.reds := rfl
@[simp] theorem Hw.retire_nodeAt (h : Hw) (c : Cur) (sw : Bool) (d : Nat) : (h.retire c sw d).nodeAt = h.nodeAt := rfl
@[simp] theorem Hw.retire_bookEnds (h : Hw) (c : Cur) (sw : Bool) (d : Nat) : (h.retire c sw d).bookEnds = h.bookEnds := rfl
@[simp] theorem Hw.retire_freeCtr (h : Hw) (c : Cur) (sw : Bool) (d : Nat) : (h.retire c sw d).freeCtr = h.freeCtr := rfl
@[simp] theorem Hw.retire_nextTxn (h : Hw) (c : Cur) (sw : Bool) (d : Nat) : (h.retire c sw d).nextTxn = h.nextTxn := rfl

@[simp] theorem Hw.retire_cur (h : Hw) (c : Cur) (sw : Bool) (d : Nat) : (h.retire c sw d).cur = none := rfl

/-! ### Core and context -/

@[simp] theorem Core.setCtx_rf (k : Core) (s : Nat) (x : Ctx) : (k.setCtx s x).rf = k.rf := rfl
@[simp] theorem Core.setCtx_empty (k : Core) (s : Nat) (x : Ctx) : (k.setCtx s x).empty = k.empty := rfl
@[simp] theorem Core.setCtx_out (k : Core) (s : Nat) (x : Ctx) : (k.setCtx s x).out = k.out := rfl
@[simp] theorem Core.setCtx_owed (k : Core) (s : Nat) (x : Ctx) : (k.setCtx s x).owed = k.owed := rfl
@[simp] theorem Core.setCtx_retiring (k : Core) (s : Nat) (x : Ctx) : (k.setCtx s x).retiring = k.retiring := rfl
@[simp] theorem Core.setCtx_ccs (k : Core) (s : Nat) (x : Ctx) : (k.setCtx s x).ccs = k.ccs := rfl
@[simp] theorem Core.setCtx_wheel (k : Core) (s : Nat) (x : Ctx) : (k.setCtx s x).wheel = k.wheel := rfl
@[simp] theorem Core.setCtx_svc (k : Core) (s : Nat) (x : Ctx) : (k.setCtx s x).svc = k.svc := rfl
@[simp] theorem Core.setCtx_age (k : Core) (s : Nat) (x : Ctx) : (k.setCtx s x).age = k.age := rfl
@[simp] theorem Core.setCtx_deqb (k : Core) (s : Nat) (x : Ctx) : (k.setCtx s x).deqb = k.deqb := rfl
@[simp] theorem Core.setCtx_deql (k : Core) (s : Nat) (x : Ctx) : (k.setCtx s x).deql = k.deql := rfl
@[simp] theorem Core.setCtx_ovfb (k : Core) (s : Nat) (x : Ctx) : (k.setCtx s x).ovfb = k.ovfb := rfl
@[simp] theorem Core.setCtx_ovfl (k : Core) (s : Nat) (x : Ctx) : (k.setCtx s x).ovfl = k.ovfl := rfl
@[simp] theorem Core.setCtx_saveBase (k : Core) (s : Nat) (x : Ctx) : (k.setCtx s x).saveBase = k.saveBase := rfl
@[simp] theorem Core.setCtx_ovf (k : Core) (s : Nat) (x : Ctx) : (k.setCtx s x).ovf = k.ovf := rfl
@[simp] theorem Core.setCtx_grants (k : Core) (s : Nat) (x : Ctx) : (k.setCtx s x).grants = k.grants := rfl
@[simp] theorem Core.setCtx_e0 (k : Core) (s : Nat) (x : Ctx) : (k.setCtx s x).e0 = k.e0 := rfl
@[simp] theorem Core.setCtx_e1 (k : Core) (s : Nat) (x : Ctx) : (k.setCtx s x).e1 = k.e1 := rfl
@[simp] theorem Core.setCtx_e1Resv (k : Core) (s : Nat) (x : Ctx) : (k.setCtx s x).e1Resv = k.e1Resv := rfl
@[simp] theorem Core.setCtx_e2 (k : Core) (s : Nat) (x : Ctx) : (k.setCtx s x).e2 = k.e2 := rfl
@[simp] theorem Core.setCtx_e2Resv (k : Core) (s : Nat) (x : Ctx) : (k.setCtx s x).e2Resv = k.e2Resv := rfl
@[simp] theorem Core.setCtx_e3 (k : Core) (s : Nat) (x : Ctx) : (k.setCtx s x).e3 = k.e3 := rfl
@[simp] theorem Core.setCtx_e3Resv (k : Core) (s : Nat) (x : Ctx) : (k.setCtx s x).e3Resv = k.e3Resv := rfl
@[simp] theorem Core.setCtx_e4 (k : Core) (s : Nat) (x : Ctx) : (k.setCtx s x).e4 = k.e4 := rfl
@[simp] theorem Core.setCtx_e4Lost (k : Core) (s : Nat) (x : Ctx) : (k.setCtx s x).e4Lost = k.e4Lost := rfl
@[simp] theorem Core.setCtx_copy (k : Core) (s : Nat) (x : Ctx) : (k.setCtx s x).copy = k.copy := rfl
@[simp] theorem Core.setCtx_ptr (k : Core) (s : Nat) (x : Ctx) : (k.setCtx s x).ptr = k.ptr := rfl
@[simp] theorem Core.setCtx_lastIssue (k : Core) (s : Nat) (x : Ctx) : (k.setCtx s x).lastIssue = k.lastIssue := rfl
@[simp] theorem Core.setCtx_monitors (k : Core) (s : Nat) (x : Ctx) : (k.setCtx s x).monitors = k.monitors := rfl
@[simp] theorem Core.setCtx_chans (k : Core) (s : Nat) (x : Ctx) : (k.setCtx s x).chans = k.chans := rfl
@[simp] theorem Core.setCtx_pipes (k : Core) (s : Nat) (x : Ctx) : (k.setCtx s x).pipes = k.pipes := rfl
@[simp] theorem Core.setCtx_queue (k : Core) (s : Nat) (x : Ctx) : (k.setCtx s x).queue = k.queue := rfl
@[simp] theorem Core.setCtx_peckOut (k : Core) (s : Nat) (x : Ctx) : (k.setCtx s x).peckOut = k.peckOut := rfl
@[simp] theorem Core.setCtx_qcount (k : Core) (s : Nat) (x : Ctx) : (k.setCtx s x).qcount = k.qcount := rfl
@[simp] theorem Core.setCtx_deque (k : Core) (s : Nat) (x : Ctx) : (k.setCtx s x).deque = k.deque := rfl
@[simp] theorem Core.setCtx_walk (k : Core) (s : Nat) (x : Ctx) : (k.setCtx s x).walk = k.walk := rfl
@[simp] theorem Core.setCtx_nextStart (k : Core) (s : Nat) (x : Ctx) : (k.setCtx s x).nextStart = k.nextStart := rfl
@[simp] theorem Core.setCtx_stealList (k : Core) (s : Nat) (x : Ctx) : (k.setCtx s x).stealList = k.stealList := rfl
@[simp] theorem Core.setCtx_engine (k : Core) (s : Nat) (x : Ctx) : (k.setCtx s x).engine = k.engine := rfl
@[simp] theorem Core.setCtx_spillReqs (k : Core) (s : Nat) (x : Ctx) : (k.setCtx s x).spillReqs = k.spillReqs := rfl
@[simp] theorem Core.setCtx_restores (k : Core) (s : Nat) (x : Ctx) : (k.setCtx s x).restores = k.restores := rfl
@[simp] theorem Core.setCtx_overruns (k : Core) (s : Nat) (x : Ctx) : (k.setCtx s x).overruns = k.overruns := rfl
@[simp] theorem Core.setCtx_ckpts (k : Core) (s : Nat) (x : Ctx) : (k.setCtx s x).ckpts = k.ckpts := rfl
@[simp] theorem Core.setCtx_imaging (k : Core) (s : Nat) (x : Ctx) : (k.setCtx s x).imaging = k.imaging := rfl
@[simp] theorem Core.setCtx_heldIn (k : Core) (s : Nat) (x : Ctx) : (k.setCtx s x).heldIn = k.heldIn := rfl
@[simp] theorem Core.setCtx_saved (k : Core) (s : Nat) (x : Ctx) : (k.setCtx s x).saved = k.saved := rfl
@[simp] theorem Core.setCtx_vjobs (k : Core) (s : Nat) (x : Ctx) : (k.setCtx s x).vjobs = k.vjobs := rfl
@[simp] theorem Core.setCtx_vread (k : Core) (s : Nat) (x : Ctx) : (k.setCtx s x).vread = k.vread := rfl
@[simp] theorem Core.setCtx_vecFree (k : Core) (s : Nat) (x : Ctx) : (k.setCtx s x).vecFree = k.vecFree := rfl
@[simp] theorem Core.setCtx_sfuq (k : Core) (s : Nat) (x : Ctx) : (k.setCtx s x).sfuq = k.sfuq := rfl
@[simp] theorem Core.setCtx_sfuFree (k : Core) (s : Nat) (x : Ctx) : (k.setCtx s x).sfuFree = k.sfuFree := rfl
@[simp] theorem Core.setCtx_latA (k : Core) (s : Nat) (x : Ctx) : (k.setCtx s x).latA = k.latA := rfl
@[simp] theorem Core.setCtx_latB (k : Core) (s : Nat) (x : Ctx) : (k.setCtx s x).latB = k.latB := rfl
@[simp] theorem Core.setCtx_acc (k : Core) (s : Nat) (x : Ctx) : (k.setCtx s x).acc = k.acc := rfl
@[simp] theorem Core.setCtx_aq (k : Core) (s : Nat) (x : Ctx) : (k.setCtx s x).aq = k.aq := rfl
@[simp] theorem Core.setCtx_arun (k : Core) (s : Nat) (x : Ctx) : (k.setCtx s x).arun = k.arun := rfl
@[simp] theorem Core.setCtx_tq (k : Core) (s : Nat) (x : Ctx) : (k.setCtx s x).tq = k.tq := rfl
@[simp] theorem Core.setCtx_trun (k : Core) (s : Nat) (x : Ctx) : (k.setCtx s x).trun = k.trun := rfl
@[simp] theorem Core.setCtx_vwrote (k : Core) (s : Nat) (x : Ctx) : (k.setCtx s x).vwrote = k.vwrote := rfl
@[simp] theorem Core.setCtx_sends (k : Core) (s : Nat) (x : Ctx) : (k.setCtx s x).sends = k.sends := rfl
@[simp] theorem Core.setCtx_mcs (k : Core) (s : Nat) (x : Ctx) : (k.setCtx s x).mcs = k.mcs := rfl
@[simp] theorem Core.setCtx_retAt (k : Core) (s : Nat) (x : Ctx) : (k.setCtx s x).retAt = k.retAt := rfl
@[simp] theorem Core.setCtx_pipeq (k : Core) (s : Nat) (x : Ctx) : (k.setCtx s x).pipeq = k.pipeq := rfl
@[simp] theorem Core.setCtx_pipeLink (k : Core) (s : Nat) (x : Ctx) : (k.setCtx s x).pipeLink = k.pipeLink := rfl
@[simp] theorem Core.setCtx_pipeLast (k : Core) (s : Nat) (x : Ctx) : (k.setCtx s x).pipeLast = k.pipeLast := rfl
@[simp] theorem Core.setCtx_scrubAt (k : Core) (s : Nat) (x : Ctx) : (k.setCtx s x).scrubAt = k.scrubAt := rfl

@[simp] theorem Ctx.setEff_st (x : Ctx) (e : Nat) : (x.setEff e).st = x.st := rfl
@[simp] theorem Ctx.setEff_freeAt (x : Ctx) (e : Nat) : (x.setEff e).freeAt = x.freeAt := rfl
@[simp] theorem Ctx.setEff_uid (x : Ctx) (e : Nat) : (x.setEff e).uid = x.uid := rfl
@[simp] theorem Ctx.setEff_wbase (x : Ctx) (e : Nat) : (x.setEff e).wbase = x.wbase := rfl
@[simp] theorem Ctx.setEff_wsize (x : Ctx) (e : Nat) : (x.setEff e).wsize = x.wsize := rfl
@[simp] theorem Ctx.setEff_kernel (x : Ctx) (e : Nat) : (x.setEff e).kernel = x.kernel := rfl
@[simp] theorem Ctx.setEff_begun (x : Ctx) (e : Nat) : (x.setEff e).begun = x.begun := rfl
@[simp] theorem Ctx.setEff_entry (x : Ctx) (e : Nat) : (x.setEff e).entry = x.entry := rfl
@[simp] theorem Ctx.setEff_pc (x : Ctx) (e : Nat) : (x.setEff e).pc = x.pc := rfl
@[simp] theorem Ctx.setEff_sg (x : Ctx) (e : Nat) : (x.setEff e).sg = x.sg := rfl
@[simp] theorem Ctx.setEff_p (x : Ctx) (e : Nat) : (x.setEff e).p = x.p := rfl
@[simp] theorem Ctx.setEff_ptrAt (x : Ctx) (e : Nat) : (x.setEff e).ptrAt = x.ptrAt := rfl
@[simp] theorem Ctx.setEff_lp (x : Ctx) (e : Nat) : (x.setEff e).lp = x.lp := rfl
@[simp] theorem Ctx.setEff_m (x : Ctx) (e : Nat) : (x.setEff e).m = x.m := rfl
@[simp] theorem Ctx.setEff_ts (x : Ctx) (e : Nat) : (x.setEff e).ts = x.ts := rfl
@[simp] theorem Ctx.setEff_fra (x : Ctx) (e : Nat) : (x.setEff e).fra = x.fra := rfl
@[simp] theorem Ctx.setEff_frb (x : Ctx) (e : Nat) : (x.setEff e).frb = x.frb := rfl
@[simp] theorem Ctx.setEff_xstep (x : Ctx) (e : Nat) : (x.setEff e).xstep = x.xstep := rfl
@[simp] theorem Ctx.setEff_prio (x : Ctx) (e : Nat) : (x.setEff e).prio = x.prio := rfl
@[simp] theorem Ctx.setEff_otag (x : Ctx) (e : Nat) : (x.setEff e).otag = x.otag := rfl
@[simp] theorem Ctx.setEff_gset (x : Ctx) (e : Nat) : (x.setEff e).gset = x.gset := rfl
@[simp] theorem Ctx.setEff_prin (x : Ctx) (e : Nat) : (x.setEff e).prin = x.prin := rfl
@[simp] theorem Ctx.setEff_linksp (x : Ctx) (e : Nat) : (x.setEff e).linksp = x.linksp := rfl
@[simp] theorem Ctx.setEff_ckptb (x : Ctx) (e : Nat) : (x.setEff e).ckptb = x.ckptb := rfl
@[simp] theorem Ctx.setEff_steald (x : Ctx) (e : Nat) : (x.setEff e).steald = x.steald := rfl
@[simp] theorem Ctx.setEff_taskr (x : Ctx) (e : Nat) : (x.setEff e).taskr = x.taskr := rfl
@[simp] theorem Ctx.setEff_bookid (x : Ctx) (e : Nat) : (x.setEff e).bookid = x.bookid := rfl
@[simp] theorem Ctx.setEff_park (x : Ctx) (e : Nat) : (x.setEff e).park = x.park := rfl
@[simp] theorem Ctx.setEff_pend (x : Ctx) (e : Nat) : (x.setEff e).pend = x.pend := rfl
@[simp] theorem Ctx.setEff_just (x : Ctx) (e : Nat) : (x.setEff e).just = x.just := rfl
@[simp] theorem Ctx.setEff_maskPend (x : Ctx) (e : Nat) : (x.setEff e).maskPend = x.maskPend := rfl
@[simp] theorem Ctx.setEff_late (x : Ctx) (e : Nat) : (x.setEff e).late = x.late := rfl
@[simp] theorem Ctx.setEff_parkCur (x : Ctx) (e : Nat) : (x.setEff e).parkCur = x.parkCur := rfl
@[simp] theorem Ctx.setEff_access (x : Ctx) (e : Nat) : (x.setEff e).access = x.access := rfl
@[simp] theorem Ctx.setEff_plainSw (x : Ctx) (e : Nat) : (x.setEff e).plainSw = x.plainSw := rfl
@[simp] theorem Ctx.setEff_limWait (x : Ctx) (e : Nat) : (x.setEff e).limWait = x.limWait := rfl
@[simp] theorem Ctx.setEff_arrHeld (x : Ctx) (e : Nat) : (x.setEff e).arrHeld = x.arrHeld := rfl
@[simp] theorem Ctx.setEff_swWait (x : Ctx) (e : Nat) : (x.setEff e).swWait = x.swWait := rfl
@[simp] theorem Ctx.setEff_yieldWait (x : Ctx) (e : Nat) : (x.setEff e).yieldWait = x.yieldWait := rfl
@[simp] theorem Ctx.setEff_w (x : Ctx) (e : Nat) : (x.setEff e).w = x.w := rfl
@[simp] theorem Ctx.setEff_notBefore (x : Ctx) (e : Nat) : (x.setEff e).notBefore = x.notBefore := rfl
@[simp] theorem Ctx.setEff_hazOn (x : Ctx) (e : Nat) : (x.setEff e).hazOn = x.hazOn := rfl
@[simp] theorem Ctx.setEff_deferred (x : Ctx) (e : Nat) : (x.setEff e).deferred = x.deferred := rfl
@[simp] theorem Ctx.setEff_imaged (x : Ctx) (e : Nat) : (x.setEff e).imaged = x.imaged := rfl
@[simp] theorem Ctx.setEff_woke (x : Ctx) (e : Nat) : (x.setEff e).woke = x.woke := rfl
@[simp] theorem Ctx.setEff_split (x : Ctx) (e : Nat) : (x.setEff e).split = x.split := rfl
@[simp] theorem Ctx.setEff_fence (x : Ctx) (e : Nat) : (x.setEff e).fence = x.fence := rfl
@[simp] theorem Ctx.setEff_region (x : Ctx) (e : Nat) : (x.setEff e).region = x.region := rfl
@[simp] theorem Ctx.setEff_quiet (x : Ctx) (e : Nat) : (x.setEff e).quiet = x.quiet := rfl
@[simp] theorem Ctx.setEff_task (x : Ctx) (e : Nat) : (x.setEff e).task = x.task := rfl
@[simp] theorem Ctx.setEff_ckptMark (x : Ctx) (e : Nat) : (x.setEff e).ckptMark = x.ckptMark := rfl
@[simp] theorem Ctx.setEff_gang (x : Ctx) (e : Nat) : (x.setEff e).gang = x.gang := rfl
@[simp] theorem Ctx.setEff_noGrant (x : Ctx) (e : Nat) : (x.setEff e).noGrant = x.noGrant := rfl
@[simp] theorem Ctx.setEff_waiting (x : Ctx) (e : Nat) : (x.setEff e).waiting = x.waiting := rfl

@[simp] theorem Ctx.setTs_st (x : Ctx) (i : Nat) (v : Bool) : (x.setTs i v).st = x.st := rfl
@[simp] theorem Ctx.setTs_freeAt (x : Ctx) (i : Nat) (v : Bool) : (x.setTs i v).freeAt = x.freeAt := rfl
@[simp] theorem Ctx.setTs_uid (x : Ctx) (i : Nat) (v : Bool) : (x.setTs i v).uid = x.uid := rfl
@[simp] theorem Ctx.setTs_wbase (x : Ctx) (i : Nat) (v : Bool) : (x.setTs i v).wbase = x.wbase := rfl
@[simp] theorem Ctx.setTs_wsize (x : Ctx) (i : Nat) (v : Bool) : (x.setTs i v).wsize = x.wsize := rfl
@[simp] theorem Ctx.setTs_kernel (x : Ctx) (i : Nat) (v : Bool) : (x.setTs i v).kernel = x.kernel := rfl
@[simp] theorem Ctx.setTs_begun (x : Ctx) (i : Nat) (v : Bool) : (x.setTs i v).begun = x.begun := rfl
@[simp] theorem Ctx.setTs_entry (x : Ctx) (i : Nat) (v : Bool) : (x.setTs i v).entry = x.entry := rfl
@[simp] theorem Ctx.setTs_pc (x : Ctx) (i : Nat) (v : Bool) : (x.setTs i v).pc = x.pc := rfl
@[simp] theorem Ctx.setTs_sg (x : Ctx) (i : Nat) (v : Bool) : (x.setTs i v).sg = x.sg := rfl
@[simp] theorem Ctx.setTs_p (x : Ctx) (i : Nat) (v : Bool) : (x.setTs i v).p = x.p := rfl
@[simp] theorem Ctx.setTs_ptrAt (x : Ctx) (i : Nat) (v : Bool) : (x.setTs i v).ptrAt = x.ptrAt := rfl
@[simp] theorem Ctx.setTs_lp (x : Ctx) (i : Nat) (v : Bool) : (x.setTs i v).lp = x.lp := rfl
@[simp] theorem Ctx.setTs_m (x : Ctx) (i : Nat) (v : Bool) : (x.setTs i v).m = x.m := rfl
@[simp] theorem Ctx.setTs_fra (x : Ctx) (i : Nat) (v : Bool) : (x.setTs i v).fra = x.fra := rfl
@[simp] theorem Ctx.setTs_frb (x : Ctx) (i : Nat) (v : Bool) : (x.setTs i v).frb = x.frb := rfl
@[simp] theorem Ctx.setTs_xstep (x : Ctx) (i : Nat) (v : Bool) : (x.setTs i v).xstep = x.xstep := rfl
@[simp] theorem Ctx.setTs_role (x : Ctx) (i : Nat) (v : Bool) : (x.setTs i v).role = x.role := rfl
@[simp] theorem Ctx.setTs_prio (x : Ctx) (i : Nat) (v : Bool) : (x.setTs i v).prio = x.prio := rfl
@[simp] theorem Ctx.setTs_otag (x : Ctx) (i : Nat) (v : Bool) : (x.setTs i v).otag = x.otag := rfl
@[simp] theorem Ctx.setTs_gset (x : Ctx) (i : Nat) (v : Bool) : (x.setTs i v).gset = x.gset := rfl
@[simp] theorem Ctx.setTs_prin (x : Ctx) (i : Nat) (v : Bool) : (x.setTs i v).prin = x.prin := rfl
@[simp] theorem Ctx.setTs_linksp (x : Ctx) (i : Nat) (v : Bool) : (x.setTs i v).linksp = x.linksp := rfl
@[simp] theorem Ctx.setTs_ckptb (x : Ctx) (i : Nat) (v : Bool) : (x.setTs i v).ckptb = x.ckptb := rfl
@[simp] theorem Ctx.setTs_steald (x : Ctx) (i : Nat) (v : Bool) : (x.setTs i v).steald = x.steald := rfl
@[simp] theorem Ctx.setTs_taskr (x : Ctx) (i : Nat) (v : Bool) : (x.setTs i v).taskr = x.taskr := rfl
@[simp] theorem Ctx.setTs_bookid (x : Ctx) (i : Nat) (v : Bool) : (x.setTs i v).bookid = x.bookid := rfl
@[simp] theorem Ctx.setTs_park (x : Ctx) (i : Nat) (v : Bool) : (x.setTs i v).park = x.park := rfl
@[simp] theorem Ctx.setTs_pend (x : Ctx) (i : Nat) (v : Bool) : (x.setTs i v).pend = x.pend := rfl
@[simp] theorem Ctx.setTs_just (x : Ctx) (i : Nat) (v : Bool) : (x.setTs i v).just = x.just := rfl
@[simp] theorem Ctx.setTs_maskPend (x : Ctx) (i : Nat) (v : Bool) : (x.setTs i v).maskPend = x.maskPend := rfl
@[simp] theorem Ctx.setTs_late (x : Ctx) (i : Nat) (v : Bool) : (x.setTs i v).late = x.late := rfl
@[simp] theorem Ctx.setTs_parkCur (x : Ctx) (i : Nat) (v : Bool) : (x.setTs i v).parkCur = x.parkCur := rfl
@[simp] theorem Ctx.setTs_access (x : Ctx) (i : Nat) (v : Bool) : (x.setTs i v).access = x.access := rfl
@[simp] theorem Ctx.setTs_plainSw (x : Ctx) (i : Nat) (v : Bool) : (x.setTs i v).plainSw = x.plainSw := rfl
@[simp] theorem Ctx.setTs_limWait (x : Ctx) (i : Nat) (v : Bool) : (x.setTs i v).limWait = x.limWait := rfl
@[simp] theorem Ctx.setTs_arrHeld (x : Ctx) (i : Nat) (v : Bool) : (x.setTs i v).arrHeld = x.arrHeld := rfl
@[simp] theorem Ctx.setTs_swWait (x : Ctx) (i : Nat) (v : Bool) : (x.setTs i v).swWait = x.swWait := rfl
@[simp] theorem Ctx.setTs_yieldWait (x : Ctx) (i : Nat) (v : Bool) : (x.setTs i v).yieldWait = x.yieldWait := rfl
@[simp] theorem Ctx.setTs_w (x : Ctx) (i : Nat) (v : Bool) : (x.setTs i v).w = x.w := rfl
@[simp] theorem Ctx.setTs_notBefore (x : Ctx) (i : Nat) (v : Bool) : (x.setTs i v).notBefore = x.notBefore := rfl
@[simp] theorem Ctx.setTs_hazOn (x : Ctx) (i : Nat) (v : Bool) : (x.setTs i v).hazOn = x.hazOn := rfl
@[simp] theorem Ctx.setTs_deferred (x : Ctx) (i : Nat) (v : Bool) : (x.setTs i v).deferred = x.deferred := rfl
@[simp] theorem Ctx.setTs_imaged (x : Ctx) (i : Nat) (v : Bool) : (x.setTs i v).imaged = x.imaged := rfl
@[simp] theorem Ctx.setTs_woke (x : Ctx) (i : Nat) (v : Bool) : (x.setTs i v).woke = x.woke := rfl
@[simp] theorem Ctx.setTs_split (x : Ctx) (i : Nat) (v : Bool) : (x.setTs i v).split = x.split := rfl
@[simp] theorem Ctx.setTs_fence (x : Ctx) (i : Nat) (v : Bool) : (x.setTs i v).fence = x.fence := rfl
@[simp] theorem Ctx.setTs_region (x : Ctx) (i : Nat) (v : Bool) : (x.setTs i v).region = x.region := rfl
@[simp] theorem Ctx.setTs_quiet (x : Ctx) (i : Nat) (v : Bool) : (x.setTs i v).quiet = x.quiet := rfl
@[simp] theorem Ctx.setTs_task (x : Ctx) (i : Nat) (v : Bool) : (x.setTs i v).task = x.task := rfl
@[simp] theorem Ctx.setTs_ckptMark (x : Ctx) (i : Nat) (v : Bool) : (x.setTs i v).ckptMark = x.ckptMark := rfl
@[simp] theorem Ctx.setTs_gang (x : Ctx) (i : Nat) (v : Bool) : (x.setTs i v).gang = x.gang := rfl
@[simp] theorem Ctx.setTs_noGrant (x : Ctx) (i : Nat) (v : Bool) : (x.setTs i v).noGrant = x.noGrant := rfl
@[simp] theorem Ctx.setTs_waiting (x : Ctx) (i : Nat) (v : Bool) : (x.setTs i v).waiting = x.waiting := rfl

@[simp] theorem Ctx.settle_st (x : Ctx) : (x.settle).st = x.st := rfl
@[simp] theorem Ctx.settle_freeAt (x : Ctx) : (x.settle).freeAt = x.freeAt := rfl
@[simp] theorem Ctx.settle_uid (x : Ctx) : (x.settle).uid = x.uid := rfl
@[simp] theorem Ctx.settle_wbase (x : Ctx) : (x.settle).wbase = x.wbase := rfl
@[simp] theorem Ctx.settle_wsize (x : Ctx) : (x.settle).wsize = x.wsize := rfl
@[simp] theorem Ctx.settle_kernel (x : Ctx) : (x.settle).kernel = x.kernel := rfl
@[simp] theorem Ctx.settle_begun (x : Ctx) : (x.settle).begun = x.begun := rfl
@[simp] theorem Ctx.settle_entry (x : Ctx) : (x.settle).entry = x.entry := rfl
@[simp] theorem Ctx.settle_pc (x : Ctx) : (x.settle).pc = x.pc := rfl
@[simp] theorem Ctx.settle_sg (x : Ctx) : (x.settle).sg = x.sg := rfl
@[simp] theorem Ctx.settle_p (x : Ctx) : (x.settle).p = x.p := rfl
@[simp] theorem Ctx.settle_ptrAt (x : Ctx) : (x.settle).ptrAt = x.ptrAt := rfl
@[simp] theorem Ctx.settle_lp (x : Ctx) : (x.settle).lp = x.lp := rfl
@[simp] theorem Ctx.settle_m (x : Ctx) : (x.settle).m = x.m := rfl
@[simp] theorem Ctx.settle_ts (x : Ctx) : (x.settle).ts = x.ts := rfl
@[simp] theorem Ctx.settle_fra (x : Ctx) : (x.settle).fra = x.fra := rfl
@[simp] theorem Ctx.settle_frb (x : Ctx) : (x.settle).frb = x.frb := rfl
@[simp] theorem Ctx.settle_xstep (x : Ctx) : (x.settle).xstep = x.xstep := rfl
@[simp] theorem Ctx.settle_prio (x : Ctx) : (x.settle).prio = x.prio := rfl
@[simp] theorem Ctx.settle_otag (x : Ctx) : (x.settle).otag = x.otag := rfl
@[simp] theorem Ctx.settle_gset (x : Ctx) : (x.settle).gset = x.gset := rfl
@[simp] theorem Ctx.settle_prin (x : Ctx) : (x.settle).prin = x.prin := rfl
@[simp] theorem Ctx.settle_linksp (x : Ctx) : (x.settle).linksp = x.linksp := rfl
@[simp] theorem Ctx.settle_ckptb (x : Ctx) : (x.settle).ckptb = x.ckptb := rfl
@[simp] theorem Ctx.settle_steald (x : Ctx) : (x.settle).steald = x.steald := rfl
@[simp] theorem Ctx.settle_taskr (x : Ctx) : (x.settle).taskr = x.taskr := rfl
@[simp] theorem Ctx.settle_bookid (x : Ctx) : (x.settle).bookid = x.bookid := rfl
@[simp] theorem Ctx.settle_park (x : Ctx) : (x.settle).park = x.park := rfl
@[simp] theorem Ctx.settle_pend (x : Ctx) : (x.settle).pend = x.pend := rfl
@[simp] theorem Ctx.settle_just (x : Ctx) : (x.settle).just = x.just := rfl
@[simp] theorem Ctx.settle_maskPend (x : Ctx) : (x.settle).maskPend = x.maskPend := rfl
@[simp] theorem Ctx.settle_late (x : Ctx) : (x.settle).late = x.late := rfl
@[simp] theorem Ctx.settle_parkCur (x : Ctx) : (x.settle).parkCur = x.parkCur := rfl
@[simp] theorem Ctx.settle_access (x : Ctx) : (x.settle).access = x.access := rfl
@[simp] theorem Ctx.settle_plainSw (x : Ctx) : (x.settle).plainSw = x.plainSw := rfl
@[simp] theorem Ctx.settle_limWait (x : Ctx) : (x.settle).limWait = x.limWait := rfl
@[simp] theorem Ctx.settle_arrHeld (x : Ctx) : (x.settle).arrHeld = x.arrHeld := rfl
@[simp] theorem Ctx.settle_swWait (x : Ctx) : (x.settle).swWait = x.swWait := rfl
@[simp] theorem Ctx.settle_yieldWait (x : Ctx) : (x.settle).yieldWait = x.yieldWait := rfl
@[simp] theorem Ctx.settle_notBefore (x : Ctx) : (x.settle).notBefore = x.notBefore := rfl
@[simp] theorem Ctx.settle_hazOn (x : Ctx) : (x.settle).hazOn = x.hazOn := rfl
@[simp] theorem Ctx.settle_deferred (x : Ctx) : (x.settle).deferred = x.deferred := rfl
@[simp] theorem Ctx.settle_imaged (x : Ctx) : (x.settle).imaged = x.imaged := rfl
@[simp] theorem Ctx.settle_woke (x : Ctx) : (x.settle).woke = x.woke := rfl
@[simp] theorem Ctx.settle_split (x : Ctx) : (x.settle).split = x.split := rfl
@[simp] theorem Ctx.settle_fence (x : Ctx) : (x.settle).fence = x.fence := rfl
@[simp] theorem Ctx.settle_region (x : Ctx) : (x.settle).region = x.region := rfl
@[simp] theorem Ctx.settle_quiet (x : Ctx) : (x.settle).quiet = x.quiet := rfl
@[simp] theorem Ctx.settle_task (x : Ctx) : (x.settle).task = x.task := rfl
@[simp] theorem Ctx.settle_ckptMark (x : Ctx) : (x.settle).ckptMark = x.ckptMark := rfl
@[simp] theorem Ctx.settle_gang (x : Ctx) : (x.settle).gang = x.gang := rfl
@[simp] theorem Ctx.settle_noGrant (x : Ctx) : (x.settle).noGrant = x.noGrant := rfl
@[simp] theorem Ctx.settle_waiting (x : Ctx) : (x.settle).waiting = x.waiting := rfl

@[simp] theorem Ctx.endLoop_st (x : Ctx) (v : Nat) : (x.endLoop v).st = x.st := rfl
@[simp] theorem Ctx.endLoop_freeAt (x : Ctx) (v : Nat) : (x.endLoop v).freeAt = x.freeAt := rfl
@[simp] theorem Ctx.endLoop_uid (x : Ctx) (v : Nat) : (x.endLoop v).uid = x.uid := rfl
@[simp] theorem Ctx.endLoop_wbase (x : Ctx) (v : Nat) : (x.endLoop v).wbase = x.wbase := rfl
@[simp] theorem Ctx.endLoop_wsize (x : Ctx) (v : Nat) : (x.endLoop v).wsize = x.wsize := rfl
@[simp] theorem Ctx.endLoop_kernel (x : Ctx) (v : Nat) : (x.endLoop v).kernel = x.kernel := rfl
@[simp] theorem Ctx.endLoop_begun (x : Ctx) (v : Nat) : (x.endLoop v).begun = x.begun := rfl
@[simp] theorem Ctx.endLoop_entry (x : Ctx) (v : Nat) : (x.endLoop v).entry = x.entry := rfl
@[simp] theorem Ctx.endLoop_pc (x : Ctx) (v : Nat) : (x.endLoop v).pc = x.pc := rfl
@[simp] theorem Ctx.endLoop_sg (x : Ctx) (v : Nat) : (x.endLoop v).sg = x.sg := rfl
@[simp] theorem Ctx.endLoop_p (x : Ctx) (v : Nat) : (x.endLoop v).p = x.p := rfl
@[simp] theorem Ctx.endLoop_ptrAt (x : Ctx) (v : Nat) : (x.endLoop v).ptrAt = x.ptrAt := rfl
@[simp] theorem Ctx.endLoop_m (x : Ctx) (v : Nat) : (x.endLoop v).m = x.m := rfl
@[simp] theorem Ctx.endLoop_ts (x : Ctx) (v : Nat) : (x.endLoop v).ts = x.ts := rfl
@[simp] theorem Ctx.endLoop_fra (x : Ctx) (v : Nat) : (x.endLoop v).fra = x.fra := rfl
@[simp] theorem Ctx.endLoop_frb (x : Ctx) (v : Nat) : (x.endLoop v).frb = x.frb := rfl
@[simp] theorem Ctx.endLoop_xstep (x : Ctx) (v : Nat) : (x.endLoop v).xstep = x.xstep := rfl
@[simp] theorem Ctx.endLoop_role (x : Ctx) (v : Nat) : (x.endLoop v).role = x.role := rfl
@[simp] theorem Ctx.endLoop_prio (x : Ctx) (v : Nat) : (x.endLoop v).prio = x.prio := rfl
@[simp] theorem Ctx.endLoop_otag (x : Ctx) (v : Nat) : (x.endLoop v).otag = x.otag := rfl
@[simp] theorem Ctx.endLoop_gset (x : Ctx) (v : Nat) : (x.endLoop v).gset = x.gset := rfl
@[simp] theorem Ctx.endLoop_prin (x : Ctx) (v : Nat) : (x.endLoop v).prin = x.prin := rfl
@[simp] theorem Ctx.endLoop_linksp (x : Ctx) (v : Nat) : (x.endLoop v).linksp = x.linksp := rfl
@[simp] theorem Ctx.endLoop_ckptb (x : Ctx) (v : Nat) : (x.endLoop v).ckptb = x.ckptb := rfl
@[simp] theorem Ctx.endLoop_steald (x : Ctx) (v : Nat) : (x.endLoop v).steald = x.steald := rfl
@[simp] theorem Ctx.endLoop_taskr (x : Ctx) (v : Nat) : (x.endLoop v).taskr = x.taskr := rfl
@[simp] theorem Ctx.endLoop_bookid (x : Ctx) (v : Nat) : (x.endLoop v).bookid = x.bookid := rfl
@[simp] theorem Ctx.endLoop_park (x : Ctx) (v : Nat) : (x.endLoop v).park = x.park := rfl
@[simp] theorem Ctx.endLoop_pend (x : Ctx) (v : Nat) : (x.endLoop v).pend = x.pend := rfl
@[simp] theorem Ctx.endLoop_just (x : Ctx) (v : Nat) : (x.endLoop v).just = x.just := rfl
@[simp] theorem Ctx.endLoop_maskPend (x : Ctx) (v : Nat) : (x.endLoop v).maskPend = x.maskPend := rfl
@[simp] theorem Ctx.endLoop_late (x : Ctx) (v : Nat) : (x.endLoop v).late = x.late := rfl
@[simp] theorem Ctx.endLoop_parkCur (x : Ctx) (v : Nat) : (x.endLoop v).parkCur = x.parkCur := rfl
@[simp] theorem Ctx.endLoop_access (x : Ctx) (v : Nat) : (x.endLoop v).access = x.access := rfl
@[simp] theorem Ctx.endLoop_plainSw (x : Ctx) (v : Nat) : (x.endLoop v).plainSw = x.plainSw := rfl
@[simp] theorem Ctx.endLoop_limWait (x : Ctx) (v : Nat) : (x.endLoop v).limWait = x.limWait := rfl
@[simp] theorem Ctx.endLoop_arrHeld (x : Ctx) (v : Nat) : (x.endLoop v).arrHeld = x.arrHeld := rfl
@[simp] theorem Ctx.endLoop_swWait (x : Ctx) (v : Nat) : (x.endLoop v).swWait = x.swWait := rfl
@[simp] theorem Ctx.endLoop_yieldWait (x : Ctx) (v : Nat) : (x.endLoop v).yieldWait = x.yieldWait := rfl
@[simp] theorem Ctx.endLoop_w (x : Ctx) (v : Nat) : (x.endLoop v).w = x.w := rfl
@[simp] theorem Ctx.endLoop_notBefore (x : Ctx) (v : Nat) : (x.endLoop v).notBefore = x.notBefore := rfl
@[simp] theorem Ctx.endLoop_hazOn (x : Ctx) (v : Nat) : (x.endLoop v).hazOn = x.hazOn := rfl
@[simp] theorem Ctx.endLoop_deferred (x : Ctx) (v : Nat) : (x.endLoop v).deferred = x.deferred := rfl
@[simp] theorem Ctx.endLoop_imaged (x : Ctx) (v : Nat) : (x.endLoop v).imaged = x.imaged := rfl
@[simp] theorem Ctx.endLoop_woke (x : Ctx) (v : Nat) : (x.endLoop v).woke = x.woke := rfl
@[simp] theorem Ctx.endLoop_split (x : Ctx) (v : Nat) : (x.endLoop v).split = x.split := rfl
@[simp] theorem Ctx.endLoop_fence (x : Ctx) (v : Nat) : (x.endLoop v).fence = x.fence := rfl
@[simp] theorem Ctx.endLoop_region (x : Ctx) (v : Nat) : (x.endLoop v).region = x.region := rfl
@[simp] theorem Ctx.endLoop_quiet (x : Ctx) (v : Nat) : (x.endLoop v).quiet = x.quiet := rfl
@[simp] theorem Ctx.endLoop_task (x : Ctx) (v : Nat) : (x.endLoop v).task = x.task := rfl
@[simp] theorem Ctx.endLoop_ckptMark (x : Ctx) (v : Nat) : (x.endLoop v).ckptMark = x.ckptMark := rfl
@[simp] theorem Ctx.endLoop_gang (x : Ctx) (v : Nat) : (x.endLoop v).gang = x.gang := rfl
@[simp] theorem Ctx.endLoop_noGrant (x : Ctx) (v : Nat) : (x.endLoop v).noGrant = x.noGrant := rfl
@[simp] theorem Ctx.endLoop_waiting (x : Ctx) (v : Nat) : (x.endLoop v).waiting = x.waiting := rfl

end Sys2Proof.Machine
end

