-- ==== Sys2Proof/Laws/Data.lean ====
section
/-! SUPPORT. Reads after writes: sparse maps, cores, contexts, clusters, dies, modules, and the registers of a context. -/

namespace Sys2Proof.Machine

/-! ### Sparse maps -/

theorem SMap.find?_set {α : Type} (m : SMap α) (k : Nat) (v : α) (j : Nat) :
    SMap.find? (SMap.set m k v) j = if k = j then some v else SMap.find? m j := by
  induction m with
  | nil => rfl
  | cons e r ih =>
    obtain ⟨i, w⟩ := e
    by_cases h1 : k < i
    · simp [SMap.set, h1, SMap.find?]
    · by_cases h2 : k = i
      · subst h2
        by_cases h3 : k = j <;> simp [SMap.set, SMap.find?, h3]
      · rw [SMap.set, if_neg h1, if_neg h2]
        by_cases h3 : i = j
        · subst h3; simp [SMap.find?, h2]
        · simp [SMap.find?, h3, ih]

theorem SMap.get_set {α : Type} (d : α) (m : SMap α) (k : Nat) (v : α) (j : Nat) :
    SMap.get d (SMap.set m k v) j = if k = j then v else SMap.get d m j := by
  unfold SMap.get
  rw [SMap.find?_set]
  split <;> simp

@[simp] theorem SMap.get_set_same {α : Type} (d : α) (m : SMap α) (k : Nat) (v : α) : SMap.get d (SMap.set m k v) k = v := by
  simp [SMap.get_set]

theorem SMap.get_set_ne {α : Type} (d : α) (m : SMap α) (k : Nat) (v : α) (j : Nat) (h : k ≠ j) :
    SMap.get d (SMap.set m k v) j = SMap.get d m j := by
  simp [SMap.get_set, h]

theorem SMap.find?_erase {α : Type} (m : SMap α) (k j : Nat) :
    SMap.find? (SMap.erase m k) j = if k = j then none else SMap.find? m j := by
  unfold SMap.erase
  induction m with
  | nil => simp [SMap.find?]
  | cons e r ih =>
    obtain ⟨i, w⟩ := e
    by_cases h1 : i = k
    · subst h1
      by_cases h2 : i = j
      · subst h2; simpa using ih
      · have h3 : (i != i) = false := by simp
        simp only [List.filter_cons, h3, Bool.false_eq_true, if_false, ih, SMap.find?, h2]
    · have h3 : (i != k) = true := by simpa using h1
      simp only [List.filter_cons, h3, if_true, SMap.find?, ih]
      by_cases h2 : i = j
      · subst h2; simp [Ne.symm h1]
      · simp [h2]

/-! ### Cores and contexts -/

@[simp] theorem Hw.core_setCore (h : Hw) (c : Nat) (k : Core) : (h.setCore c k).core c = k := by simp [Hw.core, Hw.setCore]

theorem Hw.core_setCore_ne (h : Hw) (c : Nat) (k : Core) (d : Nat) (hd : c ≠ d) : (h.setCore c k).core d = h.core d := by
  simp [Hw.core, Hw.setCore, SMap.get_set_ne, hd]

@[simp] theorem Hw.core_modCore (h : Hw) (c : Nat) (f : Core → Core) : (h.modCore c f).core c = f (h.core c) := by simp [Hw.modCore]

theorem Hw.core_modCore_ne (h : Hw) (c : Nat) (f : Core → Core) (d : Nat) (hd : c ≠ d) : (h.modCore c f).core d = h.core d := by
  simp [Hw.modCore, Hw.core_setCore_ne, hd]

@[simp] theorem Core.ctx_setCtx (k : Core) (s : Nat) (x : Ctx) : (k.setCtx s x).ctx s = x := by simp [Core.ctx, Core.setCtx]

theorem Core.ctx_setCtx_ne (k : Core) (s : Nat) (x : Ctx) (j : Nat) (hj : s ≠ j) : (k.setCtx s x).ctx j = k.ctx j := by
  simp [Core.ctx, Core.setCtx, SMap.get_set_ne, hj]

@[simp] theorem Hw.ctx_setCtx (h : Hw) (c s : Nat) (x : Ctx) : (h.setCtx c s x).ctx c s = x := by simp [Hw.ctx, Hw.setCtx]

@[simp] theorem Hw.ctx_modCtx (h : Hw) (c s : Nat) (f : Ctx → Ctx) : (h.modCtx c s f).ctx c s = f (h.ctx c s) := by simp [Hw.modCtx]

@[simp] theorem Hw.core_modCtx (h : Hw) (c s : Nat) (f : Ctx → Ctx) :
    (h.modCtx c s f).core c = (h.core c).setCtx s (f (h.ctx c s)) := by simp [Hw.modCtx, Hw.setCtx]

theorem Hw.core_modCtx_ne (h : Hw) (c s : Nat) (f : Ctx → Ctx) (d : Nat) (hd : c ≠ d) : (h.modCtx c s f).core d = h.core d := by
  simp [Hw.modCtx, Hw.setCtx, Hw.core_modCore_ne, hd]

@[simp] theorem Hw.core_modSlot (h : Hw) (c s : Nat) (f : Core → Ctx → Core) :
    (h.modSlot c s f).core c = f (h.core c) (h.ctx c s) := by simp [Hw.modSlot, Hw.ctx]

theorem Hw.core_modSlot_ne (h : Hw) (c s : Nat) (f : Core → Ctx → Core) (d : Nat) (hd : c ≠ d) : (h.modSlot c s f).core d = h.core d := by
  simp [Hw.modSlot, Hw.core_modCore_ne, hd]

@[simp] theorem Hw.cluster_modCluster (h : Hw) (c : Nat) (f : Cluster → Cluster) : (h.modCluster c f).cluster c = f (h.cluster c) := by
  simp [Hw.modCluster, Hw.cluster]

@[simp] theorem Hw.die_modDie (h : Hw) (d : Nat) (f : Die → Die) : (h.modDie d f).die d = f (h.die d) := by
  simp [Hw.modDie, Hw.die]

@[simp] theorem Hw.mod_modMod (h : Hw) (m : Nat) (f : Module → Module) : (h.modMod m f).mod m = f (h.mod m) := by
  simp [Hw.modMod, Hw.mod]

/-! ### Registers -/

/-- `g0` reads 0 and is full (R10, R74). -/
@[simp] theorem Core.g_zero (k : Core) (x : Ctx) : k.g x 0 = 0 := rfl

@[simp] theorem Core.fullBit_zero (k : Core) (x : Ctx) : k.fullBit x 0 = true := rfl

/-- A write of `g0` is discarded. -/
@[simp] theorem Core.putG_zero (k : Core) (x : Ctx) (v : Word) : k.putG x 0 v = k := rfl

@[simp] theorem Core.putFull_zero (k : Core) (x : Ctx) (f : Bool) : k.putFull x 0 f = k := rfl

theorem Core.g_putG (k : Core) (x : Ctx) (n : Nat) (v : Word) (hn : n ≠ 0) : (k.putG x n v).g x n = v := by
  simp [Core.g, Core.putG, hn]

theorem Core.fullBit_putFull (k : Core) (x : Ctx) (n : Nat) (f : Bool) (hn : n ≠ 0) : (k.putFull x n f).fullBit x n = f := by
  cases f <;> simp [Core.fullBit, Core.putFull, hn, SMap.find?_erase, SMap.find?_set]

theorem Core.g_putG_ne (k : Core) (x : Ctx) (n j : Nat) (v : Word) (h : n ≠ j) : (k.putG x n v).g x j = k.g x j := by
  by_cases hn : n = 0
  · simp [hn]
  · have h1 : x.wbase + n ≠ x.wbase + j := by omega
    simp [Core.g, Core.putG, hn, Ctx.entryOf, SMap.get_set_ne _ _ _ _ _ h1]

end Sys2Proof.Machine
end

