-- ==== Sys2Proof/Laws/Dispatch.lean ====
section
/-! SUPPORT. The arm of each constructor of `Instr`: its meaning, by name. -/

namespace Sys2Proof.Machine

theorem exec_nop (sw : Bool) (s : State) : exec (.nop sw) s = execNop sw s := rfl
theorem exec_mov (sw : Bool) (a b : GReg) (s : State) : exec (.mov sw a b) s = execMov sw a b s := rfl
theorem exec_movWc (sw : Bool) (a : BitVec 4) (b : GReg) (s : State) : exec (.movWc sw a b) s = execMovWc sw a b s := rfl
theorem exec_movRc (sw : Bool) (a : GReg) (b : BitVec 4) (s : State) : exec (.movRc sw a b) s = execMovRc sw a b s := rfl
theorem exec_movRlc (sw : Bool) (a : GReg) (b : Fin 3) (s : State) : exec (.movRlc sw a b) s = execMovRlc sw a b s := rfl
theorem exec_li (sw : Bool) (a : GReg) (imm : BitVec 40) (s : State) : exec (.li sw a imm) s = execLi sw a imm s := rfl
theorem exec_lih (sw : Bool) (a : GReg) (imm : BitVec 40) (s : State) : exec (.lih sw a imm) s = execLih sw a imm s := rfl
theorem exec_add (sw : Bool) (t : ITy) (a c b : GReg) (s : State) : exec (.add sw t a c b) s = execAdd sw t a c b s := rfl
theorem exec_sub (sw : Bool) (t : ITy) (a c b : GReg) (s : State) : exec (.sub sw t a c b) s = execSub sw t a c b s := rfl
theorem exec_addi (sw : Bool) (t : ITy) (a c : GReg) (imm : BitVec 40) (s : State) : exec (.addi sw t a c imm) s = execAddi sw t a c imm s := rfl
theorem exec_mul (sw : Bool) (t : ITy) (a c b : GReg) (s : State) : exec (.mul sw t a c b) s = execMul sw t a c b s := rfl
theorem exec_mulh (sw : Bool) (t : ITy) (a c b : GReg) (s : State) : exec (.mulh sw t a c b) s = execMulh sw t a c b s := rfl
theorem exec_div (sw : Bool) (t : ITy) (a c b : GReg) (s : State) : exec (.div sw t a c b) s = execDiv sw t a c b s := rfl
theorem exec_rem (sw : Bool) (t : ITy) (a c b : GReg) (s : State) : exec (.rem sw t a c b) s = execRem sw t a c b s := rfl
theorem exec_and (sw : Bool) (a c b : GReg) (s : State) : exec (.and sw a c b) s = execAnd sw a c b s := rfl
theorem exec_or (sw : Bool) (a c b : GReg) (s : State) : exec (.or sw a c b) s = execOr sw a c b s := rfl
theorem exec_xor (sw : Bool) (a c b : GReg) (s : State) : exec (.xor sw a c b) s = execXor sw a c b s := rfl
theorem exec_andn (sw : Bool) (a c b : GReg) (s : State) : exec (.andn sw a c b) s = execAndn sw a c b s := rfl
theorem exec_shl (sw : Bool) (a c b : GReg) (s : State) : exec (.shl sw a c b) s = execShl sw a c b s := rfl
theorem exec_shr (sw : Bool) (a c b : GReg) (s : State) : exec (.shr sw a c b) s = execShr sw a c b s := rfl
theorem exec_sar (sw : Bool) (a c b : GReg) (s : State) : exec (.sar sw a c b) s = execSar sw a c b s := rfl
theorem exec_shi (sw : Bool) (k : ShKind) (a c : GReg) (imm : BitVec 13) (s : State) : exec (.shi sw k a c imm) s = execShi sw k a c imm s := rfl
theorem exec_rot (sw : Bool) (a c b : GReg) (s : State) : exec (.rot sw a c b) s = execRot sw a c b s := rfl
theorem exec_clz (sw : Bool) (a b : GReg) (s : State) : exec (.clz sw a b) s = execClz sw a b s := rfl
theorem exec_popc (sw : Bool) (a b : GReg) (s : State) : exec (.popc sw a b) s = execPopc sw a b s := rfl
theorem exec_min (sw : Bool) (t : ITy) (a c b : GReg) (s : State) : exec (.min sw t a c b) s = execMin sw t a c b s := rfl
theorem exec_max (sw : Bool) (t : ITy) (a c b : GReg) (s : State) : exec (.max sw t a c b) s = execMax sw t a c b s := rfl
theorem exec_cmp (sw : Bool) (k : Cond) (t : ITy) (a c b : GReg) (s : State) : exec (.cmp sw k t a c b) s = execCmp sw k t a c b s := rfl
theorem exec_cmpi (sw : Bool) (k : Cond) (t : ITy) (a c : GReg) (imm : BitVec 40) (s : State) : exec (.cmpi sw k t a c imm) s = execCmpi sw k t a c imm s := rfl
theorem exec_sel (sw : Bool) (k : Test) (a c b : GReg) (s : State) : exec (.sel sw k a c b) s = execSel sw k a c b s := rfl
theorem exec_ext (sw : Bool) (t : ITy) (a b : GReg) (s : State) : exec (.ext sw t a b) s = execExt sw t a b s := rfl
theorem exec_bfx (sw : Bool) (sgn : Bool) (a c : GReg) (imm : BitVec 13) (s : State) : exec (.bfx sw sgn a c imm) s = execBfx sw sgn a c imm s := rfl
theorem exec_bfi (sw : Bool) (a c : GReg) (imm : BitVec 13) (s : State) : exec (.bfi sw a c imm) s = execBfi sw a c imm s := rfl
theorem exec_lea (sw : Bool) (hi : Bool) (a : GReg) (m : MemOp) (s : State) : exec (.lea sw hi a m) s = execLea sw hi a m s := rfl
theorem exec_br (sw : Bool) (k : BrTest) (a : GReg) (imm : BitVec 40) (s : State) : exec (.br sw k a imm) s = execBr sw k a imm s := rfl
theorem exec_jmp (sw : Bool) (imm : BitVec 40) (s : State) : exec (.jmp sw imm) s = execJmp sw imm s := rfl
theorem exec_jmpr (sw : Bool) (b : GReg) (s : State) : exec (.jmpr sw b) s = execJmpr sw b s := rfl
theorem exec_calld (sw : Bool) (imm : BitVec 22) (s : State) : exec (.calld sw imm) s = execCalld sw imm s := rfl
theorem exec_ret (sw : Bool) (s : State) : exec (.ret sw) s = execRet sw s := rfl
theorem exec_loop (sw : Bool) (lc : Fin 3) (b : GReg) (imm : BitVec 9) (s : State) : exec (.loop sw lc b imm) s = execLoop sw lc b imm s := rfl
theorem exec_ld (sw : Bool) (k : LdKind) (rx : Bool) (a : GReg) (m : MemOp) (s : State) : exec (.ld sw k rx a m) s = execLd sw k rx a m s := rfl
theorem exec_st (sw : Bool) (k : StKind) (rx : Bool) (a : GReg) (m : MemOp) (s : State) : exec (.st sw k rx a m) s = execSt sw k rx a m s := rfl
theorem exec_ldp (sw : Bool) (k : LdKind) (md : PMode) (a : GReg) (p : BitVec 3) (s : State) : exec (.ldp sw k md a p) s = execLdp sw k md a p s := rfl
theorem exec_stp (sw : Bool) (k : StKind) (md : PMode) (a : GReg) (p : BitVec 3) (s : State) : exec (.stp sw k md a p) s = execStp sw k md a p s := rfl
theorem exec_atom (sw : Bool) (op : AtomOp) (t : AtomTy) (rx : Bool) (a : GReg) (m : MemOp) (s : State) : exec (.atom sw op t rx a m) s = execAtom sw op t rx a m s := rfl
theorem exec_fence (sw : Bool) (imm : BitVec 13) (s : State) : exec (.fence sw imm) s = execFence sw imm s := rfl
theorem exec_send (sw : Bool) (a c b : GReg) (s : State) : exec (.send sw a c b) s = execSend sw a c b s := rfl
theorem exec_take (sw : Bool) (a b : GReg) (s : State) : exec (.take sw a b) s = execTake sw a b s := rfl
theorem exec_clrf (sw : Bool) (a : GReg) (s : State) : exec (.clrf sw a) s = execClrf sw a s := rfl
theorem exec_mwait (sw : Bool) (a : GReg) (m : MemOp) (s : State) : exec (.mwait sw a m) s = execMwait sw a m s := rfl
theorem exec_srr (sw : Bool) (a : GReg) (n : BitVec 7) (s : State) : exec (.srr sw a n) s = execSrr sw a n s := rfl
theorem exec_srw (sw : Bool) (n : BitVec 7) (b : GReg) (s : State) : exec (.srw sw n b) s = execSrw sw n b s := rfl
theorem exec_epush (sw : Bool) (e : BitVec 3) (b : GReg) (s : State) : exec (.epush sw e b) s = execEpush sw e b s := rfl
theorem exec_epop (sw : Bool) (a : GReg) (e : BitVec 3) (s : State) : exec (.epop sw a e) s = execEpop sw a e s := rfl
theorem exec_trap (sw : Bool) (a : GReg) (n : BitVec 13) (s : State) : exec (.trap sw a n) s = execTrap sw a n s := rfl
theorem exec_brk (sw : Bool) (n : BitVec 4) (s : State) : exec (.brk sw n) s = execBrk sw n s := rfl
theorem exec_yield (sw : Bool) (s : State) : exec (.yield sw) s = execYield sw s := rfl
theorem exec_quit (sw : Bool) (s : State) : exec (.quit sw) s = execQuit sw s := rfl
theorem exec_spawn (sw : Bool) (a c b : GReg) (s : State) : exec (.spawn sw a c b) s = execSpawn sw a c b s := rfl
theorem exec_bar (sw : Bool) (clu : Bool) (a : GReg) (ch : BitVec 4) (s : State) : exec (.bar sw clu a ch) s = execBar sw clu a ch s := rfl
theorem exec_barArr (sw : Bool) (clu : Bool) (ch : BitVec 4) (s : State) : exec (.barArr sw clu ch) s = execBarArr sw clu ch s := rfl
theorem exec_barWt (sw : Bool) (clu : Bool) (a : GReg) (ch : BitVec 4) (s : State) : exec (.barWt sw clu a ch) s = execBarWt sw clu a ch s := rfl
theorem exec_barFmax (sw : Bool) (clu : Bool) (a : GReg) (ch : BitVec 4) (s : State) : exec (.barFmax sw clu a ch) s = execBarFmax sw clu a ch s := rfl
theorem exec_barImax (sw : Bool) (clu : Bool) (a : GReg) (ch : BitVec 4) (s : State) : exec (.barImax sw clu a ch) s = execBarImax sw clu a ch s := rfl
theorem exec_barArm (sw : Bool) (clu : Bool) (a : GReg) (ch : BitVec 4) (s : State) : exec (.barArm sw clu a ch) s = execBarArm sw clu a ch s := rfl
theorem exec_ckpt (sw : Bool) (m : MemOp) (s : State) : exec (.ckpt sw m) s = execCkpt sw m s := rfl
theorem exec_pmov (sw : Bool) (p : BitVec 3) (b : GReg) (s : State) : exec (.pmov sw p b) s = execPmov sw p b s := rfl
theorem exec_pmovGet (sw : Bool) (a : GReg) (p : BitVec 3) (s : State) : exec (.pmovGet sw a p) s = execPmovGet sw a p s := rfl
theorem exec_vadd (h : VHdr) (a c b : BitVec 3) (s : State) : exec (.vadd h a c b) s = execVadd h a c b s := rfl
theorem exec_vsub (h : VHdr) (a c b : BitVec 3) (s : State) : exec (.vsub h a c b) s = execVsub h a c b s := rfl
theorem exec_vmul (h : VHdr) (a c b : BitVec 3) (s : State) : exec (.vmul h a c b) s = execVmul h a c b s := rfl
theorem exec_vfma (h : VHdr) (a c b : BitVec 3) (s : State) : exec (.vfma h a c b) s = execVfma h a c b s := rfl
theorem exec_vfms (h : VHdr) (a c b : BitVec 3) (s : State) : exec (.vfms h a c b) s = execVfms h a c b s := rfl
theorem exec_vmin (h : VHdr) (a c b : BitVec 3) (s : State) : exec (.vmin h a c b) s = execVmin h a c b s := rfl
theorem exec_vmax (h : VHdr) (a c b : BitVec 3) (s : State) : exec (.vmax h a c b) s = execVmax h a c b s := rfl
theorem exec_vabs (h : VHdr) (a c : BitVec 3) (s : State) : exec (.vabs h a c) s = execVabs h a c s := rfl
theorem exec_vneg (h : VHdr) (a c : BitVec 3) (s : State) : exec (.vneg h a c) s = execVneg h a c s := rfl
theorem exec_vand (h : VHdr) (a c b : BitVec 3) (s : State) : exec (.vand h a c b) s = execVand h a c b s := rfl
theorem exec_vor (h : VHdr) (a c b : BitVec 3) (s : State) : exec (.vor h a c b) s = execVor h a c b s := rfl
theorem exec_vxor (h : VHdr) (a c b : BitVec 3) (s : State) : exec (.vxor h a c b) s = execVxor h a c b s := rfl
theorem exec_vnot (h : VHdr) (a c : BitVec 3) (s : State) : exec (.vnot h a c) s = execVnot h a c s := rfl
theorem exec_vshl (h : VHdr) (a c b : BitVec 3) (s : State) : exec (.vshl h a c b) s = execVshl h a c b s := rfl
theorem exec_vshr (h : VHdr) (a c b : BitVec 3) (s : State) : exec (.vshr h a c b) s = execVshr h a c b s := rfl
theorem exec_vsar (h : VHdr) (a c b : BitVec 3) (s : State) : exec (.vsar h a c b) s = execVsar h a c b s := rfl
theorem exec_vcmp (h : VHdr) (k : Cond) (a : BitVec 2) (c b : BitVec 3) (s : State) : exec (.vcmp h k a c b) s = execVcmp h k a c b s := rfl
theorem exec_vsel (h : VHdr) (a c b : BitVec 3) (s : State) : exec (.vsel h a c b) s = execVsel h a c b s := rfl
theorem exec_vcvt (h : VHdr) (tgt : ETy) (part : BitVec 3) (a c : BitVec 3) (s : State) : exec (.vcvt h tgt part a c) s = execVcvt h tgt part a c s := rfl
theorem exec_vqnt (h : VHdr) (tgt : QFmt) (part : BitVec 3) (a c b : BitVec 3) (s : State) : exec (.vqnt h tgt part a c b) s = execVqnt h tgt part a c b s := rfl
theorem exec_vdqnt (h : VHdr) (frm : QFmt) (part : BitVec 3) (a c b : BitVec 3) (s : State) : exec (.vdqnt h frm part a c b) s = execVdqnt h frm part a c b s := rfl
theorem exec_vred (h : VHdr) (op : RedOp) (a c : BitVec 3) (s : State) : exec (.vred h op a c) s = execVred h op a c s := rfl
theorem exec_vscan (h : VHdr) (op : RedOp) (excl : Bool) (a c : BitVec 3) (s : State) : exec (.vscan h op excl a c) s = execVscan h op excl a c s := rfl
theorem exec_vbcast (h : VHdr) (a : BitVec 3) (src : BcSrc) (s : State) : exec (.vbcast h a src) s = execVbcast h a src s := rfl
theorem exec_viota (h : VHdr) (a : BitVec 3) (s : State) : exec (.viota h a) s = execViota h a s := rfl
theorem exec_vperm (h : VHdr) (a c b : BitVec 3) (s : State) : exec (.vperm h a c b) s = execVperm h a c b s := rfl
theorem exec_vgath (h : VHdr) (a b : BitVec 3) (sg : BitVec 3) (s : State) : exec (.vgath h a b sg) s = execVgath h a b sg s := rfl
theorem exec_vscat (h : VHdr) (a b : BitVec 3) (sg : BitVec 3) (s : State) : exec (.vscat h a b sg) s = execVscat h a b sg s := rfl
theorem exec_vsfu (h : VHdr) (f : SfuFn) (a c : BitVec 3) (s : State) : exec (.vsfu h f a c) s = execVsfu h f a c s := rfl
theorem exec_vmsk (sw : Bool) (op : MskOp) (a c b : BitVec 2) (s : State) : exec (.vmsk sw op a c b) s = execVmsk sw op a c b s := rfl
theorem exec_vmovm (sw : Bool) (op : MovmOp) (s : State) : exec (.vmovm sw op) s = execVmovm sw op s := rfl
theorem exec_vdot (h : VHdr) (a c b : BitVec 3) (s : State) : exec (.vdot h a c b) s = execVdot h a c b s := rfl
theorem exec_vclamp (h : VHdr) (a c b : BitVec 3) (s : State) : exec (.vclamp h a c b) s = execVclamp h a c b s := rfl
theorem exec_vamax (h : VHdr) (a c : BitVec 3) (s : State) : exec (.vamax h a c) s = execVamax h a c s := rfl
theorem exec_mgath (sw : Bool) (toB : Bool) (b : GReg) (s : State) : exec (.mgath sw toB b) s = execMgath sw toB b s := rfl
theorem exec_mald (sw : Bool) (b : GReg) (s : State) : exec (.mald sw b) s = execMald sw b s := rfl
theorem exec_mbld (sw : Bool) (b : GReg) (s : State) : exec (.mbld sw b) s = execMbld sw b s := rfl
theorem exec_mma (sw : Bool) (g z cq : Bool) (acc : BitVec 2) (ks : BitVec 4) (s : State) : exec (.mma sw g z cq acc ks) s = execMma sw g z cq acc ks s := rfl
theorem exec_mzero (sw : Bool) (f32 cq : Bool) (acc : BitVec 2) (s : State) : exec (.mzero sw f32 cq acc) s = execMzero sw f32 cq acc s := rfl
theorem exec_mrd (sw : Bool) (rnd : Rnd) (nsat : Bool) (acc : BitVec 2) (b : GReg) (s : State) : exec (.mrd sw rnd nsat acc b) s = execMrd sw rnd nsat acc b s := rfl
theorem exec_mwr (sw : Bool) (acc : BitVec 2) (b : GReg) (s : State) : exec (.mwr sw acc b) s = execMwr sw acc b s := rfl
theorem exec_mscl (sw : Bool) (toB : Bool) (b : GReg) (s : State) : exec (.mscl sw toB b) s = execMscl sw toB b s := rfl
theorem exec_mstat (sw : Bool) (a : GReg) (s : State) : exec (.mstat sw a) s = execMstat sw a s := rfl
theorem exec_baddq (sw : Bool) (rnd : Rnd) (acc : BitVec 2) (b : GReg) (s : State) : exec (.baddq sw rnd acc b) s = execBaddq sw rnd acc b s := rfl
theorem exec_segw (sw : Bool) (a : BitVec 3) (b : GReg) (s : State) : exec (.segw sw a b) s = execSegw sw a b s := rfl
theorem exec_segr (sw : Bool) (a : GReg) (b : BitVec 3) (s : State) : exec (.segr sw a b) s = execSegr sw a b s := rfl
theorem exec_segrHi (sw : Bool) (a : GReg) (b : BitVec 3) (s : State) : exec (.segrHi sw a b) s = execSegrHi sw a b s := rfl
theorem exec_pgprobe (sw : Bool) (a : GReg) (m : MemOp) (s : State) : exec (.pgprobe sw a m) s = execPgprobe sw a m s := rfl
theorem exec_tlbinv (sw : Bool) (k : TlbScope) (a b : GReg) (s : State) : exec (.tlbinv sw k a b) s = execTlbinv sw k a b s := rfl
theorem exec_codeinv (sw : Bool) (a b : GReg) (s : State) : exec (.codeinv sw a b) s = execCodeinv sw a b s := rfl
theorem exec_codeinvAll (sw : Bool) (a : GReg) (s : State) : exec (.codeinvAll sw a) s = execCodeinvAll sw a s := rfl
theorem exec_fbegin (sw : Bool) (imm : BitVec 31) (s : State) : exec (.fbegin sw imm) s = execFbegin sw imm s := rfl
theorem exec_fcommit (sw : Bool) (s : State) : exec (.fcommit sw) s = execFcommit sw s := rfl
theorem exec_fabort (sw : Bool) (s : State) : exec (.fabort sw) s = execFabort sw s := rfl
theorem exec_spill (sw : Bool) (a b : GReg) (s : State) : exec (.spill sw a b) s = execSpill sw a b s := rfl
theorem exec_spillHold (sw : Bool) (a b : GReg) (s : State) : exec (.spillHold sw a b) s = execSpillHold sw a b s := rfl
theorem exec_spillRel (sw : Bool) (a b : GReg) (s : State) : exec (.spillRel sw a b) s = execSpillRel sw a b s := rfl
theorem exec_spillBase (sw : Bool) (a b : GReg) (s : State) : exec (.spillBase sw a b) s = execSpillBase sw a b s := rfl
theorem exec_spillCkpt (sw : Bool) (a b : GReg) (s : State) : exec (.spillCkpt sw a b) s = execSpillCkpt sw a b s := rfl
theorem exec_csave (sw : Bool) (a b : GReg) (s : State) : exec (.csave sw a b) s = execCsave sw a b s := rfl
theorem exec_cload (sw : Bool) (a b : GReg) (s : State) : exec (.cload sw a b) s = execCload sw a b s := rfl
theorem exec_fork (sw : Bool) (a c b : GReg) (s : State) : exec (.fork sw a c b) s = execFork sw a c b s := rfl
theorem exec_join (sw : Bool) (a : GReg) (m : MemOp) (s : State) : exec (.join sw a m) s = execJoin sw a m s := rfl
theorem exec_depnew (sw : Bool) (a : GReg) (m : MemOp) (s : State) : exec (.depnew sw a m) s = execDepnew sw a m s := rfl
theorem exec_deppub (sw : Bool) (a : GReg) (m : MemOp) (s : State) : exec (.deppub sw a m) s = execDeppub sw a m s := rfl
theorem exec_signal (sw : Bool) (rx : Bool) (a : GReg) (m : MemOp) (s : State) : exec (.signal sw rx a m) s = execSignal sw rx a m s := rfl
theorem exec_enq (sw : Bool) (l : EnqLevel) (a : GReg) (m : MemOp) (s : State) : exec (.enq sw l a m) s = execEnq sw l a m s := rfl
theorem exec_taskid (sw : Bool) (k : TaskIdSel) (a : GReg) (s : State) : exec (.taskid sw k a) s = execTaskid sw k a s := rfl
theorem exec_steal (sw : Bool) (a b : GReg) (s : State) : exec (.steal sw a b) s = execSteal sw a b s := rfl
theorem exec_book (sw : Bool) (a b : GReg) (s : State) : exec (.book sw a b) s = execBook sw a b s := rfl
theorem exec_bkq (sw : Bool) (a b : GReg) (s : State) : exec (.bkq sw a b) s = execBkq sw a b s := rfl
theorem exec_bkqWt (sw : Bool) (a b : GReg) (s : State) : exec (.bkqWt sw a b) s = execBkqWt sw a b s := rfl
theorem exec_bkcan (sw : Bool) (a b : GReg) (s : State) : exec (.bkcan sw a b) s = execBkcan sw a b s := rfl
theorem exec_bkend (sw : Bool) (s : State) : exec (.bkend sw) s = execBkend sw s := rfl
theorem exec_gang (sw : Bool) (a b : GReg) (s : State) : exec (.gang sw a b) s = execGang sw a b s := rfl
theorem exec_gangCancel (sw : Bool) (a b : GReg) (s : State) : exec (.gangCancel sw a b) s = execGangCancel sw a b s := rfl
theorem exec_pipew (sw : Bool) (a : GReg) (ep : BitVec 4) (s : State) : exec (.pipew sw a ep) s = execPipew sw a ep s := rfl
theorem exec_piper (sw : Bool) (a : GReg) (ep : BitVec 4) (s : State) : exec (.piper sw a ep) s = execPiper sw a ep s := rfl
theorem exec_piperDone (sw : Bool) (ep : BitVec 4) (s : State) : exec (.piperDone sw ep) s = execPiperDone sw ep s := rfl
theorem exec_hnew (sw : Bool) (a b : GReg) (s : State) : exec (.hnew sw a b) s = execHnew sw a b s := rfl
theorem exec_hcopy (sw : Bool) (a b : GReg) (s : State) : exec (.hcopy sw a b) s = execHcopy sw a b s := rfl
theorem exec_hdrop (sw : Bool) (a : GReg) (s : State) : exec (.hdrop sw a) s = execHdrop sw a s := rfl
theorem exec_hdropLost (sw : Bool) (a : GReg) (s : State) : exec (.hdropLost sw a) s = execHdropLost sw a s := rfl
theorem exec_hbind (sw : Bool) (a b : GReg) (s : State) : exec (.hbind sw a b) s = execHbind sw a b s := rfl
theorem exec_hsend (sw : Bool) (a c b : GReg) (s : State) : exec (.hsend sw a c b) s = execHsend sw a c b s := rfl
theorem exec_haddr (sw : Bool) (a c : GReg) (sg : BitVec 3) (s : State) : exec (.haddr sw a c sg) s = execHaddr sw a c sg s := rfl
theorem exec_haddrLen (sw : Bool) (a c : GReg) (s : State) : exec (.haddrLen sw a c) s = execHaddrLen sw a c s := rfl
theorem exec_haddrWt (sw : Bool) (a c : GReg) (s : State) : exec (.haddrWt sw a c) s = execHaddrWt sw a c s := rfl
theorem exec_mcw (sw : Bool) (a b : GReg) (s : State) : exec (.mcw sw a b) s = execMcw sw a b s := rfl
theorem exec_mcsend (sw : Bool) (a c b : GReg) (s : State) : exec (.mcsend sw a c b) s = execMcsend sw a c b s := rfl
theorem exec_rslot (sw : Bool) (a b : GReg) (s : State) : exec (.rslot sw a b) s = execRslot sw a b s := rfl
theorem exec_redc (sw : Bool) (a c b : GReg) (s : State) : exec (.redc sw a c b) s = execRedc sw a c b s := rfl
theorem exec_redw (sw : Bool) (a b : GReg) (s : State) : exec (.redw sw a b) s = execRedw sw a b s := rfl
theorem exec_lnkst (sw : Bool) (a b : GReg) (s : State) : exec (.lnkst sw a b) s = execLnkst sw a b s := rfl
theorem exec_lnkstCtl (sw : Bool) (a b : GReg) (s : State) : exec (.lnkstCtl sw a b) s = execLnkstCtl sw a b s := rfl
theorem exec_ldmb (sw : Bool) (k : BitVec 4) (a : GReg) (m : MemOp) (s : State) : exec (.ldmb sw k a m) s = execLdmb sw k a m s := rfl
theorem exec_stmb (sw : Bool) (k : BitVec 4) (a : GReg) (m : MemOp) (s : State) : exec (.stmb sw k a m) s = execStmb sw k a m s := rfl
theorem exec_blkcp (sw : Bool) (a : GReg) (m : MemOp) (s : State) : exec (.blkcp sw a m) s = execBlkcp sw a m s := rfl
theorem exec_crcb (sw : Bool) (a : GReg) (m : MemOp) (s : State) : exec (.crcb sw a m) s = execCrcb sw a m s := rfl
theorem exec_vectorRowWrite (s : State) : exec (.vectorRowWrite) s = execVectorRowWrite s := rfl
theorem exec_gatherElementReply (s : State) : exec (.gatherElementReply) s = execGatherElementReply s := rfl
theorem exec_sfuRequestDone (s : State) : exec (.sfuRequestDone) s = execSfuRequestDone s := rfl
theorem exec_matrixLoadExec (s : State) : exec (.matrixLoadExec) s = execMatrixLoadExec s := rfl
theorem exec_mmaGangStart (s : State) : exec (.mmaGangStart) s = execMmaGangStart s := rfl
theorem exec_mmaExec (s : State) : exec (.mmaExec) s = execMmaExec s := rfl
theorem exec_mrdExec (s : State) : exec (.mrdExec) s = execMrdExec s := rfl
theorem exec_mwrExec (s : State) : exec (.mwrExec) s = execMwrExec s := rfl
theorem exec_mzeroExec (s : State) : exec (.mzeroExec) s = execMzeroExec s := rfl
theorem exec_msclExec (s : State) : exec (.msclExec) s = execMsclExec s := rfl
theorem exec_baddqExec (s : State) : exec (.baddqExec) s = execBaddqExec s := rfl
theorem exec_latchEccError (s : State) : exec (.latchEccError) s = execLatchEccError s := rfl
theorem exec_tlbinvComplete (s : State) : exec (.tlbinvComplete) s = execTlbinvComplete s := rfl
theorem exec_codeinvComplete (s : State) : exec (.codeinvComplete) s = execCodeinvComplete s := rfl
theorem exec_fcommitDecision (s : State) : exec (.fcommitDecision) s = execFcommitDecision s := rfl
theorem exec_coreImageComplete (s : State) : exec (.coreImageComplete) s = execCoreImageComplete s := rfl
theorem exec_mcwComplete (s : State) : exec (.mcwComplete) s = execMcwComplete s := rfl
theorem exec_mcsendResult (s : State) : exec (.mcsendResult) s = execMcsendResult s := rfl
theorem exec_plainAccessReply (s : State) : exec (.plainAccessReply) s = execPlainAccessReply s := rfl
theorem exec_relaxedLoadResult (s : State) : exec (.relaxedLoadResult) s = execRelaxedLoadResult s := rfl
theorem exec_storeAcknowledge (s : State) : exec (.storeAcknowledge) s = execStoreAcknowledge s := rfl
theorem exec_tagRetryRequest (s : State) : exec (.tagRetryRequest) s = execTagRetryRequest s := rfl
theorem exec_sendArrival (s : State) : exec (.sendArrival) s = execSendArrival s := rfl
theorem exec_sendStatus (s : State) : exec (.sendStatus) s = execSendStatus s := rfl
theorem exec_overflowDelivery (s : State) : exec (.overflowDelivery) s = execOverflowDelivery s := rfl
theorem exec_monitorWake (s : State) : exec (.monitorWake) s = execMonitorWake s := rfl
theorem exec_mwaitTimedWake (s : State) : exec (.mwaitTimedWake) s = execMwaitTimedWake s := rfl
theorem exec_yieldExpiry (s : State) : exec (.yieldExpiry) s = execYieldExpiry s := rfl
theorem exec_ageingPromotion (s : State) : exec (.ageingPromotion) s = execAgeingPromotion s := rfl
theorem exec_coreModeSet (s : State) : exec (.coreModeSet) s = execCoreModeSet s := rfl
theorem exec_fenceComplete (s : State) : exec (.fenceComplete) s = execFenceComplete s := rfl
theorem exec_copyCommandStart (s : State) : exec (.copyCommandStart) s = execCopyCommandStart s := rfl
theorem exec_copyCommandComplete (s : State) : exec (.copyCommandComplete) s = execCopyCommandComplete s := rfl
theorem exec_tlbWalkComplete (s : State) : exec (.tlbWalkComplete) s = execTlbWalkComplete s := rfl
theorem exec_pageWakeRetry (s : State) : exec (.pageWakeRetry) s = execPageWakeRetry s := rfl
theorem exec_pageWakeDeny (s : State) : exec (.pageWakeDeny) s = execPageWakeDeny s := rfl
theorem exec_fabricTimeout (s : State) : exec (.fabricTimeout) s = execFabricTimeout s := rfl
theorem exec_remoteFailureReport (s : State) : exec (.remoteFailureReport) s = execRemoteFailureReport s := rfl
theorem exec_barrierArmApplied (s : State) : exec (.barrierArmApplied) s = execBarrierArmApplied s := rfl
theorem exec_barrierArrivalAtNode (s : State) : exec (.barrierArrivalAtNode) s = execBarrierArrivalAtNode s := rfl
theorem exec_barrierRelease (s : State) : exec (.barrierRelease) s = execBarrierRelease s := rfl
theorem exec_barrierDeparture (s : State) : exec (.barrierDeparture) s = execBarrierDeparture s := rfl
theorem exec_corePeckRequest (s : State) : exec (.corePeckRequest) s = execCorePeckRequest s := rfl
theorem exec_corePeckArrival (s : State) : exec (.corePeckArrival) s = execCorePeckArrival s := rfl
theorem exec_clusterPeckRequest (s : State) : exec (.clusterPeckRequest) s = execClusterPeckRequest s := rfl
theorem exec_clusterPeckArrival (s : State) : exec (.clusterPeckArrival) s = execClusterPeckArrival s := rfl
theorem exec_dieQueueEnlarge (s : State) : exec (.dieQueueEnlarge) s = execDieQueueEnlarge s := rfl
theorem exec_dispatcherStart (s : State) : exec (.dispatcherStart) s = execDispatcherStart s := rfl
theorem exec_taskReady (s : State) : exec (.taskReady) s = execTaskReady s := rfl
theorem exec_grantSetLoadComplete (s : State) : exec (.grantSetLoadComplete) s = execGrantSetLoadComplete s := rfl
theorem exec_stealRequest (s : State) : exec (.stealRequest) s = execStealRequest s := rfl
theorem exec_stealReply (s : State) : exec (.stealReply) s = execStealReply s := rfl
theorem exec_stealWalkWaitExpiry (s : State) : exec (.stealWalkWaitExpiry) s = execStealWalkWaitExpiry s := rfl
theorem exec_taskRetire (s : State) : exec (.taskRetire) s = execTaskRetire s := rfl
theorem exec_pairedCompare (s : State) : exec (.pairedCompare) s = execPairedCompare s := rfl
theorem exec_cellReleaseInsert (s : State) : exec (.cellReleaseInsert) s = execCellReleaseInsert s := rfl
theorem exec_contextSpill (s : State) : exec (.contextSpill) s = execContextSpill s := rfl
theorem exec_spillComplete (s : State) : exec (.spillComplete) s = execSpillComplete s := rfl
theorem exec_forwardProgressSpill (s : State) : exec (.forwardProgressSpill) s = execForwardProgressSpill s := rfl
theorem exec_contextRestore (s : State) : exec (.contextRestore) s = execContextRestore s := rfl
theorem exec_restoreComplete (s : State) : exec (.restoreComplete) s = execRestoreComplete s := rfl
theorem exec_checkpointSave (s : State) : exec (.checkpointSave) s = execCheckpointSave s := rfl
theorem exec_checkpointRestore (s : State) : exec (.checkpointRestore) s = execCheckpointRestore s := rfl
theorem exec_brsResume (s : State) : exec (.brsResume) s = execBrsResume s := rfl
theorem exec_brsDiscard (s : State) : exec (.brsDiscard) s = execBrsDiscard s := rfl
theorem exec_codeMissRetry (s : State) : exec (.codeMissRetry) s = execCodeMissRetry s := rfl
theorem exec_codeFetchReply (s : State) : exec (.codeFetchReply) s = execCodeFetchReply s := rfl
theorem exec_codeInstall (s : State) : exec (.codeInstall) s = execCodeInstall s := rfl
theorem exec_codeNoSource (s : State) : exec (.codeNoSource) s = execCodeNoSource s := rfl
theorem exec_brsCodeSearch (s : State) : exec (.brsCodeSearch) s = execBrsCodeSearch s := rfl
theorem exec_peerContainerReply (s : State) : exec (.peerContainerReply) s = execPeerContainerReply s := rfl
theorem exec_residentTranslation (s : State) : exec (.residentTranslation) s = execResidentTranslation s := rfl
theorem exec_packageLoadRequest (s : State) : exec (.packageLoadRequest) s = execPackageLoadRequest s := rfl
theorem exec_packageUnloadRequest (s : State) : exec (.packageUnloadRequest) s = execPackageUnloadRequest s := rfl
theorem exec_packageUnloadComplete (s : State) : exec (.packageUnloadComplete) s = execPackageUnloadComplete s := rfl
theorem exec_graphLaunch (s : State) : exec (.graphLaunch) s = execGraphLaunch s := rfl
theorem exec_bookingDecision (s : State) : exec (.bookingDecision) s = execBookingDecision s := rfl
theorem exec_stagingBegin (s : State) : exec (.stagingBegin) s = execStagingBegin s := rfl
theorem exec_stagingStepRetry (s : State) : exec (.stagingStepRetry) s = execStagingStepRetry s := rfl
theorem exec_bookingStart (s : State) : exec (.bookingStart) s = execBookingStart s := rfl
theorem exec_bookingSlip (s : State) : exec (.bookingSlip) s = execBookingSlip s := rfl
theorem exec_slackGrain (s : State) : exec (.slackGrain) s = execSlackGrain s := rfl
theorem exec_bookingOverrun (s : State) : exec (.bookingOverrun) s = execBookingOverrun s := rfl
theorem exec_gangJoinAtNode (s : State) : exec (.gangJoinAtNode) s = execGangJoinAtNode s := rfl
theorem exec_gangRelease (s : State) : exec (.gangRelease) s = execGangRelease s := rfl
theorem exec_gangMemberFault (s : State) : exec (.gangMemberFault) s = execGangMemberFault s := rfl
theorem exec_pipeEntryArrival (s : State) : exec (.pipeEntryArrival) s = execPipeEntryArrival s := rfl
theorem exec_pipeFreeReport (s : State) : exec (.pipeFreeReport) s = execPipeFreeReport s := rfl
theorem exec_tensorReturn (s : State) : exec (.tensorReturn) s = execTensorReturn s := rfl
theorem exec_deathAction (s : State) : exec (.deathAction) s = execDeathAction s := rfl
theorem exec_returnReply (s : State) : exec (.returnReply) s = execReturnReply s := rfl
theorem exec_multicastCopyArrival (s : State) : exec (.multicastCopyArrival) s = execMulticastCopyArrival s := rfl
theorem exec_reductionContribution (s : State) : exec (.reductionContribution) s = execReductionContribution s := rfl
theorem exec_reductionSlotTimeout (s : State) : exec (.reductionSlotTimeout) s = execReductionSlotTimeout s := rfl
theorem exec_reductionSlotExpiry (s : State) : exec (.reductionSlotExpiry) s = execReductionSlotExpiry s := rfl
theorem exec_redwResult (s : State) : exec (.redwResult) s = execRedwResult s := rfl
theorem exec_headerFlitRefused (s : State) : exec (.headerFlitRefused) s = execHeaderFlitRefused s := rfl
theorem exec_dataFlitPoisoned (s : State) : exec (.dataFlitPoisoned) s = execDataFlitPoisoned s := rfl
theorem exec_linkDown (s : State) : exec (.linkDown) s = execLinkDown s := rfl
theorem exec_laneLost (s : State) : exec (.laneLost) s = execLaneLost s := rfl
theorem exec_linkRetrainTimer (s : State) : exec (.linkRetrainTimer) s = execLinkRetrainTimer s := rfl
theorem exec_linkTrainingDone (s : State) : exec (.linkTrainingDone) s = execLinkTrainingDone s := rfl
theorem exec_linkTrainingTimeout (s : State) : exec (.linkTrainingTimeout) s = execLinkTrainingTimeout s := rfl
theorem exec_downNotice (s : State) : exec (.downNotice) s = execDownNotice s := rfl
theorem exec_upNotice (s : State) : exec (.upNotice) s = execUpNotice s := rfl
theorem exec_dramRefreshGrain (s : State) : exec (.dramRefreshGrain) s = execDramRefreshGrain s := rfl
theorem exec_scratchpadScrubGrain (s : State) : exec (.scratchpadScrubGrain) s = execScratchpadScrubGrain s := rfl
theorem exec_linkCalibrationGrain (s : State) : exec (.linkCalibrationGrain) s = execLinkCalibrationGrain s := rfl
theorem exec_launchRequest (s : State) : exec (.launchRequest) s = execLaunchRequest s := rfl
theorem exec_trapReply (s : State) : exec (.trapReply) s = execTrapReply s := rfl
theorem exec_eventForward (s : State) : exec (.eventForward) s = execEventForward s := rfl
theorem exec_tenantAcknowledge (s : State) : exec (.tenantAcknowledge) s = execTenantAcknowledge s := rfl
theorem exec_clusterAllocation (s : State) : exec (.clusterAllocation) s = execClusterAllocation s := rfl
theorem exec_clusterClear (s : State) : exec (.clusterClear) s = execClusterClear s := rfl
theorem exec_tenantDeletion (s : State) : exec (.tenantDeletion) s = execTenantDeletion s := rfl
theorem exec_attestationRequest (s : State) : exec (.attestationRequest) s = execAttestationRequest s := rfl
theorem exec_nvmeReadComplete (s : State) : exec (.nvmeReadComplete) s = execNvmeReadComplete s := rfl
theorem exec_powerOnReset (s : State) : exec (.powerOnReset) s = execPowerOnReset s := rfl
theorem exec_i3cReset (s : State) : exec (.i3cReset) s = execI3cReset s := rfl
theorem exec_modnum (s : State) : exec (.modnum) s = execModnum s := rfl
theorem exec_moduleNumberWaitExpiry (s : State) : exec (.moduleNumberWaitExpiry) s = execModuleNumberWaitExpiry s := rfl
theorem exec_bootFirmwareVerify (s : State) : exec (.bootFirmwareVerify) s = execBootFirmwareVerify s := rfl
theorem exec_bootDramTrain (s : State) : exec (.bootDramTrain) s = execBootDramTrain s := rfl
theorem exec_bootUplinkTrain (s : State) : exec (.bootUplinkTrain) s = execBootUplinkTrain s := rfl
theorem exec_bootKMapLock (s : State) : exec (.bootKMapLock) s = execBootKMapLock s := rfl
theorem exec_bootBrsVerify (s : State) : exec (.bootBrsVerify) s = execBootBrsVerify s := rfl
theorem exec_bootRelease (s : State) : exec (.bootRelease) s = execBootRelease s := rfl
theorem exec_thermalThrottle (s : State) : exec (.thermalThrottle) s = execThermalThrottle s := rfl
theorem exec_thermalHalt (s : State) : exec (.thermalHalt) s = execThermalHalt s := rfl
theorem exec_telemetrySample (s : State) : exec (.telemetrySample) s = execTelemetrySample s := rfl
theorem exec_remoteAccessAtBank (s : State) : exec (.remoteAccessAtBank) s = execRemoteAccessAtBank s := rfl
theorem exec_spawnArrival (s : State) : exec (.spawnArrival) s = execSpawnArrival s := rfl
theorem exec_ownUplinksDown (s : State) : exec (.ownUplinksDown) s = execOwnUplinksDown s := rfl
theorem exec_operatorRequest (s : State) : exec (.operatorRequest) s = execOperatorRequest s := rfl
theorem exec_ultraEthernetSessionOpen (s : State) : exec (.ultraEthernetSessionOpen) s = execUltraEthernetSessionOpen s := rfl

end Sys2Proof.Machine
end

