-- ==== Sys2Proof/Laws/Memory.lean ====
section
/-! SUPPORT. Memory: reads after writes, and every memory operation keeps the canonical form (`Mem.wf`). -/

namespace Sys2Proof.Machine

/-! ### Sparse lists -/

section sparse
variable {α : Type} [DecidableEq α] (z : α)

theorem sparseFrom_cons (lo j : Nat) (b : α) (r : List (Nat × α)) :
    sparseFrom z lo ((j, b) :: r) = true ↔ lo ≤ j ∧ b ≠ z ∧ sparseFrom z (j + 1) r = true := by
  simp [sparseFrom, and_assoc]

theorem sparseFrom_mono {lo lo' : Nat} (h : lo ≤ lo') {l : List (Nat × α)} (hl : sparseFrom z lo' l = true) : sparseFrom z lo l = true := by
  cases l with
  | nil => rfl
  | cons e r =>
    obtain ⟨j, b⟩ := e
    rw [sparseFrom_cons] at hl ⊢
    exact ⟨by omega, hl.2⟩

theorem sparseRead_below {lo k : Nat} (h : k < lo) {l : List (Nat × α)} (hl : sparseFrom z lo l = true) : sparseRead z l k = z := by
  induction l generalizing lo with
  | nil => rfl
  | cons e r ih =>
    obtain ⟨j, b⟩ := e
    rw [sparseFrom_cons] at hl
    have hne : j ≠ k := by omega
    rw [sparseRead, if_neg hne]
    exact ih (lo := j + 1) (by omega) hl.2.2

theorem sparseWrite_from {lo k : Nat} (h : lo ≤ k) (b : α) {l : List (Nat × α)} (hl : sparseFrom z lo l = true) :
    sparseFrom z lo (sparseWrite z l k b) = true := by
  induction l generalizing lo with
  | nil =>
    by_cases hb : b = z
    · simp [sparseWrite, hb, sparseFrom]
    · simp [sparseWrite, hb, sparseFrom, h]
  | cons e r ih =>
    obtain ⟨j, c⟩ := e
    have hl' := hl
    rw [sparseFrom_cons] at hl
    by_cases h1 : k < j
    · by_cases hb : b = z
      · simpa [sparseWrite, h1, hb] using hl'
      · rw [sparseWrite, if_pos h1, if_neg hb, sparseFrom_cons, sparseFrom_cons]
        exact ⟨h, hb, by omega, hl.2⟩
    · by_cases h2 : k = j
      · subst h2
        by_cases hb : b = z
        · rw [sparseWrite, if_neg h1, if_pos rfl, if_pos hb]
          exact sparseFrom_mono z (by omega) hl.2.2
        · rw [sparseWrite, if_neg h1, if_pos rfl, if_neg hb, sparseFrom_cons]
          exact ⟨h, hb, hl.2.2⟩
      · rw [sparseWrite, if_neg h1, if_neg h2, sparseFrom_cons]
        exact ⟨hl.1, hl.2.1, ih (by omega) hl.2.2⟩

/-- A read after a write gives the value written at its key, and what was there before at any other. -/
theorem sparseRead_write {lo : Nat} (k : Nat) (b : α) (j : Nat) {l : List (Nat × α)} (hl : sparseFrom z lo l = true) :
    sparseRead z (sparseWrite z l k b) j = if k = j then b else sparseRead z l j := by
  induction l generalizing lo with
  | nil =>
    by_cases hb : b = z <;> by_cases h : k = j <;> simp [sparseWrite, hb, sparseRead, h]
  | cons e r ih =>
    obtain ⟨i, c⟩ := e
    have hl' := hl
    rw [sparseFrom_cons] at hl
    by_cases h1 : k < i
    · by_cases hb : b = z
      · rw [sparseWrite, if_pos h1, if_pos hb]
        by_cases h : k = j
        · subst h
          rw [if_pos rfl, hb]
          exact sparseRead_below z (lo := i) h1 (by rw [sparseFrom_cons]; exact ⟨le_refl _, hl.2⟩)
        · rw [if_neg h]
      · rw [sparseWrite, if_pos h1, if_neg hb, sparseRead]
    · by_cases h2 : k = i
      · subst h2
        by_cases hb : b = z
        · rw [sparseWrite, if_neg h1, if_pos rfl, if_pos hb]
          by_cases h : k = j
          · subst h
            rw [if_pos rfl, hb]
            exact sparseRead_below z (lo := k + 1) (by omega) hl.2.2
          · rw [if_neg h, sparseRead, if_neg h]
        · rw [sparseWrite, if_neg h1, if_pos rfl, if_neg hb]
          by_cases h : k = j <;> simp [sparseRead, h]
      · rw [sparseWrite, if_neg h1, if_neg h2, sparseRead, sparseRead, ih hl.2.2]
        by_cases h : i = j
        · have h3 : ¬ k = j := fun h4 => h2 (h4.trans h.symm)
          simp [h, h3]
        · simp [h]

theorem sparse_filter_from (p : Nat × α → Bool) {lo : Nat} {l : List (Nat × α)} (hl : sparseFrom z lo l = true) :
    sparseFrom z lo (l.filter p) = true := by
  induction l generalizing lo with
  | nil => rfl
  | cons e r ih =>
    obtain ⟨j, b⟩ := e
    rw [sparseFrom_cons] at hl
    by_cases hp : p (j, b) = true
    · rw [List.filter_cons_of_pos hp, sparseFrom_cons]
      exact ⟨hl.1, hl.2.1, ih hl.2.2⟩
    · rw [List.filter_cons_of_neg (by simpa using hp)]
      exact sparseFrom_mono z (by omega) (ih hl.2.2)

/-- Two canonical lists, the first below a bound and the second above it, make one. -/
theorem sparse_append {lo mid : Nat} {l r : List (Nat × α)} (hm : lo ≤ mid) (hl : sparseFrom z lo l = true) (hb : ∀ e ∈ l, e.1 < mid)
    (hr : sparseFrom z mid r = true) : sparseFrom z lo (l ++ r) = true := by
  induction l generalizing lo with
  | nil => exact sparseFrom_mono z hm hr
  | cons e t ih =>
    obtain ⟨j, b⟩ := e
    rw [sparseFrom_cons] at hl
    have hj : j < mid := hb (j, b) (by simp)
    rw [List.cons_append, sparseFrom_cons]
    exact ⟨hl.1, hl.2.1, ih (by omega) hl.2.2 (fun e he => hb e (by simp [he]))⟩

theorem sparse_above {lo mid : Nat} {l : List (Nat × α)} (hl : sparseFrom z lo l = true) (hb : ∀ e ∈ l, mid ≤ e.1) :
    sparseFrom z mid l = true := by
  cases l with
  | nil => rfl
  | cons e r =>
    obtain ⟨j, b⟩ := e
    rw [sparseFrom_cons] at hl ⊢
    exact ⟨hb (j, b) (by simp), hl.2⟩

theorem sparse_shift {lo src dst : Nat} {l : List (Nat × α)} (hl : sparseFrom z lo l = true) (hb : ∀ e ∈ l, src ≤ e.1) (hs : src ≤ lo) :
    sparseFrom z (lo - src + dst) (l.map (fun c => (c.1 - src + dst, c.2))) = true := by
  induction l generalizing lo with
  | nil => rfl
  | cons e r ih =>
    obtain ⟨j, b⟩ := e
    rw [sparseFrom_cons] at hl
    rw [List.map_cons, sparseFrom_cons]
    have hj : src ≤ j := hb (j, b) (by simp)
    refine ⟨by simp only; omega, hl.2.1, ?_⟩
    have h := ih (lo := j + 1) hl.2.2 (fun e he => hb e (by simp [he])) (by omega)
    have h1 : j + 1 - src + dst = j - src + dst + 1 := by omega
    simpa [h1] using h

theorem sparseClear_from {lo : Nat} {l : List (Nat × α)} (hl : sparseFrom z lo l = true) (a b : Nat) :
    sparseFrom z lo (sparseClear l a b) = true := sparse_filter_from z _ hl

theorem sparseMove_from {l : List (Nat × α)} (hl : sparseFrom z 0 l = true) (src dst n : Nat) :
    sparseFrom z 0 (sparseMove l src dst n) = true := by
  have hmid : sparseFrom z dst ((l.filter (fun c => decide (src ≤ c.1) && decide (c.1 < src + n))).map (fun c => (c.1 - src + dst, c.2))) = true := by
    have h1 : sparseFrom z src (l.filter (fun c => decide (src ≤ c.1) && decide (c.1 < src + n))) = true :=
      sparse_above z (sparse_filter_from z _ hl) (fun e he => by simp only [List.mem_filter, Bool.and_eq_true, decide_eq_true_eq] at he; exact he.2.1)
    have h2 := sparse_shift z (src := src) (dst := dst) h1
      (fun e he => by simp only [List.mem_filter, Bool.and_eq_true, decide_eq_true_eq] at he; exact he.2.1) (le_refl _)
    simpa using h2
  have hhi : sparseFrom z (dst + n) (l.filter (fun c => decide (dst + n ≤ c.1))) = true :=
    sparse_above z (sparse_filter_from z _ hl) (fun e he => by simpa using (List.mem_filter.mp he).2)
  unfold sparseMove
  rw [List.append_assoc]
  refine sparse_append z (mid := dst) (by omega) (sparse_filter_from z _ hl) (fun e he => by simpa using (List.mem_filter.mp he).2) ?_
  refine sparse_append z (mid := dst + n) (by omega) hmid (fun e he => ?_) hhi
  obtain ⟨c, hc, rfl⟩ := List.mem_map.mp he
  simp only [List.mem_filter, Bool.and_eq_true, decide_eq_true_eq] at hc
  simp only
  omega

end sparse

/-! ### Memory operations keep the canonical form -/

theorem Mem.wf_iff (m : Mem) :
    m.wf = true ↔ sparseFrom unlisted 0 m.bytes = true ∧ sparseFrom 0 0 m.tags = true ∧ sparseFrom false 0 m.poison = true := by
  simp [Mem.wf, and_assoc]

theorem Mem.reset_wf : Mem.reset.wf = true := rfl

theorem Mem.wf_put {m : Mem} (h : m.wf = true) (k : Nat) (b : Byte) : (m.put k b).wf = true := by
  rw [Mem.wf_iff] at *
  exact ⟨sparseWrite_from _ (by omega) b h.1, h.2⟩

theorem Mem.wf_putN {m : Mem} (h : m.wf = true) (k : Nat) (bs : List Byte) : (m.putN k bs).wf = true := by
  induction bs generalizing m k with
  | nil => exact h
  | cons b r ih => exact ih (Mem.wf_put h k b) (k + 1)

theorem Mem.wf_setTag {m : Mem} (h : m.wf = true) (k t : Nat) : (m.setTag k t).wf = true := by
  rw [Mem.wf_iff] at *
  exact ⟨h.1, sparseWrite_from _ (by omega) t h.2.1, h.2.2⟩

theorem Mem.wf_setPoison {m : Mem} (h : m.wf = true) (k : Nat) (p : Bool) : (m.setPoison k p).wf = true := by
  rw [Mem.wf_iff] at *
  exact ⟨h.1, h.2.1, sparseWrite_from _ (by omega) p h.2.2⟩

theorem Mem.wf_writeSector {m : Mem} (h : m.wf = true) (k : Nat) (bs : List Byte) (tag : Option Nat) : (m.writeSector k bs tag).wf = true := by
  have last : ∀ m1 : Mem, m1.wf = true → (if bs.length = 32 then (m1.putN k bs).setPoison k false else m1.putN k bs).wf = true := by
    intro m1 h1
    split
    · exact Mem.wf_setPoison (Mem.wf_putN h1 _ _) _ _
    · exact Mem.wf_putN h1 _ _
  cases tag with
  | none => exact last m h
  | some t =>
    refine last (if t = m.tagOf k then m else (m.putN (k / 32 * 32) (bytesLE 32 0)).setTag k t) ?_
    split
    · exact h
    · exact Mem.wf_setTag (Mem.wf_putN h _ _) k t

/-- A fold of operations that keep the form keeps it. -/
theorem Mem.wf_foldl {β : Type} (f : Mem → β → Mem) (hf : ∀ m b, m.wf = true → (f m b).wf = true) (l : List β) {m : Mem} (h : m.wf = true) :
    (l.foldl f m).wf = true := by
  induction l generalizing m with
  | nil => exact h
  | cons b r ih => exact ih (hf m b h)

theorem Mem.wf_writeRange {m : Mem} (h : m.wf = true) (k : Nat) (bs : List Byte) (tag : Option Nat) : (m.writeRange k bs tag).wf = true :=
  Mem.wf_foldl _ (fun _ _ hm => Mem.wf_writeSector hm _ _ _) _ h

theorem Mem.wf_clear {m : Mem} (h : m.wf = true) (lo hi : Nat) : (m.clear lo hi).wf = true := by
  rw [Mem.wf_iff] at *
  exact ⟨sparseClear_from _ h.1 _ _, sparseClear_from _ h.2.1 _ _, sparseClear_from _ h.2.2 _ _⟩

theorem Mem.wf_blank {m : Mem} (h : m.wf = true) (lo n : Nat) : (m.blank lo n).wf = true := by
  rw [Mem.wf_iff] at *
  exact ⟨sparseClear_from _ h.1 _ _, h.2.1, sparseClear_from _ h.2.2 _ _⟩

theorem Mem.wf_copyTo {m : Mem} (h : m.wf = true) (src dst n : Nat) : (m.copyTo src dst n).wf = true := by
  rw [Mem.wf_iff] at *
  exact ⟨sparseMove_from _ h.1 _ _ _, sparseMove_from _ h.2.1 _ _ _, sparseMove_from _ h.2.2 _ _ _⟩

theorem Mem.wf_clearSlice {m : Mem} (h : m.wf = true) (core : Nat) (save : Option Nat) (kmap : List Nat) :
    (m.clearSlice core save kmap).wf = true := by
  rw [Mem.wf_iff] at *
  exact ⟨sparse_filter_from _ _ h.1, sparse_filter_from _ _ h.2.1, sparse_filter_from _ _ h.2.2⟩

theorem Mem.wf_orBit {m : Mem} (h : m.wf = true) (key i : Nat) : (m.orBit key i).wf = true := by
  unfold Mem.orBit
  simp only
  split
  · exact h
  · exact Mem.wf_putN h _ _

theorem Mem.wf_putQuads {m : Mem} (h : m.wf = true) (key : Nat) (l : List Nat) : (m.putQuads key l).wf = true := Mem.wf_putN h _ _

theorem Mem.wf_putDirectory {m : Mem} (h : m.wf = true) (root : Nat) (dir : SMap Principal) : (m.putDirectory root dir).wf = true :=
  Mem.wf_foldl _ (fun _ _ hm => Mem.wf_putN (Mem.wf_putN hm _ _) _ _) _ (Mem.wf_clear h _ _)

/-! ### Reads after writes -/

/-- A write of one byte leaves every other byte alone. -/
theorem Mem.read_put {m : Mem} (h : m.wf = true) (k : Nat) (b : Byte) (j : Nat) : (m.put k b).read j = if k = j then b else m.read j :=
  sparseRead_write _ k b j ((Mem.wf_iff m).mp h).1

theorem Mem.read_putN_out {m : Mem} (h : m.wf = true) (k : Nat) (bs : List Byte) (j : Nat) (hj : j < k ∨ k + bs.length ≤ j) :
    (m.putN k bs).read j = m.read j := by
  induction bs generalizing m k with
  | nil => rfl
  | cons b r ih =>
    rw [Mem.putN, ih (Mem.wf_put h k b) (k + 1) (by simp only [List.length_cons] at hj; omega), Mem.read_put h]
    rw [if_neg (by simp only [List.length_cons] at hj; omega)]

theorem Mem.readN_putN {m : Mem} (h : m.wf = true) (k : Nat) (bs : List Byte) : (m.putN k bs).readN k bs.length = bs := by
  induction bs generalizing m k with
  | nil => rfl
  | cons b r ih =>
    have h1 : (m.putN k (b :: r)).read k = b := by
      rw [Mem.putN, Mem.read_putN_out (Mem.wf_put h k b) _ _ _ (by omega), Mem.read_put h, if_pos rfl]
    rw [List.length_cons, Mem.readN, h1, Mem.putN, ih (Mem.wf_put h k b)]

theorem Mem.tagOf_setTag {m : Mem} (h : m.wf = true) (k t j : Nat) : (m.setTag k t).tagOf j = if k / 32 = j / 32 then t else m.tagOf j :=
  sparseRead_write _ _ t _ ((Mem.wf_iff m).mp h).2.1

theorem Mem.isPoison_setPoison {m : Mem} (h : m.wf = true) (k : Nat) (p : Bool) (j : Nat) :
    (m.setPoison k p).isPoison j = if k / 32 = j / 32 then p else m.isPoison j :=
  sparseRead_write _ _ p _ ((Mem.wf_iff m).mp h).2.2

end Sys2Proof.Machine
end

