-- ==== Sys2Proof/Laws/Operands.lean ====
section
/-! SUPPORT. What the shared course of a chain does: reading registers, windows, Check, and the end of a chain. -/

namespace Sys2Proof.Machine

/-- A meaning of a chain form runs on the chain that is being issued. -/
theorem State.withCur_some {s : State} {c : Cur} (h : s.hw.cur = some c) (k : Cur → State) : s.withCur k = .next (k c) := by
  simp [State.withCur, h]

/-- Registers at hand make no wait (R85). -/
theorem State.reads_atHand {s : State} {c : Cur} {rs : List Nat} (h : s.atHand c rs) (k : State) : s.reads c rs k = k := by
  have h1 : rs.find? (fun n => (s.hw.curCtx c).pending n) = none := by
    rw [List.find?_eq_none]
    intro n hn
    simp [(h.2 n hn).1]
  have h2 : rs.find? (fun n => !s.hw.isFull c.core c.slot n) = none := by
    rw [List.find?_eq_none]
    intro n hn
    simp [(h.2 n hn).2]
  simp only [State.reads, h1, h2]

/-- What `reads` can do: go on, wait, or fault in a booked context. -/
theorem State.reads_cases (s : State) (c : Cur) (rs : List Nat) (k : State) :
    s.reads c rs k = k ∨ s.reads c rs k = s.faultWith c .calendarViolation 1 0 ∨
      (∃ n, s.reads c rs k = s.onHw (fun h => h.parkChain c (.fullBit n))) ∨ (∃ n, s.reads c rs k = s.onHw (fun h => h.hazard c n)) := by
  unfold State.reads
  simp only
  split
  · split
    · exact .inr (.inl rfl)
    · split
      · exact .inr (.inr (.inl ⟨_, rfl⟩))
      · exact .inr (.inr (.inr ⟨_, rfl⟩))
  · split
    · split
      · exact .inr (.inl rfl)
      · exact .inr (.inr (.inl ⟨_, rfl⟩))
    · exact .inl rfl

/-- A window that reaches the register makes no fault (R52, R149). -/
theorem State.window_ok {s : State} {c : Cur} {last : Nat} (h : last < (s.hw.curCtx c).wsize) (k : State) : s.window c last k = k := by
  simp [State.window, Nat.not_le.mpr h]

/-- A memory operand that passes Check (R137). -/
theorem State.check_ok {s : State} {c : Cur} {n : Nat} {o : Int} {size : Nat} {need : Need} {align a : Nat}
    (h : segCheck ((s.hw.curCtx c).seg n) o size need align = .ok a) (k : Nat → Seg → State) :
    s.check c n o size need align k = k a ((s.hw.curCtx c).seg n) := by
  simp only [State.check, h]

/-- The common course of a form that computes one register, with its sources at hand (R107, R108). -/
theorem State.compute_atHand {s : State} {c : Cur} {sw : Bool} {a : GReg} {srcs : List GReg} {lat : Nat} (h : s.atHand c (regs srcs))
    (f : (GReg → Word) → Word) : s.compute sw a srcs lat f = .next (s.result c sw a (f (s.hw.cg c)) lat) := by
  rw [State.compute, State.withCur_some h.1, State.reads_atHand h]
  rfl

end Sys2Proof.Machine
end

