-- ==== Sys2Proof/Tests/Slice0.lean ====
section
/-! SUPPORT. Tests: the words of the encodings decode to their instructions, an ill-formed instruction for each check, single steps on
small states, and for each statement a state and operands that meet its hypotheses (named `met_…`). -/

set_option Elab.async false

namespace Sys2Proof.Tests

open Sys2Proof Sys2Proof.Machine

/-! ### States -/

/-- The chain being issued in the tests: core 0, slot 0, offset 0, one halfword. -/
def c0 : Cur := ⟨0, 0, 0, 0, 0, 4, 1, 0x800, 100⟩

/-- The whole populated scratchpad of core 0, readable and writable. -/
def scratchSeg : Seg := ⟨0, 0x90000, false, false, false, true, true⟩

/-- A virtual segment of 1 GiB. -/
def virtSeg : Seg := ⟨0x40000000, 0x40000000, true, false, false, true, true⟩

/-- A Ready context with a window of 128 registers from entry 0. -/
def ctx0 : Ctx := { Ctx.free with st := .ready, uid := 1, wsize := 128, begun := true, sg := [(0, scratchSeg), (1, virtSeg)] }

/-- A module in which core 0 issues a chain of slot 0; register `g<n>` is the entry `n` of a list. -/
def st (rf : SMap Word) (fx : Ctx → Ctx := id) (fk : Core → Core := id) (fh : Hw → Hw := id) (fm : Mem → Mem := id) : State :=
  { hw := fh { State.reset.hw with
      agenda := [], cur := some c0, clusters := [(0, { Cluster.reset with owner := some 1 })],
      cores := [(0, fk { Core.reset with rf := rf, slots := [(0, fx ctx0)], grants := [(0, ⟨2, 0, 1, BitVec.allOnes 4096⟩)] })] },
    mem := fm Mem.reset }


/-- The same module between chains, with the argument of a step without an encoding. -/
def evt (a : Arg) (rf : SMap Word := []) (fx : Ctx → Ctx := id) (fk : Core → Core := id) (fh : Hw → Hw := id) (fm : Mem → Mem := id) : State :=
  st rf fx fk (fun h => fh { h with cur := none, arg := a }) fm

/-! ### Decoding -/

/-- A word of each family written field by field: PG, PB, PR or PX by its 7-bit code and 9-bit payload, the base halfword by S, OP, A and B
(R41, R42, R45; the worked decodes of 02_formats and the examples of the forms). -/
theorem test_words_by_field :
    decode [(0b0#1 ++ 0b000100#6 ++ 0b00011#5 ++ 0b0101#4)] = .ok (.add false .s64 3 3 5, 1) ∧
    decode [(0b0111101#7 ++ 0b010101000#9), (0b0111100#7 ++ 0b111000001#9), (0b0#1 ++ 0b000110#6 ++ 0b01000#5 ++ 0b1000#4)] = .ok (.addi false .s64 40 40 (-1000), 3) ∧
    decode [(0b0111101#7 ++ 0b100001001#9), (0b0111100#7 ++ 0b010010001#9), (0b0111100#7 ++ 0b101000101#9), (0b0#1 ++ 0b100101#6 ++ 0b00110#5 ++ 0b0010#4)] = .ok (.ld false (.val .s64) false 70 ⟨2, 9, 0x12345⟩, 4) ∧
    decode [(0b0#1 ++ 0b101101#6 ++ 0b01001#5 ++ 0b0000#4)] = .ok (.clrf false 9, 1) ∧
    decode [(0b0111111#7 ++ 0b000100110#9), (0b0111100#7 ++ 0b000000011#9), (0b0#1 ++ 0b010010#6 ++ 0b00011#5 ++ 0b0000#4)] = .ok (.vcvt ⟨false, .rtz, true, .f32, 0⟩ .e4m3 0 3 3, 3) ∧
    decode [(0b0111111#7 ++ 0b001000100#9), (0b0#1 ++ 0b000101#6 ++ 0b00010#5 ++ 0b1001#4)] = .ok (.mrd false .rtz false 2 9, 2) ∧
    decode [(0b0111111#7 ++ 0b001100000#9), (0b0111100#7 ++ 0b000000010#9), (0b0#1 ++ 0b000101#6 ++ 0b00000#5 ++ 0b1000#4)] = .ok (.fbegin false 40, 3) ∧
    decode [(0b0111111#7 ++ 0b010000000#9), (0b0111101#7 ++ 0b000001010#9), (0b0#1 ++ 0b000000#6 ++ 0b01001#5 ++ 0b1100#4)] = .ok (.fork false 9 10 12, 3) ∧
    decode [(0b0111111#7 ++ 0b010100000#9), (0b0111110#7 ++ 0b000000010#9), (0b0111101#7 ++ 0b000001010#9), (0b0#1 ++ 0b001100#6 ++ 0b00101#5 ++ 0b0000#4)] = .ok (.haddrWt false 5 10, 4) ∧
    decode [(0b0111111#7 ++ 0b011000000#9), (0b0#1 ++ 0b000010#6 ++ 0b00100#5 ++ 0b0110#4)] = .ok (.rslot false 4 6, 2) ∧
    decode [(0b0111111#7 ++ 0b111100000#9), (0b0111101#7 ++ 0b000000010#9), (0b0#1 ++ 0b000010#6 ++ 0b01000#5 ++ 0b0001#4)] = .ok (.blkcp false 8 ⟨1, 2, 0⟩, 3) := by
  decide +kernel

/-- The worked decodes of 02_formats that enter a chain part-way (R55) or end in a refusal (R44, R47, R52, R60). -/
theorem test_worked_decodes :
    decode [0x79C1, 0x0C88] = .ok (.addi false .s64 8 8 (-1000), 2) ∧
    decode [0x7945, 0x4A62] = .ok (.ld false (.val .s64) false 6 ⟨2, 0, -187⟩, 2) ∧
    decode [0x7824, 0x78D1, 0x78B3, 0x7989, 0x045A] = .ok (.li false 5 0x123456789A, 5) ∧
    decode [0x8835] = .ok (.add true .s64 3 3 5, 1) ∧
    decode [0x7A07, 0x7C00, 0x0835] = .error ⟨true, 1, 0, 0⟩ ∧
    decode [0x7E00, 0x0835] = .error ⟨true, 0, 0, 0⟩ ∧
    decode [0xF800, 0x0835] = .error ⟨true, 0, 0, 0⟩ ∧
    decode [0x7824, 0x78D1, 0x78B3, 0x7989, 0x7800, 0x045A] = .error ⟨true, 4, 0, 0⟩ ∧
    decode [0x7A07, 0x0000] = .error ⟨true, 1, 0, 0⟩ ∧
    decode [0x7600] = .error ⟨false, 0, 0, 0x3B⟩ ∧
    decode [0x7F00, 0x0835] = .error ⟨false, 1, 8, 4⟩ ∧
    decode [0x7E20, 0x4400] = .error ⟨false, 1, 1, 0x22⟩ ∧
    decode [0x7E21, 0x7803, 0x2430] = .error ⟨true, 2, 1, 0x12⟩ := by
  decide +kernel

/-! The words of every chain form, from the encodings of its section (the examples of the spec where it has one). -/

theorem test_decode_scalar :
    decode [0x8000] = .ok (.nop true, 1) ∧
    decode [0x7C40, 0x7A80, 0x0254] = .ok (.mov false 37 20, 3) ∧
    decode [0x7C01, 0x0239] = .ok (.movWc false 3 9, 2) ∧
    decode [0x7C02, 0x829F] = .ok (.movRc true 9 15, 2) ∧
    decode [0x7C03, 0x0292] = .ok (.movRlc false 9 2, 2) ∧
    decode [0x045D] = .ok (.li false 5 (-3), 1) ∧
    decode [0x7802, 0x795E, 0x78DE, 0x065F] = .ok (.lih false 5 0xABCDEF, 4) ∧
    decode [0x7C06, 0x7A05, 0x0846] = .ok (.add false .z16 4 5 6, 3) ∧
    decode [0x7A05, 0x0A46] = .ok (.sub false .s64 4 5 6, 2) ∧
    decode [0x7C03, 0x79F9, 0x8C4C] = .ok (.addi true .s8 4 4 (-100), 3) ∧
    decode [0x7DC1, 0x7A08, 0x0E7F] = .ok (.mul false .s32 7 8 127, 3) ∧
    decode [0x7C04, 0x7A08, 0x1079] = .ok (.mulh false .z64 7 8 9, 3) ∧
    decode [0x7C01, 0x7A07, 0x1268] = .ok (.div false .s32 6 7 8, 3) ∧
    decode [0x7C07, 0x7A07, 0x1468] = .ok (.rem false .z8 6 7 8, 3) := by
  decide +kernel

theorem test_decode_scalar2 :
    decode [0x7A07, 0x1668] = .ok (.and false 6 7 8, 2) ∧
    decode [0x1868] = .ok (.or false 6 6 8, 1) ∧
    decode [0x7A07, 0x1A68] = .ok (.xor false 6 7 8, 2) ∧
    decode [0x7A07, 0x1C68] = .ok (.andn false 6 7 8, 2) ∧
    decode [0x7A07, 0x1E68] = .ok (.shl false 6 7 8, 2) ∧
    decode [0x7A07, 0x2068] = .ok (.shr false 6 7 8, 2) ∧
    decode [0x7A07, 0x2268] = .ok (.sar false 6 7 8, 2) ∧
    decode [0x7C02, 0x7A05, 0x7802, 0x2448] = .ok (.shi false .sar 4 5 40, 4) ∧
    decode [0x7A07, 0x2668] = .ok (.rot false 6 7 8, 2) ∧
    decode [0x2868] = .ok (.clz false 6 8, 1) ∧
    decode [0x2A68] = .ok (.popc false 6 8, 1) ∧
    decode [0x7C02, 0x7A07, 0x2C68] = .ok (.min false .s16 6 7 8, 3) ∧
    decode [0x7C05, 0x7A07, 0x2E68] = .ok (.max false .z32 6 7 8, 3) ∧
    decode [0x7C15, 0x7A0A, 0x309B] = .ok (.cmp false .lt .z32 9 10 11, 3) := by
  decide +kernel

theorem test_decode_scalar3 :
    decode [0x7C28, 0x7A0A, 0x7800, 0x329F] = .ok (.cmpi false .gt .s64 9 10 15, 4) ∧
    decode [0x7C05, 0x7A0A, 0x349B] = .ok (.sel false .npos 9 10 11, 3) ∧
    decode [0x7C03, 0x369B] = .ok (.ext false .s8 9 11, 2) ∧
    decode [0x7A06, 0x780C, 0x3858] = .ok (.bfx false false 5 6 200, 3) ∧
    decode [0x7A06, 0x3A53] = .ok (.bfi false 5 6 3, 2) ∧
    decode [0x7C01, 0x7A02, 0x7840, 0x3C81] = .ok (.lea false true 8 ⟨1, 2, 64⟩, 4) ∧
    decode [0x7C01, 0x7801, 0x3E94] = .ok (.br false (.test .z) 9 20, 3) ∧
    decode [0x7C07, 0x7801, 0x3E94] = .ok (.br false .empty 9 20, 3) ∧
    decode [0x79F9, 0x400C] = .ok (.jmp false (-100), 2) ∧
    decode [0x420C] = .ok (.jmpr false 12, 1) ∧
    decode [0x7830, 0x4401] = .ok (.calld false 0x301, 2) ∧
    decode [0xC600] = .ok (.ret true, 1) ∧
    decode [0x7807, 0x4825] = .ok (.loop false 2 5 7, 2) := by
  decide +kernel

theorem test_decode_memory :
    decode [0x7C15, 0x7810, 0x4A41] = .ok (.ld false (.val .z32) true 4 ⟨1, 0, 16⟩, 3) ∧
    decode [0x7C08, 0x7A09, 0x79FF, 0x4A41] = .ok (.ld false .sec false 4 ⟨1, 9, -1⟩, 4) ∧
    decode [0x7C01, 0x7A03, 0x7808, 0x4C52] = .ok (.st false .b32 false 5 ⟨2, 3, 8⟩, 4) ∧
    decode [0x7C15, 0x4E62] = .ok (.ldp false (.val .z32) .inc 6 2, 2) ∧
    decode [0x7C20, 0x5073] = .ok (.stp false .b64 .dec 7 3, 2) ∧
    decode [0x7C3E, 0x7840, 0x52A3] = .ok (.atom false .swap .z32 true 10 ⟨3, 0, 64⟩, 3) ∧
    decode [0x7902, 0x5401] = .ok (.fence false 0x1021, 2) ∧
    decode [0x7A06, 0x5C51] = .ok (.mwait false 5 ⟨1, 6, 0⟩, 2) ∧
    decode [0x6208] = .ok (.epush false 0 8, 1) ∧
    decode [0x64C1] = .ok (.epop false 12 1, 1) ∧
    decode [0x7469] = .ok (.pmov false 6 9, 1) ∧
    decode [0x7C01, 0x7472] = .ok (.pmovGet false 7 2, 2) ∧
    decode [0x7FE0, 0x7C03, 0x7A02, 0x0081] = .ok (.ldmb false 3 8 ⟨1, 2, 0⟩, 4) ∧
    decode [0x7FE0, 0x7C0F, 0x7808, 0x0281] = .ok (.stmb false 15 8 ⟨1, 0, 8⟩, 4) := by
  decide +kernel

theorem test_decode_memory2 :
    decode [0x7FE0, 0x7A02, 0x0481] = .ok (.blkcp false 8 ⟨1, 2, 0⟩, 3) ∧
    decode [0x7FE0, 0x7A02, 0x06A1] = .ok (.crcb false 10 ⟨1, 2, 0⟩, 3) := by
  decide +kernel

theorem test_decode_context :
    decode [0x7A0D, 0x56BC] = .ok (.send false 11 13 12, 2) ∧
    decode [0x58EA] = .ok (.take false 14 10, 1) ∧
    decode [0x5A90] = .ok (.clrf false 9, 1) ∧
    decode [0x7C40, 0x5E32] = .ok (.srr false 3 0x12, 2) ∧
    decode [0x6049] = .ok (.srw false 4 9, 1) ∧
    decode [0x7806, 0x6634] = .ok (.trap false 3 100, 2) ∧
    decode [0x6809] = .ok (.brk false 9, 1) ∧
    decode [0xEA00] = .ok (.yield true, 1) ∧
    decode [0x6C00] = .ok (.quit false, 1) ∧
    decode [0x7A06, 0x6E58] = .ok (.spawn false 5 6 8, 2) ∧
    decode [0x7C08, 0x705F] = .ok (.bar false true 5 15, 2) ∧
    decode [0x7C01, 0x7007] = .ok (.barArr false false 7, 2) ∧
    decode [0x7C0A, 0x7059] = .ok (.barWt false true 5 9, 2) ∧
    decode [0x7C03, 0x7051] = .ok (.barFmax false false 5 1, 2) := by
  decide +kernel

theorem test_decode_context2 :
    decode [0x7C0C, 0x7051] = .ok (.barImax false true 5 1, 2) ∧
    decode [0x7C05, 0x7051] = .ok (.barArm false false 5 1, 2) ∧
    decode [0x7840, 0x7202] = .ok (.ckpt false ⟨2, 0, 64⟩, 2) := by
  decide +kernel

theorem test_decode_vector :
    decode [0x7E20, 0x7C11, 0x7A02, 0x0013] = .ok (.vadd ⟨false, .rne, false, .f16, 1⟩ 1 2 3, 4) ∧
    decode [0x7E20, 0x7C11, 0x7A02, 0x0213] = .ok (.vsub ⟨false, .rne, false, .f16, 1⟩ 1 2 3, 4) ∧
    decode [0x7E20, 0x7C11, 0x7A02, 0x0413] = .ok (.vmul ⟨false, .rne, false, .f16, 1⟩ 1 2 3, 4) ∧
    decode [0x7E20, 0x7C11, 0x7A02, 0x0613] = .ok (.vfma ⟨false, .rne, false, .f16, 1⟩ 1 2 3, 4) ∧
    decode [0x7E20, 0x7C11, 0x7A02, 0x0813] = .ok (.vfms ⟨false, .rne, false, .f16, 1⟩ 1 2 3, 4) ∧
    decode [0x7E20, 0x7C11, 0x7A02, 0x0A13] = .ok (.vmin ⟨false, .rne, false, .f16, 1⟩ 1 2 3, 4) ∧
    decode [0x7E20, 0x7C11, 0x7A02, 0x0C13] = .ok (.vmax ⟨false, .rne, false, .f16, 1⟩ 1 2 3, 4) ∧
    decode [0x7E24, 0x7A02, 0x0613] = .ok (.vfma ⟨false, .rtz, false, .f32, 0⟩ 1 2 3, 3) ∧
    decode [0x7E20, 0x7C02, 0x7A06, 0x0E70] = .ok (.vabs ⟨false, .rne, false, .bf16, 0⟩ 7 6, 4) ∧
    decode [0x7E20, 0x7C36, 0x1070] = .ok (.vneg ⟨false, .rne, false, .s8, 3⟩ 7 7, 3) ∧
    decode [0x7E20, 0x7C0D, 0x7A02, 0x1213] = .ok (.vand ⟨false, .rne, false, .z64, 0⟩ 1 2 3, 4) ∧
    decode [0x7E20, 0x7C0D, 0x7A02, 0x1413] = .ok (.vor ⟨false, .rne, false, .z64, 0⟩ 1 2 3, 4) ∧
    decode [0x7E20, 0x7C0D, 0x7A02, 0x1613] = .ok (.vxor ⟨false, .rne, false, .z64, 0⟩ 1 2 3, 4) ∧
    decode [0x7E20, 0x7C0C, 0x7A02, 0x1810] = .ok (.vnot ⟨false, .rne, false, .z32, 0⟩ 1 2, 4) := by
  decide +kernel

theorem test_decode_vector2 :
    decode [0x7E20, 0x7C27, 0x7A02, 0x1A13] = .ok (.vshl ⟨false, .rne, false, .s16, 2⟩ 1 2 3, 4) ∧
    decode [0x7E20, 0x7C27, 0x7A02, 0x1C13] = .ok (.vshr ⟨false, .rne, false, .s16, 2⟩ 1 2 3, 4) ∧
    decode [0x7E20, 0x7C27, 0x7A02, 0x1E13] = .ok (.vsar ⟨false, .rne, false, .s16, 2⟩ 1 2 3, 4) ∧
    decode [0x7E20, 0x7C08, 0x7A02, 0x7802, 0x2013] = .ok (.vcmp ⟨false, .rne, false, .s32, 0⟩ .lt 1 2 3, 5) ∧
    decode [0x7E20, 0x7C15, 0x7A02, 0x2213] = .ok (.vsel ⟨false, .rne, false, .e2m1, 1⟩ 1 2 3, 4) ∧
    decode [0x7E20, 0x7A01, 0x7812, 0x2420] = .ok (.vcvt ⟨false, .rne, false, .f32, 0⟩ .bf16 1 2 1, 4) ∧
    decode [0x7E26, 0x7A02, 0x7834, 0x2613] = .ok (.vqnt ⟨false, .rtz, true, .f32, 0⟩ .e5m2 3 1 2 3, 4) ∧
    decode [0x7E30, 0x7C11, 0x7A02, 0x7816, 0x2813] = .ok (.vdqnt ⟨false, .rna, false, .f16, 1⟩ .s8 1 1 2 3, 5) ∧
    decode [0x7E20, 0x7C07, 0x7A02, 0x7802, 0x2A10] = .ok (.vred ⟨false, .rne, false, .s16, 0⟩ .max 1 2, 5) ∧
    decode [0x7E20, 0x7A02, 0x7805, 0x2C10] = .ok (.vscan ⟨false, .rne, false, .f32, 0⟩ .min true 1 2, 4) ∧
    decode [0x7E20, 0x7C88, 0x7900, 0x2E18] = .ok (.vbcast ⟨false, .rne, false, .s32, 0⟩ 1 (.reg 40), 4) ∧
    decode [0x7E20, 0x7C08, 0x7A02, 0x781F, 0x2E10] = .ok (.vbcast ⟨false, .rne, false, .s32, 0⟩ 1 (.lane 2 31), 5) ∧
    decode [0x7E20, 0x7C0B, 0x3030] = .ok (.viota ⟨false, .rne, false, .z16, 0⟩ 3, 3) ∧
    decode [0x7E20, 0x7C0A, 0x7A02, 0x3213] = .ok (.vperm ⟨false, .rne, false, .z8, 0⟩ 1 2 3, 4) := by
  decide +kernel

theorem test_decode_vector3 :
    decode [0x7E20, 0x7C0C, 0x7803, 0x3412] = .ok (.vgath ⟨false, .rne, false, .z32, 0⟩ 1 2 3, 4) ∧
    decode [0x7E20, 0x7C3C, 0x7807, 0x3612] = .ok (.vscat ⟨false, .rne, false, .z32, 3⟩ 1 2 7, 4) ∧
    decode [0x7E20, 0x7C01, 0x7A06, 0x7802, 0x3850] = .ok (.vsfu ⟨false, .rne, false, .f16, 0⟩ .rsqrt 5 6, 5) ∧
    decode [0x7E20, 0x7A02, 0x7803, 0x3A13] = .ok (.vmsk false .andn 1 2 3, 4) ∧
    decode [0x7E20, 0x7C80, 0x3C18] = .ok (.vmovm false (.put 1 40), 3) ∧
    decode [0x7E20, 0x7801, 0x3C83] = .ok (.vmovm false (.get 8 3), 3) ∧
    decode [0x7E20, 0x7802, 0x3C92] = .ok (.vmovm false (.cnt 9 2), 3) ∧
    decode [0x7E20, 0x7C03, 0x7A02, 0x3E13] = .ok (.vdot ⟨false, .rne, false, .e4m3, 0⟩ 1 2 3, 4) ∧
    decode [0x7E20, 0x7C09, 0x7A02, 0x4013] = .ok (.vclamp ⟨false, .rne, false, .s64, 0⟩ 1 2 3, 4) ∧
    decode [0x7E20, 0x7C04, 0x7A02, 0x4210] = .ok (.vamax ⟨false, .rne, false, .e5m2, 0⟩ 1 2, 4) := by
  decide +kernel

theorem test_decode_matrix :
    decode [0x7E40, 0x7C01, 0x0009] = .ok (.mgath false true 9, 3) ∧
    decode [0x7E40, 0x0209] = .ok (.mald false 9, 2) ∧
    decode [0x7E40, 0x8409] = .ok (.mbld true 9, 2) ∧
    decode [0x7E40, 0x7C05, 0x0612] = .ok (.mma false true false true 1 2, 3) ∧
    decode [0x7E40, 0x7C01, 0x0830] = .ok (.mzero false true false 3, 3) ∧
    decode [0x7E44, 0x0A29] = .ok (.mrd false .rtz false 2 9, 2) ∧
    decode [0x7E40, 0x7C80, 0x0C28] = .ok (.mwr false 2 40, 3) ∧
    decode [0x7E40, 0x7C01, 0x0E09] = .ok (.mscl false true 9, 3) ∧
    decode [0x7E40, 0x1050] = .ok (.mstat false 5, 2) ∧
    decode [0x7E48, 0x1219] = .ok (.baddq false .rup 1 9, 2) := by
  decide +kernel

theorem test_decode_system :
    decode [0x7E60, 0x0028] = .ok (.segw false 2 8, 2) ∧
    decode [0x7E60, 0x0252] = .ok (.segr false 5 2, 2) ∧
    decode [0x7E60, 0x7C01, 0x0262] = .ok (.segrHi false 6 2, 3) ∧
    decode [0x7E60, 0x7A04, 0x0473] = .ok (.pgprobe false 7 ⟨3, 4, 0⟩, 3) ∧
    decode [0x7E60, 0x7C01, 0x062A] = .ok (.tlbinv false .all 2 10, 3) ∧
    decode [0x7E60, 0x0828] = .ok (.codeinv false 2 8, 2) ∧
    decode [0x7E60, 0x7C01, 0x0820] = .ok (.codeinvAll false 2, 3) ∧
    decode [0x7E60, 0x7802, 0x0A08] = .ok (.fbegin false 40, 3) ∧
    decode [0x7E60, 0x0C00] = .ok (.fcommit false, 2) ∧
    decode [0x7E60, 0x8E00] = .ok (.fabort true, 2) ∧
    decode [0x7E60, 0x1046] = .ok (.spill false 4 6, 2) ∧
    decode [0x7E60, 0x7C01, 0x1046] = .ok (.spillHold false 4 6, 3) ∧
    decode [0x7E60, 0x7C02, 0x1046] = .ok (.spillRel false 4 6, 3) ∧
    decode [0x7E60, 0x7C03, 0x1046] = .ok (.spillBase false 4 6, 3) := by
  decide +kernel

theorem test_decode_system2 :
    decode [0x7E60, 0x7C04, 0x1046] = .ok (.spillCkpt false 4 6, 3) ∧
    decode [0x7E60, 0x1246] = .ok (.csave false 4 6, 2) ∧
    decode [0x7E60, 0x1446] = .ok (.cload false 4 6, 2) := by
  decide +kernel

theorem test_decode_tasks :
    decode [0x7E80, 0x7A0A, 0x009C] = .ok (.fork false 9 10 12, 3) ∧
    decode [0x7E80, 0x7810, 0x0271] = .ok (.join false 7 ⟨1, 0, 16⟩, 3) ∧
    decode [0x7E80, 0x7A02, 0x0471] = .ok (.depnew false 7 ⟨1, 2, 0⟩, 3) ∧
    decode [0x7E80, 0x0671] = .ok (.deppub false 7 ⟨1, 0, 0⟩, 2) ∧
    decode [0x7E80, 0x7C01, 0x0871] = .ok (.signal false true 7 ⟨1, 0, 0⟩, 3) ∧
    decode [0x7E80, 0x7C02, 0x0A42] = .ok (.enq false .die 4 ⟨2, 0, 0⟩, 3) ∧
    decode [0x7E80, 0x7C01, 0x0C30] = .ok (.taskid false .info 3, 3) ∧
    decode [0x7E80, 0x0EBC] = .ok (.steal false 11 12, 2) := by
  decide +kernel

theorem test_decode_calendar :
    decode [0x7EA0, 0x0058] = .ok (.book false 5 8, 2) ∧
    decode [0x7EA0, 0x0258] = .ok (.bkq false 5 8, 2) ∧
    decode [0x7EA0, 0x7C01, 0x0258] = .ok (.bkqWt false 5 8, 3) ∧
    decode [0x7EA0, 0x0458] = .ok (.bkcan false 5 8, 2) ∧
    decode [0x7EA0, 0x0600] = .ok (.bkend false, 2) ∧
    decode [0x7EA0, 0x0852] = .ok (.gang false 5 2, 2) ∧
    decode [0x7EA0, 0x7C01, 0x0852] = .ok (.gangCancel false 5 2, 3) ∧
    decode [0x7EA0, 0x0A97] = .ok (.pipew false 9 7, 2) ∧
    decode [0x7EA0, 0x0C93] = .ok (.piper false 9 3, 2) ∧
    decode [0x7EA0, 0x7C01, 0x0C03] = .ok (.piperDone false 3, 3) ∧
    decode [0x7EA0, 0x0E58] = .ok (.hnew false 5 8, 2) ∧
    decode [0x7EA0, 0x1058] = .ok (.hcopy false 5 8, 2) ∧
    decode [0x7EA0, 0x1250] = .ok (.hdrop false 5, 2) ∧
    decode [0x7EA0, 0x7C01, 0x1250] = .ok (.hdropLost false 5, 3) := by
  decide +kernel

theorem test_decode_calendar2 :
    decode [0x7EA0, 0x1458] = .ok (.hbind false 5 8, 2) ∧
    decode [0x7EA0, 0x7A06, 0x1658] = .ok (.hsend false 5 6 8, 3) ∧
    decode [0x7EA0, 0x7A0A, 0x1853] = .ok (.haddr false 5 10 3, 3) ∧
    decode [0x7EA0, 0x7C01, 0x7A0A, 0x1850] = .ok (.haddrLen false 5 10, 4) ∧
    decode [0x7EA0, 0x7C02, 0x7A0A, 0x1850] = .ok (.haddrWt false 5 10, 4) := by
  decide +kernel

theorem test_decode_fabric :
    decode [0x7EC0, 0x0028] = .ok (.mcw false 2 8, 2) ∧
    decode [0x7EC0, 0x7A0D, 0x02BC] = .ok (.mcsend false 11 13 12, 3) ∧
    decode [0x7EC0, 0x0446] = .ok (.rslot false 4 6, 2) ∧
    decode [0x7EC0, 0x7A08, 0x0659] = .ok (.redc false 5 8 9, 3) ∧
    decode [0x7EC0, 0x08AC] = .ok (.redw false 10 12, 2) ∧
    decode [0x7EC0, 0x0A37] = .ok (.lnkst false 3 7, 2) ∧
    decode [0x7EC0, 0x7C01, 0x0A37] = .ok (.lnkstCtl false 3 7, 3) := by
  decide +kernel

/-! ### Well-formedness -/

/-- Each check of `Instr.wf` has an instruction that it refuses: the four prefixes (R44), the immediate (R51), and the operands of the forms that
limit them (R258, R199, R363 to R365, R377 to R382, R386). -/
theorem test_ill_formed :
    (Instr.lih false 40 0xFFFFFFFFFF).wf = false ∧
    (Instr.addi false .s32 4 5 0x4000000000).wf = false ∧
    (Instr.ckpt false ⟨0, 0, 0x4000000⟩).wf = false ∧
    (Instr.bar false false 5 8).wf = false ∧ (Instr.barArr false false 8).wf = false ∧ (Instr.barWt false false 5 8).wf = false ∧
    (Instr.barFmax false false 5 9).wf = false ∧ (Instr.barImax false false 5 15).wf = false ∧ (Instr.barArm false false 5 12).wf = false ∧
    (Instr.vadd ⟨false, .rne, false, .e4m3, 0⟩ 1 2 3).wf = false ∧ (Instr.vsub ⟨false, .rtz, false, .s32, 0⟩ 1 2 3).wf = false ∧
    (Instr.vmin ⟨false, .rup, false, .f32, 0⟩ 1 2 3).wf = false ∧ (Instr.vand ⟨false, .rne, false, .f16, 0⟩ 1 2 3).wf = false ∧
    (Instr.vmul ⟨false, .rne, true, .f16, 0⟩ 1 2 3).wf = false ∧
    (Instr.vcvt ⟨false, .rtz, false, .s32, 0⟩ .s16 0 1 2).wf = false ∧ (Instr.vcvt ⟨false, .rne, true, .f32, 0⟩ .f16 0 1 2).wf = false ∧
    (Instr.vcvt ⟨false, .rne, false, .f32, 0⟩ .bf16 2 1 2).wf = false ∧
    (Instr.vqnt ⟨false, .rne, true, .f32, 0⟩ .s8 0 1 2 3).wf = false ∧ (Instr.vqnt ⟨false, .rne, false, .f32, 1⟩ .e4m3 0 1 2 3).wf = false ∧
    (Instr.vdqnt ⟨false, .rne, false, .f16, 0⟩ .s8 2 1 2 3).wf = false ∧ (Instr.vdqnt ⟨false, .rne, false, .s16, 0⟩ .s8 0 1 2 3).wf = false ∧
    (Instr.vred ⟨false, .rtz, false, .f32, 0⟩ .max 1 2).wf = false ∧ (Instr.vbcast ⟨false, .rne, false, .s32, 0⟩ 1 (.lane 2 32)).wf = false ∧
    (Instr.viota ⟨false, .rne, false, .f32, 0⟩ 1).wf = false ∧ (Instr.vgath ⟨false, .rne, false, .e2m1, 0⟩ 1 2 3).wf = false ∧
    (Instr.vsfu ⟨false, .rne, false, .s32, 0⟩ .rcp 1 2).wf = false ∧ (Instr.vmsk false .not 1 2 1).wf = false ∧
    (Instr.vdot ⟨false, .rtz, false, .z8, 0⟩ 1 2 3).wf = false ∧ (Instr.vamax ⟨false, .rne, false, .s8, 0⟩ 1 2).wf = false := by
  decide +kernel

/-- Neighbours of the refused instructions that a chain carries. -/
theorem test_well_formed :
    (Instr.lih false 5 0xFFFFFFFFFF).wf = true ∧ (Instr.addi false .s64 4 4 0x7FFFFFFFFF).wf = true ∧
    (Instr.ckpt false ⟨0, 0, 0x3FFFFFF⟩).wf = true ∧ (Instr.bar false true 5 15).wf = true ∧ (Instr.bar false false 5 7).wf = true ∧
    (Instr.vsub ⟨false, .rtz, false, .f32, 0⟩ 1 2 3).wf = true ∧ (Instr.vcvt ⟨false, .rne, false, .f32, 0⟩ .bf16 1 1 2).wf = true ∧
    (Instr.vdqnt ⟨false, .rne, false, .f16, 0⟩ .s8 1 1 2 3).wf = true ∧ (Instr.vbcast ⟨false, .rne, false, .s32, 0⟩ 1 (.lane 2 31)).wf = true ∧
    (Instr.quit false).wf = true ∧ Instr.powerOnReset.wf = true := by
  decide +kernel

/-! ### Single steps -/

/-- The value on its way to a register of the test context (R107), or the one that the register holds. -/
def landing (n : Nat) (t : State) : Word :=
  ((t.hw.curCtx c0).pend.filterMap fun p => match p with | .fixed m _ v => if m = n then some v else none | _ => none).getLastD (t.hw.g 0 0 n)

/-- What register `g<n>` of the test context comes to hold after an instruction. -/
def after (i : Instr) (s : State) (n : Nat) : Option Word :=
  match exec i s with
  | .next t => some (landing n t)
  | _ => none

/-- The table of R120. -/
theorem test_div_rem :
    after (.div false .s64 6 7 8) (st [(7, 7)]) 6 = some 0xFFFFFFFFFFFFFFFF ∧
    after (.div false .z32 6 7 8) (st [(7, 7)]) 6 = some 0xFFFFFFFF ∧
    after (.div false .s32 6 7 8) (st [(7, 0x80000000), (8, 0xFFFFFFFF)]) 6 = some 0xFFFFFFFF80000000 ∧
    after (.div false .s8 6 7 8) (st [(7, 0xFFFFFFFFFFFFFFF9), (8, 2)]) 6 = some 0xFFFFFFFFFFFFFFFD ∧
    after (.rem false .s64 6 7 8) (st [(7, 0xFFFFFFFFFFFFFFF9), (8, 2)]) 6 = some 0xFFFFFFFFFFFFFFFF ∧
    after (.rem false .z8 6 7 8) (st [(7, 0x1FF)]) 6 = some 0xFF := by
  decide +kernel

/-- R119, R121, R122, R123, R124, R128: sums that wrap, the high product, shifts and rotations, bit counts, the examples of R124 and the field of
`bfx g5, g6, 8, 4` (imm = 200). -/
theorem test_scalar_results :
    after (.add false .s8 6 7 8) (st [(7, 0x7F), (8, 1)]) 6 = some 0xFFFFFFFFFFFFFF80 ∧
    after (.sub false .z16 6 7 8) (st [(8, 1)]) 6 = some 0xFFFF ∧
    after (.mulh false .z64 6 7 8) (st [(7, 0x8000000000000000), (8, 4)]) 6 = some 2 ∧
    after (.mulh false .s64 6 7 8) (st [(7, 0x8000000000000000), (8, 4)]) 6 = some 0xFFFFFFFFFFFFFFFE ∧
    after (.andn false 6 7 8) (st [(7, 0xFF), (8, 0x0F)]) 6 = some 0xF0 ∧
    after (.sar false 6 7 8) (st [(7, 0x8000000000000000), (8, 127)]) 6 = some 0xFFFFFFFFFFFFFFFF ∧
    after (.shi false .rot 6 7 4) (st [(7, 0xF000000000000001)]) 6 = some 0x1F ∧
    after (.clz false 6 8) (st []) 6 = some 64 ∧ after (.popc false 6 8) (st [(8, 0xF0F)]) 6 = some 8 ∧
    after (.max false .s8 6 7 8) (st [(7, 0x7F), (8, 0x80)]) 6 = some 0x7F ∧
    after (.max false .z8 6 7 8) (st [(7, 0x7F), (8, 0x80)]) 6 = some 0x80 ∧
    after (.bfx false false 5 6 200) (st [(6, 0xABCDE)]) 5 = some 0xC ∧
    after (.bfi false 5 6 200) (st [(5, 0xFFFFF), (6, 0x3)]) 5 = some 0xFF3FF := by
  decide +kernel

/-- R106: a write of `g0` is discarded; an immediate shift above 63 is a ReservedValue fault, and the destination keeps its value (R122, R11). -/
theorem test_discard_and_fault :
    after (.add false .s64 0 7 8) (st [(7, 1), (8, 1)]) 0 = some 0 ∧
    after (.shi false .shl 6 7 64) (st [(6, 9), (7, 1)]) 6 = some 9 := by
  decide +kernel

/-- The worked conversions of 17_numbers. -/
theorem test_conversions :
    e2m1.round .rtz false (.fin false 3 2) = 0x3 ∧ e2m1.round .rne false (.fin false 5 2) = 0x4 ∧
    e2m1.round .rna false (.fin false 5 2) = 0x5 ∧ e2m1.round .rup false (.fin false 5 2) = 0x5 ∧
    e2m1.round .rne false (.fin true 1 5) = 0x8 ∧ e4m3.round .rne false (.fin false 500 1) = 0x7E ∧
    e4m3.round .rne true (.fin false 500 1) = 0x7F ∧ e4m3.round .rne false (.fin false 1 1000) = 0x01 ∧
    bf16.round .rne false (fp32.value 0x3F808000) = 0x3F80 ∧ bf16.round .rna false (fp32.value 0x3F808000) = 0x3F81 ∧
    e5m2.round .rtz false (.fin false 1000000 1) = 0x7B ∧ e5m2.round .rtz true (.fin false 1000000 1) = 0x7C ∧
    (FV.fin true 37 10).toInt .rtz (-128) 127 = -3 := by
  decide +kernel

/-! ### Hypotheses of the scalar statements -/

theorem met_ScalarResults :
    (st [(2, 5), (3, 0)]).atHand c0 (regs [2, 3]) ∧ (st [(2, 5)]).atHand c0 (regs [2]) ∧
      (63 : BitVec 13).toNat ≤ 63 ∧ 63 < (64 : BitVec 13).toNat ∧ (st [(1, 1)]).atHand c0 (regs [1, 2, 3]) := by
  repeat' apply And.intro
  all_goals decide +kernel

theorem met_ConstantsAndMoves : (st []).atHand c0 [] ∧ (st [(2, 5)]).atHand c0 (regs [2]) := by
  repeat' apply And.intro
  all_goals decide +kernel

theorem met_ShiftedConstants :
    (st []).atHand c0 (regs [5]) ∧ (0xFFFFFF : BitVec 40).toNat < 2 ^ 24 ∧ 2 ^ 24 ≤ (0x1000000 : BitVec 40).toNat ∧
      (let s := st [] id (fun k => { k with empty := [(5, ())] })
       s.hw.cur = some c0 ∧ (s.hw.curCtx c0).pending 5 = false ∧ s.hw.isFull 0 0 5 = false ∧ (s.hw.curCtx c0).booked = false) := by
  repeat' apply And.intro
  all_goals decide +kernel

theorem met_CoreCommonWrites :
    (st [(2, 5)]).atHand c0 (regs [2]) ∧ (3 : BitVec 4) ≠ 4 ∧
      (let k := (st [] id (fun k => { k with ccs := [⟨3, 7, 8⟩, ⟨3, 1, 0⟩] })).hw.core 0
       k.ccs.Pairwise (fun (v w : CcWrite) => v.reg = w.reg → w.seen ≤ v.seen) ∧ ∀ w ∈ k.ccs, w.seen ≤ 0 + 8) := by
  repeat' apply And.intro
  all_goals decide +kernel

theorem met_BitFields :
    64 < (1 : Nat) + 64 ∧ (0xFC1 : BitVec 13).extractLsb' 0 6 = 1 ∧ ((0xFC1 : BitVec 13).extractLsb' 6 6).toNat + 1 = 64 ∧
      (0 : Nat) + 64 ≤ 64 ∧ ((0xFC0 : BitVec 13).extractLsb' 6 6).toNat + 1 = 64 ∧
      (st []).hw.cur = some c0 ∧ (st []).atHand c0 (regs [6]) ∧ (st []).atHand c0 (regs [5, 6]) := by
  repeat' apply And.intro
  all_goals decide +kernel

theorem met_Transfers : (st [(9, 1)]).atHand c0 (regs [9]) ∧ (st []).atHand c0 [] := by
  repeat' apply And.intro
  all_goals decide +kernel

/-- A context inside a body of level 0 that ends at offset 1, two iterations to come. -/
def inLoop (n : BitVec 32) : Ctx := { ctx0 with lp := [(0, ⟨true, 0, 1, n⟩)] }

theorem met_Loops :
    ((st [(2, 3)]).atHand c0 (regs [2]) ∧ (st [(2, 3)]).hw.cur = some c0 ∧
      (0 : BitVec 9).toNat = 0 ∧ 256 < (257 : BitVec 9).toNat ∧ c0.codeEnd < c0.pc + c0.len + 101 - 1 ∧
      (1 ≤ (1 : BitVec 9).toNat ∧ (256 : BitVec 9).toNat ≤ 256 ∧ c0.pc + c0.len + 1 - 1 ≤ c0.codeEnd) ∧
      ((st [] fun _ => inLoop 2).hw.curCtx c0 |>.loopLv 0).active = true ∧
      (((st []).hw.curCtx c0).loopLv 0).active = false ∧ (∀ u ∈ ((st []).hw.curCtx c0).levels, False) ∧
      2 ^ 32 ≤ ((st [(2, 0x100000000)]).hw.cg c0 2).toNat ∧
      (0 < ((st [(2, 0xFFFFFFFF)]).hw.cg c0 2).toNat ∧ ((st [(2, 0xFFFFFFFF)]).hw.cg c0 2).toNat < 2 ^ 32) ∧
      ((st []).hw.cg c0 2).toNat = 0) ∧
    ((inLoop 2).levels = [0] ∧ ((inLoop 2).loopLv 0).fin = 1 + 1 - 1 ∧ 1 < ((inLoop 2).loopLv 0).lc.toNat ∧
      (inLoop 1).levels = [0] ∧ ((inLoop 1).loopLv 0).lc.toNat ≤ 1) := by
  repeat' apply And.intro
  all_goals decide +kernel

theorem met_AddressesAndSegments :
    (let s := st [(2, 0x3FFFFFFF)]
     s.atHand c0 (regs [2]) ∧ (0 : Int) ≤ ((s.hw.cg c0 2).toNat + (0 : BitVec 36).toInt) % 2 ^ 64 ∧
      ((s.hw.cg c0 2).toNat + (0 : BitVec 36).toInt) % 2 ^ 64 + 1 ≤ (((s.hw.curCtx c0).seg 1).len : Int) ∧ ((s.hw.curCtx c0).seg 1).virt = true) ∧
    (let s := st [(2, 0x40000000)]
     s.atHand c0 (regs [2]) ∧ (((s.hw.curCtx c0).seg 1).len : Int) < ((s.hw.cg c0 2).toNat + (0 : BitVec 36).toInt) % 2 ^ 64 + 1) ∧
    (let s := st [(3, 0x0000_FFFF_000F_FFFF)]
     s.atHand c0 (regs [3]) ∧ (s.hw.cg c0 3).extractLsb' 20 12 = 0 ∧ (s.hw.cg c0 3).extractLsb' 48 16 = 0) ∧
    ((st []).atHand c0 [] ∧ SMap.get 0 ((st []).hw.curCtx c0).ptrAt 2 ≤ (st []).hw.now) ∧
    (let s := st [(8, 0x100), (9, 0x100)]
     let new := Seg.ofWords (s.hw.cgn c0 8).toNat (s.hw.cgn c0 9).toNat
     s.atHand c0 [8, 9] ∧ 8 + 1 < (s.hw.curCtx c0).wsize ∧ (s.hw.cgn c0 9).extractLsb' 13 11 = 0 ∧ Seg.placed new = true ∧ new.len = 0) ∧
    (let s := st [(8, 0), (9, 0x8000001000100)]
     let new := Seg.ofWords (s.hw.cgn c0 8).toNat (s.hw.cgn c0 9).toNat
     s.atHand c0 [8, 9] ∧ (s.hw.cgn c0 9).extractLsb' 13 11 = 0 ∧ Seg.placed new = true ∧ (s.hw.curCtx c0).service = false ∧ new.len ≠ 0 ∧
       Seg.narrows new ((s.hw.curCtx c0).seg 2) = false) := by
  repeat' apply And.intro
  all_goals decide +kernel
/-! ### Hypotheses of the memory statements -/

/-- The scratch segment of another core, 32 bytes. -/
def shortSeg : Seg := ⟨0x100000, 32, false, false, false, true, true⟩

theorem met_MemoryForms :
    (let s := st [(2, 64)]
     s.atHand c0 [2] ∧ s.portFree c0 false .r ∧ s.portFree c0 true .r ∧ 124 + 3 < (s.hw.curCtx c0).wsize ∧
      segCheck ((s.hw.curCtx c0).seg 0) (s.hw.memOffset c0 ⟨0, 2, 0⟩) 8 { r := true } 1 = .ok 64 ∧
      segCheck ((s.hw.curCtx c0).seg 0) (s.hw.memOffset c0 ⟨0, 2, 0⟩) 32 { r := true } 32 = .ok 64 ∧
      segCheck ((s.hw.curCtx c0).seg 0) (s.hw.memOffset c0 ⟨0, 2, 0x8FFB8⟩) 8 { r := true } 1 = .ok 0x8FFF8 ∧
      segCheck ((s.hw.curCtx c0).seg 1) (s.hw.memOffset c0 ⟨1, 2, 0⟩) 8 { r := true } 1 = .ok 0x40000040) ∧
    (let s := st [(2, 64), (5, 7)]
     s.atHand c0 (2 :: secRegs false 5) ∧ s.atHand c0 (2 :: secRegs true 124) ∧ s.portFree c0 true .w ∧
      segCheck ((s.hw.curCtx c0).seg 0) (s.hw.memOffset c0 ⟨0, 2, 0⟩) 8 { w := true } 1 = .ok 64 ∧
      segCheck ((s.hw.curCtx c0).seg 0) (s.hw.memOffset c0 ⟨0, 2, 0⟩) 32 { w := true } 32 = .ok 64 ∧
      s.atHand c0 (2 :: [5]) ∧ AtomOp.add ≠ .cas ∧ s.portFree c0 true .a ∧ s.portFree c0 false .a ∧
      segCheck ((s.hw.curCtx c0).seg 0) (s.hw.memOffset c0 ⟨0, 2, 0⟩) 8 { r := true, w := true } 8 = .ok 64 ∧
      segCheck ((s.hw.curCtx c0).seg 0) (s.hw.memOffset c0 ⟨0, 2, 4⟩) 4 { r := true, w := true } 4 = .ok 68 ∧
      s.atHand c0 (2 :: [126, 126 + 1]) ∧ 126 + 1 < (s.hw.curCtx c0).wsize ∧
      (s.hw.curCtx c0).booked = false ∧ s.portFree c0 false .plain ∧
      segCheck ((s.hw.curCtx c0).seg 0) (s.hw.memOffset c0 ⟨0, 2, 0⟩) 8 { r := true } 8 = .ok 64 ∧
      112 + 15 < (s.hw.curCtx c0).wsize ∧ (s.hw.curCtx c0).fence = none ∧ (s.hw.curCtx c0).xstep = 0 ∧
      segCheck ((s.hw.curCtx c0).seg 0) (s.hw.memOffset c0 ⟨0, 2, 0⟩) 8 { w := true } 8 = .ok 64) ∧
    (let s := st [(2, 64)] (fun x => x.setTs tsBOOKED true)
     s.atHand c0 (2 :: [5]) ∧ (s.hw.curCtx c0).booked = true) ∧
    (let s := st [(2, 25)] (fun x => { x with sg := [(0, shortSeg)] })
     s.atHand c0 [2] ∧ s.portFree c0 false .r ∧
      segCheck ((s.hw.curCtx c0).seg 0) (s.hw.memOffset c0 ⟨0, 2, 0⟩) 8 { r := true } 1 = .bad .segmentBounds 0x100019) := by
  repeat' apply And.intro
  all_goals decide +kernel

theorem met_BlockForms :
    (let s (n : Word) := st [(2, 64), (8, 0x1000), (9, n)]
     (s 0).atHand c0 [2, 8, 9] ∧ 8 + 2 < ((s 0).hw.curCtx c0).wsize ∧ ((s 0).hw.curCtx c0).fence = none ∧ ((s 0).hw.curCtx c0).xstep = 0 ∧
      ((s 0).hw.cgn c0 9).toNat = 0 ∧ 1024 < ((s 1032).hw.cgn c0 9).toNat ∧ 2048 < ((s 2056).hw.cgn c0 9).toNat ∧ ((s 9).hw.cgn c0 9).toNat % 8 ≠ 0 ∧
      0 < ((s 1024).hw.cgn c0 9).toNat ∧ ((s 1024).hw.cgn c0 9).toNat % 8 = 0 ∧ ((s 1024).hw.cgn c0 9).toNat ≤ 1024 ∧
      ((s 2048).hw.cgn c0 9).toNat ≤ 2048 ∧
      segCheck (((s 1024).hw.curCtx c0).seg 0) ((s 1024).hw.memOffset c0 ⟨0, 2, 0⟩) 8 { r := true } 8 = .ok 64) := by
  repeat' apply And.intro
  all_goals decide +kernel

theorem met_PointerForms :
    (let s := st [(5, 9)] (fun x => { x with p := [(2, ⟨0x40, 8⟩)] })
     let x := s.hw.curCtx c0
     SMap.get 0 x.ptrAt 2 ≤ s.hw.now ∧ x.booked = false ∧ x.st = .ready ∧ s.atHand c0 [] ∧ s.portFree c0 true .r ∧ (x.seg 0).virt = false ∧
      segCheck (x.seg 0) (x.ptr 2).off.toNat 1 { r := true } 1 = .ok 64 ∧ s.atHand c0 [5] ∧ StKind.b8 ≠ .sec ∧ s.portFree c0 true .w ∧
      segCheck (x.seg 0) (x.ptr 2).off.toNat 1 { w := true } 1 = .ok 64) ∧
    (let s := st [] (fun x => { x with sg := [(0, virtSeg)], p := [(2, ⟨0x40, 8⟩)] })
     let x := s.hw.curCtx c0
     SMap.get 0 x.ptrAt 2 ≤ s.hw.now ∧ x.booked = false ∧ x.st = .ready ∧ s.atHand c0 [] ∧ s.portFree c0 true .r ∧ (x.seg 0).virt = true) := by
  repeat' apply And.intro
  all_goals decide +kernel

/-- A load of `g5` that core 0 makes, plain or relaxed. -/
def load5 (rx : Bool) : Acc := (st []).hw.mkAcc c0 (.load (.val .s64) [5]) rx false 64 8 0 64

theorem met_AccessStarts :
    (st []).hw.cur = some c0 ∧ (load5 false).core = 0 ∧ (load5 false).slot = 0 ∧ (load5 false).txn = (st []).hw.nextTxn ∧
      ((st []).hw.curCtx c0).booked = false ∧ (load5 false).relaxed = false ∧ (load5 true).relaxed = true ∧
      5 ∈ accRegs (load5 true).op ∧ 6 ∉ accRegs (load5 true).op := by
  repeat' apply And.intro
  all_goals decide +kernel

/-- An access of core 0 that has reached its bank, with what the port knows of it. -/
def atBank (op : AccOp) (p : Piece) (fm : Mem → Mem := id) : State :=
  let a : Acc := { load5 false with op := op, addr := p.key, size := p.len, pieces := [p], group := 0 }
  st [] (fun x => { x with st := .parked, park := some .memory, access := some c0, pend := [.async 5 0] })
    (fun k => { k with empty := [(5, ())], out := [⟨a, 1, .plain, c0, [5], true, false, [], false, [p], []⟩] })
    (fun h => { h with cur := none, arg := .acc a 4, nextTxn := 1 }) fm

/-- The access of such a state. -/
def accOf (s : State) : Acc := match s.hw.arg with | .acc a _ => a | .accRes a _ => a | _ => load5 false

theorem met_WritesAtBank :
    (let s := atBank (.store [1, 2]) ⟨64 + 30, 2, 0, 0⟩
     let p : Piece := ⟨64 + 30, 2, 0, 0⟩
     s.Inv ∧ s.hw.arg = .acc (accOf s) 4 ∧ (s.hw.findOut 0 0).map (fun o => ({ o.acc with group := (accOf s).group, gword := (accOf s).gword, pieces := (accOf s).pieces } : Acc)) =
        some (accOf s) ∧ (accOf s).core = 0 ∧ (accOf s).txn = 0 ∧ (accOf s).op = .store [1, 2] ∧ (accOf s).pieces = [p] ∧ p.off = 0 ∧ p.len = 2 ∧
      p.key % 32 + p.len ≤ 32 ∧ (s.hw.core (keyCore p.key)).imaging = false ∧ s.kRefused (accOf s) = none) ∧
    (let s := atBank (.store (List.replicate 32 3)) ⟨64, 32, 0, 0⟩ (fun m => m.setPoison 64 true)
     s.Inv ∧ (accOf s).op = .store (List.replicate 32 3) ∧ (64 : Nat) % 32 + 32 ≤ 32 ∧ s.kRefused (accOf s) = none) ∧
    (∀ key ∈ [64, 2 ^ 20 + 64], let p : Piece := ⟨key, 8, 0, 0⟩
     let s := atBank (.load (.val .s64) [5]) p
     s.hw.arg = .acc (accOf s) 4 ∧ s.hw.findOut 0 0 = some ⟨accOf s, 1, .plain, c0, [5], true, false, [], false, [p], []⟩ ∧ (accOf s).pieces = [p] ∧
      (s.hw.core (keyCore p.key)).imaging = false ∧ s.kRefused (accOf s) = none ∧ (s.hw.ctx 0 0).st ≠ .spilled) ∧
    (let s := atBank (.atom .cas .s64 5 0 9) ⟨64, 8, 0, 0⟩
     let p : Piece := ⟨64, 8, 0, 0⟩
     s.Inv ∧ s.hw.arg = .acc (accOf s) 4 ∧ (accOf s).op = .atom .cas .s64 5 0 9 ∧ (accOf s).pieces = [p] ∧ p.len = 8 ∧ p.key % 8 = 0 ∧
      keyCore p.key = (accOf s).core ∧ s.kRefused (accOf s) = none ∧ s.mem.isPoison p.key = false ∧ (s.hw.ctx 0 0).st ≠ .spilled ∧
      s.granted (accOf s) p = true) ∧
    (let s0 := atBank (.atom .add .s64 5 0 9) ⟨64, 8, 0, 0⟩ (fun m => m.setTag 64 700)
     let s := s0.onHw (fun h => h.modCore 0 (fun k => { k with grants := [(0, ⟨2, 0, 1, 0⟩)] }))
     s.granted (accOf s) ⟨64, 8, 0, 0⟩ = false ∧ s.kRefused (accOf s) = none) := by
  repeat' apply And.intro
  all_goals first | decide +kernel | (unfold State.Inv; decide +kernel)

/-- The same access when its answer comes. -/
def answered (op : AccOp) (rx : Bool) (r : AccRes) (got : List PieceRes := []) : State :=
  let s := atBank op ⟨64, 8, 0, 0⟩
  let a := { accOf s with relaxed := rx }
  s.onHw (fun h => ({ h with arg := .accRes a r }).modCore 0 (fun k => { k with out := [⟨a, 1, if rx then .w else .plain, c0, [5], true, true, [], false, [], got⟩] }))

theorem met_Replies :
    (let s := answered (.load (.val .s64) [5]) false (.data 7 [])
     let o := (s.hw.findOut 0 0).getD ⟨load5 false, 0, .plain, c0, [], false, false, [], false, [], []⟩
     s.hw.arg = .accRes (accOf s) (.data 7 []) ∧ s.hw.findOut (accOf s).core (accOf s).txn = some o ∧ o.acc.op = .load (.val .s64) [5] ∧
      o.acc.core = (accOf s).core ∧ o.acc.slot = (accOf s).slot ∧ o.acc.txn = (accOf s).txn ∧ o.dropped = false ∧ s.hw.alive 0 0 o.uid = true ∧
      (s.hw.ctx 0 0).st = .parked ∧ (s.hw.ctx 0 0).pend.any (fun q => q.ofTxn 5 0) = true ∧ o.acc.relaxed = false ∧
      (s.hw.ctx 0 0).access.isSome = true) ∧
    (let p : Piece := ⟨64, 8, 0, 0⟩
     let q : PieceRes := ⟨p, bytesLE 8 7, 64, 0, some true, false, false⟩
     let s := answered (.load (.val .s64) [5]) false .pieces [q]
     s.hw.arg = .accRes (accOf s) .pieces ∧ (s.hw.findOut 0 0).map (fun o => (o.acc.pieces, o.got)) = some ([p], [q]) ∧ q.piece = p ∧ q.refused = false ∧
      s.admitted (accOf s) q = true ∧ q.poison = false ∧ valLE q.bytes = 7) ∧
    (let s := answered (.store [1]) true (.data 0 [])
     let o := (s.hw.findOut 0 0).getD ⟨load5 false, 0, .plain, c0, [], false, false, [], false, [], []⟩
     s.hw.arg = .accRes (accOf s) (.data 0 []) ∧ s.hw.findOut (accOf s).core (accOf s).txn = some o ∧ o.acc.op = .store [1] ∧ o.acc.relaxed = true) ∧
    (let s := answered (.load (.val .s64) [5]) false (.tag 700)
     s.hw.arg = .accRes (accOf s) (.tag 700) ∧ s.hw.granted 0 (accOf s).gset 700 = true) ∧
    (let s0 := answered (.join 5) false (.tag 700)
     let s := s0.onHw (fun h => h.modCore 0 (fun k => { k with grants := [(0, ⟨2, 0, 1, 0⟩)] }))
     s.hw.arg = .accRes (accOf s) (.tag 700) ∧ s.hw.granted 0 (accOf s).gset 700 = false ∧
       (s.hw.findOut 0 0).map (fun o => o.acc.op) = some (.join 5)) := by
  repeat' apply And.intro
  all_goals decide +kernel

theorem met_EngineFifos :
    (let s := st [(8, 0x0001_0000_0000_0040), (9, 0x1000), (10, 0x8F000), (11, 0)]
     let x := s.hw.curCtx c0
     let w (i : Nat) : Nat := (s.hw.cgn c0 (8 + i)).toNat
     let len := w 2 % 2 ^ 32
     s.atHand c0 (regRun 8 4) ∧ 8 + 3 < x.wsize ∧ x.booked = false ∧ s.hw.unitBarred 0 2 = false ∧ x.fence = none ∧
      w 0 / 2 ^ 46 % 4 = 0 ∧ w 1 < 2 ^ 40 ∧ w 2 / 2 ^ 32 = 0 ∧ 0 < len ∧ len ≤ 0x10000000 ∧ w 3 = 0 ∧
      segCheck (x.seg (w 0 / 2 ^ 40 % 8)) (w 0 % 2 ^ 40 : Nat) len { r := true } 1 = .ok 64 ∧
      segCheck (x.seg (w 0 / 2 ^ 43 % 8)) (w 1 : Nat) len { w := true } 1 = .ok 0x1000 ∧
      (s.hw.core 0).e0.length < 16 ∧ (s.hw.core 0).e1.length + (s.hw.core 0).e1Resv < 16) ∧
    (let s := st [] id (fun k => { k with e1 := [⟨1, 77⟩], e4 := [5] })
     s.atHand c0 [] ∧ 127 < (s.hw.curCtx c0).wsize ∧ (s.hw.core 0).e1 = ⟨1, 77⟩ :: [] ∧ (⟨1, 77⟩ : Compl).uid = (s.hw.curCtx c0).uid ∧
      124 + 3 < (s.hw.curCtx c0).wsize ∧ (s.hw.core 0).e4 = (5 : BitVec 256) :: []) ∧
    (let s := st [] id (fun k => { k with e1 := [⟨2, 77⟩] })
     s.atHand c0 [] ∧ (s.hw.curCtx c0).booked = false ∧ (∀ e ∈ (s.hw.core 0).e1, e.uid ≠ (s.hw.curCtx c0).uid)) := by
  repeat' apply And.intro
  all_goals decide +kernel

theorem met_FencesAndMonitors :
    (let imm : BitVec 13 := 0x1021
     let s := st []
     s.atHand c0 [] ∧ (s.hw.curCtx c0).fence = none ∧ (s.hw.curCtx c0).booked = false ∧ (imm.extractLsb' 0 5).toNat ≠ 0 ∧
      (imm.extractLsb' 5 5).toNat ≠ 0 ∧ (imm.extractLsb' 10 3).toNat ≤ 4 ∧
      s.fenceSet c0 (imm.extractLsb' 0 5).toNat (imm.extractLsb' 10 3).toNat = [] ∧
      ((0x20 : BitVec 13).extractLsb' 0 5).toNat = 0 ∧ ((0x1 : BitVec 13).extractLsb' 5 5).toNat = 0 ∧
      4 < ((0x1421 : BitVec 13).extractLsb' 10 3).toNat) ∧
    (let s := (answered (.load (.val .s64) [5]) true (.data 7 [])).onHw (fun h => { h with cur := some c0 })
     s.fenceSet c0 31 4 ≠ []) ∧
    (let s := st [] (fun x => { x with fence := some ⟨[], 1, some 3, 0, 0x21⟩ }) id (fun h => { h with cur := none, arg := .nats [0, 0, 1] })
     s.hw.arg = .nats [0, 0, 1] ∧ (s.hw.ctx 0 0).fence = some ⟨[], 1, some 3, 0, 0x21⟩ ∧ (s.hw.ctx 0 0).uid = 1 ∧ (s.hw.ctx 0 0).st = .ready ∧
       (s.hw.ctx 0 0).park = none) ∧
    (let s := st [] (fun x => { x with st := .parked, park := some (.monitor 64) }) id (fun h => { h with cur := none, arg := .nats [0, 0, 1] })
     s.hw.arg = .nats [0, 0, 1] ∧ (s.hw.ctx 0 0).uid = 1 ∧ (s.hw.ctx 0 0).st = .parked ∧ (s.hw.ctx 0 0).park = some (.monitor 64)) := by
  repeat' apply And.intro
  all_goals decide +kernel

/-- A fill command of 4 bytes at address 64. -/
def fill4 (p : CopyProg) : CopyCmd :=
  ⟨9, 0, 1, 3, true, 0, false, 64, false, 4, 0x11223344, 5, 1, false, c0, [], 0, false, 0, 64, p⟩

theorem met_CopyCommands :
    (let g : CopySeg := ⟨0, 4, 0⟩
     let wr : CopyProg := { CopyProg.reset with cut := 4, buf := [⟨0, bytesLE 4 0x11223344, 5, false⟩], segs := [g] }
     let s (p : CopyProg) (a : List Nat) := evt (.nats a) [] id (fun k => { k with copy := some (fill4 p) })
     ((s .reset [0]).hw.core 0).copy = some (fill4 .reset) ∧ (s .reset [0]).hw.arg = .nats [0] ∧ (fill4 .reset).dstVirt = false ∧
      (fill4 .reset).srcVirt = false ∧ (s wr [0, 9, 2, 0]).Inv ∧ ((s wr [0, 9, 2, 0]).hw.core 0).copy = some (fill4 wr) ∧ (fill4 wr).txn = 9 ∧
      (fill4 wr).prog.stop = none ∧ (fill4 wr).prog.segs = [g] ∧ 0 < g.len ∧ g.off = 0 ∧ g.len + (fill4 wr).dst % 32 ≤ 32 ∧ (fill4 wr).dst < 2 ^ 41 ∧
      keyCore (fill4 wr).dst = 0 ∧ (fill4 wr).prog.buf = [⟨g.off, bytesLE 4 0x11223344, 5, false⟩] ∧ (bytesLE 4 0x11223344).length = g.len ∧
      (fill4 wr).done = g.off ∧ (fill4 wr).poison = false ∧ (fill4 wr).prog.cut = (fill4 wr).len ∧ (fill4 wr).len = g.len) ∧
    (let s := evt (.nats [0, 9, 0, 4, 0, 0]) [] id (fun k => { k with copy := some (fill4 .reset) })
     (s.hw.core 0).copy = some (fill4 .reset) ∧ s.hw.alive 0 (fill4 .reset).slot (fill4 .reset).uid = true ∧ s.hw.isQuiet 0 (fill4 .reset).slot 9 = false) := by
  repeat' apply And.intro
  all_goals first | decide +kernel | (unfold State.Inv; decide +kernel)


/-! ### Hypotheses of the statements of contexts -/

theorem met_StatusRegisters :
    (let s := st [(5, 3), (6, 0x10), (7, 8)]
     s.atHand c0 [] ∧ (0x16 : BitVec 7).toNat < 0x17 ∧ 0x17 ≤ (0x17 : BitVec 7).toNat ∧ (s.hw.curCtx c0).service = false ∧ (0x05 : BitVec 7) ≠ 0x04 ∧
      s.atHand c0 (regs [5]) ∧ s.hw.cg c0 5 &&& 0x1FFFF810 = 0 ∧ s.hw.cg c0 6 &&& 0x1FFFF810 ≠ 0 ∧ (s.hw.cg c0 6).toNat / 16 ≠ 0 ∧
      (s.hw.cg c0 5).toNat / 4 % 4 = 0 ∧ (s.hw.cg c0 7).toNat < 16 ∧ (s.hw.cg c0 7).toNat / 4 ≠ 0) := by
  repeat' apply And.intro
  all_goals decide +kernel

/-- A message for register 127 of core 0, slot 0. -/
def msg127 : Msg := ⟨4, 0, 0, 127, 7, 1, 0, 0, false, false, false⟩

/-- A result owed to register 5. -/
def owed5 : Owed := { txn := 4, uid := 1, slot := 0, reg := 5, cls := .i, target := 1, chain := c0 }

/-- An entry of the overflow deque for register 5. -/
def ovf5 : OvfEntry := ⟨0, 8, 5, 0, 2⟩

theorem met_Messages :
    (let s := st [(5, 0x10003), (6, 7)]
     let w := (s.hw.cg c0 5).toNat
     s.atHand c0 (regs [5, 6]) ∧ w < 2 ^ 37 ∧ w / 2 ^ 14 % 4 = 0 ∧ w / 2 ^ 7 % 2 = 0 ∧ (s.hw.curCtx c0).booked = false ∧ (s.hw.curCtx c0).fence = none ∧
      s.hw.routeFails 0 ((s.hw.tenantOf 0).getD 0) true (w / 2 ^ 16 % 2 ^ 21) (s.hw.scratchLatency 0 (w / 2 ^ 16 % 2 ^ 21)) = none) ∧
    (let s (empty : SMap Unit) (ovfl : Nat) := evt (.msg msg127 9) [] id (fun k => { k with empty := empty, ovfb := 0x1000, ovfl := ovfl })
     let k (empty : SMap Unit) (ovfl : Nat) := (s empty ovfl).hw.core 0
     let y := (s [] 0x1010).hw.ctx 0 0
     (s [] 0x1010).hw.arg = .msg msg127 9 ∧ (k [] 0x1010).imaging = false ∧ msg127.core = msg127.sender ∧ (s [] 0x1010).hw.coreDisabled 0 = false ∧
      0 < msg127.reg ∧ msg127.reg < y.wsize ∧ y.st = .ready ∧ msg127.reg ∉ y.just ∧ y.pending 127 = false ∧
      (k [(127, ())] 0).fullBit y 127 = false ∧ (k [(127, ())] 0).heldFor 0 127 = false ∧
      (k [] 0x1010).fullBit y 127 = true ∧ 0 < (k [] 0x1010).ovfFree ∧ (k [] 0x1000).ovfFree = 0) ∧
    (let s := evt (.nats [0, 4, 2, 3, 1]) [] (fun x => { x with pend := [.async 5 4] }) (fun k => { k with empty := [(5, ())], owed := [owed5] })
     (s.hw.core 0).owed.find? (fun q => q.txn == 4) = some owed5 ∧ owed5.hand = none ∧ 0 < owed5.reg ∧ s.hw.alive 0 owed5.slot owed5.uid = true ∧
      (s.hw.ctx 0 0).st = .ready ∧ (s.hw.ctx 0 0).pend.any (fun p => p.ofTxn owed5.reg 4) = true) ∧
    (let s := evt (.nats [0, 0, 1, 5]) [] id (fun k => { k with empty := [(5, ())], ovf := [ovf5] })
     0 < 5 ∧ s.hw.alive 0 0 1 = true ∧ (s.hw.ctx 0 0).st ≠ .spilled ∧ (s.hw.core 0).ovf.find? (fun q => q.slot == 0 && q.reg == 5) = some ovf5 ∧
      (s.hw.ctx 0 0).pending 5 = false ∧ s.hw.isFull 0 0 5 = false) ∧
    (let s := st [(5, 3)] id (fun k => { k with ovf := [ovf5] })
     s.atHand c0 (regs [5]) ∧ (5 : GReg) ≠ 0 ∧ (s.hw.core 0).heldFor 0 (5 : GReg).toNat = true ∧ s.hw.cur = some c0 ∧
      (s.hw.curCtx c0).pending (5 : GReg).toNat = false) ∧
    (st [] (fun x => { x with pend := [.async 5 4] })).hw.cur = some c0 ∧
    ((st [] (fun x => { x with pend := [.async 5 4] })).hw.curCtx c0).pending (5 : GReg).toNat = true := by
  repeat' apply And.intro
  all_goals decide +kernel

/-- An installed image of `n` halfwords of `NOP` with a call site after its first, that imports itself. -/
def image (digest : BitVec 256) (n : Nat) : DEntry :=
  { DEntry.none with digest := digest, xid := BitVec.ofNat 64 (xidOf (List.replicate n 0)), st := .installed, units := 1, code := List.replicate n 0, sites := [1, 0], imports := [digest] }

/-- Cluster 0 holds an image in entry 0. -/
def withImage (d : DEntry) (h : Hw) : Hw := { h with clusters := [(0, { Cluster.reset with owner := some 1, dtab := [(0, d)] })] }

/-- The argument of a spawn's arrival at core 0, from the core itself, for a window of 128 registers. -/
def spawnArg : List Nat := [0, 4, 0, 15, 1, 0, 9]

theorem met_Spawns :
    (let s := st [(5, 0x100F0)] id id (withImage (image 5 1))
     let w := (s.hw.cg c0 5).toNat
     s.atHand c0 ((5 : GReg).toNat :: regRun (124 : GReg).toNat 4) ∧ (124 : GReg).toNat + 3 < (s.hw.curCtx c0).wsize ∧ w < 2 ^ 37 ∧ w % 16 = 0 ∧
      (s.hw.curCtx c0).booked = false ∧ w / 2 ^ 8 % 2 ^ 8 < (s.hw.entry (clusterOf 0) (s.hw.curCtx c0).entry).imports.length ∧
      s.hw.routeFails 0 ((s.hw.tenantOf 0).getD 0) true (w / 2 ^ 16 % 2 ^ 21) (s.hw.scratchLatency 0 (w / 2 ^ 16 % 2 ^ 21)) = none) ∧
    (let s (n : Nat) := evt (.words spawnArg [1, 2, 3, 4]) [] id (fun k => { k with slots := (List.range n).map (fun i => (i, ctx0)) })
     (s 63).hw.arg = .words spawnArg [1, 2, 3, 4] ∧ ((s 63).hw.core 0).imaging = false ∧ (s 63).hw.coreDisabled 0 = false ∧
      (s 63).hw.grantNeed 0 (([1, 2, 3, 4] : List Word).getD 21 0).toNat (([1, 2, 3, 4] : List Word).getD 22 0).toNat ≠ .refused ∧
      ((s 63).hw.core 0).findSlot (s 63).hw.now = some 63 ∧ ((s 63).hw.core 0).findWindow (s 63).hw.now ((15 + 1) * 8) = some 128 ∧
      ((s 64).hw.core 0).findSlot (s 64).hw.now = none) ∧
    (let s (d : BitVec 256) := evt (.nats [0, 0, 1]) [] (fun x => { x with st := .starting, kernel := d }) id (withImage (image 5 1))
     let y := (s 5).hw.ctx 0 0
     y.st = .starting ∧ y.uid = 1 ∧ y.notBefore ≤ (s 5).hw.now ∧ (((s 5).hw.core 0).grantSet y.gset.toNat).state = 2 ∧
      (s 5).hw.installed (clusterOf 0) y.kernel = some 0 ∧ (s 6).hw.installed (clusterOf 0) ((s 6).hw.ctx 0 0).kernel = none) ∧
    (let s := evt (.nats [0, 0]) [] (fun x => { x with st := .starting }) (fun k => { k with grants := [(0, ⟨1, 0, 1, 0⟩)] })
     let y := s.hw.ctx 0 0
     ((s.hw.core 0).grantSet 0).state = 1 ∧ y.st = .starting ∧ y.gset.toNat = 0 ∧ y.notBefore ≤ s.hw.now) := by
  repeat' apply And.intro
  all_goals decide +kernel

theorem met_TrapsAndTurns :
    (let s := st [(5, 3)]
     s.atHand c0 (regs [5]) ∧ (s.hw.curCtx c0).booked = false ∧ s.hw.cur = some c0 ∧ (s.hw.core 0).wheel = false ∧
      ∀ p ∈ (s.hw.core 0).slots, p.1 ≠ c0.slot → p.2.st ≠ .ready ∨ (s.hw.curCtx c0).eff < p.2.eff) ∧
    (let q (n : Nat) (v : Word) : TrapReq := ⟨0, 4, n, v, 0, 0⟩
     let s (n : Nat) (v : Word) := evt (.nats [0, 4]) [] (fun x => { x with pend := [.trap 5 4] })
        (fun k => { k with empty := [(5, ())], owed := [owed5] }) (fun h => { h with mods := [(0, { Module.reset with traps := [q n v] })] })
     ∀ p ∈ ([(0, 9), (1, 8), (3, 0), (4, 0)] : List (Nat × Word)), let s := s p.1 p.2
       (s.hw.mod (moduleOf 0)).traps.find? (fun r => r.core == 0 && r.txn == 4) = some (q p.1 p.2) ∧
       (s.hw.core 0).owed.find? (fun r => r.txn == 4) = some owed5 ∧ owed5.hand = none ∧ 0 < owed5.reg ∧ s.hw.alive 0 owed5.slot owed5.uid = true ∧
       (s.hw.ctx 0 owed5.slot).st = .ready ∧ (s.hw.ctx 0 owed5.slot).pend.any (fun r => r.ofTxn owed5.reg 4) = true) ∧
    (let s := st [] id (fun k => { k with slots := [(0, ctx0), (1, ctx0)] })
     (s.hw.curCtx c0).booked = false ∧ (s.hw.core 0).wheel = false ∧ ((1, ctx0) ∈ (s.hw.core 0).slots ∧ 1 ≠ c0.slot ∧ ctx0.st = .ready ∧
      ctx0.eff ≤ (s.hw.curCtx c0).eff)) ∧
    (evt (.nats [0, 0, 4]) [] (fun x => { x with yieldWait := some (4, [1]) })).hw.ctx 0 0 = { ctx0 with yieldWait := some (4, [1]) } ∧
    (let s := evt (.nats [0, 0]) [] (fun x => { x with w := 1024 })
     (s.hw.ctx 0 0).st = .ready ∧ (s.hw.ctx 0 0).booked = false ∧ (s.hw.core 0).wheel = false ∧ (s.hw.core 0).age ≤ (s.hw.ctx 0 0).w) ∧
    (let s := evt (.nats [0, 1, 1]) [] (fun x => { x with st := .free })
     s.hw.arg = .nats [0, 1, 1] ∧ ∀ p ∈ (s.hw.core 0).slots, p.2.st = .free) := by
  repeat' apply And.intro
  all_goals decide +kernel

/-- The frame of the image of digest 5, call site 1, as a reply of the link stack gives it. -/
def frame5 : Nat := 5 + 2 ^ 352 + 1 * 2 ^ 372

/-- A context of core 0 whose call or return is under way, with the answer of its present step. -/
def linking (op : AccOp) (r : AccRes) : State :=
  let a : Acc := { load5 false with op := op, addr := 0 }
  evt (.accRes a r) [] (fun x => { x with st := .parked, park := some .memory, access := some c0, parkCur := some c0, linksp := 64 })
    (fun k => { k with out := [⟨a, 1, .plain, c0, [], true, true, [], false, [], []⟩] }) (withImage (image 5 2))

theorem met_CallsAndReturns :
    (let s := st [] (fun x => { x with linksp := 30 * 64 }) id (withImage (image 5 2))
     let x := s.hw.curCtx c0
     let d := s.hw.entry 0 x.entry
     s.hw.cur = some c0 ∧ (s.hw.core 0).settled s.hw.now 0 = true ∧ x.inRegion = false ∧ x.booked = false ∧
      0 < 2 ^ 20 ∧ 0 % 2 ^ 8 < d.imports.length ∧ 0 / 2 ^ 8 < d.sites.length ∧ d.sites.getD 0 0 = c0.pc + c0.len ∧ x.levels = [] ∧ x.depth ≠ 31 ∧
      x.depth ≠ 0 ∧ d.imports.length ≤ (1 : BitVec 22).toNat % 2 ^ 8 ∧ 2 ^ 20 ≤ (0x100000 : BitVec 22).toNat ∧
      ((st []).hw.curCtx c0).depth = 0) ∧
    (let under (s : State) (q : AccOp) : Prop := (s.hw.findOut 0 0).map (fun o => o.acc.op) = some q ∧
         (s.hw.findOut 0 0).map (fun o => [o.acc.core, o.acc.slot, o.acc.txn, o.got.length, bit o.dropped]) = some [0, 0, 0, 0, 0] ∧ s.hw.alive 0 0 1 = true
     let call : AccOp := .call 5 ((image 5 2).frame 1)
     (linking call .armed).Inv ∧ under (linking call .armed) call ∧ (accOf (linking call .armed)).addr % 32 = 0 ∧
      (linking call .armed).hw.installed (clusterOf 0) 5 = some 0 ∧ 1 < 2 ^ 12 ∧
      frame5 = (5 : BitVec 256).toNat + 0 * 2 ^ 256 + 2 ^ 352 + 0 * 2 ^ 353 + 1 * 2 ^ 372 ∧
      under (linking .frame (.data frame5 [])) .frame ∧ (linking .frame (.data frame5 [])).hw.arg = .accRes (accOf (linking .frame (.data frame5 []))) (.data frame5 []) ∧
      (let s := linking (.retTo frame5) .armed
       under s (.retTo frame5) ∧ s.hw.arg = .accRes (accOf s) .armed ∧ s.hw.installed (clusterOf 0) 5 = some 0 ∧ 1 < (s.hw.entry 0 0).sites.length ∧
        (s.hw.entry 0 0).sites.getD 1 0 ≤ (s.hw.entry 0 0).cend)) ∧
    ((evt (.nats [0, 0]) [] (fun x => { x with st := .faulted })).hw.ctx 0 0).st = .faulted ∧ ((evt (.nats [0, 0])).hw.ctx 0 0).st ≠ .faulted := by
  repeat' apply And.intro
  all_goals first | decide +kernel | (unfold State.Inv; decide +kernel)

/-- A context parked for a digest-table entry, 64 for none, whose start waits for an image of digest 5. -/
def waiting (e : Nat) (x : Ctx) : Ctx := { x with st := .parked, park := some (.code e), kernel := 5, begun := false }

/-- Entry 0 of cluster 0 is `d`; cluster 1, of the same tenant and die, holds an image of digest 5 if `peer`. -/
def asked (d : DEntry) (peer : Bool) (h : Hw) : Hw :=
  { withImage d h with clusters := [(0, { Cluster.reset with owner := some 1, dtab := [(0, d)] }),
      (1, { Cluster.reset with owner := some 1, dtab := if peer then [(3, image 5 2)] else [] })] }

/-- The entry of digest 5 in a state of its load. -/
def inState (t : DState) : DEntry := { image 5 2 with st := t }

theorem met_CodeStore :
    (let q : Miss := ⟨0, 0, 1, 5, 0⟩
     let s := evt (.nats [0]) [] (waiting 64) id (fun h => { h with now := 1, clusters := [(0, { Cluster.reset with owner := some 1, missq := [q] })] })
     (s.hw.cluster 0).missq = [q] ∧ q.at_ < s.hw.now ∧ (∀ p ∈ (s.hw.cluster 0).dtab, p.2.st ≠ .verified) ∧ clusterOf q.core = 0 ∧ (s.hw.ctx 0 0).uid = q.uid ∧
      (s.hw.ctx 0 0).park = some (.code 64) ∧ s.hw.lookup 0 q.digest = none ∧ (s.hw.cluster 0).choose q.digest = some 0) ∧
    (let s (step : Nat) (peer : Bool) := evt (.nats [0, 0, 0, step, 9, 0, 0]) [] (waiting 0) id (asked (inState .loading) peer)
     let there (p : Nat) : Bool := p / 64 == 0 / 64 && p != 0
     ((s 1 true).hw.entry 0 0).st = .loading ∧ ((s 1 true).hw.entry 0 0).load = 0 ∧
      (s 1 true).hw.holders (some 1) 5 there = image 5 2 :: [] ∧ DEntry.sound ((s 1 true).hw.entry 0 0) = true ∧ ((s 1 true).hw.entry 0 0).poisoned = false ∧
      (let t (d : DEntry) := evt (.nats [0, 0, 0, 1, 9, 0, 0]) [] (waiting 0) id (asked d true)
       DEntry.sound ((t { inState .loading with xid := 0 }).hw.entry 0 0) = false ∧ ((t { inState .loading with poisoned := true }).hw.entry 0 0).poisoned = true ∧
        ((t { inState .loading with xid := 0 }).hw.entry 0 0).st = .loading) ∧
      (s 1 false).hw.holders (some 1) 5 there = []) ∧
    (let s (t : DState) := evt (.nats [0, 0, 0]) [] (waiting 0) id (withImage (inState t))
     ((s .verified).hw.entry 0 0).load = 0 ∧ ((s .verified).hw.entry 0 0).st = .verified ∧
      ((s .verified).hw.entry 0 0).due ≤ (s .verified).hw.now ∧ ((s .verified).hw.cluster 0).unitsUsed + ((s .verified).hw.entry 0 0).units ≤ 256 ∧ clusterOf 0 = 0 ∧ ((s .verified).hw.ctx 0 0).st = .parked ∧
      ((s .verified).hw.ctx 0 0).park = some (.code 0) ∧ ((s .loading).hw.entry 0 0).st = .loading) ∧
    (let s := st []
     (s.hw.curCtx c0).booked = false ∧ (s.hw.curCtx c0).fence = none ∧ s.atHand c0 (regRun (124 : GReg).toNat 4) ∧ (124 : GReg).toNat + 3 < (s.hw.curCtx c0).wsize ∧ s.hw.cur = some c0) ∧
    (let s := evt (.nats [0, 4, 1, 1, 5]) [] id id (withImage { image 5 2 with run := 1 })
     0 / 512 = moduleOf 0 ∧ (s.hw.cluster 0).owner = some 1 ∧ (s.hw.entry 0 0).digest = BitVec.ofNat 256 5 ∧ (s.hw.entry 0 0).st = .installed ∧
      0 < (s.hw.entry 0 0).run) := by
  repeat' apply And.intro
  all_goals decide +kernel

/-- A context in a region whose target is offset 2. -/
def inRegion (failed : Option (Nat × Nat × Nat)) (x : Ctx) : Ctx := { x.setTs tsFREG true with region := some ⟨2, [], [], failed⟩ }

theorem met_Regions :
    (let s := st []
     s.Inv ∧ s.hw.cur = some c0 ∧ (s.hw.curCtx c0).inRegion = false ∧ 0 ≤ (c0.pc : Int) + (100 : BitVec 31).toInt ∧
      (c0.pc : Int) + (100 : BitVec 31).toInt ≤ (c0.codeEnd : Int)) ∧
    (let s := st [] (inRegion none)
     let x := s.hw.curCtx c0
     x.inRegion = true ∧ x.region = some ⟨2, [], [], none⟩ ∧ s.mem.poisonIn (x.ckptKey 0) (32 * (4 + x.wsize / 4)) = none) ∧
    (let s (f : Option (Nat × Nat × Nat)) := evt (.nats [0, 0, 1]) [] (fun x => { inRegion f x with st := .parked, park := some .commit, parkCur := some c0 })
     let x := (s none).hw.curCtx c0
     x.uid = 1 ∧ x.st = .parked ∧ x.park = some .commit ∧ x.parkCur = some c0 ∧ x.region = some ⟨2, [], [], none⟩ ∧
      ((s (some (4, 1, 9))).hw.curCtx c0).region = some ⟨2, [], [], some (4, 1, 9)⟩ ∧
      (s none).mem.poisonIn (x.ckptKey 0) (32 * (4 + x.wsize / 4)) = none) := by
  repeat' apply And.intro
  all_goals first | decide +kernel | (unfold State.Inv; decide +kernel)

/-! ### Hypotheses of the statements of barriers, gangs and pipes -/

/-- An armed channel with a mask and those that have arrived. -/
def armed (mask arrived : BitVec 64) : Chan := { Chan.idle with active := true, mask := mask, arrived := arrived, phase := 0xFFFF }

/-- Core 0 with a core-scope channel 7. -/
def chan7 (c : Chan) (k : Core) : Core := { k with chans := [(7, c)] }

/-- Cluster 0 with a cluster-scope channel 7. -/
def clu7 (c : Chan) (h : Hw) : Hw := { h with clusters := [(0, { Cluster.reset with owner := some 1, chans := [(7, c)] })] }

/-- A split arrival at channel 7, released or not. -/
def split7 (clu reld : Bool) (x : Ctx) : Ctx := { x with split := ⟨true, clu, reld, true, 7, 3, 9, none⟩ }

theorem met_BarrierChains :
    (let s (m a : BitVec 64) := st [(5, 0x3F800000), (6, 0x7F800001)] id (chan7 (armed m a))
     let x := (s 3 2).hw.curCtx c0
     let k (m a : BitVec 64) := (s m a).hw.chan false 0 7
     let all (m a : BitVec 64) := (k m a).arrived ||| BitVec.ofNat 64 (2 ^ c0.slot)
     x.fence = none ∧ x.st = .ready ∧ (s 3 2).atHand c0 [(5 : GReg).toNat] ∧ (s 3 2).atHand c0 [(6 : GReg).toNat] ∧ x.booked = false ∧
      (k 3 2).active = true ∧ (k 3 2).mask.getLsbD c0.slot = true ∧ (k 3 2).arrived.getLsbD c0.slot = false ∧ (k 3 2).releasing = false ∧
      x.waiting = none ∧ all 3 2 &&& (k 3 2).mask = (k 3 2).mask ∧ (k 3 2).comb ≠ .fmax ∧ (k 3 2).comb ≠ .imax ∧ (k 3 2).val = none ∧
      ((s 3 2).hw.cg c0 5).toNat % 2 ^ 32 ≤ 0x7F800000 ∧ 0x7F800000 < ((s 3 2).hw.cg c0 6).toNat % 2 ^ 32 % 2 ^ 31 ∧
      (s 3 0).hw.cur = some c0 ∧ ((s 3 0).hw.curCtx c0).split.valid = false ∧ (k 3 0).active = true ∧ (k 3 0).arrived.getLsbD c0.slot = false ∧
      all 3 0 &&& (k 3 0).mask ≠ (k 3 0).mask ∧ ((st []).hw.chan false 0 7).active = false) ∧
    (let s (r : Bool) := st [] (split7 true r)
     (s true).hw.cur = some c0 ∧ ((s true).hw.curCtx c0).fence = none ∧ ((s true).hw.curCtx c0).split.valid = true ∧
      ((s true).hw.curCtx c0).split.clu = true ∧ ((s true).hw.curCtx c0).split.chan = (7 : BitVec 4).toNat ∧
      ((s true).hw.curCtx c0).split.reld = true ∧ ((s false).hw.curCtx c0).split.reld = false ∧ ((s false).hw.curCtx c0).booked = false) ∧
    (let s (w : Bool) := st [(5, 0xFFFF)] id (fun k => { k with wheel := w })
     let k := (s true).hw.chan false 0 7
     (s true).atHand c0 [(5 : GReg).toNat] ∧ ((s true).hw.cg c0 5).toNat ≠ 0 ∧ k.gang = false ∧ k.active = false ∧
      ((s true).hw.core 0).wheel = true ∧ ((s true).hw.cg c0 5).toNat < 2 ^ 16 ∧ ((s true).hw.curCtx c0).booked = false) := by
  repeat' apply And.intro
  all_goals decide +kernel

/-- A waiter of a phase: core 0, slot 0, register 5. -/
def wait5 : BarWait := ⟨0, 0, 1, 0, 0, 5, 4, c0, false⟩

/-- A context parked at a barrier, its result owed to register 5. -/
def atBarrier (x : Ctx) : Ctx := { x with st := .parked, park := some (.barrier true 7), parkCur := some c0, waiting := some (5, 4, true), pend := [.async 5 4] }

theorem met_BarrierSteps :
    (let s := evt (.nats [0, 0, 1, 7, 0xFFFF]) [] atBarrier id (clu7 .idle)
     s.hw.alive 0 0 1 = true ∧ (s.hw.ctx 0 0).st = .parked ∧ (s.hw.ctx 0 0).parkCur = some c0 ∧ s.hw.armRefused true (clusterOf 0) 7 0xFFFF = none ∧
      0xFFFF ≠ 0) ∧
    (let s (m a : BitVec 64) := evt (.words [0, 0, 1, 0, 9, 5, 4, 0, 7, 0, 0, 0, 4, 1, 0, 100] []) [] atBarrier id (clu7 (armed m a))
     let k (m a : BitVec 64) := (s m a).hw.chan true (clusterOf 0) 7
     let all (m a : BitVec 64) := (k m a).arrived ||| BitVec.ofNat 64 (2 ^ (0 % 16))
     (s 3 2).hw.alive 0 0 1 = true ∧ 0 ≠ 1 ∧ (k 3 2).active = true ∧ (k 3 2).mask.getLsbD (0 % 16) = true ∧
      (k 3 2).arrived.getLsbD (0 % 16) = false ∧ (k 3 2).releasing = false ∧ all 3 2 &&& (k 3 2).mask = (k 3 2).mask ∧
      all 3 0 &&& (k 3 0).mask ≠ (k 3 0).mask) ∧
    (let r : BarRel := ⟨2 ^ 63 + 9, [wait5], []⟩
     let s := evt (.nats [1, 0, 7]) [] atBarrier (fun k => { k with empty := [(5, ())] }) (clu7 { armed 3 0 with rels := [r], releasing := true })
     (s.hw.chan true 0 7).rels = [r] ∧ (s.hw.chan true 0 7).held = [] ∧ r.waiters = [wait5] ∧ r.splits = [] ∧
      s.hw.alive wait5.core wait5.slot wait5.uid = true ∧ (s.hw.ctx 0 0).st = .parked ∧ (s.hw.ctx 0 0).parkCur = some c0 ∧
      (s.hw.ctx 0 0).waiting = some (5, wait5.txn, true) ∧ 0 < 5) ∧
    (let r : BarRel := ⟨2 ^ 63 + 9, [], [(0, 0, 1)]⟩
     let s := evt (.nats [1, 0, 7]) [] (split7 true false) id (clu7 { armed 3 0 with rels := [r], releasing := true })
     (s.hw.chan true 0 7).rels = [r] ∧ r.waiters = [] ∧ r.splits = [(0, 0, 1)] ∧ s.hw.alive 0 0 1 = true ∧ (s.hw.ctx 0 0).st = .ready ∧
      (s.hw.ctx 0 0).split.valid = true ∧ (s.hw.ctx 0 0).split.clu = ((1 : Nat) == 1) ∧ (s.hw.ctx 0 0).split.chan = 7) ∧
    (let s (m a : BitVec 64) := evt (.nats [0, 0]) [] id (chan7 (armed m a))
     let d := (s 3 2).hw.chan false 0 7
     let rest (m : BitVec 64) := m &&& ~~~(BitVec.ofNat 64 (2 ^ 0))
     7 < 8 ∧ d.active = true ∧ d.mask.getLsbD 0 = true ∧ rest 3 ≠ 0 ∧ d.arrived &&& rest 3 = rest 3 ∧ d.releasing = false ∧
      ((s 3 0).hw.chan false 0 7).arrived &&& rest 3 ≠ rest 3 ∧ rest 1 = 0) := by
  repeat' apply And.intro
  all_goals decide +kernel

/-- The gang word of members 0 and 4 of a cluster, on channel 5. -/
def word5 : Nat := 0x00030105

/-- The join of core 4. -/
def join4 : GangJoin := ⟨4, 0, 1, 5, 4, { c0 with core := 4 }, false, []⟩

/-- A gang of cores 0 and 4 in a state, with its joins. -/
def gang5 (t : GangState) (joins : List GangJoin) : Gang := ⟨word5, 3, 0, [0, 4], joins, [], t, 0, 0⟩

/-- Cluster 0 with that gang on channel 5, and core 4 with a context parked at its join. -/
def withGang (x : Gang) (h : Hw) : Hw :=
  { h with clusters := [(0, { Cluster.reset with owner := some 1, gangs := [(5, x)] })],
           cores := h.cores ++ [(4, { Core.reset with empty := [(5, ())], slots := [(0, { atBarrier ctx0 with gang := some (0, 5) })] })] }

theorem met_Gangs :
    (let s (off : Word) := st [(6, 0x00030105), (7, off)] id id id (fun m => m.putN 64 (bytesLE 8 8))
     let y := (s 64).hw.curCtx c0
     (s 64).atHand c0 [(6 : GReg).toNat, (6 : GReg).toNat + 1] ∧ (6 : GReg).toNat + 1 < y.wsize ∧ y.booked = false ∧
      (s 64).hw.gangRect (clusterOf 0) word5 = some [0, 4] ∧ 0 ∈ [0, 4] ∧ ((s 0).hw.cgn c0 7).toNat = 0 ∧ ((s 64).hw.cgn c0 7).toNat ≠ 0 ∧
      (y.seg 0).virt = false ∧ segCheck (y.seg 0) ((s 64).hw.cgn c0 7).toNat 8 { r := true } 32 = .ok 64 ∧
      (s 64).mem.val 64 8 = 8 ∧ segCheck (y.seg 0) ((s 64).hw.cgn c0 7).toNat (8 + 8 * 8) { r := true } 32 = .ok 64 ∧
      ((s 64).readable c0 64 8 ∧ (s 64).readable c0 (64 + 8) (8 * 8))) ∧
    (let arg := [0, 0, 1, word5, 5, 4, 0, 0, 0, 0, 0, 4, 1, 0, 100]
     let s := evt (.words arg []) [] atBarrier
     s.hw.alive 0 0 1 = true ∧ 0 ≠ 1 ∧ s.hw.gang (clusterOf 0) (word5 % 16) = none ∧ s.hw.gangRect (clusterOf 0) word5 = some [0, 4] ∧
      (∃ m ∈ [0, 4], m ≠ 0) ∧ (s.hw.chan true (clusterOf 0) 5).active = false ∧ (s.hw.chan true (clusterOf 0) 5).gang = false ∧
      (s.hw.chan true (clusterOf 0) 5).releasing = false ∧
      (let x := gang5 .forming [join4]
       let z := evt (.words arg []) [] atBarrier id (withGang x)
       z.hw.gang (clusterOf 0) (word5 % 16) = some x ∧ x.state = .forming ∧ x.booking = 0 ∧ x.word = word5 ∧ (∀ o ∈ x.joins, o.core ≠ 0) ∧
        (∀ m ∈ x.members, m = 0 ∨ ∃ o ∈ x.joins, o.core = m))) ∧
    (let join0 (table : List Nat) : GangJoin := ⟨0, 0, 1, 5, 4, c0, false, table⟩
     let x (table : List Nat) := gang5 .forming [join4, join0 table]
     let s (table : List Nat) := evt (.nats [0, 5, word5, 0]) [] atBarrier id (withGang (x table))
     (s []).hw.gang 0 5 = some (x []) ∧ (x []).word = word5 ∧ (x []).booking = 0 ∧ (x []).state = .forming ∧ (x []).joined = true ∧
      (s []).hw.gangValid (x []) = true ∧ (s [9]).hw.gangValid (x [9]) = false ∧ join4 ∈ (x [9]).joins ∧
      (∀ o ∈ (x [9]).joins, o.core = join4.core → o = join4) ∧ (s [9]).hw.alive 4 0 1 = true ∧ ((s [9]).hw.ctx 4 0).st = .parked) ∧
    (let x := gang5 .formed [join4]
     let s := evt (.nats [0, 5, word5, 0]) [] id id (withGang x)
     s.hw.gang 0 5 = some x ∧ x.word = word5 ∧ x.booking = 0 ∧ join4 ∈ x.joins ∧ (∀ o ∈ x.joins, o.core = join4.core → o = join4) ∧
      s.hw.alive 4 0 1 = true ∧ (s.hw.ctx 4 0).st = .parked ∧ (s.hw.ctx 4 0).waiting = some (5, join4.txn, true) ∧ (s.hw.ctx 4 0).parkCur = some c0 ∧
      0 < 5 ∧ join4.core ∈ x.members) ∧
    (let s := evt (.nats [0, 0, 1, 4, 2 ^ 63]) [] atBarrier
     s.hw.alive 0 0 1 = true ∧ (s.hw.ctx 0 0).st = .parked ∧ (s.hw.ctx 0 0).waiting = some (5, 4, true) ∧ (s.hw.ctx 0 0).parkCur = some c0) ∧
    (let x := gang5 .formed [join4]
     let s := evt (.nats [0, 5, 0]) [] id id (withGang x)
     s.hw.gang 0 5 = some x ∧ x.state = .formed ∧ join4 ∈ x.joins ∧ join4.core ≠ 0 ∧ s.hw.alive 4 0 1 = true ∧ (s.hw.ctx 4 0).gang = some (0, 5) ∧
      (s.hw.ctx 4 0).st = .parked) := by
  repeat' apply And.intro
  all_goals decide +kernel

/-- An endpoint of core 0: pipe with core 4, entries of 32 bytes in a ring of 2 at offset 0x200. -/
def pipe7 (write : Bool) (wc fc tc : BitVec 32) (held : Bool) : Pipe := ⟨write, 4, 0x200, 32, 2, wc, fc, tc, held⟩

/-- Core 0 with endpoint 7. -/
def withPipe (p : Pipe) (k : Core) : Core := { k with pipes := [(7, p)] }

theorem met_Pipes :
    ((st []).hw.cur = some c0 ∧ 8 ≤ (8 : BitVec 4).toNat) ∧
    (let s (p : Pipe) := st [(5, 64)] id (withPipe p) (withGang (gang5 .formed [join4]))
     let w := pipe7 true 0xFFFFFFFF 0xFFFFFFFE 0 false
     let full := pipe7 true 1 0xFFFFFFFF 0 false
     let x := (s w).hw.curCtx c0
     (7 : BitVec 4).toNat < 8 ∧ (s w).hw.formedGang 0 = some (gang5 .formed [join4]) ∧ SMap.find? ((s w).hw.core 0).pipes 7 = some w ∧
      w.peer ∉ (gang5 .formed [join4]).left ∧ w.write = true ∧ (s w).atHand c0 [(5 : GReg).toNat] ∧ x.fence = none ∧ (x.seg 0).virt = false ∧
      segCheck (x.seg 0) ((s w).hw.cg c0 5).toNat w.width { r := true } 32 = .ok 64 ∧ (w.wc - w.fc).toNat ≠ w.depth ∧
      (full.wc - full.fc).toNat = full.depth ∧ x.booked = false ∧
      (let r := pipe7 false 1 0 0 true
       let e := pipe7 false 1 0 1 false
       SMap.find? ((s r).hw.core 0).pipes 7 = some r ∧ r.write = false ∧ (s r).hw.cur = some c0 ∧ r.tc ≠ r.wc ∧ r.held = true ∧ e.tc = e.wc ∧
        e.held = false)) ∧
    (let p := pipe7 false 1 0 0 false
     let s := evt (.blob [4, 0, 1, 3, 7, 0, 0x200, 5] (bytesLE 32 9)) [] (fun x => { x with st := .parked, park := some (.pipe 7) }) (withPipe p)
     s.Inv ∧ SMap.find? (s.hw.core 0).pipes 7 = some p ∧ (s.hw.core 0).imaging = false ∧
      (bytesLE 32 9).length = 32 * ([5] : List Nat).length ∧ 0x200 % 32 = 0 ∧ (s.hw.ctx 0 0).st = .parked ∧ (s.hw.ctx 0 0).park = some (.pipe 7)) ∧
    SMap.find? ((evt (.nats [0, 7]) [] id (withPipe (pipe7 true 1 0 0 false))).hw.core 0).pipes 7 = some (pipe7 true 1 0 0 false) := by
  repeat' apply And.intro
  all_goals first | decide +kernel | (unfold State.Inv; decide +kernel)

/-! ### Hypotheses of the statements of the vector unit -/

/-- Pointers at rows 0 to 4 of the scratchpad, the last at its end. -/
def rowPtrs (x : Ctx) : Ctx := { x with p := [(1, ⟨0, 128⟩), (2, ⟨128, 128⟩), (3, ⟨256, 0⟩), (4, ⟨0x8FF80, 0xFF80⟩), (5, ⟨0, 0⟩)] }

theorem met_VectorStarts :
    (let s := st [] rowPtrs (fun k => { k with sfuq := List.replicate 7 0 })
     let row (p : BitVec 3) : Nat := ((s.hw.curCtx c0).seg 0).base + ((s.hw.curCtx c0).ptr p.toNat).off.toNat
     s.vecReady c0 [1, 2, 4] ∧ row 1 ≠ row 2 ∧ row 1 = row 5 ∧ s.vecReady c0 [3, 5, 1] ∧ (2 : BitVec 2) ≠ 0 ∧ s.hw.cur = some c0 ∧
      s.vecReady c0 [1, 4] ∧ s.vecReady c0 [1, 2] ∧ (s.hw.core 0).sfuq.length < 8 ∧ s.vecReady c0 [4] ∧ s.atHand c0 (regs [5]) ∧ ((s.hw.curCtx c0).seg (0 : BitVec 3).toNat).virt = false) := by
  repeat' apply And.intro
  all_goals decide +kernel

theorem met_LaneResults :
    ETy.isI .s8 = true ∧ 127 < ETy.lanes .s8 ∧ (5 : BitVec 256).getLsbD 2 = true ∧ (5 : BitVec 256).getLsbD 1 = false ∧ 127 < 128 ∧ 31 < 32 ∧
      0x7F800000 < lane .f32 0xFFC00000 0 % 2 ^ 31 := by
  repeat' apply And.intro
  all_goals decide +kernel

/-- A vector form under way on core 0: identity 3, whose accesses bear tag 5. -/
def job3 (op : VOp) : VJob :=
  { id := 3, slot := 0, uid := 1, chain := c0, op := op, ty := .s32, rnd := .rne, nsat := false, mask := BitVec.allOnes 256, reg := 0,
    acc := { load5 true with otag := 5 }, seg := scratchSeg, reads := [], rows := [], poison := none, dests := [], elem := none, writes := [],
    elems := [], n := 0, stop := false, sfuEnd := 0 }

/-- A module with one such form. -/
def withJob (a : Arg) (j : VJob) (fm : Mem → Mem := id) : State := evt a [] id (fun k => { k with vjobs := [j] }) id fm

/-- A read of the row at 0x400. -/
def read4 : VRead := ⟨[0], 0x400, 4, 0⟩

/-- A write of the even bytes of the row at 0x800. -/
def write5 : VWrite := ⟨0x800, 5, 0x010203, BitVec.ofNat 128 ((2 ^ 128 - 1) / 3), 0⟩

/-- An element of lane 31 at the end of the sector at 0x40. -/
def elem6 (sent : Bool) : VElem := ⟨6, 0x40, [(31, 0x5C)], sent, none⟩

theorem met_VectorStepsAndMasks :
    (let j : VJob := { job3 .neg with reads := [read4], dests := [(0x800, 5)] }
     let s := withJob (.nats [0, 3, 0]) j
     s.hw.vjob 0 3 = some j ∧ j.id = 3 ∧ read4.due ≤ s.hw.now ∧ read4.args = [0] ∧ (s.hw.core 0).readWaits s.hw.now j read4.txn read4.key 128 = false ∧
      s.hw.rowScrubbed 0 j read4.key = false ∧
      j.poison = none ∧
      (∀ p ∈ piecesOf read4.key 128, s.mem.isPoison p.key = false ∧ s.hw.granted j.acc.core j.acc.gset (effTag s.mem p) = true) ∧
      j.op ≠ .gath ∧ j.op ≠ .scat ∧
      (vecOut j.op j.ty j.rnd j.nsat j.mask j.reg.toNat (s.mem.val read4.key 128) (j.row 1) (j.row 2)).rows = [(0, BitVec.allOnes 128)]) ∧
    (let j : VJob := { job3 .neg with writes := [write5] }
     let s := withJob (.nats [0, 3, 1, 5]) j (fun m => (m.putN 0x800 (List.replicate 64 7)).setTag 0x820 5)
     s.Inv ∧ s.hw.vjob 0 3 = some j ∧ j.writes.find? (fun u => u.txn == 5) = some write5 ∧ write5.due = s.hw.now ∧
      (s.hw.core 0).bankTaken s.hw.now 3 (bankOf write5.key) = false ∧ (s.hw.core 0).storeAhead j.uid write5.txn j.txns write5.key 128 = false ∧
      s.hw.rowScrubbed 0 j write5.key = false ∧
      write5.key % 128 = 0 ∧ write5.en.getLsbD 0 = true ∧ write5.en.getLsbD 1 = false ∧ s.mem.tagOf (write5.key + 33) = j.acc.otag) ∧
    (let j : VJob := { job3 .scat with elems := [elem6 false], rows := [(2, BitVec.ofNat 1024 (2 ^ 1023))] }
     let s := withJob (.nats [0, 3, 0]) j
     s.Inv ∧ s.hw.vjob 0 3 = some j ∧ (elem6 false).sent = false ∧ keyCore (elem6 false).key = 0 ∧ (elem6 false).lanes = [(31, 0x5C)] ∧
      (elem6 false).key % 32 = 0 ∧ (elem6 false).key ≤ 0x5C ∧ 0x5C + ETy.bits j.ty / 8 ≤ (elem6 false).key + 32 ∧ ETy.isI j.ty = true ∧
      (s.hw.core 0).readWaits s.hw.now j (elem6 false).txn (elem6 false).key 32 = false ∧ s.hw.rowScrubbed 0 j (elem6 false).key = false) ∧
    (let j : VJob := { job3 .gath with elems := [elem6 true], rows := [(16, 7)], dests := [(0x800, 5)] }
     let s := withJob (.nats [0, 3, 2, 6]) j
     s.hw.vjob 0 3 = some j ∧ (elem6 true).txn = 6 ∧ (elem6 true).got = none ∧ (s.hw.core 0).vread ≠ some 3 ∧ j.poison = none ∧
      (lanesOut j.ty (fun i => (SMap.find? j.rows (16 + i)).isSome) (fun i => (SMap.get 0 j.rows (16 + i)).toNat)).rows = [(7, 0xF)]) ∧
    (let j : VJob := { job3 (.sfu .rcp) with ty := .f32, dests := [(0x800, 5)], mask := 0 }
     let s := withJob (.nats [0, 3]) j
     s.hw.vjob 0 3 = some j ∧ s.hw.alive 0 j.slot j.uid = true ∧
      (vecOut j.op j.ty j.rnd j.nsat j.mask j.reg.toNat (j.row 0) (j.row 1) (j.row 2)).rows = [(0, 0)]) ∧
    (let s := st []
     s.atHand c0 [] ∧ (s.hw.curCtx c0).maskPend = [] ∧ (3 : BitVec 2) ≠ 0 ∧ (124 : GReg).toNat + 3 < (s.hw.curCtx c0).wsize ∧
      s.atHand c0 (regRun (124 : GReg).toNat 4)) := by
  repeat' apply And.intro
  all_goals first | decide +kernel | (unfold State.Inv; decide +kernel)

/-! ### Hypotheses of the statements of the matrix unit -/

/-- A row of quadwords at 0x400. -/
def desc (l : List Nat) (m : Mem) : Mem := m.putN 0x400 (l.flatMap (bytesLE 8))

/-- Quadword 0 of a load's descriptor: identifier 0xFFFF, a completion, a format, rows to 31, segments 0. -/
def loadHead (fmt : Nat) : Nat := 0xFFFF * 2 ^ 48 + 1 * 2 ^ 39 + fmt * 2 ^ 36 + 31 * 2 ^ 31 + 0 * 2 ^ 26 + 0 * 2 ^ 23

/-- Quadword 0 of an access to tile rows 0 to 31. -/
def tileHead (fmt : Nat) : Nat := 0xFFFF * 2 ^ 48 + 1 * 2 ^ 39 + fmt * 2 ^ 36 + 31 * 2 ^ 31 + 0 * 2 ^ 26 + 0 * 2 ^ 18

/-- A range of rows passes its checks if each row does. -/
theorem rows_checked {n : Nat} {f : Nat → Chk} (h : (List.range (n + 1)).all (fun i => match f i with | .ok _ => true | .bad _ _ => false) = true) :
    ∀ i, i ≤ n → ∃ e, f i = .ok e := by
  intro i hi
  have h1 := List.all_eq_true.mp h i (List.mem_range.mpr (by omega))
  cases hf : f i with
  | ok e => exact ⟨e, rfl⟩
  | bad c a => rw [hf] at h1; exact absurd h1 Bool.false_ne_true

theorem met_MatrixIssue :
    (let s := st [(6, 255), (7, 256)] (fun x => { x with gang := some (0, 5) }) id (withGang (gang5 .formed [join4]))
     s.matFree c0 ∧ (3 : BitVec 4).toNat < 4 ∧ 4 ≤ (4 : BitVec 4).toNat ∧ (s.hw.curCtx c0).gang = some (0, 5) ∧
      s.hw.gang 0 5 = some (gang5 .formed [join4]) ∧ (gang5 .formed [join4]).state = .formed ∧ ((st []).hw.curCtx c0).gang = none ∧ (st []).matFree c0 ∧
      s.atHand c0 [] ∧ s.atHand c0 [(6 : GReg).toNat] ∧ (s.hw.cg c0 6).toNat < 256 ∧ 256 ≤ (s.hw.cg c0 7).toNat ∧
      (s.hw.core 0).latA.valid = false ∧ (s.hw.core 0).arun = none) ∧
    (let s (l : List Nat) := st [(6, 0x400)] id id id (desc l)
     let q (l : List Nat) (i : Nat) : Nat := (s l).mem.val (0x400 + 8 * i) 8
     let load := [loadHead 0, 0x1000, 128, 0x3000, 128, 0, 0, 0]
     let gath := [loadHead 4, 0x1000, 128, 0, 0, 0x800, 0, 0]
     let bf16 := [tileHead 2, 0x1000, 64, 0x1FFFF, 0, 0, 0, 0]
     let raw := [tileHead 7, 0x1000, 512, 0, 0, 0, 0, 0]
     (s load).matFree c0 ∧ (s load).atHand c0 [(6 : GReg).toNat] ∧ (s load).ownRow c0 ((s load).hw.cg c0 6).toNat 64 0x400 ∧
      (s load).ownRow c0 ((s load).hw.cg c0 6).toNat 128 0x400 ∧ q [0, 0, 0, 0, 0, 0, 0, 1] 7 ≠ 0 ∧
      (q load 1 < 2 ^ 40 ∧ q load 2 < 2 ^ 40 ∧ q load 3 < 2 ^ 40 ∧ q load 4 < 2 ^ 40) ∧ q load 0 = loadHead 0 ∧ q load 1 % 128 = 0 ∧ q load 2 % 128 = 0 ∧
      latchScales 0 ≠ 0 ∧ q load 3 % latchScales 0 = 0 ∧ q load 4 % latchScales 0 = 0 ∧ q load 5 = 0 ∧ q load 6 = 0 ∧ q load 7 = 0 ∧
      (∀ i, i ≤ 31 → ∃ e, segCheck (((s load).hw.curCtx c0).seg 0) ((q load 1 + i * q load 2 : Nat) : Int) 128 { r := true } 1 = .ok e) ∧
      (∀ i, i ≤ 31 → ∃ e, segCheck (((s load).hw.curCtx c0).seg 0) ((q load 3 + i * q load 4 : Nat) : Int) (latchScales 0) { r := true } 1 = .ok e) ∧
      q gath 0 = loadHead 4 ∧ latchScales 4 = 0 ∧ q gath 3 = 0 ∧ q gath 4 = 0 ∧ q gath 5 < 2 ^ 20 ∧
      (∃ e, segCheck (((s gath).hw.curCtx c0).seg 0) ((q gath 5 : Nat) : Int) 128 { r := true } 128 = .ok e) ∧
      q bf16 0 = tileHead 2 ∧ 0 + 31 ≤ 31 ∧ q bf16 1 % min (outBytes 2) 32 = 0 ∧ q bf16 2 % min (outBytes 2) 32 = 0 ∧ q bf16 4 = 0 ∧ q bf16 3 < 2 ^ 17 ∧
      (∀ i, i ≤ 31 → ∃ e, segCheck (((s bf16).hw.curCtx c0).seg 0) ((q bf16 1 + i * q bf16 2 : Nat) : Int) (outBytes 2) { w := true } 1 = .ok e) ∧
      q raw 0 = tileHead 7 ∧ q raw 3 = 0 ∧
      (∀ i, i ≤ 31 → ∃ e, segCheck (((s raw).hw.curCtx c0).seg 0) ((q raw 1 + i * q raw 2 : Nat) : Int) (outBytes 7) { r := true } 1 = .ok e)) := by
  repeat' apply And.intro
  all_goals first
    | decide +kernel
    | exact rows_checked (n := 0) (f := fun _ => _) (by decide +kernel) 0 (Nat.le_refl 0)
    | exact rows_checked (by decide +kernel)

/-- A command of the matrix unit of core 0, transaction 4, that has begun. -/
def mcmd4 (op : MOp) (gang : Option (Nat × Nat × List Nat) := none) : MCmd :=
  { (st []).hw.newCmd c0 op 3 7 true 0 with txn := 4, start := 1, gang := gang }

/-- A module in which that command runs, latches of a format with one row each. -/
def running4 (a : Arg) (m : MCmd) (fmt : Nat) : State :=
  let latch : Latch := ⟨true, fmt, [(0, 0x3C40)], [(0, 0x7F7F7F7F)]⟩
  evt a [] id (fun k => { k with arun := if m.op.array then some m else none, trun := if m.op.array then none else some m, latA := latch, latB := latch })
    (fun h => { h with now := 3 })

theorem met_MatrixSteps :
    (let mma := mcmd4 (.mma false false 1)
     let s (op : MOp) (fmt : Nat) (a : List Nat) := running4 (.nats a) (mcmd4 op) fmt
     ((s (.mscl true 255) 0 [0, 4, 0]).hw.core 0).running 4 = some (mcmd4 (.mscl true 255)) ∧
      (((s (.mscl true 255) 0 [0, 4, 0]).hw.core 0).latch true).valid = true ∧ (((s (.mscl true 255) 3 [0, 4, 0]).hw.core 0).latch true).fmt < 4 ∧
      ((s mma.op 0 [0, 4, 0]).hw.core 0).running 4 = some mma ∧ mma.gang = none ∧ ((s mma.op 0 [0, 4, 0]).hw.core 0).latA.valid = true ∧
      ((s mma.op 0 [0, 4, 0]).hw.core 0).latB.valid = true ∧ pairMode 0 0 = some false ∧ (((s mma.op 0 [0, 4, 0]).hw.core 0).tile 3).f32 = false ∧
      pairMode 0 4 = none ∧ mma.fail = none ∧
      ((s (.mzero true) 0 [0, 4, 4, 0]).hw.core 0).running 4 = some (mcmd4 (.mzero true)) ∧ 1023 < 1024 ∧ 255 < 256 ∧
      (fp32.value 0x7F800000).special = true ∧ (((s (.baddq .rne 0x7F800000) 0 [0, 4, 4, 0]).hw.core 0).tile 3).f32 = false) ∧
    (let m := mcmd4 (.mma true false 1) (some (5, 9, [0]))
     let s (a : Arg) := (running4 a m 0).onHw (fun h => { h with clusters := [(0, { Cluster.reset with owner := some 1, mphases := [⟨5, 9, [0], [(0, 4, 3)]⟩] })] })
     ((s (.nats [0, 4, 0])).hw.core 0).running 4 = some m ∧ m.broken = false ∧ m.fail = none ∧ m.gang = some (5, 9, [0]) ∧
      ((s (.nats [1, 0, 5, 9])).hw.cluster 0).mphase 5 9 = some ⟨5, 9, [0], [(0, 4, 3)]⟩ ∧ 0 ∈ (pairsOf [0, 4]).map Prod.fst ∧
      (((s (.ecc 0 (.latch true 31))).hw.core 0).latch true).fmt < 4 ∧ (((s (.ecc 0 (.entry 3 31 31))).hw.core 0).tile 3).f32 = false) ∧
    (let ald : MCmd := { mcmd4 .ald with fmt := 5, rows := [(0, 9), (31, 8)] }
     let s (m : MCmd) (a : List Nat) := running4 (.nats a) m 0
     ((s ald [0, 4, 4, 0]).hw.core 0).running 4 = some ald ∧ ((s ald [0, 4, 4, 0]).hw.core 0).arun = some ald ∧ ald.denied = [] ∧
      (ald.rows.map Prod.fst).Nodup ∧ ald.cq = true ∧ (s ald [0, 4, 4, 0]).hw.alive 0 ald.slot ald.uid = true ∧ (s ald [0, 4, 4, 0]).hw.isQuiet 0 ald.slot ald.txn = false ∧
      (let mrd := mcmd4 (.mrd .rne false)
       ((s mrd [0, 4, 4, 0]).hw.core 0).trun = some mrd ∧ mrd.cq = true ∧ mrd.denied = []) ∧
      (let mwr : MCmd := { mcmd4 .mwr with last := 31, buf := [(16 * 31 + 3, bytesLE 32 (2 ^ 224 * 5))] }
       mwr.fmt = 0 ∧ 31 < 32 ∧ mwr.gotEntry 31 31 = some (5, false) ∧ ((s mwr [0, 4, 4, 0]).hw.core 0).running 4 = some mwr) ∧
      (let r : MReq := { mreq 31 0 false 0x400 128 0 with data := bytesLE 128 6 }
       let m : MCmd := { ald with flight := [r] }
       ((s m [0, 4, 3, 31, 0]).hw.core 0).running 4 = some m ∧ m.inFlight r.row r.part = some r ∧ r.part = 0 ∧
        ((s m [0, 4, 3, 31, 0]).matTake m r).poison = none ∧ ((s m [0, 4, 3, 31, 0]).matTake m r).den = [] ∧ m.denied = [] ∧ m.txn = 4) ∧
      (let r : MReq := { mreq 31 0 false 0x400 32 0 with pieces := [⟨0x400, 32, 0, 0⟩] }
       let m : MCmd := { ald with flight := [r] }
       ((s m [0, 4, 2, 31, 0]).hw.core 0).running 4 = some m ∧ m.inFlight r.row r.part = some r ∧ r.pieces = [⟨0x400, 32, 0, 0⟩]) ∧
      (let p : Piece := ⟨0x41E, 2, 0, 0⟩
       let r : MReq := { mreq 31 3 false 0x41E 2 0 with pieces := [p], data := [1, 0] }
       let m : MCmd := { mcmd4 (.mrd .rne false) with flight := [r] }
       (s m [0, 4, 2, 31, 3]).Inv ∧ ((s m [0, 4, 2, 31, 3]).hw.core 0).running 4 = some m ∧ m.inFlight r.row r.part = some r ∧ r.pieces = [p] ∧ p.off = 0 ∧
        r.data.length = p.len ∧ 0 < p.len ∧ p.key % 32 + p.len ≤ 32)) := by
  repeat' apply And.intro
  all_goals first | decide +kernel | (unfold State.Inv; decide +kernel)

/-! ### Hypotheses of the statements of pages and failures -/

/-- A TLB entry of the page of 4,096 bytes at the virtual segment's base, tenant 1. -/
def tlb1 : TlbEntry := ⟨1, 0x40000000, 0x79, 0, []⟩

/-- Cluster 0 of tenant 1 with that entry in its TLB. -/
def withTlb (h : Hw) : Hw := { h with clusters := [(0, { Cluster.reset with owner := some 1, tlb := [tlb1] })] }

/-- A plain access of core 0, transaction 0, that is outstanding. -/
def out0 (op : AccOp) : Outst := ⟨{ load5 false with op := op, virt := true, addr := 0x40000000 }, 1, .plain, c0, [5], true, false, [], false, [], []⟩

/-- A module with that access, its context parked. -/
def waits0 (a : Arg) (op : AccOp) : State :=
  evt a [] (fun x => { x with st := .parked, park := some .memory, access := some c0, parkCur := some c0, pend := [.async 5 0] })
    (fun k => { k with empty := [(5, ())], out := [out0 op] })

theorem met_PagesAndFailures :
    (let s (sg : Seg) := st [(2, 0)] (fun x => { x with sg := [(0, sg)] }) id withTlb
     let m : MemOp := ⟨0, 2, 0⟩
     (s scratchSeg).atHand c0 [m.idx.toNat] ∧ ((s scratchSeg).hw.curCtx c0).booked = false ∧
      segCheck (((s scratchSeg).hw.curCtx c0).seg 0) ((s scratchSeg).hw.memOffset c0 m) 1 {} 1 = .ok 0 ∧
      segCheck (((s virtSeg).hw.curCtx c0).seg 0) ((s virtSeg).hw.memOffset c0 m) 1 {} 1 = .ok 0x40000000 ∧
      (((s virtSeg).hw.curCtx c0).seg 0).virt = true ∧
      tlbFind ((s virtSeg).hw.cluster (clusterOf 0)).tlb 1 0x40000000 = some (tlb1, [tlb1]) ∧ ((s virtSeg).hw.curCtx c0).service = false) ∧
    (let s (op : AccOp) := waits0 (.acc (out0 op).acc 0x40000000) op
     (s (.probe 5)).hw.findOut 0 0 = some (out0 (.probe 5)) ∧ (out0 (.probe 5)).acc.relaxed = false ∧ (out0 (.probe 5)).acc.core = 0 ∧
      ((s (.probe 5)).walk 0 1 0x40000000).leaf = none ∧ (s (.load (.val .s64) [5])).hw.findOut 0 0 = some (out0 (.load (.val .s64) [5])) ∧
      (s (.load (.val .s64) [5])).hw.alive 0 (out0 (.probe 5)).acc.slot 1 = true) ∧
    (let s := st [(8, 63), (9, 0), (10, 255)]
     (8 : GReg).toNat + 2 < (s.hw.curCtx c0).wsize ∧ s.atHand c0 (regRun (8 : GReg).toNat 3) ∧ (s.hw.cgn c0 (8 + 0)).toNat < 64 ∧ (s.hw.cgn c0 (8 + 2)).toNat < 256) ∧
    (let s := evt (.nats [0, 4]) [] (fun x => { x with pend := [.async 5 4] }) (fun k => { k with empty := [(5, ())], owed := [owed5] })
     (s.hw.core 0).owed.find? (fun u => u.txn == 4) = some owed5 ∧ owed5.hand = none ∧ 0 < owed5.reg ∧ s.hw.alive 0 owed5.slot owed5.uid = true ∧
      (s.hw.ctx 0 owed5.slot).st = .ready ∧ (s.hw.ctx 0 owed5.slot).pend.any (fun u => u.ofTxn owed5.reg 4) = true ∧ tlbModule 0 = moduleOf 0) ∧
    (let s := evt (.nats [0, 1, 0x40000000, 4096]) [] (fun x => { x with st := .parked, park := some (.page 0x40000FFF), parkCur := some c0 })
     s.hw.copiesHeld 0 1 0x40000000 4096 = [] ∧ s.hw.matsHeld 0 1 0x40000000 4096 = [] ∧ (s.hw.mod 0).heldPages = [] ∧ moduleOf 0 = 0 ∧
      (s.hw.tenantOf 0).getD 0 = 1 ∧ (s.hw.ctx 0 0).st = .parked ∧ (s.hw.ctx 0 0).park = some (.page 0x40000FFF) ∧ 0x40000000 ≤ 0x40000FFF ∧
      0x40000FFF < 0x40000000 + 4096 ∧ (s.hw.ctx 0 0).parkCur = some c0) ∧
    (msg127.sender = 0 ∧ msg127.txn = 4 ∧
      (let s := waits0 (.acc (out0 (.load (.val .s64) [5])).acc 255) (.load (.val .s64) [5])
       s.hw.findOut 0 0 = some (out0 (.load (.val .s64) [5])) ∧ (out0 (.load (.val .s64) [5])).acc.txn = 0 ∧ 255 < 256 ∧
        (s.hw.ctx 0 0).fence = none ∧ (s.hw.ctx 0 0).region = none ∧ s.hw.isQuiet 0 0 0 = false)) := by
  repeat' apply And.intro
  all_goals decide +kernel


/-! ### Hypotheses of the statements of spills and core images -/

/-- A core with a save block at the base of its slice. -/
def saving (k : Core) : Core := { k with saveBase := some 0 }

/-- The head of the image of a context that waits for a register at offset 7 and has been woken; window of 128 registers. -/
def head7 : Nat := 2 * 2 ^ 60 + 2 * 2 ^ 56 + 2 ^ 53 + 15 * 2 ^ 49 + 7 * 2 ^ 17

/-- The image of slot 0 of core 0 with such a head and register 5 full with 9. -/
def image0 (head : Nat) (m : Mem) : Mem :=
  ((m.putN (Config.dramKey) (bytesLE 8 head)).putN (Config.dramKey + 0x10) (bytesLE 8 (2 ^ 5))).putN (Config.dramKey + 0x228) (bytesLE 8 9)

/-- What the engine of core 0 does with slot 0. -/
def op0 (restore : Bool) : SpillOp := ⟨0, 1, 1, 0, restore, if restore then none else some (0, 4), [], 200⟩

/-- A Spilled context with an image. -/
def spilled (x : Ctx) : Ctx := { x with st := .spilled, park := some (.fullBit 5), imaged := true }

theorem met_SpillRequests :
    (let s := st [(5, 0x10300), (6, 0x10000)]
     let w := (s.hw.cg c0 5).toNat
     s.atHand c0 (regs [5]) ∧ w < 2 ^ 37 ∧ w / 2 ^ 14 % 4 = 0 ∧ w % 2 ^ 8 = 0 ∧ s.hw.routeFails 0 0 true (w / 2 ^ 16) 60 = none ∧
      dieOf 0 = dieOf (w / 2 ^ 16)) ∧
    ((st [(5, 0x10301)]).hw.cg c0 5).toNat % 2 ^ 8 ≠ 0 ∧ ((st [(5, 0x14300)]).hw.cg c0 5).toNat / 2 ^ 14 % 4 ≠ 0 ∧
      2 ^ 37 ≤ ((st [(5, 0x2000000000)]).hw.cg c0 5).toNat ∧
    (let s (v : Word) := st [(5, 0x10000), (6, v)]
     (s 0x10000).atHand c0 [5, 6] ∧ 5 + 1 < ((s 0x10000).hw.curCtx c0).wsize ∧ ((s 0x10000).hw.cg c0 5).toNat / 2 ^ 8 % 64 = 0 ∧
      ((s 0xB7E0000).hw.cgn c0 (5 + 1)).toNat % 65536 = 0 ∧ ((s 0xB7E0000).hw.cgn c0 (5 + 1)).toNat + 0x420000 ≤ 0xBC00000 ∧
      0xBC00000 < ((s 0xB7F0000).hw.cgn c0 (5 + 1)).toNat + 0x420000 ∧ ((s 0x8000).hw.cgn c0 (5 + 1)).toNat % 65536 ≠ 0) ∧
    (let s (n : Nat) (fk : Core → Core) := evt (.nats [n, 0, 0, 0, 4, 0x10000]) [] id fk
     let full (k : Core) : Core := { saving k with spillReqs := List.replicate 4 ⟨0, false, 0, 1⟩ }
     ((s 1 id).hw.core 0).saveBase = none ∧ (s 1 saving).hw.coreDisabled 0 = false ∧ (s 1 saving).hw.tenantOf 0 = (s 1 saving).hw.tenantOf 0 ∧
      ((s 1 saving).hw.core 0).saveBase.isSome = true ∧ ((s 1 saving).hw.core 0).spillReqs.length < 4 ∧
      ((s 1 (fun k => { saving k with engine := some (op0 true) })).hw.core 0).engine.isSome = true ∧
      ((s 0 full).hw.core 0).spillReqs.length = 4 ∧
      ((s 3 (fun k => { k with slots := [(0, Ctx.free)] })).hw.core 0).slots.all (fun (e : Nat × Ctx) => e.2.st == .free) = true ∧
      (∃ e ∈ ((s 3 saving).hw.core 0).slots, e.2.st ≠ .free)) ∧
    (let s (fx : Ctx → Ctx) := st [(2, 64)] fx
     (s id).atHand c0 [2] ∧ segCheck (((s id).hw.curCtx c0).seg 0) ((s id).hw.memOffset c0 ⟨0, 2, 0⟩) 8 { r := true } 8 = .ok 64 ∧
      ((s id).hw.curCtx c0).ckptMark = none ∧ ((s (fun x => { x with ckptMark := some (0, 0, 4) })).hw.curCtx c0).ckptMark.isSome = true ∧
      ((s id).hw.curCtx c0).booked = false ∧ (s (fun x => { x with ckptMark := some (0, 0, 4) })).portFree c0 false .plain) := by
  repeat' apply And.intro
  all_goals decide +kernel

theorem met_SpillsAndRestores :
    (let s (a : Arg) := evt a [] id (fun k => { saving k with spillReqs := [⟨0, false, 0, 4⟩] })
     ((s (.nats [0])).hw.core 0).engine = none ∧ ((s (.nats [0])).hw.core 0).spillReqs = [⟨0, false, 0, 4⟩] ∧
      ((s (.nats [0])).hw.ctx 0 0).st = .ready ∧ ((s (.nats [0])).hw.ctx 0 0).booked = false ∧ ((s (.nats [0])).hw.ctx 0 0).gang = none ∧
      ((s (.nats [0])).hw.ctx 0 0).arrHeld = false) ∧
    ((evt (.nats [0, 0]) [] (fun x => { x with st := .parked, park := some (.fullBit 5) }) saving).hw.ctx 0 0).yieldsWindow = true ∧
    (let s := evt (.nats [0]) [] (fun x => { x with st := .parked, park := some .memory, ckptMark := some (0, 0, 4) })
       (fun k => { saving k with ckpts := [(0, [(64, 32)])] })
     (s.hw.core 0).engine = none ∧ (s.hw.core 0).ckpts = [(0, [(64, 32)])] ∧ (s.hw.ctx 0 0).st = .parked ∧
      (s.hw.ctx 0 0).ckptMark.isSome = true) ∧
    (let s := evt (.nats [0, 0, 0, 1]) [(5, 9)] (fun x => { x with st := .spilled }) (fun k => { saving k with engine := some (op0 false) })
     s.Inv ∧ (s.hw.core 0).engine = some (op0 false) ∧ (op0 false).slot = 0 ∧ (op0 false).uid = (s.hw.ctx 0 0).uid ∧ (op0 false).restore = false ∧
      (s.hw.ctx 0 0).maskPend = [] ∧ (s.hw.ctx 0 0).st = .spilled ∧ (op0 false).ranges = [] ∧ (op0 false).answer = some (0, 4) ∧
      (s.hw.ctx 0 0).wsize ≤ 128 ∧ 5 < (s.hw.ctx 0 0).wsize) ∧
    (let s := evt (.nats [1, 0, 4, 3]) [] (fun x => { x with pend := [.async 5 4] }) (fun k => { k with empty := [(5, ())], owed := [owed5] })
     (s.hw.core 0).owed.find? (fun e => e.txn == 4) = some owed5 ∧ owed5.hand = none ∧ 0 < owed5.reg ∧
      s.hw.alive 0 owed5.slot owed5.uid = true ∧ (s.hw.ctx 0 owed5.slot).st = .ready ∧
      (s.hw.ctx 0 owed5.slot).pend.any (fun e => e.ofTxn owed5.reg 4) = true) ∧
    (let s (h : Nat) := evt (.nats [0, 0]) [] spilled saving id (image0 h)
     ((s head7).hw.core 0).engine = none ∧ (s head7).wantsRestore 0 0 = true ∧ (s (head7 + 4)).wantsRestore 0 0 = true ∧
      ((s head7).hw.core 0).findWindow 0 ((s head7).imageWindow 0 0) = some 0 ∧
      ((s head7).hw.ctx 0 0).noGrant = false ∧ badControl ((s head7).mem.val ((s head7).hw.imageKey 0 0) 8) = false ∧
      badControl ((s (head7 + 4)).mem.val ((s head7).hw.imageKey 0 0) 8) = true ∧ ((s head7).hw.core 0).saved = []) ∧
    (let s := evt (.nats [0, 0, 1]) [] spilled (fun k => { saving k with engine := some (op0 true) }) id (image0 head7)
     (s.hw.core 0).engine = some (op0 true) ∧ (op0 true).slot = 0 ∧ (op0 true).uid = (s.hw.ctx 0 0).uid ∧ (op0 true).restore = true ∧
      (s.hw.ctx 0 0).st = .spilled ∧ (op0 true).ranges = [] ∧ (s.hw.core 0).ovf = [] ∧ 5 < (s.hw.ctx 0 0).wsize ∧
      s.mem.val (s.hw.imageKey 0 0) 8 / 2 ^ 60 % 16 ≠ 3) ∧
    ((evt (.nats [0, 0]) [] (fun x => { x with st := .faulted, fra := 9 * 2 ^ 8 })).hw.ctx 0 0).st = .faulted ∧
    ((evt (.nats [0, 0]) [] (fun x => { x with st := .faulted, fra := 9 * 2 ^ 8 })).hw.ctx 0 0).imaged = false := by
  repeat' apply And.intro
  all_goals first | decide +kernel | (unfold State.Inv; decide +kernel)

theorem met_CoreImages :
    (let s (w v : Word) := st [(5, w), (6, v)]
     5 + 1 < ((s 1 0).hw.curCtx c0).wsize ∧ (s 1 0).atHand c0 [5, 6] ∧ ((s 1 0).hw.cg c0 5).toNat < 2 ^ 21 ∧
      ((s 1 0xBF30000).hw.cgn c0 (5 + 1)).toNat % 65536 = 0 ∧ ((s 1 0xBF30000).hw.cgn c0 (5 + 1)).toNat < 2 ^ 49 ∧
      ((s 1 0xBF30000).hw.cgn c0 (5 + 1)).toNat % 2 ^ 28 + 0xC5000 ≤ 0xC000000 ∧ (s 1 0).hw.routeFails 0 0 true 1 60 = none ∧
      2 ^ 21 ≤ ((s 0x200000 0).hw.cg c0 5).toNat ∧ ((s 1 0x8000).hw.cgn c0 (5 + 1)).toNat % 65536 ≠ 0 ∧
      2 ^ 49 ≤ ((s 1 0x2000000000000).hw.cgn c0 (5 + 1)).toNat ∧ 0xC000000 < ((s 1 0xBF40000).hw.cgn c0 (5 + 1)).toNat % 2 ^ 28 + 0xC5000) ∧
    (let s (load : Nat) (fx : Ctx → Ctx) := evt (.nats [0, load, 0, 0, 0, 4]) [] fx saving
     let free (x : Ctx) : Ctx := { x with st := .free }
     (s 0 id).hw.coreDisabled 0 = false ∧ (s 0 id).hw.tenantOf 0 = (s 0 id).hw.tenantOf 0 ∧ (s 0 free).mayCsave 0 = true ∧ (s 1 free).mayCload 0 = true ∧
      (s 0 id).mayCsave 0 = false ∧ (s 1 id).mayCload 0 = false ∧ 0 / 2 ^ 28 = 0) ∧
    (let s (load : Nat) := evt (.nats [1, load, 0, 0, 0, 4]) [] (fun x => { x with st := .free }) (fun k => { saving k with imaging := true })
     (s 0).Inv ∧ (s 1).hw.arg = .nats [1, 1, 0, 0, 0, 4]) := by
  repeat' apply And.intro
  all_goals (first | decide +kernel | (unfold State.Inv; decide +kernel))

/-! ### Hypotheses of the statements of tasks -/

/-- A record that may start: DECL 2, a window of 8 registers, task 77. -/
def rec7 : BitVec 1024 := BitVec.ofNat 1024 (2 ^ 590 + 77 * 2 ^ 512)

/-- A queue entry with a record. -/
def ent (r : BitVec 1024) : QEntry := ⟨r, 0, 0, 0, none, none⟩

/-- A core whose deque has room for 8 entries, with one in it. -/
def dequed (k : Core) : Core := { k with deqb := 0x2000, deql := 0x2300, deque := ⟨0, 1, 0⟩ }

/-- The entry at the thief end of that deque: stealing domain 1, from core 0. -/
def entry1 (m : Mem) : Mem := m.putN 0x2000 (bytesLE 96 (2 ^ (576 + 15)))

/-- A task of core 0 that retires, with a join word. -/
def retire64 : RetireJob := ⟨0, 0, 1, 64, 0, 0, false, 0, 0, 77, 0, rec7⟩

/-- A half of a paired task. -/
def half1 (h : Nat) (sig : BitVec 64) : RetireJob := ⟨0, 0, 1, 0, 0, 0, true, h, 1, 77, sig, rec7⟩

/-- A memory access of a task form at its bank, at address 64. -/
def taskAt (op : AccOp) (fk : Core → Core := id) (fm : Mem → Mem := id) : State :=
  (atBank op ⟨64, 8, 0, 0⟩ fm).onHw (fun h => h.modCore 0 fk)

/-- A cell at address 64: a bound, published count of `n`, with a record behind it. -/
def cell64 (n : Nat) (m : Mem) : Mem :=
  ((m.putN 64 (bytesLE 8 (2 ^ 63 + n))).putN 72 (bytesLE 8 1)).putN 96 (bytesLE 128 rec7.toNat)

theorem met_TaskChains :
    (let s (fx : Ctx → Ctx) := st [(2, 64), (5, 3), (6, 2 ^ 32)] fx id (withImage (image 5 1))
     ((s id).hw.curCtx c0).booked = false ∧ (s id).portFree c0 false .plain ∧ (s id).portFree c0 true .a ∧ (((s id).hw.curCtx c0).seg 0).virt = false ∧
      ((s id).hw.curCtx c0).tsBit tsPAIRED = false ∧ (s id).atHand c0 [2] ∧
      segCheck (((s id).hw.curCtx c0).seg 0) ((s id).hw.memOffset c0 ⟨0, 2, 0⟩) 8 { r := true } 8 = .ok 64 ∧
      segCheck (((s id).hw.curCtx c0).seg 0) ((s id).hw.memOffset c0 ⟨0, 2, 0⟩) 160 { r := true, w := true } 32 = .ok 64 ∧
      segCheck (((s id).hw.curCtx c0).seg 0) ((s id).hw.memOffset c0 ⟨0, 2, 0⟩) 8 { r := true, w := true } 32 = .ok 64 ∧
      segCheck (((s id).hw.curCtx c0).seg 0) ((s id).hw.memOffset c0 ⟨0, 2, 64⟩) 128 { r := true } 128 = .ok 128 ∧
      (s id).atHand c0 [2, 5] ∧ ((s id).hw.cg c0 5).toNat < 2 ^ 32 ∧ 2 ^ 32 ≤ ((s id).hw.cg c0 6).toNat ∧
      (s (fun x => x.setTs tsBOOKED true)).hw.cur = some c0 ∧ ((s (fun x => x.setTs tsBOOKED true)).hw.curCtx c0).booked = true ∧
      ((s (fun x => x.setTs tsPAIRED true)).hw.curCtx c0).tsBit tsPAIRED = true) ∧
    (let s (w : Word) := st [(5, w)] id id (withImage (image 5 1))
     let w (n : Word) : Nat := ((s n).hw.cg c0 5).toNat
     let n := ((s 0).hw.entry (clusterOf 0) ((s 0).hw.curCtx c0).entry).imports.length
     (s 0).atHand c0 ((5 : GReg).toNat :: regRun (124 : GReg).toNat 4) ∧ 2 ^ 40 ≤ w 0x10000000000 ∧ w 0x10000 / 2 ^ 16 % 16 ≠ 0 ∧ w 1 % 16 ≠ 0 ∧
      n ≤ w 0x100 / 2 ^ 8 % 256 ∧ w 0x4000070 < 2 ^ 40 ∧ w 0x4000070 / 2 ^ 16 % 16 = 0 ∧ w 0x4000070 % 16 = 0 ∧ w 0x4000070 / 2 ^ 8 % 256 < n ∧
      124 + 3 < ((s 0).hw.curCtx c0).wsize ∧ w 0x70 / 2 ^ 20 = 0 ∧ w 0x4000070 / 2 ^ 20 ≠ 0 ∧
      segCheck (((s 0).hw.curCtx c0).seg 0) (w 0x4000070 / 2 ^ 20 : Nat) 8 { r := true, w := true } 8 = .ok 64) ∧
    (let s (w : Word) := st [(5, w)]
     (s 3).atHand c0 (regs [5]) ∧ ((s 3).hw.cg c0 5).toNat < 2 ^ 21 ∧ 2 ^ 21 ≤ ((s 0x200000).hw.cg c0 5).toNat ∧
      (s 3).hw.routeFails 0 (((s 3).hw.tenantOf 0).getD 0) ((s 3).hw.curCtx c0).service 3 ((s 3).hw.scratchLatency 0 3) = none) := by
  repeat' apply And.intro
  all_goals decide +kernel

theorem met_TaskAccesses :
    (let s := taskAt (.fork 5 7) dequed
     let a := accOf s
     s.Inv ∧ s.hw.arg = .acc a 4 ∧ (s.hw.findOut a.core a.txn).map (fun o => ({ o.acc with group := a.group, gword := a.gword, pieces := a.pieces } : Acc)) = some a ∧
      a.pieces = [⟨64, 8, 0, 0⟩] ∧ 64 % 8 = 0 ∧ (s.hw.core 0).deque.next ≤ s.hw.now ∧ (s.hw.ctx a.core a.slot).st ≠ .spilled ∧ keyCore 64 = a.core ∧ s.kRefused a = none ∧ s.mem.isPoison 64 = false ∧ a.op = .fork 5 7 ∧ a.size = 8 ∧
      a.addr = 64 ∧ 0 < (s.hw.core 0).deqCap ∧ (s.hw.core 0).deque.owner - (s.hw.core 0).deque.thief < (s.hw.core 0).deqCap ∧
      64 + 8 ≤ s.hw.deqKey 0 (s.hw.core 0).deque.owner ∧ (s.hw.core 0).deqb % 32 = 0 ∧ 64 / 32 < s.hw.deqKey 0 (s.hw.core 0).deque.owner / 32 ∧
      s.granted a ⟨64, 8, 0, 0⟩ = true) ∧
    ((taskAt (.fork 5 7)).hw.core 0).deqCap = 0 ∧
    (let k := (taskAt (.fork 5 7) (fun k => { dequed k with deque := ⟨0, 8, 0⟩ })).hw.core 0
     0 < k.deqCap ∧ k.deqCap ≤ k.deque.owner - k.deque.thief) ∧
    (let s (op : AccOp) := taskAt op
     let p : Piece := ⟨64, 8, 0, 0⟩
     p.len = 8 ∧ p.key % 32 = 0 ∧ (s (.join 5)).mem.val 64 8 = 0 ∧ (s (.join 5)).granted (accOf (s (.join 5))) p = true ∧
      (s (.signal 5)).granted (accOf (s (.signal 5))) p = true ∧ (s (.deppub 5 1)).granted (accOf (s (.deppub 5 1))) p = true ∧
      (s (.depnew 5)).granted (accOf (s (.depnew 5))) p = true) ∧
    (let s (n : Nat) := taskAt (.signal 5) id (cell64 n)
     (s 1).mem.val 72 8 % 2 = 1 ∧ (s 1).mem.val 64 8 / 2 ^ 63 * 2 ^ 63 + ((s 1).mem.val 64 8 % 2 ^ 63 + 2 ^ 63 - 1) % 2 ^ 63 = 2 ^ 63 ∧
      (s 2).mem.val 64 8 / 2 ^ 63 * 2 ^ 63 + ((s 2).mem.val 64 8 % 2 ^ 63 + 2 ^ 63 - 1) % 2 ^ 63 ≠ 2 ^ 63) ∧
    (let s := taskAt (.deppub 5 0) id (fun m => m.putN 72 [1])
     s.mem.val 72 8 % 2 = 1 ∧ s.mem.val 64 8 < 2 ^ 63) ∧
    2 ^ 63 ≤ (taskAt (.deppub 5 0) id (cell64 0)).mem.val 64 8 ∧ (taskAt (.deppub 5 0)).mem.val 72 8 % 2 = 0 ∧
    (let s (n : Nat) := taskAt (.depnew 5) id (cell64 n)
     let q := (s 1).readPieces { accOf (s 1) with addr := 96, pieces := piecesOf 96 128 } (piecesOf 96 128)
     (accOf (s 1)).addr = 64 ∧ q.poison = false ∧ recInvalid (BitVec.ofNat 1024 (valLE q.bytes)) = false ∧
      recPaired (BitVec.ofNat 1024 (valLE q.bytes)) = false ∧ (s 1).hw.pinHeld 1 (BitVec.ofNat 1024 (valLE q.bytes)) = true ∧
      recInvalid (BitVec.ofNat 1024 (valLE ((taskAt (.depnew 5)).readPieces { accOf (s 1) with addr := 96, pieces := piecesOf 96 128 }
        (piecesOf 96 128)).bytes)) = true) := by
  repeat' apply And.intro
  all_goals first | decide +kernel | (unfold State.Inv; decide +kernel)

theorem met_TaskCourses :
    (let h (q : List QEntry) : Hw → Hw := fun h => { h with clusters := [(0, { Cluster.reset with owner := some 1, queue := q })] }
     let s (a : Arg) (q : List QEntry) := evt a [] id id (h q)
     clusterOf 0 = 0 ∧ inOrder (((s .none []).hw.cluster 0).queue.filter (fun e => e.forCore 0)) = [] ∧
      inOrder (((s .none [ent rec7]).hw.cluster 0).queue.filter (fun e => e.forCore 0)) ≠ [] ∧ ((s .none []).hw.core 0).queue.length < 16 ∧
      ((s .none []).hw.cluster 0).owner = some 1 ∧ 0 / 64 = 0 ∧ ((s .none []).hw.cluster 0).queue.length < 128 ∧
      ((s .none []).hw.dieQueue 0 1).held = []) ∧
    (let s := evt .none [] id id (fun h => { h with cells := [(64, ⟨77, 0, 0, 0, true⟩)] }) (cell64 0)
     let r := recPut (BitVec.ofNat 1024 (s.mem.val (64 + 32) 128)) 8 0 64 77
     SMap.find? s.hw.cells 64 = some ⟨77, 0, 0, 0, true⟩ ∧ keyCore 64 = 0 ∧ recInvalid r = false ∧ recPaired r = false ∧ recPin r = false ∧
      (s.hw.core 0).e4.length < 16 ∧ (s.hw.core 0).e4Lost = false) ∧
    (recInvalid (recPut (BitVec.ofNat 1024 ((evt .none).mem.val (64 + 32) 128)) 8 0 64 77) = true) ∧
    (let s := evt (.nats [0]) [] (fun x => { x with st := .free, freeAt := 0 }) (fun k => { k with queue := [ent rec7] })
     s.Inv ∧ (s.hw.core 0).nextStart ≤ s.hw.now ∧ s.hw.coreDisabled 0 = false ∧ s.hw.isClearing (clusterOf 0) = false ∧
      (s.hw.core 0).imaging = false ∧ s.restorePending 0 = false ∧ (s.hw.core 0).queue = [ent rec7] ∧ (ent rec7).requeue = none ∧
      (ent rec7).half = none ∧ (s.hw.core 0).deqEmpty = true ∧ s.hw.room 0 (ent rec7).rec_ = some (0, 0)) ∧
    (let s (turn : Nat) (fk : Core → Core) := evt (.stolen [1, 0, 0, turn] none) [] id fk id entry1
     (s 0 (fun k => { k with deque := ⟨0, 0, 9⟩ })).hw.now < ((s 0 (fun k => { k with deque := ⟨0, 0, 9⟩ })).hw.core 0).deque.next ∧
      ((s 0 dequed).hw.core 0).deque.next ≤ (s 0 dequed).hw.now ∧ ((s 1 id).hw.core 0).deqEmpty = true) ∧
    (let s := evt (.stolen [1, 0, 0, 1] none) [] id dequed id entry1
     let g := s.deqEntry 0 (s.hw.core 0).deque.thief
     s.hw.coreDisabled 0 = false ∧ s.hw.tenantOf 0 = s.hw.tenantOf 1 ∧ (s.hw.core 0).deqEmpty = false ∧
      domainCovers (bits (entQuad g 9) 16 15) (bits (entQuad g 11) 20 0) 1 = true) ∧
    (let s := evt (.nats [0, 4, 2]) [] (fun x => { x with pend := [.async 5 4] }) (fun k => { k with empty := [(5, ())], owed := [owed5] })
     (s.hw.core 0).owed.find? (fun e => e.txn == 4) = some owed5 ∧ owed5.hand = none ∧ 0 < owed5.reg ∧
      s.hw.alive 0 owed5.slot owed5.uid = true ∧ (s.hw.ctx 0 owed5.slot).st = .ready ∧
      (s.hw.ctx 0 owed5.slot).pend.any (fun e => e.ofTxn owed5.reg 4) = true ∧ (s.hw.core 0).walk.until_ ≤ s.hw.now) ∧
    (let s := evt (.retire retire64)
     let j : RetireJob := { retire64 with joina := 0, succn := 1, slist := 128 }
     let t := evt (.retire j) [] id id id (fun m => cell64 1 (m.putN 128 (bytesLE 8 64)))
     s.Inv ∧ retire64.paired = false ∧ retire64.joina ≠ 0 ∧ s.retireReach retire64 retire64.joina 1 8 = true ∧ retire64.joina % 8 = 0 ∧
      t.Inv ∧ j.joina = 0 ∧ 0 < j.succn ∧ t.retireReach j j.slist 8 8 = true ∧ t.retireReach j (t.mem.val j.slist 8 % 2 ^ 41) 32 32 = true) ∧
    (let s (o : RetireJob) := evt (.retire (half1 1 5)) [] id id (fun h => { h with mods := [(0, { h.mod 0 with halves := [o] })] })
     let o := half1 0
     let j := half1 1 5
     ((s (o 5)).hw.mod (moduleOf j.core)).halves = [o 5] ∧ (o 5).tid = j.tid ∧ (o 5).tenant = j.tenant ∧ (o 5).half ≠ j.half ∧ (o 5).run = j.run ∧
      (o 5).sig = j.sig ∧ ((s (o 6)).hw.mod (moduleOf j.core)).halves = [o 6] ∧ (o 6).sig ≠ j.sig ∧ j.run ≠ 0 ∧ j.half = 1 ∧
      ((s (o 6)).hw.core j.core).e4.length < 16 ∧ ((s (o 6)).hw.core j.core).e4Lost = false) := by
  repeat' apply And.intro
  all_goals first | decide +kernel | (unfold State.Inv; decide +kernel)

/-! ### Hypotheses of the statements of the calendar -/

/-- A descriptor of 4 grains of core 0, with `k` slack grains. -/
def desc4 (k : Nat) : Nat := 4 * 2 ^ 52 + k * 2 ^ 24 + 1

/-- Booking 5 of the context of core 0, slot 0. -/
def book5 (state : BState) (steps : Nat) : Booking :=
  { num := 5, q0 := desc4 1, q1 := 0, d := 0, s := 64, early := 64, core := 0, slot := 0, uid := 1, self_ := true, block := none, wins := [],
    pages := [], rec_ := 0, tenant := 1, svc := false, prin := 0, gset := 0, otag := 0, state := state, flt := false, slip := false, ext := 0,
    members := [⟨0, some 0, 1, steps, none, false, none⟩], chan := none, order := 0, wt := none, dropped := [] }

/-- Cluster 0 with that booking. -/
def withBook (b : Booking) (h : Hw) : Hw :=
  { h with clusters := [(0, { Cluster.reset with owner := some 1, bookings := [(5, b)] })] }

/-- A context that waits in Booked-waiting for its booking, register 5, transaction 4. -/
def bookedWait (x : Ctx) : Ctx := { x with st := .booked, parkCur := some c0, waiting := some (5, 4, true), pend := [.async 5 4] }

/-- A request of `BOOK` of that context for 4 grains. -/
def req4 : BookReq := ⟨0, 0, 1, 5, 4, c0, false, desc4 1, 0, none, [], some [], 0, 1, false, 0, 0, 0, 17⟩

/-- Between cycles 1025 and 1026, where grain 64 has begun. -/
def atGrain (n : Nat) (h : Hw) : Hw := { h with now := n }

theorem met_CalendarChains :
    (let s (q : Word) := st [(8, q), (9, 0), (10, 0)]
     (s 0).atHand c0 (regRun (8 : GReg).toNat 3) ∧ (8 : GReg).toNat + 2 < ((s 0).hw.curCtx c0).wsize ∧ ((s 0).hw.curCtx c0).booked = false ∧
      ((s 0x40000001000001).hw.cgn c0 10).toNat = 0 ∧
      (let q := ((s 0x40000001000001).hw.cgn c0 8).toNat
       q / 2 ^ 16 % 32 = 0 ∧ 0 < q / 2 ^ 52 % 2 ^ 12 ∧ q % 2 ^ 16 = 2 ^ (0 % 16)) ∧ ((s 0).hw.cgn c0 9).toNat < 2 ^ 9 ∧
      ((s 0x40000001100001).hw.cgn c0 8).toNat / 2 ^ 16 % 32 ≠ 0 ∧ ((s 1).hw.cgn c0 8).toNat / 2 ^ 52 % 2 ^ 12 = 0 ∧
      ((s 0x40000001000000).hw.cgn c0 8).toNat % 2 ^ 16 = 0 ∧ ((st [(9, 0x400)]).hw.cgn c0 9).toNat / 2 ^ 10 ≠ 0) ∧
    (let s (b : Booking) := st [(8, 5)] id id (withBook b)
     let n := ((s (book5 .booked 3)).hw.cgn c0 8).toNat % 2 ^ 16
     (s (book5 .booked 3)).atHand c0 (regs [8]) ∧ (s (book5 .booked 3)).hw.booking 0 6 = none ∧
      (∀ st ∈ [BState.booked, .staging, .running], (s (book5 st 3)).hw.booking 0 n = some (book5 st 3) ∧ (book5 st 3).state = st) ∧
      (book5 .booked 3).num < 2 ^ 16 ∧ (book5 .booked 3).num = n ∧ (book5 .booked 3).self_ = true ∧ (book5 .booked 3).core = c0.core ∧
      (book5 .booked 3).slot = c0.slot ∧ (book5 .booked 3).uid = ((s (book5 .booked 3)).hw.curCtx c0).uid ∧ (book5 .booked 3).wt = none ∧
      (((s (book5 .booked 3)).hw.cluster 0).bookings.map (fun (e : Nat × Booking) => e.1)).Pairwise (fun i j => i < j)) ∧
    (let s := st [] (fun x => x.setTs tsBOOKED true)
     s.hw.cur = some c0 ∧ (s.hw.curCtx c0).booked = true ∧ (st []).hw.cur = some c0 ∧ ((st []).hw.curCtx c0).booked = false) := by
  repeat' apply And.intro
  all_goals decide +kernel

theorem met_CalendarCourse :
    (let s (q : BookReq) := evt (.nats [0]) [] (fun x => { x with st := .parked, waiting := some (5, 4, true), pend := [.async 5 4] }) id
       (fun h => atGrain 17 { h with clusters := [(0, { Cluster.reset with owner := some 1, bookReqs := [q] })] })
     let bad : BookReq := { req4 with pages := none }
     ((s req4).hw.cluster 0).bookReqs = [req4] ∧ req4.due ≤ (s req4).hw.now ∧ (s req4).hw.alive 0 0 1 = true ∧
      ((s req4).hw.ctx 0 0).waitsFor req4.txn = true ∧ (s req4).hw.bookFit 0 (((s req4).hw.count (16 * 0) - 1) / 16) req4 = (0, 65) ∧
      (s bad).hw.bookFit 0 (((s bad).hw.count (16 * 0) - 1) / 16) bad = (5, 0)) ∧
    (let s := evt .none [] (fun x => { x with st := .parked, parkCur := some c0, waiting := some (5, 4, true), pend := [.async 5 4] })
     s.hw.alive 0 0 1 = true ∧ (s.hw.ctx 0 0).st = .parked ∧ (s.hw.ctx 0 0).waiting = some (5, 4, true) ∧ (s.hw.ctx 0 0).parkCur = some c0) ∧
    (let s (b : Booking) (fx : Ctx → Ctx) := evt (.nats [0, 5, 64]) [] fx id (fun h => atGrain 1024 (withBook b h))
     (∀ st ∈ [BState.booked, .staging], (s (book5 st 3) id).hw.booking 0 5 = some (book5 st 3) ∧ (∀ m ∈ (book5 st 3).members, m.steps % 4 = 3)) ∧
      (book5 .booked 3).num = 5 ∧ (book5 .booked 3).s = 64 ∧ (book5 .booked 3).wins = [] ∧ (book5 .booked 3).self_ = true ∧
      (let b : Booking := { book5 .staging 127 with wt := some 4 }
       (s b bookedWait).hw.booking 0 5 = some b ∧ b.members = [⟨0, some 0, 1, 127, none, false, none⟩] ∧ 127 % 128 = 127 ∧
        ((s b bookedWait).hw.ctx 0 0).st = .booked ∧ ((s b bookedWait).hw.ctx 0 0).parkCur = some c0 ∧
        ((s b bookedWait).hw.core 0).imaging = false ∧
        ((s b bookedWait).hw.ctx 0 0).waiting = some (5, 4, true) ∧ b.uid = ((s b bookedWait).hw.ctx 0 0).uid) ∧
      3 % 32 ≠ 31 ∧ (book5 .staging 3).wt = none ∧
      (let b := book5 .staging 3
       ((s b id).hw.cluster 0).fit 5 b.q0 b.q1 (bookCores 0 b.q0) b.pages true (max (b.d + b.early) (64 + 1)) (fitLimit b.q0 b.d true) = some 65 ∧
        b.slip = false ∧ ({ b with slip := true } : Booking).slip = true)) ∧
    (let s (b : Booking) := evt (.nats [0, 5, 68]) [] id id (fun h => atGrain 1088 (withBook b h))
     let b := book5 .running 127
     let more (b : Booking) : Prop := b.ext < b.q0 / 2 ^ 24 % 16 ∧ (b.q0 / 2 ^ 28 % 2 ^ 12 = 0 ∨ 68 + 1 ≤ b.d + b.q0 / 2 ^ 28 % 2 ^ 12) ∧
       ((s b).hw.cluster 0).slackOpen 5 b.q1 (bookCores 0 b.q0) 68 = true
     (s b).hw.booking 0 5 = some b ∧ b.num = 5 ∧ b.state = .running ∧ b.s + b.q0 / 2 ^ 52 % 2 ^ 12 + b.ext = 68 ∧ more b ∧
      ¬ more { b with q0 := desc4 0 }) ∧
    (let b := book5 .running 127
     let s := evt (.nats [0, 5]) [] (fun x => { x.setTs tsBOOKED true with bookid := 5, pc := 9 }) id (fun h => atGrain 1088 (withBook b h))
     s.hw.booking 0 5 = some b ∧ b.members = [⟨0, some 0, 1, 127, none, false, none⟩] ∧ (s.hw.ctx 0 0).deferred = [] ∧ b.chan = none ∧
      (s.hw.ctx 0 0).access = none ∧ (s.hw.ctx 0 0).taskr = 0 ∧ (∀ e ∈ s.hw.bookEnds, e.1 ≠ 0) ∧
      ((s.hw.cluster 0).bookings.map (fun (e : Nat × Booking) => e.1)).Pairwise (fun i j => i < j)) := by
  repeat' apply And.intro
  all_goals decide +kernel

/-! ### Hypotheses of the statements of tensors -/

/-- The handle of record 1 of core 0, generation 3, with weight `2 ^ w`. -/
def hand (w : Nat) : Nat := w * 2 ^ 58 + 3 * 2 ^ 24 + 1

/-- The key of that record. -/
def key1 : Nat := dramKeyOf (Config.recordArea + 32)

/-- That record: a tensor of weight `2 ^ 10`, of which `n` are returned, bound to the cell at 64 or not; or an indirection. -/
def rec10 (kind n : Nat) (bound : Bool) : TRec := ⟨kind, 3, bound, 10, if bound then 64 else 0, n, 0x1000, 64 * 2 ^ 32⟩

/-- Memory with that record. -/
def withRec (r : TRec) (m : Mem) : Mem := m.putN key1 r.bytes

/-- An access of a tensor form at its record. -/
def tensorAt (op : AccOp) (fm : Mem → Mem) : State :=
  let a : Acc := (st []).hw.recAcc c0 op false key1
  st [] (fun x => { x with st := .parked, park := some .memory, access := some c0, pend := [.async 5 0] })
    (fun k => { k with empty := [(5, ())], out := [⟨a, 1, .plain, c0, [5], true, false, [], false, [], []⟩] })
    (fun h => { h with cur := none, arg := .acc a 4, nextTxn := 1, now := 3 }) fm

/-- The records of core 0 from index `i` on, `n` of them in use. -/
def usedFrom : Nat → Nat → List (Nat × Byte)
  | 0, _ => []
  | n + 1, i => (recordKey 0 i + 7, 64) :: usedFrom n (i + 1)

theorem usedFrom_sparse (n i lo : Nat) (h : lo ≤ recordKey 0 i + 7) : sparseFrom unlisted lo (usedFrom n i) = true := by
  induction n generalizing i lo with
  | zero => rfl
  | succ n ih =>
    simp only [usedFrom, sparseFrom, Bool.and_eq_true, decide_eq_true_eq]
    refine ⟨⟨h, by decide⟩, ih _ _ ?_⟩
    simp only [recordKey, dramKeyOf]; omega

theorem usedFrom_read (n i j : Nat) (h : i ≤ j) (h2 : j < i + n) : sparseRead unlisted (usedFrom n i) (recordKey 0 j + 7) = 64 := by
  induction n generalizing i with
  | zero => omega
  | succ n ih =>
    simp only [usedFrom, sparseRead]
    by_cases e : i = j
    · simp [e]
    · have : recordKey 0 i + 7 ≠ recordKey 0 j + 7 := by simp only [recordKey, dramKeyOf]; omega
      simp only [this, if_false]
      exact ih (i + 1) (by omega) (by omega)

theorem noFree (m : Mem) (n i : Nat) (h : ∀ j, i ≤ j → j < i + n → m.read (recordKey 0 j + 7) = 64) : m.freeRecord 0 n i = none := by
  induction n generalizing i with
  | zero => rfl
  | succ n ih =>
    simp only [Mem.freeRecord, h i (by omega) (by omega)]
    exact ih (i + 1) (fun j a b => h j (by omega) (by omega))

/-- A state in which every record of core 0 is in use, where it allocates one. -/
def fullRecords : State := tensorAt (.hnew 5 0 0 0) (fun m => { m with bytes := usedFrom 131071 1 })

theorem met_TensorRecords_full :
    fullRecords.Inv ∧ fullRecords.mem.freeRecord 0 131071 1 = none ∧ (accOf fullRecords).op = .hnew 5 0 0 0 ∧ (accOf fullRecords).core = 0 := by
  refine ⟨?_, noFree _ _ _ (fun j a b => usedFrom_read _ _ _ a (by omega)), rfl, rfl⟩
  have := usedFrom_sparse 131071 1 0 (by omega)
  simp only [State.Inv, Mem.wf, fullRecords, tensorAt, st, Bool.and_eq_true]
  exact ⟨⟨this, rfl⟩, rfl⟩

theorem met_TensorChains :
    (let s (b b1 : Word) := st [(5, b), (6, b1)]
     let vb (w : Word) : Nat := ((s w 0).hw.cg c0 5).toNat
     let good (h : Nat) : Prop := h % 2 ^ 24 ≠ 0 ∧ h % 2 ^ 24 ≤ 131071
     ((s 0 0).hw.curCtx c0).booked = false ∧ ((s 0 0).hw.curCtx c0).tsBit tsPAIRED = false ∧ (s 0 0).portFree c0 false .plain ∧
      (s 0 0).portFree c0 true .w ∧ ((s 0 0).hw.core 0).svc = false ∧ (s 0 0).atHand c0 [(5 : GReg).toNat, (5 : GReg).toNat + 1] ∧
      (5 : GReg).toNat + 1 < ((s 0 0).hw.curCtx c0).wsize ∧
      (vb 0x400000000A / 2 ^ 16 % 2 ^ 16 = 0 ∧ vb 0x400000000A / 2 ^ 7 % 2 = 0 ∧ vb 0x400000002F % 64 ≤ 47 ∧ vb 0x4000000012F / 2 ^ 6 % 2 = 0 ∧
        vb 0x400000000A / 2 ^ 8 % 256 = 0 ∧ vb 0x4000000014A / 2 ^ 6 % 2 = 1) ∧
      vb 0x10000 / 2 ^ 16 % 2 ^ 16 ≠ 0 ∧ vb 0x80 / 2 ^ 7 % 2 = 1 ∧ 47 < vb 0x30 % 64 ∧
      (let v1 (w : Word) : Nat := ((s 0 w).hw.cgn c0 ((5 : GReg).toNat + 1)).toNat
       v1 0x20000000000 / 2 ^ 41 ≠ 0 ∧ v1 16 % 32 ≠ 0 ∧ v1 64 < 2 ^ 41 ∧ v1 64 % 32 = 0 ∧ 0 < v1 (2 ^ 47) ∧ v1 (2 ^ 47) ≤ 2 ^ 47 ∧ v1 0 = 0 ∧
         2 ^ 47 < v1 (2 ^ 47 + 1)) ∧
      good (vb (BitVec.ofNat 64 (hand 1))) ∧ 2 ^ 58 ≤ vb (BitVec.ofNat 64 (hand 1)) ∧ good (vb (BitVec.ofNat 64 (hand 0))) ∧
      vb (BitVec.ofNat 64 (hand 0)) < 2 ^ 58 ∧ good (vb 131071) ∧ ¬ good (vb 131072) ∧ ¬ good (vb 0x1000000) ∧ (7 : GReg) ≠ 5) ∧
    (let s := st [(5, 0x10003), (7, BitVec.ofNat 64 (hand 1))]
     s.atHand c0 (regs [5, 7]) ∧ (6 : GReg) ≠ 7 ∧ (6 : GReg) ≠ 0 ∧ (7 : GReg) ≠ 0 ∧ (s.hw.cg c0 5).toNat < 2 ^ 37 ∧
      (s.hw.cg c0 5).toNat / 2 ^ 14 % 4 = 0 ∧ (s.hw.cg c0 5).toNat / 2 ^ 7 % 2 = 0 ∧ 2 ^ 58 ≤ (s.hw.cg c0 7).toNat) := by
  repeat' apply And.intro
  all_goals decide +kernel

theorem met_TensorRecords :
    (let s (op : AccOp) (r : TRec) := tensorAt op (withRec r)
     let named (m : Mem) : Prop := hand 0 % 2 ^ 24 ≠ 0 ∧ hand 0 % 2 ^ 24 ≤ 131071 ∧ (m.trec key1).kind ≠ 0 ∧ (m.trec key1).gen = hand 0 / 2 ^ 24 % 2 ^ 13
     let sr (n : Nat) (r : TRec) : State := s (.tret (hand 0) n) r
     (s (.hnew 5 0 0 0) (rec10 0 0 false)).Inv ∧ (s (.hnew 5 0 0 0) (rec10 0 0 false)).mem.isPoison key1 = false ∧
      (s (.hnew 5 0 0 0) (rec10 0 0 false)).mem.freeRecord 0 131071 1 = some 1 ∧
      (∀ p ∈ (accOf (s (.hnew 5 0 0 0) (rec10 0 0 false))).pieces, ((s (.hnew 5 0 0 0) (rec10 0 0 false)).hw.core (keyCore p.key)).imaging = false) ∧
      (let t := s (.hbind 5 64 (hand 0) (hand 0) 0) (rec10 1 0 false)
       (t.hw.findOut 0 0).map (fun o => ({ o.acc with group := (accOf t).group, gword := (accOf t).gword, pieces := (accOf t).pieces } : Acc)) =
          some (accOf t) ∧
        (accOf t).op = .hbind 5 64 (hand 0) (hand 0) 0 ∧ named t.mem ∧ (t.mem.trec key1).kind = 1 ∧ (t.mem.trec key1).bound = false ∧
        (∀ d ∈ t.hw.agenda, t.hw.now < d.at_)) ∧
      (let t := s (.hbind 5 64 (hand 0) (hand 0) 0) (rec10 1 0 true)
       named t.mem ∧ (t.mem.trec key1).kind = 1 ∧ (t.mem.trec key1).bound = true) ∧
      ¬ named (s (.hbind 5 64 (hand 0) (hand 0) 0) (rec10 0 0 false)).mem ∧
      ¬ named (sr 1 { rec10 1 0 false with gen := 4 }).mem ∧
      SMap.find? ((sr 1 (rec10 1 0 false)).hw.core (hand 0 / 2 ^ 37 % 2 ^ 21)).retAt (hand 0 % 2 ^ 24) ≠ some (sr 1 (rec10 1 0 false)).hw.now ∧
      (let t := (sr 2 (rec10 1 1023 false)).mem
       named t ∧ 2 ^ (t.trec key1).w0 < (t.trec key1).retd + 2) ∧
      (let t := (sr 1 (rec10 1 1022 false)).mem
       named t ∧ (t.trec key1).retd + 1 < 2 ^ (t.trec key1).w0 ∧ (t.trec key1).w0 ≤ 47) ∧
      (let t := (sr 1 (rec10 1 1023 true)).mem
       named t ∧ (t.trec key1).retd + 1 = 2 ^ (t.trec key1).w0 ∧ (t.trec key1).w0 ≤ 47 ∧ (t.trec key1).kind = 1 ∧ (t.trec key1).bound = true) ∧
      ((sr 1 (rec10 2 1023 false)).mem.trec key1).kind = 2) ∧
    (let s := evt (.nats [1, 0, 64]) [] id id id (fun m => m.putN 72 [1])
     s.hw.routeFails 0 ((s.hw.tenantOf 0).getD 0) false (keyCore 64) 0 = none ∧ 64 % 2 ^ 20 + 32 ≤ 0x90000 ∧ 64 % 32 = 0 ∧ s.mem.isPoison 64 = false ∧
      s.mem.val (64 + 8) 8 % 2 = 1 ∧ s.mem.val 64 8 < 2 ^ 63 ∧
      s.hw.routeFails 0 ((s.hw.tenantOf 0).getD 0) false (hand 0 / 2 ^ 37 % 2 ^ 21) (s.hw.dramLatency 0 (hand 0 / 2 ^ 37 % 2 ^ 21)) = none) ∧
    (let s := answered (.tret (hand 0) 1) true (.data 0 [])
     (s.hw.findOut (accOf s).core (accOf s).txn).map (fun o => (o.acc.core, o.acc.slot, o.acc.txn, o.acc.op, o.acc.relaxed)) =
      some ((accOf s).core, (accOf s).slot, (accOf s).txn, .tret (hand 0) 1, true)) := by
  repeat' apply And.intro
  all_goals first | decide +kernel | (unfold State.Inv; decide +kernel)

/-! ### Hypotheses of the statements of the link and the tree -/

/-- Changes module 0. -/
def withMod (f : Module → Module) (h : Hw) : Hw := { h with mods := [(0, f (h.mod 0))] }

/-- A handle of slot 0 of the cluster node of core 0, generation 1. -/
def slot1 : Nat := 2 ^ 48

/-- That slot, opened by tenant 1 for members 0 and 1, with an operation. -/
def red2 (op : Nat) (done : List Nat) (st : RedState) : RedSlot := ⟨st, 1, op, 1, [0, 1], done, redIdentity op, [], false⟩

/-- Core 0 with that slot in the state `r`, with an argument. -/
def atNode (a : Arg) (r : RedSlot) (fx : Ctx → Ctx := id) (fk : Core → Core := id) : State := evt a [] fx fk (fun h => { h with reds := [(0, r)] })

/-- A context to which the result of transaction 4 is owed, for register 5. -/
def owing (a : Arg) (fk : Core → Core := id) (fh : Hw → Hw := id) : State :=
  evt a [] (fun x => { x with pend := [.async 5 4] }) (fun k => fk { k with empty := [(5, ())], owed := [owed5] }) fh

/-- Uplink 3 of module 0 in a state, with lanes. -/
def uplink3 (st : LinkState) (lanes refused : Nat) (h : Hw) : Hw := withMod (fun m => { m with uplinks := [(3, ⟨st, lanes, 0, 0, 0, refused, 7⟩)] }) h

/-- A module in which nothing is outstanding, with an argument. -/
def idle0 (a : Arg) (fh : Hw → Hw := id) : State := evt a [] id (fun k => { k with slots := [] }) (fun h => fh { h with cores := [] })

theorem met_TreeChains :
    (let s (b b1 : Word) (fx : Ctx → Ctx) := st [(5, b), (6, b1), (8, 0x20003), (9, 0x1000003), (10, BitVec.ofNat 64 slot1)] fx id
       (withMod (fun m => { m with groups := [(2, ⟨1, [0, 1]⟩)] }))
     let vb (b : Word) : Nat := ((s b 0 id).hw.cg c0 5).toNat
     let v1 (w : Word) : Nat := ((s 0 w id).hw.cgn c0 ((5 : GReg).toNat + 1)).toNat
     (s 0 0 id).portFree c0 false .plain ∧ (s 0 0 id).atHand c0 [(5 : GReg).toNat, (5 : GReg).toNat + 1] ∧ (5 : GReg).toNat + 1 < ((s 0 0 id).hw.curCtx c0).wsize ∧
      vb 0x101 / 2 ^ 17 = 0 ∧ vb 0x101 / 2 ^ 14 % 4 = 0 ∧ v1 64 % 32 = 0 ∧ scratchHole (v1 64) 1024 = none ∧
      (∀ q ∈ ((s 0 0 id).hw.mod (moduleOf 0)).mcws, q.group ≠ vb 0x101 % 256) ∧ vb 0x20000 / 2 ^ 17 ≠ 0 ∧ vb 0x4000 / 2 ^ 14 % 4 ≠ 0 ∧ v1 16 % 32 ≠ 0 ∧
      ((s 0 0 id).hw.curCtx c0).booked = false ∧
      (vb 0x1000000000000 / 2 ^ 11 % 2 ^ 37 = 0 ∧ vb 0x1000000000000 / 4 % 64 = 0 ∧ vb 0x1000000000000 / 2 ^ 48 ≠ 0 ∧
        segCheck (((s 0x1000000000000 64 id).hw.curCtx c0).seg 0) (v1 64 : Nat) 2 { r := true } 32 = .ok 64) ∧
      vb 0x1000000000800 / 2 ^ 11 % 2 ^ 37 ≠ 0 ∧ vb 0x1000000000004 / 4 % 64 ≠ 0 ∧ vb 1 / 2 ^ 48 = 0 ∧
      (7 : GReg).toNat + 1 < ((s 0 0 id).hw.curCtx c0).wsize ∧ v1 0 = 0 ∧ (s 0 0 id).atHand c0 (regs [8, 5]) ∧
      (let vd (r : GReg) : Nat := ((s 0 0 id).hw.cg c0 r).toNat
       vd 8 / 2 ^ 24 = 0 ∧ vd 8 / 2 ^ 14 % 4 = 0 ∧ vd 8 / 2 ^ 7 % 2 = 0 ∧
        SMap.find? ((s 0 0 id).hw.mod (moduleOf 0)).groups (vd 8 / 2 ^ 16 % 256) = some ⟨1, [0, 1]⟩ ∧ ((s 0 0 id).hw.tenantOf 0).getD 0 = 1 ∧
        SMap.find? ((s 0 0 id).hw.mod (moduleOf 0)).groups (vd 10 / 2 ^ 16 % 256) = none ∧ vd 9 / 2 ^ 24 ≠ 0) ∧
      (s 0 0 id).hw.releaseWaits c0 = [] ∧ (s 0 0 id).atHand c0 [(5 : GReg).toNat] ∧ vb 47 < 48 ∧
      (vb 0x22F / 2 ^ 10 = 0 ∧ vb 0x22F / 64 % 4 = 0 ∧ vb 0x22F % 64 < 48 ∧ vb 0x22F / 2 ^ 8 % 4 ≠ 3) ∧ 2 ^ 10 ≤ vb 0x400 ∧ vb 0x40 / 64 % 4 ≠ 0 ∧
      48 ≤ vb 0x30 % 64 ∧
      (s 0 0 (fun x => x.setTs tsBOOKED true)).hw.cur = some c0 ∧ ((s 0 0 (fun x => x.setTs tsBOOKED true)).hw.curCtx c0).booked = true) := by
  repeat' apply And.intro
  all_goals decide +kernel

theorem met_TreeSteps :
    (let w : Mcw := ⟨2, 0, 0, 1, 4⟩
     let s := owing (.nats [1, 0, 2]) id (withMod (fun m => { m with mcws := [w] }))
     (s.hw.mod 0).mcws = [w] ∧ w.group = 2 ∧ (s.hw.core 0).owed.find? (fun e => e.txn == w.txn) = some owed5 ∧ owed5.hand = none ∧ 0 < owed5.reg ∧
      s.hw.alive 0 owed5.slot owed5.uid = true ∧ (s.hw.ctx 0 owed5.slot).st = .ready ∧
      (s.hw.ctx 0 owed5.slot).pend.any (fun e => e.ofTxn owed5.reg 4) = true) ∧
    (let m : Msg := { msg127 with mc := true }
     let q : McSend := ⟨4, 1, 0, 0, 0, 30⟩
     let s := evt (.msg m 9) [] id (fun k => { k with empty := [(127, ())], mcs := [q] })
     (s.hw.core m.core).imaging = false ∧ m.core = m.sender ∧ s.hw.coreDisabled m.core = false ∧ 0 < m.reg ∧ m.reg < (s.hw.ctx 0 0).wsize ∧
      (s.hw.ctx 0 0).st = .ready ∧ m.reg ∉ (s.hw.ctx 0 0).just ∧ (s.hw.ctx 0 0).pending m.reg = false ∧
      (s.hw.core 0).fullBit (s.hw.ctx 0 0) m.reg = false ∧ (s.hw.core 0).heldFor 0 m.reg = false ∧
      (s.hw.core m.sender).mcs.find? (fun e => e.txn == m.txn) = some q ∧ q.left = 1) ∧
    (let q : McSend := ⟨4, 0, 1, 1, 3, 30⟩
     let s := owing (.nats [0, 4, 0]) (fun k => { k with mcs := [q] })
     (s.hw.core 0).mcs.find? (fun e => e.txn == 4) = some q) ∧
    (slot1 / 2 ^ 21 % 2 ^ 20 = 0 ∧ slot1 % 2 ^ 21 % 16 = 0 ∧ slot1 / 2 ^ 48 % 2 ^ 16 ≠ 0 ∧ slot1 < 2 ^ 64) ∧
    (let s (r : RedSlot) := atNode (.nats [0, 0, 4, 1, slot1, 7]) r
     SMap.find? (s (red2 0 [] .opened)).hw.nodeAt 0 ≠ some (s (red2 0 [] .opened)).hw.now ∧
      (∀ op ∈ List.range 8, ((s (red2 op [1] .opened)).hw.red 0).st = .opened ∧ ((s (red2 op [1] .opened)).hw.red 0).op = op) ∧
      ((s (red2 0 [] .opened)).hw.red 0).gen = slot1 / 2 ^ 48 ∧ ((s (red2 0 [] .opened)).hw.red 0).tenant = 1 ∧
      0 / 16 * 16 = slot1 % 2 ^ 21 ∧ 0 % 16 ∈ ((s (red2 0 [] .opened)).hw.red 0).members ∧ 2 % 16 ∉ ((s (red2 0 [] .opened)).hw.red 0).members ∧
      16 / 16 * 16 ≠ slot1 % 2 ^ 21 ∧ 0 % 16 ∈ ((s (red2 0 [0] .opened)).hw.red 0).done ∧ 0 % 16 ∉ ((s (red2 0 [1] .opened)).hw.red 0).done ∧
      ((s (red2 0 [] .opened)).hw.red 0).waits = [] ∧ ((s (red2 0 [] .closed)).hw.red 0).st ≠ .opened) ∧
    (let s (r : RedSlot) := atNode (.nats [0, 0, 0, 1, 4, 1, slot1, 40]) r
     ((s (red2 0 [0] .closed)).hw.red 0).st = .closed ∧ ((s (red2 0 [0] .closed)).hw.red 0).gen = slot1 / 2 ^ 48 ∧
      ((s (red2 0 [0] .closed)).hw.red 0).tenant = 1 ∧ ((s (red2 0 [0] .closed)).hw.red 0).waits = [] ∧
      ((s (red2 0 [0] .closed)).hw.red 0).taken = false ∧ ((s { red2 0 [0] .closed with taken := true }).hw.red 0).taken = true ∧
      (s (red2 0 [0] .closed)).hw.alive 0 0 1 = true ∧ (red2 0 [0] .closed).op ≠ 3 ∧ (red2 0 [0] .closed).op ≠ 4 ∧
      ((s (red2 0 [0] .free)).hw.red 0).st = .free) ∧
    (let s := atNode (.nats [2, 0, 4, 1, 0, 0, 1]) (red2 0 [] .opened)
     (s.hw.red (32 * (2 ^ 21 * (0 % 4) + 0 / 16 * 16) + 1)).st = .free ∧
      (∀ j, j < 1 → (s.hw.red (32 * (2 ^ 21 * (0 % 4) + 0 / 16 * 16) + j)).st ≠ .free)) ∧
    (let s (st : RedState) := atNode (.nats [0, 1]) (red2 0 [0] st)
     ((s .opened).hw.red 0).gen = 1 ∧ ((s .opened).hw.red 0).st = .opened ∧ ((s .opened).hw.red 0).waits = [] ∧ ((s .closed).hw.red 0).st = .closed) ∧
    (let a : Acc := { load5 false with op := .redw 5 }
     let s (gen : Nat) := evt (.blob [1, 0, 0, 1, 0, gen, 7, 9] []) [] (fun x => { x with st := .parked, park := some (.barrier true 64), pend := [.async 5 0, .async 6 0] })
       (fun k => { k with empty := [(5, ()), (6, ())], out := [⟨a, 1, .plain, c0, [5, 6], true, true, [], false, [], []⟩] })
       (fun h => { h with reds := [(0, { red2 0 [0] .closed with taken := true })] })
     a.op = .redw 5 ∧ a.core = 0 ∧ a.slot = 0 ∧ a.txn = 0 ∧ 0 < 5 ∧ ∀ gen ∈ [0, 1], (gen = 0 ∨ ((s gen).hw.red (gen - 1)).taken = true) ∧
      (s gen).hw.findOut 0 0 = some ⟨a, 1, .plain, c0, [5, 6], true, true, [], false, [], []⟩ ∧
      (s gen).hw.alive 0 0 1 = true ∧ ((s gen).hw.ctx 0 0).st = .parked ∧ ((s gen).hw.ctx 0 0).pend.any (fun e => e.ofTxn 5 0) = true ∧
      ((s gen).hw.ctx 0 0).pend.any (fun e => e.ofTxn (5 + 1) 0) = true) := by
  repeat' apply And.intro
  all_goals decide +kernel

theorem quiet0 (a : Arg) (fh : Hw → Hw) (h : (idle0 a fh).hw.cores = []) (c : Nat) :
    ((idle0 a fh).hw.core c).out = [] ∧ ((idle0 a fh).hw.core c).owed = [] ∧ ((idle0 a fh).hw.core c).arun = none ∧ ((idle0 a fh).hw.core c).trun = none := by
  simp only [Hw.core, h]; exact ⟨rfl, rfl, rfl, rfl⟩

theorem met_Uplinks :
    (let l (st : LinkState) (n r : Nat) := ((evt .none [] id id (uplink3 st n r)).hw.mod 0).link 3
     (l .up 8 2).st = .up ∧ (l .up 8 2).refused < 3 ∧ 3 ≤ (l .degraded 4 3).refused ∧ (l .degraded 4 3).st = .degraded ∧ 0 < (l .up 8 0).lanes ∧
      2 < (l .degraded 3 0).lanes ∧ (l .degraded 2 0).lanes ≤ 2 ∧ (l .down 0 0).st = .down ∧ (l .training 0 0).st = .training ∧
      (l .down 0 0).epoch = 7 ∧ (evt (.nats [0, 3, 64]) [] id id (uplink3 .up 8 0)).Inv) ∧
    (∀ c, moduleOf c = 0 → ((idle0 (.nats [0, 5])).hw.core c).out = [] ∧ ((idle0 (.nats [0, 5])).hw.core c).owed = [] ∧
      ((idle0 (.nats [0, 5])).hw.core c).arun = none ∧ ((idle0 (.nats [0, 5])).hw.core c).trun = none) ∧
    (let s := idle0 (.nats [0]) (fun h => { withMod id h with now := 65536 })
     (s.hw.mod 0).linked = false ∧ (s.hw.mod 0).lastUp + 65536 ≤ s.hw.now ∧ (s.hw.mod 0).ownDown = false ∧
      ∀ c, moduleOf c = 0 → (s.hw.core c).out = [] ∧ (s.hw.core c).owed = [] ∧ (s.hw.core c).arun = none ∧ (s.hw.core c).trun = none) := by
  refine ⟨?_, fun c _ => quiet0 _ _ rfl c, ?_, ?_, ?_, fun c _ => quiet0 _ _ rfl c⟩
  · repeat' apply And.intro
    all_goals first | decide +kernel | (unfold State.Inv; decide +kernel)
  all_goals decide +kernel

/-! ### Hypotheses of the statements of packages, tenants and the boot -/

/-- Module 0 while BRS runs, with tenant 1. -/
def served (ten : Tenant) (h : Hw) : Hw :=
  withMod (fun m => { m with boot := { m.boot with code := 0xF }, sessions := [(9, 1)], tenants := [(1, ten)] }) h

/-- Tenant 1 with principal 5. -/
def ten1 : Tenant := { Tenant.none with exist := true, clusters := [0], dir := [(5, ⟨7, 0⟩)] }

/-- A search for the digest of some bytes, at a step. -/
def search1 (step : Nat) (f : Option (List Byte)) (peers : List Nat) : Search :=
  ⟨0, 3, 6, digestBytes (f.getD []), 1, 0, 0, step, peers, f, []⟩

/-- A module whose BRS makes that search. -/
def searching1 (q : Search) (fc : Cluster → Cluster := id) (fh : Hw → Hw := id) : State :=
  evt (.nats [0, 3, 6]) [] id id (fun h => fh { (withMod (fun m => { m with searches := [q], tenants := [(1, ten1)] }) h) with
    clusters := [(0, fc { Cluster.reset with owner := some 1 })] })

/-- A portable form of one `NOP`. -/
def form1 : List Byte := bytesLE 8 (2 ^ 32 + 0x4E4D5956) ++ bytesLE 8 1 ++ List.replicate 80 0

/-- A package without kernels, nodes or plan. -/
def package0 : List Byte := bytesLE 8 (2 ^ 48 + 2 ^ 32 + 0x4B505956) ++ bytesLE 32 5 ++ List.replicate 24 0 ++ bytesLE 8 3 ++ bytesLE 8 96 ++ List.replicate 16 0

/-- A package of tenant 1 under number 0. -/
def pack (st : PkgState) (bs : List Byte) (nodes : List (BitVec 1024)) : Package := ⟨0, 0, st, 0, bs, [⟨0, none, []⟩], nodes, [], [], [], [], []⟩

/-- Tenant 1 with that package. -/
def withPack (p : Package) : Tenant := { ten1 with packs := [(0, p)] }

/-- A launch of the kernel of digest 0 for principal 5, of window 8 and DECL 2, on die 0; or of the graph of package 0. -/
def launch5 (graph : Bool) (bad : Nat) : LaunchMsg := BitVec.ofNat 1024 ((5 * 2 ^ 32 + (if graph then 0 else 0xFFFF0000) + bad) * 2 ^ 512 + 8 * 2 ^ 576 + 77 * 2 ^ 640)

/-- A module at a step of the boot order. -/
def booting (code : Nat) (a : Arg) (fb : Boot → Boot := id) : State :=
  evt a [] id id (withMod (fun m => { m with boot := fb { m.boot with code := code } }))

/-- A 4,096-bit modulus, and the signature of its 512 bytes with the key that belongs to it. -/
def modulus1 : List Byte := bytesBE 512
  0xd9b1f853a3664b20f8796f471c1d88340696c84f45de8b35ee3a2e24681daeb47db9faedf2390cdfc1b093ae5fb751ffbe81e4f9880b6503fbf3d9a876c5c54bcfdd21166cd134371d2d1ea30262c02ad12a24bec7af71b83dd5d8e20594fc7fc09b1ff72e6cc180d19d611e338c51300f022ca9c02325ee7ae51bcf8f05b08c019c3241cad017fb3e72e0e0dc462c82742fcd67481293b62d96883fb7d6b1bb9a1c30b789d090472546519bedd3a381653b38e45b171505da16071c29cef840980b4c3e7b11322ae43a06ab520cb9b9968332b066a6a0e351e1eba307fadeeee9b8cf34e56a52231cffa971c200bb2fdcd477d899886051e2f88e53678413d895bf0da46d7dc97f537da8021d41cad91037598bb1e3801e85ebb948b7d07710ad02df57cf9625a27b30e4a633907960eaf3f6fcdddb3a2f3a399d4c094ca36165bcfcb124804cd5cbb882613a3872159a273ad0ad6cce70cc7fe8a04a4ba2672d635d954b6b227e4607be82e98d2b7e807b71108dff8af0f69af54cd851146006aae4cc347316a4c4eb6c2daf5a6cff8610f766bc221ae8b04487bf71c0b02bf7a8d67065322fc393bc49b5967ac9e78854143e0c887e700478567cc80e108bd9d9af1f879fee84d00eeca0bee4ae0d09ea3ea754dc60e15cebd26dce7cd366e74886ddeae7738a2d09cac898280d41f7715e21b18b06129fe5da8830a96a49

/-- See `modulus1`. -/
def signed1 : List Byte := modulus1 ++ bytesBE 512
  0xcce0b82f28e80850bdc62606275fcf623a8538557298623b228e75ed433a4ef93e9b08bb483c241103360357599637daa5c616dd226f19b4da9d71aa01a37c8bd36e60da2cc0c792098640727734d8d3ec59fa4e5ff051684de071760342abb2b0c821bbb4ef7d20ec0b85275872c69300f1a42acbb695b417fe990981a989a466df3e5389a6ae858bce8f5896d0588dcb1892b039db80f72434838b8a3abce5a83a2bf197df1f533f793fae47c0270dee70fc9b8588f3aa3de17fd3c49967138757e4350eb7f83e80f668eac32d84a563004145fde1a0ca4b60aa5dd3443e68d014c3b12b796466196455b63a3bebea502b08729910ca0a2f8fa389e82df90c2b4c94cbbcd19cef67dd227a0096be3c9e23d7cf562b03071353f6b8bbfbddc2a1645d952fe6276481bebfe56d348743c6d254027530de45e9c0bd8b6cca17cbc1e7d9332960ff6e5d5dee4dc67ecbb9bcb5910e64b94f516d6aa8ba02e22bbf4dc8717148a4ae0deacdd5a411008c324c610622300f88fd18daa1117c9c74a849c457333c27f0cb7be9496e1d76723dc8b0542e8813d642e4971fec137809f686f810a565748b061370e0cc4c39a70ab4cd70392200aa9eba5bea1c2e0eabdf3f975167a13aa98c44cdd4cde73951d5f120a5bb225575e1433f6ce5c84852a03e426af42f9ee5d445ce16ed777470fa2723cefaf264a8d1c5741c947067254b

theorem met_signed : imageSigner signed1 = some (digestBytes modulus1) := by decide +kernel

theorem met_Packages :
    (let s := searching1 (search1 1 none [])
     (s.hw.mod (0 / 512)).searches = [search1 1 none []] ∧ (search1 1 none []).clu = 0 ∧ (search1 1 none []).entry = 3 ∧ (search1 1 none []).load = 6 ∧
      ((s.hw.mod (0 / 512)).tenant 1).packs = [] ∧ ((s.hw.mod (0 / 512)).tenant 1).store = [] ∧ ((s.hw.mod (0 / 512)).tenant 1).peers = [] ∧
      1 < (search1 3 none [4, 5]).peers.length ∧ (search1 4 none []).form = none) ∧
    (let q := search1 4 (some form1) []
     let s := searching1 q (fun c => { c with dtab := [(3, { DEntry.none with st := .loading, load := 6 })] })
     q.form = some form1 ∧ (portableOf q.digest form1).isSome = true ∧
      ((portableOf q.digest form1).bind (fun g => translateForm g (segsWith g.segs q.moves))).isSome = true ∧ (s.hw.entry 0 3).st = .loading ∧ (s.hw.entry 0 3).load = 6) ∧
    (let s := evt (.blob [0x10000] [1, 2]) [] id id (withMod (fun m => { m with kmap := [1] }))
     s.Inv ∧ (∀ i ∈ List.range 2, 0x10000 / 65536 ≤ i → i ≤ (0x10000 + [1, 2].length - 1) / 65536 → i ∈ (s.hw.mod (moduleOf (0x10000 / 2 ^ 28))).kmap)) ∧
    (let s (p : Package) := evt .none [] id id (served (withPack p))
     (s (pack .loading package0 [])).hw.sessionTenant 9 = some 1 ∧
      SMap.find? (((s (pack .loading package0 [])).hw.mod 0).tenant 1).packs 0 = some (pack .loading package0 []) ∧
      (((s (pack .loading package0 [])).hw.mod 0).tenant 1).loadCode 0 package0 = 0 ∧ pkgPlan package0 = [] ∧
      (((s (pack .loading [1] [])).hw.mod 0).tenant 1).loadCode 0 [1] ≠ 0 ∧ (pack .loaded [] []).st = .loaded ∧ (s (pack .loaded [] [])).hw.inputs = [] ∧
      (pack .unloading [] []).st = .unloading ∧ (s (pack .unloading [] [])).hw.packBusy 1 0 (pack .unloading [] []) = false) ∧
    (let p := pack .loaded [] [rec7]
     let s (c : List (Nat × Cluster)) := evt (.nats [9, 1, 0, 5, 0, 7, 0, 77]) [] id id (fun h => { (served (withPack p) h) with clusters := c })
     (s []).Inv ∧ p.nodes = [rec7] ∧ p.edges = [] ∧ (s []).hw.placeCells ((s []).hw.tenantCores 0 1) [0] ((s []).hw.scratchUsed 0 1) = none ∧
      (let t := s [(0, { Cluster.reset with owner := some 1 })]
       t.hw.placeCells (t.hw.tenantCores 0 1) [0] (t.hw.scratchUsed 0 1) = some [(0, 160)] ∧ 0 % 32 = 0)) := by
  repeat' apply And.intro
  all_goals first | decide +kernel | (unfold State.Inv; decide +kernel)

theorem met_Tenants :
    (let s (a : Arg) (p : Package) := evt a [] id id (served (withPack p))
     let p := pack .loaded [] []
     (s .none p).hw.serving = true ∧ (((s .none p).hw.mod 0).tenant 1).exist = true ∧ (((s .none p).hw.mod 0).tenant 1).deleting = false ∧
      SMap.find? ((s .none p).hw.mod 0).sessions 8 = none ∧ (s .none p).hw.sessionTenant 9 = some 1 ∧
      (s .none p).hw.launchStatus 1 (launch5 false 0) = 0 ∧ (s .none p).hw.launchStatus 1 (launch5 true 0) = 0 ∧
      (s .none p).hw.launchStatus 1 (launch5 false 1) ≠ 0 ∧ bits (launch5 true 0).toNat 575 512 / 2 ^ 16 % 2 ^ 16 = 0 ∧
      bits (launch5 false 0).toNat 575 512 / 2 ^ 16 % 2 ^ 16 ≠ 0 ∧ bits (launch5 false 0).toNat 639 576 / 2 ^ 29 % 2 = 0 ∧ (s .none p).hw.self < 256) ∧
    (let s := evt .none [] id id (served { ten1 with events := [1, 2, 3], eventSent := 1 })
     ((((s.hw.mod 0).tenant 1).events.drop ((s.hw.mod 0).tenant 1).eventSent).take 64) = [2, 3] ∧ 1 ≤ ((s.hw.mod 0).tenant 1).eventSent ∧
      ((s.hw.mod 0).tenant 2).exist = false ∧ ((s.hw.mod 0).tenant 1).dir.length < 4096) ∧
    (let s := evt .none [] id id (fun h => { (served ten1 h) with clusters := [] })
     s.hw.serving = true ∧ 0 / 512 = s.hw.self ∧ (s.hw.cluster 0).owner = none ∧ 0 ∉ (s.hw.mod 0).clearing ∧ s.hw.coreDisabled (16 * 0 + 3) = false) ∧
    (let s (fk : Core → Core) := evt (.nats [0, 1]) [] (fun x => { x with st := .free }) fk (withMod (fun m => { m with clearing := [0] }))
     (∀ p ∈ (s id).hw.clusterSlots 0, ((s id).hw.ctx p.1 p.2).st = .free) ∧ 0 ∈ ((s id).hw.mod (0 / 512)).clearing ∧ (s id).hw.quiet 0 = true ∧
      (s (fun k => { k with owed := [owed5] })).hw.quiet 0 = false ∧ (s id).Inv) ∧
    (let s (ten : Tenant) := evt (.nats [1, 1]) [] id id (served ten)
     ((s ten1).hw.mod 0 |>.tenant 1).exist = true ∧ ((s ten1).hw.mod 0 |>.tenant 1).clusters ≠ [] ∧
      ((s { ten1 with clusters := [] }).hw.mod 0 |>.tenant 1).clusters = []) := by
  repeat' apply And.intro
  all_goals first | decide +kernel | (unfold State.Inv; decide +kernel)

theorem met_BootOrder :
    (let s := booting 1 (.nats [5])
     s.Inv ∧ s.hw.self < 256 ∧ moduleOf 17 = s.hw.self ∧ moduleOf (2 ^ 21 + 3) = s.hw.self ∧ (5 : Nat) ≠ 0xA5 ∧ (s.hw.mod s.hw.self).boot.code = 1 ∧
      (s.hw.mod s.hw.self).boot.halt = false ∧ (s.hw.mod s.hw.self).boot.numbered = false ∧ s.hw.hasModule 5 = false) ∧
    (∀ n ∈ [2, 4, 5, 6, 7, 8], ((booting n .none).hw.mod (booting n .none).hw.self).boot.code = n ∧
      ((booting n .none).hw.mod (booting n .none).hw.self).boot.halt = false) ∧
    (let s (f : Boot → Boot) := booting 7 (.blobs (some signed1) none) f
     imageSigner signed1 = some (digestBytes modulus1) ∧
      ((s (fun b => { b with signer := digestBytes modulus1 })).hw.mod 0).boot.signer = digestBytes modulus1 ∧
      digestBytes modulus1 ≠ ((s id).hw.mod 0).boot.signer) ∧
    (let h (t p : Nat) := ((booting 15 .none).hw.sense [⟨3, t, p⟩]).mod 0
     950 < (h 951 0).hottest ∧ 3200000 < (h 0 3200001).power ∧ (h 902 3040000).hottest ≤ 902 ∧ (h 902 3040000).power ≤ 3040000 ∧
      1050 ≤ (h 1050 0).hottest ∧ (h 1049 0).hottest < 1050) ∧
    (let s (n : Nat) := evt (.nats [0, 1, 64]) [] id id (fun h => { h with now := 16 * n })
     (s 255).Inv ∧ (s 511).Inv ∧ (s 255).hw.grainNow (clusterOf 0) % 256 = 255 ∧ (s 511).hw.grainNow (clusterOf 0) % 1024 = 511 ∧
      SMap.get 0 ((s 255).hw.core 0).scrubAt 0 < (s 255).hw.grainNow (clusterOf 0) ∧ SMap.get 0 ((s 511).hw.core 0).scrubAt 1 < (s 511).hw.grainNow (clusterOf 0) ∧
      [64].Nodup ∧ keyCore 64 = 0 ∧ keyDram 64 = false ∧ 64 % 32 = 0 ∧ 1 + 2 * [64].length ≤ 2 * 64 ∧
      [Config.dramKey].Nodup ∧ keyCore Config.dramKey = 0 ∧ keyDram Config.dramKey = true ∧ Config.dramKey % 32 = 0 ∧ 6 + 2 * [Config.dramKey].length ≤ 2 * 4 ∧
      (s 256).hw.grainNow (clusterOf 0) % 256 ≠ 255 ∧ (s 256).hw.grainNow (clusterOf 0) % 1024 ≠ 511) := by
  repeat' apply And.intro
  all_goals first | decide +kernel | (unfold State.Inv; decide +kernel)

/-! ### Hypotheses of the statements of the machine as a whole -/

/-- Core 0 of module 0 released, one context of a cluster whose entry 0 holds some halfwords. -/
def ready (code : List Half) (fx : Ctx → Ctx := id) : State :=
  evt .none [(5, 3)] fx id (fun h => (withMod (fun m => { m with boot := { m.boot with code := 0xF } }) (withImage { image 5 1 with code := code } h)))

theorem met_StepKeepsMemory : State.reset.Inv ∧ (step State.reset matches .next _) = true := by
  refine ⟨?_, ?_⟩
  · unfold State.Inv; decide +kernel
  · decide +kernel

theorem met_EncodedDecodes :
    (Instr.spillHold false 4 6).wf = true ∧ encode (.spillHold false 4 6) = some [0x7E60, 0x7C01, 0x1046] ∧
      (Instr.li true 127 (BitVec.allOnes 40)).wf = true ∧ (encode (.li true 127 (BitVec.allOnes 40))).isSome = true := by
  repeat' apply And.intro
  all_goals decide +kernel

theorem met_StepRunsDecoded :
    (let s (code : List Half) (fx : Ctx → Ctx) := ready code fx
     let c (code : List Half) (fx : Ctx → Ctx) (r : Raw) : Cur := (s code fx).hw.curAt 0 0 r.page r.op r.len
     (s [0] id).hw.stopped = false ∧ (∀ d ∈ (s [0] id).hw.agenda, (s [0] id).hw.now < d.at_) ∧ (∀ d ∈ (s [0] id).hw.inputs, (s [0] id).hw.now < d.at_) ∧
      (s [0] id).hw.deferredNow = none ∧ (s [0] id).hw.cores.map (fun (e : Nat × Core) => e.1) = 0 :: [] ∧ (s [0] id).hw.candidates 0 = [0] ∧
      ((s [0] id).hw.ctx 0 0).begun = true ∧
      (match decodeChain ((s [0] id).hw.codeFrom 0 0) with
        | .ok ch => decide ((s [0] id).hw.preCheck (c [0] id ch.raw) ch = none) | .error _ => false) = true ∧
      -- a form that only a service context may issue: `spillHold`
      (match decodeChain ((s [0x7E60, 0x7C01, 0x1046] id).hw.codeFrom 0 0) with
        | .ok ch => decide ((s [0x7E60, 0x7C01, 0x1046] id).hw.preCheck (c [0x7E60, 0x7C01, 0x1046] id ch.raw) ch = some (.privileged, 0, 0))
        | .error _ => false) = true ∧
      (match decodeChain ((s [0x7E60] id).hw.codeFrom 0 0) with | .ok _ => false | .error _ => true) = true) := by
  repeat' apply And.intro
  all_goals decide +kernel

theorem met_NothingRefused : (Instr.mov false 3 5).fullForm.isSome = true ∧ (st []).hw.cur.isSome = true := by decide +kernel

theorem met_FaultsTaken :
    (let s := st [] (fun x => { x.setTs tsBOOKED true with bookid := 5, gang := some (0, 5) }) (fun k => { k with chans := [(3, { Chan.idle with active := true, mask := 1 })] })
     (s.hw.curCtx c0).waiting = none ∧ (s.hw.core 0).e4.length < 16 ∧ (s.hw.core 0).e4Lost = false ∧
      (s.hw.core 0).chans.any (fun (e : Nat × Chan) => e.2.active && e.2.mask.getLsbD 0) = true ∧ (s.hw.curCtx c0).gang = some (0, 5) ∧
      Cause.privileged ≠ .gangMember ∧ (s.hw.curCtx c0).booked = true) := by
  repeat' apply And.intro
  all_goals decide +kernel

theorem met_ScalarFrame :
    (st [(5, 3), (6, 4)]).atHand c0 (regs [7, 5, 6]) ∧ (exec (.add false .s64 7 5 6) (st [(5, 3), (6, 4)]) matches .next _) = true := by
  repeat' apply And.intro
  all_goals decide +kernel

theorem met_OperandsWait :
    (let s (fx : Ctx → Ctx) (fk : Core → Core) := st [] fx fk
     let wait5 (x : Ctx) : Ctx := { x with pend := [.fixed 5 9 0] }
     (s wait5 id).hw.cur = some c0 ∧ ((s wait5 id).hw.curCtx c0).pending (5 : GReg).toNat = true ∧ ((s wait5 id).hw.curCtx c0).booked = false ∧
      ((s wait5 id).hw.curCtx c0).pend.any (fun p => match p with | .trap n _ => n == (5 : GReg).toNat | _ => false) = false ∧
      (let t := s id (fun k => { k with empty := [(5, ())] })
       (t.hw.curCtx c0).pending (5 : GReg).toNat = false ∧ t.hw.isFull 0 0 (5 : GReg).toNat = false) ∧
      ((s (fun x => wait5 (x.setTs tsBOOKED true)) id).hw.curCtx c0).booked = true) ∧
    (let x : Ctx := { ctx0 with st := .parked, park := some (.fullBit 5), pend := [.fixed 5 1 77] }
     let k : Core := { Core.reset with empty := [(5, ())], slots := [(0, x)] }
     let s := evt .none [] id id (fun h => { (withMod (fun m => { m with boot := { m.boot with code := 0xF } }) h) with cores := [(0, k)] })
     s.hw.cores = [(0, k)] ∧ k.slots = [(0, x)] ∧ x.pend = [.fixed 5 (s.hw.now + 1) 77] ∧ x.maskPend = [] ∧ x.late = [] ∧ s.hw.bookEnds = [] ∧
      s.hw.stopped = false ∧ (∀ d ∈ s.hw.agenda, s.hw.now < d.at_) ∧ (∀ d ∈ s.hw.inputs, s.hw.now < d.at_) ∧ s.hw.deferredNow = none ∧
      (s.issueFirst [0]).isNone = true) := by
  repeat' apply And.intro
  all_goals decide +kernel
end Sys2Proof.Tests
end

section
/-! PROOFS. What the end of a chain and a result of fixed latency change and leave alone, and the frame of the scalar forms with one result
(05_scalar R107, R108; O59). -/

namespace Sys2Proof.Machine

/-! ### What the end of a chain leaves alone -/

/-- A map over the values of a sparse map, which keeps its keys. -/
theorem SMap.find?_map {α : Type} (f : Nat × α → Nat × α) (hf : ∀ e, (f e).1 = e.1) (m : SMap α) (j : Nat) :
    SMap.find? (m.map f) j = (SMap.find? m j).map (fun v => (f (j, v)).2) := by
  induction m with
  | nil => rfl
  | cons e r ih =>
    obtain ⟨i, w⟩ := e
    by_cases h : i = j
    · subst h; simp [SMap.find?, hf]
    · simp [SMap.find?, hf, h, ih]

/-- DECL does not depend on what EFF is set to (R80). -/
@[simp] theorem Ctx.decl_setEff (x : Ctx) (e : Nat) : (x.setEff e).decl = x.decl := by
  have hx := x.role.isLt
  simp only [Ctx.decl, Ctx.setEff, putBits, bits, BitVec.toNat_ofNat]
  omega

@[simp] theorem Ctx.decl_settle (x : Ctx) : x.settle.decl = x.decl := x.decl_setEff _

/-- The loop-back rule moves the PC and counts the loops, and changes nothing else of a context (R134). -/
theorem loopBack_eq (vs : List Nat) (e : Nat) (x : Ctx) : ∃ pc lp, loopBack vs e x = { x with pc := pc, lp := lp } := by
  induction vs generalizing x with
  | nil => exact ⟨_, _, rfl⟩
  | cons v r ih =>
    simp only [loopBack]
    split
    · split
      · exact ⟨_, _, rfl⟩
      · exact ih (x.endLoop v)
    · exact ih x

theorem Ctx.advance_eq (x : Ctx) (pc len : Nat) : ∃ pc' lp, x.advance pc len = { x with pc := pc', lp := lp } :=
  loopBack_eq _ _ _

@[simp] theorem Hw.core_set_cur (h : Hw) (o : Option Cur) (d : Nat) : ({ h with cur := o } : Hw).core d = h.core d := rfl

/-- What an issue does to its core (R98, R212, R213). -/
def Core.issued (k : Core) (c : Cur) (now : Nat) : Core :=
  let x := k.ctx c.slot
  Core.setCtx
    { k with
      lastIssue := some now,
      ptr := if k.wheel then k.ptr else SMap.set k.ptr x.eff c.slot,
      slots := k.slots.map (fun (e : Nat × Ctx) => if e.1 = c.slot then e else (e.1, e.2.yieldSeen c.slot now)) }
    c.slot { x.settle with xstep := if c.page = 15 then x.xstep else 0 }

theorem Hw.core_issued (h : Hw) (c : Cur) : (h.issued c).core c.core = (h.core c.core).issued c h.now := by
  rw [Hw.issued, Hw.core_set_cur, Hw.core_modSlot]
  rfl

theorem Hw.core_issued_ne (h : Hw) (c : Cur) (d : Nat) (hd : c.core ≠ d) : (h.issued c).core d = h.core d := by
  rw [Hw.issued, Hw.core_set_cur, Hw.core_modSlot_ne _ _ _ _ _ hd]

/-- Of its core an issue changes the contexts and the choice of the next one. -/
theorem Core.issued_eq (k : Core) (c : Cur) (now : Nat) : ∃ slots lastIssue ptr,
    k.issued c now = { k with slots := slots, lastIssue := lastIssue, ptr := ptr } := ⟨_, _, _, rfl⟩

/-- The context that issues settles, and its XSTEP is 0 after a chain that is not of page 15 (R106, R213). -/
theorem Core.ctx_issued (k : Core) (c : Cur) (now : Nat) :
    (k.issued c now).ctx c.slot = { (k.ctx c.slot).settle with xstep := if c.page = 15 then (k.ctx c.slot).xstep else 0 } :=
  Core.ctx_setCtx _ _ _

/-- Another context of the core at most loses the issuer from the list of those it has yielded to (R98). -/
theorem Core.ctx_issued_ne (k : Core) (c : Cur) (now j : Nat) (hj : j ≠ c.slot) :
    (k.issued c now).ctx j = k.ctx j ∨ (k.issued c now).ctx j = (k.ctx j).yieldSeen c.slot now := by
  rw [Core.issued, Core.ctx_setCtx_ne _ _ _ _ hj.symm]
  simp only [Core.ctx, SMap.get]
  rw [SMap.find?_map _ (fun e => by split <;> rfl)]
  cases SMap.find? k.slots j with
  | none => exact .inl rfl
  | some x => exact .inr (by simp [hj])

/-- What the end of a chain that does not transfer does to its core (R108, R134). -/
def Core.retired (k : Core) (c : Cur) (now : Nat) (sw : Bool) (d : Nat) : Core :=
  let k1 := k.issued c now
  k1.setCtx c.slot { (k1.ctx c.slot).advance c.pc c.len with notBefore := now + d, swWait := sw }

theorem Hw.core_retire (h : Hw) (c : Cur) (sw : Bool) (d : Nat) :
    (h.retire c sw d).core c.core = (h.core c.core).retired c h.now sw d := by
  rw [Hw.retire, Hw.modCur, Hw.core_modCtx, Hw.ctx, Hw.core_issued]
  rfl

theorem Hw.core_retire_ne (h : Hw) (c : Cur) (sw : Bool) (d e : Nat) (he : c.core ≠ e) : (h.retire c sw d).core e = h.core e := by
  rw [Hw.retire, Hw.modCur, Hw.core_modCtx_ne _ _ _ _ _ he, Hw.core_issued_ne _ _ _ he]

/-- Of the context that retires only its place, its loops and its issue count change. -/
theorem Core.ctx_retired (k : Core) (c : Cur) (now : Nat) (sw : Bool) (d : Nat) : ∃ pc lp nb xstep role w,
    (k.retired c now sw d).ctx c.slot =
      { k.ctx c.slot with pc := pc, lp := lp, notBefore := nb, swWait := sw, xstep := xstep, role := role, w := w } ∧
    ((k.retired c now sw d).ctx c.slot).decl = (k.ctx c.slot).decl := by
  obtain ⟨pc, lp, hadv⟩ := Ctx.advance_eq ((k.issued c now).ctx c.slot) c.pc c.len
  rw [Core.retired, Core.ctx_setCtx, hadv, Core.ctx_issued]
  exact ⟨_, _, _, _, _, _, rfl, (k.ctx c.slot).decl_settle⟩

theorem Core.ctx_retired_ne (k : Core) (c : Cur) (now : Nat) (sw : Bool) (d j : Nat) (hj : j ≠ c.slot) :
    (k.retired c now sw d).ctx j = k.ctx j ∨ (k.retired c now sw d).ctx j = (k.ctx j).yieldSeen c.slot now := by
  rw [Core.retired, Core.ctx_setCtx_ne _ _ _ _ hj.symm]
  exact k.ctx_issued_ne c now j hj

/-! ### A result of fixed latency -/

/-- What binding a result does to its core: full bit and outstanding results, or nothing for `g0` (R107). -/
theorem Hw.core_setG (h : Hw) (c s n : Nat) (v : Word) (lat : Nat) : (h.setG c s n v lat).core c =
    if n = 0 then h.core c
    else ((h.core c).putFull (h.ctx c s) n false).setCtx s { h.ctx c s with pend := (h.ctx c s).pend ++ [.fixed n (h.now + lat) v] } := by
  unfold Hw.setG
  split
  · rfl
  · rw [Hw.core_modSlot]

theorem Hw.core_setG_ne (h : Hw) (c s n : Nat) (v : Word) (lat d : Nat) (hd : c ≠ d) : (h.setG c s n v lat).core d = h.core d := by
  unfold Hw.setG
  split
  · rfl
  · exact h.core_modSlot_ne c s _ d hd

theorem Hw.setG_eq (h : Hw) (c s n : Nat) (v : Word) (lat : Nat) : ∃ cores, h.setG c s n v lat = { h with cores := cores } := by
  unfold Hw.setG
  split <;> exact ⟨_, rfl⟩

theorem Core.fullBit_putFull_ne (k : Core) (x : Ctx) (n j : Nat) (f : Bool) (h : n ≠ j) : (k.putFull x n f).fullBit x j = k.fullBit x j := by
  by_cases hn : n = 0
  · simp [hn]
  · cases f <;> simp [Core.fullBit, Core.putFull, hn, Ctx.entryOf, SMap.find?_erase, SMap.find?_set, h]

theorem Core.putFull_eq (k : Core) (x : Ctx) (n : Nat) (f : Bool) : ∃ empty, k.putFull x n f = { k with empty := empty } := by
  unfold Core.putFull
  split <;> exact ⟨_, rfl⟩

@[simp] theorem Core.ctx_putFull (k : Core) (x : Ctx) (n : Nat) (f : Bool) (j : Nat) : (k.putFull x n f).ctx j = k.ctx j := by
  obtain ⟨empty, hput⟩ := k.putFull_eq x n f
  rw [hput]
  rfl

/-- The frame of a chain that binds a result for one register and retires. -/
def ResultFrame (s t : State) (c : Cur) (a : GReg) : Prop :=
  let o := s.hw.curCtx c
  let r := t.hw.curCtx c
  t.mem = s.mem ∧ OnlyCore c.core s t ∧ SameUnits c.core s t ∧ SameStatus o r ∧ OthersYield c.core c.slot s t ∧
    (∀ n, t.hw.g c.core c.slot n = s.hw.g c.core c.slot n) ∧
    (∀ n, n ≠ a.toNat → t.hw.isFull c.core c.slot n = s.hw.isFull c.core c.slot n) ∧
    (a ≠ 0 → t.hw.isFull c.core c.slot a.toNat = false ∧ ∃ u v, r.pend = o.pend ++ [.fixed a.toNat u v]) ∧
    (a = 0 → t.hw.isFull c.core c.slot 0 = true ∧ r.pend = o.pend)

theorem State.result_onlyCore (s : State) (c : Cur) (sw : Bool) (a : GReg) (v : Word) (lat : Nat) :
    OnlyCore c.core s (s.result c sw a v lat) := by
  refine ⟨?_, fun d hd => ?_⟩
  · obtain ⟨cores, hset⟩ := s.hw.setG_eq c.core c.slot a.toNat v lat
    rw [State.result, State.onHw_hw, hset]
    exact ⟨_, _, rfl⟩
  · rw [State.result, State.onHw_hw, Hw.core_retire_ne _ _ _ _ _ hd.symm, Hw.core_setG_ne _ _ _ _ _ _ _ hd.symm]

/-- The core of a result: bound, then retired. -/
theorem State.core_result (s : State) (c : Cur) (sw : Bool) (a : GReg) (v : Word) (lat : Nat) :
    (s.result c sw a v lat).hw.core c.core = ((s.hw.setG c.core c.slot a.toNat v lat).core c.core).retired c s.hw.now sw 1 := by
  obtain ⟨cores, hset⟩ := s.hw.setG_eq c.core c.slot a.toNat v lat
  rw [State.result, State.onHw_hw, Hw.core_retire, hset]

theorem State.result_sameUnits (s : State) (c : Cur) (sw : Bool) (a : GReg) (v : Word) (lat : Nat) :
    SameUnits c.core s (s.result c sw a v lat) := by
  unfold SameUnits
  obtain ⟨empty, hput⟩ := (s.hw.core c.core).putFull_eq (s.hw.ctx c.core c.slot) a.toNat false
  rw [State.core_result, Hw.core_setG, hput]
  split <;> exact ⟨_, _, _, _, rfl⟩

/-- The outstanding results of a context after a result is bound: one more, or none more for `g0`. -/
theorem Hw.curCtx_setG (h : Hw) (c : Cur) (n : Nat) (v : Word) (lat : Nat) : (h.setG c.core c.slot n v lat).curCtx c =
    { h.curCtx c with pend := (h.curCtx c).pend ++ if n = 0 then [] else [.fixed n (h.now + lat) v] } := by
  rw [Hw.curCtx, Hw.ctx, Hw.core_setG]
  split
  · simp [Hw.curCtx, Hw.ctx]
  · rw [Core.ctx_setCtx]
    rfl

theorem State.result_curCtx (s : State) (c : Cur) (sw : Bool) (a : GReg) (v : Word) (lat : Nat) : ∃ pc lp nb xstep role w,
    (s.result c sw a v lat).hw.curCtx c = { s.hw.curCtx c with
      pend := (s.hw.curCtx c).pend ++ if a.toNat = 0 then [] else [.fixed a.toNat (s.hw.now + lat) v]
      pc := pc, lp := lp, notBefore := nb, swWait := sw, xstep := xstep, role := role, w := w } ∧
    ((s.result c sw a v lat).hw.curCtx c).decl = (s.hw.curCtx c).decl := by
  obtain ⟨pc, lp, nb, xstep, role, w, hctx, hdecl⟩ := ((s.hw.setG c.core c.slot a.toNat v lat).core c.core).ctx_retired c s.hw.now sw 1
  have hset := s.hw.curCtx_setG c a.toNat v lat
  rw [Hw.curCtx, Hw.ctx] at hset
  rw [hset] at hctx hdecl
  rw [Hw.curCtx, Hw.ctx, State.core_result]
  exact ⟨pc, lp, nb, xstep, role, w, hctx, hdecl⟩

theorem State.result_othersYield (s : State) (c : Cur) (sw : Bool) (a : GReg) (v : Word) (lat : Nat) :
    OthersYield c.core c.slot s (s.result c sw a v lat) := by
  intro j hj
  have hset : ((s.hw.setG c.core c.slot a.toNat v lat).core c.core).ctx j = s.hw.ctx c.core j := by
    rw [Hw.core_setG]
    split
    · rfl
    · rw [Core.ctx_setCtx_ne _ _ _ _ hj.symm, Core.ctx_putFull, Hw.ctx]
  rw [Hw.ctx, State.core_result, ← hset]
  exact Core.ctx_retired_ne _ _ _ _ _ _ hj

theorem State.result_sameStatus (s : State) (c : Cur) (sw : Bool) (a : GReg) (v : Word) (lat : Nat) :
    SameStatus (s.hw.curCtx c) ((s.result c sw a v lat).hw.curCtx c) := by
  obtain ⟨pc, lp, nb, xstep, role, w, hctx, hdecl⟩ := s.result_curCtx c sw a v lat
  exact ⟨⟨pc, lp, _, nb, sw, xstep, role, w, hctx⟩, hdecl⟩

/-- A full bit depends on the context only by its window (R74). -/
theorem Core.fullBit_congr (k k' : Core) (x x' : Ctx) (n : Nat) (hk : k'.empty = k.empty) (hx : x'.wbase = x.wbase) :
    k'.fullBit x' n = k.fullBit x n := by
  rw [Core.fullBit, Core.fullBit, Ctx.entryOf, Ctx.entryOf, hk, hx]

/-- A register depends on the context only by its window (R74). -/
theorem Core.g_congr (k k' : Core) (x x' : Ctx) (n : Nat) (hk : k'.rf = k.rf) (hx : x'.wbase = x.wbase) : k'.g x' n = k.g x n := by
  rw [Core.g, Core.g, Ctx.entryOf, Ctx.entryOf, hk, hx]

theorem State.result_wbase (s : State) (c : Cur) (sw : Bool) (a : GReg) (v : Word) (lat : Nat) :
    ((s.result c sw a v lat).hw.ctx c.core c.slot).wbase = (s.hw.ctx c.core c.slot).wbase := by
  obtain ⟨pc, lp, nb, xstep, role, w, hctx, -⟩ := s.result_curCtx c sw a v lat
  rw [Hw.curCtx, Hw.curCtx] at hctx
  rw [hctx]

theorem State.result_g (s : State) (c : Cur) (sw : Bool) (a : GReg) (v : Word) (lat n : Nat) :
    (s.result c sw a v lat).hw.g c.core c.slot n = s.hw.g c.core c.slot n := by
  obtain ⟨slots, empty, lastIssue, ptr, hcore⟩ := s.result_sameUnits c sw a v lat
  exact Core.g_congr _ _ _ _ _ (by rw [hcore]) (s.result_wbase c sw a v lat)

theorem State.result_isFull (s : State) (c : Cur) (sw : Bool) (a : GReg) (v : Word) (lat n : Nat) :
    (s.result c sw a v lat).hw.isFull c.core c.slot n =
      ((s.hw.core c.core).putFull (s.hw.ctx c.core c.slot) a.toNat false).fullBit (s.hw.ctx c.core c.slot) n := by
  refine Core.fullBit_congr _ _ _ _ _ ?_ (s.result_wbase c sw a v lat)
  rw [State.core_result, Hw.core_setG]
  split
  case isTrue h => rw [h]; rfl
  case isFalse => rfl

theorem State.result_frame (s : State) (c : Cur) (sw : Bool) (a : GReg) (v : Word) (lat : Nat) :
    ResultFrame s (s.result c sw a v lat) c a := by
  obtain ⟨pc, lp, nb, xstep, role, w, hctx, -⟩ := s.result_curCtx c sw a v lat
  have hpend : ((s.result c sw a v lat).hw.curCtx c).pend =
      (s.hw.curCtx c).pend ++ if a.toNat = 0 then [] else [.fixed a.toNat (s.hw.now + lat) v] := by rw [hctx]
  refine ⟨rfl, s.result_onlyCore c sw a v lat, s.result_sameUnits c sw a v lat, s.result_sameStatus c sw a v lat,
    s.result_othersYield c sw a v lat, s.result_g c sw a v lat, fun n hn => ?_, fun ha => ?_, fun ha => ?_⟩
  · rw [State.result_isFull, Core.fullBit_putFull_ne _ _ _ _ _ hn.symm]
    rfl
  · have hne : a.toNat ≠ 0 := fun h => ha (BitVec.eq_of_toNat_eq h)
    rw [State.result_isFull, Core.fullBit_putFull _ _ _ _ hne, hpend, if_neg hne]
    exact ⟨rfl, _, _, rfl⟩
  · subst ha
    rw [hpend]
    exact ⟨rfl, List.append_nil _⟩

/-! ### The scalar forms with one result -/

theorem State.atHand_subset {s : State} {c : Cur} {rs rs' : List Nat} (h : s.atHand c rs) (hsub : rs' ⊆ rs) : s.atHand c rs' :=
  ⟨h.1, fun n hn => h.2 n (hsub hn)⟩

theorem State.compute_result {s : State} {c : Cur} {sw : Bool} {a : GReg} {srcs : List GReg} {lat : Nat} (h : s.atHand c (regs srcs))
    (f : (GReg → Word) → Word) : ∃ v lat', s.compute sw a srcs lat f = .next (s.result c sw a v lat') :=
  ⟨_, _, State.compute_atHand h f⟩

/-- SHI with its source at hand and an amount below 64 (R122). -/
theorem execShi_atHand {s : State} {c : Cur} (sw : Bool) (kind : ShKind) (a x : GReg) (n : BitVec 6) (h : s.atHand c (regs [x])) :
    execShi sw kind a x (n.setWidth 13) s = .next (s.result c sw a (shiftOp kind (s.hw.cg c x) (n.setWidth 13).toNat) 2) := by
  have hn : ¬63 < (n.setWidth 13).toNat := by
    have := n.isLt
    rw [BitVec.toNat_setWidth]
    omega
  rw [execShi, State.withCur_some h.1, if_neg hn, State.reads_atHand h, State.result, State.onHw, State.onHw]

/-- Settles O59, by the common course of the forms: with its sources at hand each leaves `State.result` of some value at some latency, and the
frame of that is `State.result_frame`. -/
theorem scalarFrame : Obligations.ScalarFrame := by
  intro s c sw ty cd ts kind a x y imm n o haxy i hi
  suffices h : ∃ v lat, exec i s = .next (s.result c sw a v lat) by
    obtain ⟨v, lat, hexec⟩ := h
    exact ⟨_, hexec, s.result_frame c sw a v lat⟩
  have hxy : s.atHand c (regs [x, y]) := State.atHand_subset haxy (by simp [regs])
  have hx : s.atHand c (regs [x]) := State.atHand_subset haxy (by simp [regs])
  have hnone : s.atHand c (regs []) := State.atHand_subset haxy (by simp [regs])
  have two (lat : Nat) (f : (GReg → Word) → Word) : ∃ v lat', s.compute sw a [x, y] lat f = .next (s.result c sw a v lat') :=
    State.compute_result hxy f
  have one (lat : Nat) (f : (GReg → Word) → Word) : ∃ v lat', s.compute sw a [x] lat f = .next (s.result c sw a v lat') :=
    State.compute_result hx f
  revert i
  simp only [List.forall_mem_cons, List.not_mem_nil, false_imp_iff, implies_true, and_true, exec_add, exec_sub, exec_mul, exec_mulh,
    exec_div, exec_rem, exec_min, exec_max, exec_cmp, exec_addi, exec_cmpi, exec_ext, exec_and, exec_or, exec_xor, exec_andn, exec_shl,
    exec_shr, exec_sar, exec_rot, exec_sel, exec_clz, exec_popc, exec_shi, exec_mov, exec_li, execAdd, execSub, execMul, execMulh, execDiv,
    execRem, execMin, execMax, execCmp, execAddi, execCmpi, execExt, execAnd, execOr, execXor, execAndn, execShl, execShr, execSar, execRot,
    execSel, execClz, execPopc, execMov, execLi]
  exact ⟨two _ _, two _ _, two _ _, two _ _, two _ _, two _ _, two _ _, two _ _, two _ _, one _ _, one _ _, one _ _, two _ _, two _ _, two _ _,
    two _ _, two _ _, two _ _, two _ _, two _ _, State.compute_result haxy _, one _ _, one _ _, ⟨_, _, execShi_atHand sw kind a x n hx⟩,
    one _ _, State.compute_result hnone _⟩

end Sys2Proof.Machine
end

section
/-! PROOFS. What taking a fault changes and leaves alone (00_scope R11, R12; 04_context R81 to R83, R103; O58). -/

namespace Sys2Proof.Machine

/-! ### What a fault leaves alone -/

theorem mem_insertDue (l : List Due) (d e : Due) : e ∈ insertDue l d ↔ e = d ∨ e ∈ l := by
  induction l with
  | nil => simp [insertDue]
  | cons x r ih =>
    simp only [insertDue]
    split
    · exact List.mem_cons
    · rw [List.mem_cons, ih, List.mem_cons]
      exact or_left_comm

theorem Hw.mem_agenda_schedule (h : Hw) (n : Nat) (i : Instr) (a : Arg) (e : Due) :
    e ∈ (h.schedule n i a).agenda ↔ e = ⟨n, i, a⟩ ∨ e ∈ h.agenda := mem_insertDue _ _ _

@[simp] theorem Hw.core_schedule (h : Hw) (n : Nat) (i : Instr) (a : Arg) (d : Nat) : (h.schedule n i a).core d = h.core d := rfl

/-- What a record does to its core: it goes to `e4`, or is lost there (R103, R473). -/
def Core.posted (k : Core) (r : BitVec 256) : Core :=
  if k.e4.length < 16 then { k with e4 := k.e4 ++ [if k.e4Lost then putBits r 23 1 1 else r], e4Lost := false }
  else { k with e4Lost := true }

theorem Core.posted_eq (k : Core) (r : BitVec 256) : ∃ e4 lost, k.posted r = { k with e4 := e4, e4Lost := lost } := by
  unfold Core.posted
  split <;> exact ⟨_, _, rfl⟩

/-- A record that finds room in `e4`, none having been lost there, is placed as it is. -/
theorem Core.posted_e4 (k : Core) (r : BitVec 256) (hroom : k.e4.length < 16) (hlost : k.e4Lost = false) : (k.posted r).e4 = k.e4 ++ [r] := by
  simp [Core.posted, hroom, hlost]

/-- Of a module a record changes the event queue of a tenant, and of the rest its core. -/
theorem Hw.post_eq (h : Hw) (core : Nat) (r : BitVec 256) : ∃ mods, h.post core r =
    ({ h with mods := mods } : Hw).modCore core (fun k => k.posted r) := by
  unfold Hw.post
  split <;> exact ⟨_, rfl⟩

theorem Hw.core_post (h : Hw) (core : Nat) (r : BitVec 256) : (h.post core r).core core = (h.core core).posted r := by
  obtain ⟨mods, hpost⟩ := h.post_eq core r
  rw [hpost, Hw.core_modCore]
  rfl

theorem Hw.core_post_ne (h : Hw) (core : Nat) (r : BitVec 256) (d : Nat) (hd : core ≠ d) : (h.post core r).core d = h.core d := by
  obtain ⟨mods, hpost⟩ := h.post_eq core r
  rw [hpost, Hw.core_modCore_ne _ _ _ _ hd]
  rfl

@[simp] theorem Hw.core_departs (h : Hw) (core slot d : Nat) : (h.departs core slot).core d = h.core d := by
  unfold Hw.departs
  split <;> rfl

theorem Hw.departs_bookEnds (h : Hw) (core slot : Nat) : (h.departs core slot).bookEnds = h.bookEnds := by
  unfold Hw.departs
  split <;> rfl

/-- The departure from a core's barrier channels is bound to this cycle (R206). -/
theorem Hw.mem_agenda_departs (h : Hw) (core slot : Nat)
    (hin : (h.core core).chans.any (fun (c : Nat × Chan) => c.2.active && c.2.mask.getLsbD slot) = true) :
    ⟨h.now, .barrierDeparture, .nats [core, slot]⟩ ∈ (h.departs core slot).agenda := by
  rw [Hw.departs, if_pos hin, Hw.mem_agenda_schedule]
  exact .inl rfl

/-- A pending checkpoint ends, and of its context only the mark of it changes (R257). -/
theorem Hw.core_dropCkpt (h : Hw) (core slot : Nat) : ∃ slots mark, (h.dropCkpt core slot).core core = { h.core core with slots := slots } ∧
    (h.dropCkpt core slot).ctx core slot = { h.ctx core slot with ckptMark := mark } := by
  unfold Hw.dropCkpt
  split
  · exact ⟨_, _, rfl, rfl⟩
  · rw [Hw.ctx, Hw.after, Hw.core_schedule, Hw.core_modCtx, Core.ctx_setCtx]
    exact ⟨_, _, rfl, rfl⟩

theorem Hw.core_dropCkpt_ne (h : Hw) (core slot d : Nat) (hd : core ≠ d) : (h.dropCkpt core slot).core d = h.core d := by
  unfold Hw.dropCkpt
  split
  · rfl
  · rw [Hw.after, Hw.core_schedule, Hw.core_modCtx_ne _ _ _ _ _ hd]

theorem Hw.dropCkpt_bookEnds (h : Hw) (core slot : Nat) : (h.dropCkpt core slot).bookEnds = h.bookEnds := by
  unfold Hw.dropCkpt
  split <;> rfl

theorem Hw.mem_agenda_dropCkpt (h : Hw) (core slot : Nat) {e : Due} (he : e ∈ h.agenda) : e ∈ (h.dropCkpt core slot).agenda := by
  unfold Hw.dropCkpt
  split
  · exact he
  · exact (Hw.mem_agenda_schedule _ _ _ _ _).mpr (.inr he)

/-- The context of a fault (R11, R81). -/
def Ctx.faulted (x : Ctx) (f : FaultRec) : Ctx :=
  ({ x with
    st := .faulted, park := none, fra := f.fra, frb := BitVec.ofNat 64 f.frb, access := none, swWait := false,
    yieldWait := none, hazOn := none, imaged := false, pc := f.pc }).settle

/-- A fault writes FRA and FRB, EFF is DECL again, and the other status registers stand. -/
theorem Ctx.faulted_eq (x : Ctx) (f : FaultRec) : ∃ role w, x.faulted f =
    { x with
      st := .faulted, park := none, fra := f.fra, frb := BitVec.ofNat 64 f.frb, access := none, swWait := false, yieldWait := none,
      hazOn := none, imaged := false, pc := f.pc, role := role, w := w } ∧ (x.faulted f).decl = x.decl :=
  ⟨_, _, rfl, Ctx.decl_settle _⟩

/-- The record of a fault (R103). -/
def Hw.faultRecord (h : Hw) (core slot : Nat) (f : FaultRec) : BitVec 256 :=
  eventRecord (h.count core) core slot (Cause.code f.cause) (h.ctx core slot).flags kindFault f.fra.toNat f.frb

/-- A context that waits for no result has none to give up when it faults. -/
theorem Core.undoWait_none (k : Core) (slot : Nat) (hw : (k.ctx slot).waiting = none) : k.undoWait slot = k := by
  rw [Core.undoWait, hw]

/-- A fault up to its record: the context and the record. -/
def Hw.faultCtx (h : Hw) (core slot : Nat) (f : FaultRec) : Hw :=
  ((h.modCore core (fun k => k.undoWait slot)).setCtx core slot ((h.ctx core slot).faulted f)).post core (h.faultRecord core slot f)

/-- The part of a booking ends with a fault of its context (R317). -/
def Hw.bookingHears (h : Hw) (core : Nat) (x : Ctx) : Hw :=
  if x.booked then { h with bookEnds := h.bookEnds ++ [(core, x.bookid.toNat, 1)] } else h

/-- The gang of a member is bound to hear of its fault, unless the fault came from the gang (R339). -/
def Hw.gangHears (h : Hw) (now core : Nat) (x : Ctx) (f : FaultRec) : Hw :=
  match x.gang with
  | none => h
  | some (cl, g) => if f.cause = .gangMember then h else h.schedule now .gangMemberFault (.nats [cl, g, core])

@[simp] theorem Hw.core_bookingHears (h : Hw) (core : Nat) (x : Ctx) (d : Nat) : (h.bookingHears core x).core d = h.core d := by
  unfold Hw.bookingHears
  split <;> rfl

@[simp] theorem Hw.core_gangHears (h : Hw) (now core : Nat) (x : Ctx) (f : FaultRec) (d : Nat) :
    (h.gangHears now core x f).core d = h.core d := by
  unfold Hw.gangHears
  split
  · rfl
  · split <;> rfl

theorem Hw.bookingHears_agenda (h : Hw) (core : Nat) (x : Ctx) : (h.bookingHears core x).agenda = h.agenda := by
  unfold Hw.bookingHears
  split <;> rfl

theorem Hw.mem_agenda_gangHears (h : Hw) (now core : Nat) (x : Ctx) (f : FaultRec) {e : Due} (he : e ∈ h.agenda) :
    e ∈ (h.gangHears now core x f).agenda := by
  unfold Hw.gangHears
  split
  · exact he
  · split
    · exact he
    · exact (Hw.mem_agenda_schedule _ _ _ _ _).mpr (.inr he)

theorem Hw.gangHears_bookEnds (h : Hw) (now core : Nat) (x : Ctx) (f : FaultRec) : (h.gangHears now core x f).bookEnds = h.bookEnds := by
  unfold Hw.gangHears
  split
  · rfl
  · split <;> rfl

/-- After its record a fault departs from the barrier channels and ends a checkpoint; then a booking and a gang hear of it. -/
theorem Hw.raise_eq (h : Hw) (core slot : Nat) (f : FaultRec) (hw : (h.ctx core slot).waiting = none) :
    h.raise core slot f =
      ((((h.faultCtx core slot f).departs core slot).dropCkpt core slot).bookingHears core (h.ctx core slot)).gangHears h.now core
        (h.ctx core slot) f := by
  have hctx : (h.modCore core (fun k => k.undoWait slot)).ctx core slot = h.ctx core slot := by
    rw [Hw.ctx, Hw.core_modCore, Core.undoWait_none _ _ hw]
    rfl
  rw [Hw.raise, hctx]
  rfl

theorem Hw.core_faultCtx (h : Hw) (core slot : Nat) (f : FaultRec) (hw : (h.ctx core slot).waiting = none) :
    (h.faultCtx core slot f).core core = ((h.core core).setCtx slot ((h.ctx core slot).faulted f)).posted (h.faultRecord core slot f) := by
  rw [Hw.faultCtx, Hw.core_post, Hw.setCtx, Hw.core_modCore, Hw.core_modCore, Core.undoWait_none _ _ hw]

theorem Hw.core_faultCtx_ne (h : Hw) (core slot : Nat) (f : FaultRec) (d : Nat) (hd : core ≠ d) :
    (h.faultCtx core slot f).core d = h.core d := by
  rw [Hw.faultCtx, Hw.core_post_ne _ _ _ _ hd, Hw.setCtx, Hw.core_modCore_ne _ _ _ _ hd, Hw.core_modCore_ne _ _ _ _ hd]

section raise
variable (h : Hw) (core slot : Nat) (f : FaultRec) (hw : (h.ctx core slot).waiting = none)
include hw

/-- A fault changes no other core. -/
theorem Hw.core_raise_ne (d : Nat) (hd : core ≠ d) : (h.raise core slot f).core d = h.core d := by
  rw [h.raise_eq core slot f hw, Hw.core_gangHears, Hw.core_bookingHears, Hw.core_dropCkpt_ne _ _ _ _ hd, Hw.core_departs,
    Hw.core_faultCtx_ne _ _ _ _ _ hd]

/-- Of its core a fault changes the contexts and `e4`. -/
theorem Hw.core_raise : ∃ slots e4 lost, (h.raise core slot f).core core = { h.core core with slots := slots, e4 := e4, e4Lost := lost } ∧
    ((h.core core).e4.length < 16 → (h.core core).e4Lost = false → e4 = (h.core core).e4 ++ [h.faultRecord core slot f]) := by
  obtain ⟨slots, -, hdrop, -⟩ := ((h.faultCtx core slot f).departs core slot).core_dropCkpt core slot
  have hpost := ((h.core core).setCtx slot ((h.ctx core slot).faulted f)).posted_e4 (h.faultRecord core slot f)
  obtain ⟨e4, lost, heq⟩ := ((h.core core).setCtx slot ((h.ctx core slot).faulted f)).posted_eq (h.faultRecord core slot f)
  rw [heq] at hpost
  rw [h.raise_eq core slot f hw, Hw.core_gangHears, Hw.core_bookingHears, hdrop, Hw.core_departs, h.core_faultCtx core slot f hw, heq]
  exact ⟨slots, e4, lost, rfl, hpost⟩

/-- The context that faults is the one it was, Faulted, but for the mark of a pending checkpoint. -/
theorem Hw.ctx_raise : ∃ mark, (h.raise core slot f).ctx core slot = { (h.ctx core slot).faulted f with ckptMark := mark } := by
  obtain ⟨-, mark, -, hdrop⟩ := ((h.faultCtx core slot f).departs core slot).core_dropCkpt core slot
  obtain ⟨e4, lost, heq⟩ := ((h.core core).setCtx slot ((h.ctx core slot).faulted f)).posted_eq (h.faultRecord core slot f)
  have hctx : ((h.faultCtx core slot f).departs core slot).ctx core slot = (h.ctx core slot).faulted f := by
    rw [Hw.ctx, Hw.core_departs, h.core_faultCtx core slot f hw, heq]
    exact Core.ctx_setCtx _ _ _
  rw [hctx] at hdrop
  rw [h.raise_eq core slot f hw, Hw.ctx, Hw.core_gangHears, Hw.core_bookingHears]
  exact ⟨mark, hdrop⟩

theorem Hw.faultCtx_chans : ((h.faultCtx core slot f).core core).chans = (h.core core).chans := by
  obtain ⟨e4, lost, heq⟩ := ((h.core core).setCtx slot ((h.ctx core slot).faulted f)).posted_eq (h.faultRecord core slot f)
  rw [h.core_faultCtx core slot f hw, heq]
  rfl

omit hw in
theorem Hw.faultCtx_now : (h.faultCtx core slot f).now = h.now := by
  obtain ⟨mods, hpost⟩ := ((h.modCore core (fun k => k.undoWait slot)).setCtx core slot ((h.ctx core slot).faulted f)).post_eq core
    (h.faultRecord core slot f)
  rw [Hw.faultCtx, hpost]
  rfl

omit hw in
theorem Hw.faultCtx_bookEnds : (h.faultCtx core slot f).bookEnds = h.bookEnds := by
  obtain ⟨mods, hpost⟩ := ((h.modCore core (fun k => k.undoWait slot)).setCtx core slot ((h.ctx core slot).faulted f)).post_eq core
    (h.faultRecord core slot f)
  rw [Hw.faultCtx, hpost]
  rfl

theorem Hw.raise_departs (hin : (h.core core).chans.any (fun (c : Nat × Chan) => c.2.active && c.2.mask.getLsbD slot) = true) :
    ⟨h.now, .barrierDeparture, .nats [core, slot]⟩ ∈ (h.raise core slot f).agenda := by
  rw [← h.faultCtx_chans core slot f hw] at hin
  have hdep := (h.faultCtx core slot f).mem_agenda_departs core slot hin
  rw [h.faultCtx_now core slot f] at hdep
  rw [h.raise_eq core slot f hw]
  refine Hw.mem_agenda_gangHears _ _ _ _ _ ?_
  rw [Hw.bookingHears_agenda]
  exact Hw.mem_agenda_dropCkpt _ _ _ hdep

theorem Hw.raise_gang {cl g : Nat} (hg : (h.ctx core slot).gang = some (cl, g)) (hf : f.cause ≠ .gangMember) :
    ⟨h.now, .gangMemberFault, .nats [cl, g, core]⟩ ∈ (h.raise core slot f).agenda := by
  rw [h.raise_eq core slot f hw, Hw.gangHears, hg]
  simp only [if_neg hf]
  exact (Hw.mem_agenda_schedule _ _ _ _ _).mpr (.inl rfl)

theorem Hw.raise_bookEnds (hb : (h.ctx core slot).booked = true) :
    (h.raise core slot f).bookEnds = h.bookEnds ++ [(core, (h.ctx core slot).bookid.toNat, 1)] := by
  rw [h.raise_eq core slot f hw, Hw.gangHears_bookEnds, Hw.bookingHears, if_pos hb, Hw.dropCkpt_bookEnds, Hw.departs_bookEnds,
    Hw.faultCtx_bookEnds]

end raise

/-! ### A chain that faults -/

theorem eventRecord_mod (now core slot cause flags kind d0 d1 : Nat) :
    eventRecord now core slot cause flags kind (d0 % 2 ^ 64) d1 = eventRecord now core slot cause flags kind d0 d1 := by
  rw [eventRecord, eventRecord, Nat.mod_mod]

/-- FRA of a fault that a chain raises without an address (R81). -/
def Cur.fraOf (c : Cur) (cause : Cause) (sub : Nat) : Nat :=
  Cause.code cause + sub % 2 ^ 8 * 2 ^ 8 + (c.len - 1) % 2 ^ 3 * 2 ^ 20 + c.op % 2 ^ 6 * 2 ^ 23 + c.page % 2 ^ 4 * 2 ^ 29 +
    c.entry % 2 ^ 6 * 2 ^ 33 + c.pc % 2 ^ 17 * 2 ^ 39

theorem Cur.fault_fra (c : Cur) (cause : Cause) (sub frb : Nat) : (c.fault cause sub frb).fra =
    BitVec.ofNat 64 (c.fraOf cause sub) := by
  rw [FaultRec.fra, Cur.fraOf]
  congr 1
  simp only [Cur.fault]
  omega

@[simp] theorem Cur.fault_cause (c : Cur) (cause : Cause) (sub frb : Nat) : (c.fault cause sub frb).cause = cause := rfl
@[simp] theorem Cur.fault_frb (c : Cur) (cause : Cause) (sub frb : Nat) : (c.fault cause sub frb).frb = frb % 2 ^ 64 := rfl

@[simp] theorem Hw.count_issued (h : Hw) (c : Cur) (core : Nat) : (h.issued c).count core = h.count core := rfl

/-- FLAGS of a record depend on the context only by TS (R102). -/
theorem Ctx.flags_congr {x y : Ctx} (h : y.ts = x.ts) : y.flags = x.flags := by
  simp only [Ctx.flags, Ctx.service, Ctx.booked, Ctx.tsBit, h]

section
variable (s : State) (c : Cur) (cause : Cause) (sub frb : Nat)

theorem State.curCtx_issued : (s.hw.issued c).ctx c.core c.slot =
    { (s.hw.curCtx c).settle with xstep := if c.page = 15 then (s.hw.curCtx c).xstep else 0 } := by
  rw [Hw.ctx, Hw.core_issued, Core.ctx_issued]
  rfl

theorem Hw.core_issued_eq (h : Hw) : ∃ slots lastIssue ptr,
    (h.issued c).core c.core = { h.core c.core with slots := slots, lastIssue := lastIssue, ptr := ptr } := by
  rw [Hw.core_issued]
  exact Core.issued_eq _ _ _

/-- The record of a fault that a chain raises (R81, R102, R103). -/
theorem State.faultRecord_issued : (s.hw.issued c).faultRecord c.core c.slot (c.fault cause sub frb) =
    eventRecord (s.hw.count c.core) c.core c.slot (Cause.code cause) (s.hw.curCtx c).flags 0x0001
      (c.fraOf cause sub) (frb % 2 ^ 64) := by
  have hflags : ((s.hw.issued c).ctx c.core c.slot).flags = (s.hw.curCtx c).flags :=
    Ctx.flags_congr (by rw [State.curCtx_issued, Ctx.settle_ts])
  rw [Hw.faultRecord, hflags, Hw.count_issued, Cur.fault_fra, BitVec.toNat_ofNat, eventRecord_mod, Cur.fault_cause, Cur.fault_frb, kindFault]

theorem State.booked_issued : ((s.hw.issued c).ctx c.core c.slot).booked = (s.hw.curCtx c).booked := by
  rw [State.curCtx_issued, Ctx.booked, Ctx.booked, Ctx.tsBit, Ctx.tsBit, Ctx.settle_ts]

theorem State.bookid_issued : ((s.hw.issued c).ctx c.core c.slot).bookid = (s.hw.curCtx c).bookid := by
  rw [State.curCtx_issued, Ctx.settle_bookid]

theorem State.gang_issued : ((s.hw.issued c).ctx c.core c.slot).gang = (s.hw.curCtx c).gang := by
  rw [State.curCtx_issued, Ctx.settle_gang]

theorem Hw.chans_issued (h : Hw) : ((h.issued c).core c.core).chans = (h.core c.core).chans := by
  rw [Hw.core_issued]
  rfl

section
variable (hw : (s.hw.curCtx c).waiting = none)
include hw

theorem State.waiting_issued : ((s.hw.issued c).ctx c.core c.slot).waiting = none := by
  rw [State.curCtx_issued]
  exact hw

/-- The core of a chain that faults: its contexts, the choice of the next one, and `e4`. -/
theorem State.core_faultWith : ∃ slots lastIssue ptr e4 lost, (s.faultWith c cause sub frb).hw.core c.core =
      { s.hw.core c.core with slots := slots, lastIssue := lastIssue, ptr := ptr, e4 := e4, e4Lost := lost } ∧
    ((s.hw.core c.core).e4.length < 16 → (s.hw.core c.core).e4Lost = false →
      e4 = (s.hw.core c.core).e4 ++ [(s.hw.issued c).faultRecord c.core c.slot (c.fault cause sub frb)]) := by
  obtain ⟨_, lastIssue, ptr, hissued⟩ := s.hw.core_issued_eq c
  obtain ⟨slots, e4, lost, hraise, he4⟩ := (s.hw.issued c).core_raise c.core c.slot (c.fault cause sub frb) (s.waiting_issued c hw)
  rw [hissued] at hraise he4
  exact ⟨slots, lastIssue, ptr, e4, lost, hraise, he4⟩

/-- The context of a chain that faults is Faulted at the chain; of its status registers FRA, FRB, XSTEP and ROLE.EFF have changed. -/
theorem State.curCtx_faultWith : ∃ xstep mark role w, (s.faultWith c cause sub frb).hw.curCtx c =
      { s.hw.curCtx c with
        st := .faulted, park := none, fra := (c.fault cause sub frb).fra, frb := BitVec.ofNat 64 (frb % 2 ^ 64), access := none,
        swWait := false, yieldWait := none, hazOn := none, imaged := false, pc := c.pc, xstep := xstep, ckptMark := mark, role := role, w := w } ∧
    ((s.faultWith c cause sub frb).hw.curCtx c).decl = (s.hw.curCtx c).decl := by
  obtain ⟨mark, hraise⟩ := (s.hw.issued c).ctx_raise c.core c.slot (c.fault cause sub frb) (s.waiting_issued c hw)
  obtain ⟨role, w, hfaulted, hdecl⟩ := ((s.hw.issued c).ctx c.core c.slot).faulted_eq (c.fault cause sub frb)
  rw [State.faultWith, State.onHw_hw, Hw.faultChain, Hw.curCtx, hraise]
  refine ⟨if c.page = 15 then (s.hw.curCtx c).xstep else 0, mark, role, w, ?_, ?_⟩
  · rw [hfaulted, State.curCtx_issued]
    rfl
  · refine hdecl.trans ?_
    rw [State.curCtx_issued]
    exact (s.hw.curCtx c).decl_settle

theorem State.core_faultWith_ne (d : Nat) (hd : d ≠ c.core) : (s.faultWith c cause sub frb).hw.core d = s.hw.core d :=
  (Hw.core_raise_ne _ _ _ _ (s.waiting_issued c hw) d hd.symm).trans (s.hw.core_issued_ne c d hd.symm)

theorem State.faultWith_departs
    (hin : (s.hw.core c.core).chans.any (fun (e : Nat × Chan) => e.2.active && e.2.mask.getLsbD c.slot) = true) :
    ⟨s.hw.now, .barrierDeparture, .nats [c.core, c.slot]⟩ ∈ (s.faultWith c cause sub frb).hw.agenda := by
  rw [← s.hw.chans_issued c] at hin
  exact Hw.raise_departs _ _ _ _ (s.waiting_issued c hw) hin

theorem State.faultWith_gang {cl g : Nat} (hg : (s.hw.curCtx c).gang = some (cl, g)) (hcause : cause ≠ .gangMember) :
    ⟨s.hw.now, .gangMemberFault, .nats [cl, g, c.core]⟩ ∈ (s.faultWith c cause sub frb).hw.agenda := by
  rw [← s.gang_issued c] at hg
  exact Hw.raise_gang _ _ _ _ (s.waiting_issued c hw) hg hcause

theorem State.faultWith_bookEnds (hb : (s.hw.curCtx c).booked = true) :
    (s.faultWith c cause sub frb).hw.bookEnds = s.hw.bookEnds ++ [(c.core, (s.hw.curCtx c).bookid.toNat, 1)] := by
  rw [← s.booked_issued c] at hb
  rw [← s.bookid_issued c]
  exact Hw.raise_bookEnds _ _ _ _ (s.waiting_issued c hw) hb

end

end

/-- Settles O58, from what the issue and then the fault change of the chain's core and context, and what the fault leaves in the agenda. -/
theorem faultsTaken : Obligations.FaultsTaken := by
  intro s c cause sub frb x t y k fra hw
  obtain ⟨slots, lastIssue, ptr, e4, lost, hcore, he4⟩ := s.core_faultWith c cause sub frb hw
  obtain ⟨xstep, mark, role, w, hctx, hdecl⟩ := s.curCtx_faultWith c cause sub frb hw
  have hwbase : (t.hw.ctx c.core c.slot).wbase = (s.hw.ctx c.core c.slot).wbase := by rw [← Hw.curCtx, ← Hw.curCtx, hctx]
  have hreg (n : Nat) : t.hw.g c.core c.slot n = s.hw.g c.core c.slot n ∧ t.hw.isFull c.core c.slot n = s.hw.isFull c.core c.slot n :=
    ⟨Core.g_congr _ _ _ _ _ (by rw [hcore]) hwbase, Core.fullBit_congr _ _ _ _ _ (by rw [hcore]) hwbase⟩
  have hrecord : k.e4.length < 16 → k.e4Lost = false → (t.hw.core c.core).e4 =
      k.e4 ++ [eventRecord (s.hw.count c.core) c.core c.slot (Cause.code cause) x.flags 0x0001 (c.fraOf cause sub) (frb % 2 ^ 64)] := by
    rw [hcore, ← s.faultRecord_issued]
    exact he4
  have hrf : (t.hw.core c.core).rf = k.rf := by rw [hcore]
  have hfrb : BitVec.ofNat 64 (frb % 2 ^ 64) = BitVec.ofNat 64 frb := BitVec.eq_of_toNat_eq (by simp)
  rw [Cur.fault_fra, hfrb] at hctx
  have hcores := s.core_faultWith_ne c cause sub frb hw
  have hdeparts := s.faultWith_departs c cause sub frb hw
  have hgang := fun cl g => s.faultWith_gang c cause sub frb hw (cl := cl) (g := g)
  have hbook := s.faultWith_bookEnds c cause sub frb hw
  change y = _ at hctx
  change y.decl = x.decl at hdecl
  clear_value y
  subst hctx
  exact ⟨rfl, rfl, rfl, rfl, rfl, rfl, hreg, rfl, hdecl, rfl, rfl, rfl, rfl, rfl, rfl, rfl, rfl, rfl, rfl, rfl, rfl, rfl, hrecord, hrf,
    hcores, hdeparts, hgang, hbook⟩

end Sys2Proof.Machine
end

section
/-! PROOFS. No instruction is refused, and a form that a chain carries answers a next state while a chain is being issued (O57). -/

namespace Sys2Proof.Machine

/-- Every form that a chain carries runs on the chain that is being issued. -/
theorem exec_eq_withCur (i : Instr) (s : State) (hi : i.fullForm.isSome = true) : ∃ k, exec i s = s.withCur k := by
  cases i
  case vbcast | vmovm => exact ⟨_, rfl⟩
  all_goals cases hi
  all_goals exact ⟨_, rfl⟩

theorem State.withCur_ne_refused (s : State) (k : Cur → State) (r : Refusal) : s.withCur k ≠ .refused r := by
  unfold State.withCur
  split <;> nofun

theorem State.matStep_ne_refused (s : State) (done : State → Nat → MCmd → Nat → State) (r : Refusal) : s.matStep done ≠ .refused r := by
  unfold State.matStep
  split <;> nofun

/-- A step without an encoding is one match on the argument it was bound with: a next state, or the fault of an argument of another kind. -/
theorem exec_step_ne_refused (i : Instr) (s : State) (hi : i.fullForm = none) (r : Refusal) : exec i s ≠ .refused r := by
  cases i
  case vbcast src => cases src <;> cases hi
  case vmovm op => cases op <;> cases hi
  all_goals cases hi
  case powerOnReset | moduleNumberWaitExpiry | bootUplinkTrain | bootRelease | telemetrySample | linkCalibrationGrain => nofun
  case matrixLoadExec | mrdExec | mwrExec =>
    simp only [exec, execMatrixLoadExec, execMrdExec, execMwrExec]
    exact s.matStep_ne_refused _ r
  case latchEccError =>
    simp only [exec, execLatchEccError]
    split
    · split <;> nofun
    · nofun
  case remoteFailureReport | fabricTimeout =>
    simp only [exec, execRemoteFailureReport, execFabricTimeout]
    split <;> nofun
  all_goals
    simp only [exec,
      -- memory, FENCE and the copy engine
      execFenceComplete, execRelaxedLoadResult, execStoreAcknowledge, execTagRetryRequest, execMonitorWake, execMwaitTimedWake,
      execCopyCommandStart, execCopyCommandComplete,
      -- code, grant sets and the start of a context
      execCodeMissRetry, execCodeFetchReply, execCodeInstall, execCodeNoSource, execGrantSetLoadComplete, execTaskReady,
      -- messages, SPAWN, TRAP, YIELD and the mode of a core
      execSendArrival, execSendStatus, execOverflowDelivery, execSpawnArrival, execTrapReply, execYieldExpiry, execAgeingPromotion,
      execCoreModeSet,
      -- CODEINV, barriers, gangs and pipes
      execCodeinvComplete, execBarrierArmApplied, execBarrierArrivalAtNode, execBarrierRelease, execBarrierDeparture, execGangJoinAtNode,
      execGangRelease, execGangMemberFault, execPipeEntryArrival, execPipeFreeReport,
      -- the matrix unit
      execMzeroExec, execMsclExec, execBaddqExec, execMmaExec, execMmaGangStart,
      -- tensors and the vector unit
      execTensorReturn, execDeathAction, execReturnReply, execGatherElementReply, execVectorRowWrite, execSfuRequestDone,
      -- the link and the tree
      execMcwComplete, execMulticastCopyArrival, execMcsendResult, execReductionContribution, execReductionSlotTimeout,
      execReductionSlotExpiry, execRedwResult, execHeaderFlitRefused, execDataFlitPoisoned, execLinkDown, execLaneLost,
      execLinkRetrainTimer, execLinkTrainingDone, execLinkTrainingTimeout, execDownNotice, execUpNotice, execOwnUplinksDown,
      -- regions and the spill engine
      execFcommitDecision, execContextSpill, execForwardProgressSpill, execSpillComplete, execContextRestore, execCheckpointRestore,
      execRestoreComplete, execCheckpointSave, execBrsResume,
      -- tasks
      execCorePeckRequest, execCorePeckArrival, execClusterPeckRequest, execClusterPeckArrival, execDieQueueEnlarge, execDispatcherStart,
      execStealRequest, execStealReply, execStealWalkWaitExpiry, execRemoteAccessAtBank, execPlainAccessReply, execCellReleaseInsert,
      execTaskRetire, execPairedCompare,
      -- packages
      execBrsCodeSearch, execPeerContainerReply, execResidentTranslation, execNvmeReadComplete, execPackageLoadRequest,
      execPackageUnloadRequest, execPackageUnloadComplete, execGraphLaunch,
      -- the calendar
      execBookingDecision, execStagingBegin, execStagingStepRetry, execBookingStart, execBookingSlip, execSlackGrain, execBookingOverrun,
      -- the end of a context, tenants and launches
      execBrsDiscard, execUltraEthernetSessionOpen, execLaunchRequest, execEventForward, execTenantAcknowledge, execOperatorRequest,
      execClusterAllocation, execClusterClear, execTenantDeletion, execAttestationRequest,
      -- start-up, power and background work
      execI3cReset, execModnum, execBootFirmwareVerify, execBootDramTrain, execBootKMapLock, execBootBrsVerify, execThermalThrottle,
      execThermalHalt, execDramRefreshGrain, execScratchpadScrubGrain,
      -- core images and translations
      execCoreImageComplete, execTlbWalkComplete, execTlbinvComplete, execPageWakeRetry, execPageWakeDeny]
    split <;> nofun

/-- Settles O57, by the two kinds of form: one that a chain carries runs on the chain being issued, and a step without an encoding answers by
its argument. -/
theorem nothingRefused : Obligations.NothingRefused := by
  intro i s
  refine ⟨fun r => ?_, fun hi hcur => ?_⟩
  · cases hform : i.fullForm with
    | none => exact exec_step_ne_refused i s hform r
    | some f =>
      obtain ⟨k, hk⟩ := exec_eq_withCur i s (by simp [hform])
      rw [hk]
      exact s.withCur_ne_refused k r
  · obtain ⟨c, hc⟩ := Option.isSome_iff_exists.mp hcur
    obtain ⟨k, hk⟩ := exec_eq_withCur i s hi
    exact ⟨k c, hk.trans (State.withCur_some hc k)⟩

end Sys2Proof.Machine
end

section
/-! SUPPORT. What memory holds after its writes and clears, byte by byte and sector by sector (01_machine R38; 06_memory R139 to R141). -/

namespace Sys2Proof.Machine

/-! ### Little-endian bytes -/

@[simp] theorem bytesLE_length (n v : Nat) : (bytesLE n v).length = n := by
  induction n generalizing v with
  | zero => rfl
  | succ n ih => rw [bytesLE, List.length_cons, ih]

theorem bytesLE_zero (n : Nat) : bytesLE n 0 = List.replicate n 0 := by
  induction n with
  | zero => rfl
  | succ n ih => rw [bytesLE, Nat.zero_div, ih, List.replicate_succ]; rfl

theorem valLE_bytesLE (n v : Nat) : valLE (bytesLE n v) = v % 256 ^ n := by
  induction n generalizing v with
  | zero => rw [pow_zero, Nat.mod_one]; rfl
  | succ n ih =>
    rw [bytesLE, valLE, ih, BitVec.toNat_ofNat, Nat.pow_succ' (m := 256), Nat.mod_mul (a := 256)]

/-! ### Ranges of keys in one sector -/

/-- A range that stays in one sector is one piece (R140). -/
theorem piecesOf_one {k len : Nat} (hpos : 0 < len) (hin : k % 32 + len ≤ 32) : piecesOf k len = [⟨k, len, 0, 0⟩] := by
  have hmin : min len (32 - k % 32) = len := by omega
  rw [piecesOf, pieces, if_neg (by omega)]
  simp only [hmin, Nat.sub_self, pieces, if_pos]

theorem Mem.writeRange_one (m : Mem) {k : Nat} {bs : List Byte} (tag : Option Nat) (hpos : 0 < bs.length) (hin : k % 32 + bs.length ≤ 32) :
    m.writeRange k bs tag = m.writeSector k bs tag := by
  rw [Mem.writeRange, piecesOf_one hpos hin]
  simp

/-! ### Bytes, tags and poison after a write -/

@[simp] theorem Mem.read_setTag (m : Mem) (k t j : Nat) : (m.setTag k t).read j = m.read j := rfl
@[simp] theorem Mem.read_setPoison (m : Mem) (k : Nat) (p : Bool) (j : Nat) : (m.setPoison k p).read j = m.read j := rfl
@[simp] theorem Mem.tagOf_setPoison (m : Mem) (k : Nat) (p : Bool) (j : Nat) : (m.setPoison k p).tagOf j = m.tagOf j := rfl
@[simp] theorem Mem.isPoison_setTag (m : Mem) (k t j : Nat) : (m.setTag k t).isPoison j = m.isPoison j := rfl

@[simp] theorem Mem.tagOf_putN (m : Mem) (k : Nat) (bs : List Byte) (j : Nat) : (m.putN k bs).tagOf j = m.tagOf j := by
  induction bs generalizing m k with
  | nil => rfl
  | cons b r ih => exact ih _ _

@[simp] theorem Mem.isPoison_putN (m : Mem) (k : Nat) (bs : List Byte) (j : Nat) : (m.putN k bs).isPoison j = m.isPoison j := by
  induction bs generalizing m k with
  | nil => rfl
  | cons b r ih => exact ih _ _

theorem Mem.readN_congr {m m' : Mem} {k n : Nat} (h : ∀ j, k ≤ j → j < k + n → m'.read j = m.read j) : m'.readN k n = m.readN k n := by
  induction n generalizing k with
  | zero => rfl
  | succ n ih => rw [Mem.readN, Mem.readN, h k (by omega) (by omega), ih fun j hlo hhi => h j (by omega) (by omega)]

theorem Mem.read_putN_replicate {m : Mem} (h : m.wf = true) (k n : Nat) (b : Byte) (j : Nat) :
    (m.putN k (List.replicate n b)).read j = if k ≤ j ∧ j < k + n then b else m.read j := by
  induction n generalizing m k with
  | zero => rw [if_neg (by omega)]; rfl
  | succ n ih =>
    rw [List.replicate_succ, Mem.putN, ih (Mem.wf_put h k b), Mem.read_put h]
    have hin : (k ≤ j ∧ j < k + (n + 1)) ↔ ((k + 1 ≤ j ∧ j < k + 1 + n) ∨ k = j) := by omega
    rw [if_congr hin rfl rfl, ite_or]

/-- The sector as a write with a tag finds it: zero where it had another tag (R141). -/
def Mem.retag (m : Mem) (k t : Nat) : Mem := if t = m.tagOf k then m else (m.putN (k / 32 * 32) (bytesLE 32 0)).setTag k t

theorem Mem.writeSector_some (m : Mem) (k : Nat) (bs : List Byte) (t : Nat) : m.writeSector k bs (some t) =
    if bs.length = 32 then ((m.retag k t).putN k bs).setPoison k false else (m.retag k t).putN k bs := rfl

section
variable {m : Mem} (h : m.wf = true) (k t : Nat)
include h

theorem Mem.wf_retag : (m.retag k t).wf = true := by
  unfold Mem.retag
  split
  · exact h
  · exact Mem.wf_setTag (Mem.wf_putN h _ _) _ _

theorem Mem.tagOf_retag (j : Nat) : (m.retag k t).tagOf j = if k / 32 = j / 32 then t else m.tagOf j := by
  unfold Mem.retag
  split
  next ht =>
    split
    next hj => rw [ht, Mem.tagOf, Mem.tagOf, hj]
    next => rfl
  next => rw [Mem.tagOf_setTag (Mem.wf_putN h _ _), Mem.tagOf_putN]

theorem Mem.read_retag (j : Nat) : (m.retag k t).read j = if k / 32 = j / 32 ∧ m.tagOf k ≠ t then 0 else m.read j := by
  unfold Mem.retag
  split
  next ht => rw [if_neg (by simp [ht])]
  next ht =>
    rw [Mem.read_setTag, bytesLE_zero, Mem.read_putN_replicate h]
    have hin : (k / 32 * 32 ≤ j ∧ j < k / 32 * 32 + 32) ↔ k / 32 = j / 32 := by omega
    simp [hin, Ne.symm ht]

omit h in
@[simp] theorem Mem.isPoison_retag (j : Nat) : (m.retag k t).isPoison j = m.isPoison j := by
  unfold Mem.retag
  split
  · rfl
  · rw [Mem.isPoison_setTag, Mem.isPoison_putN]

variable (bs : List Byte)

omit h in
theorem Mem.read_writeSector (j : Nat) : (m.writeSector k bs (some t)).read j = ((m.retag k t).putN k bs).read j := by
  rw [Mem.writeSector_some]
  split <;> rfl

theorem Mem.tagOf_writeSector (j : Nat) : (m.writeSector k bs (some t)).tagOf j = if k / 32 = j / 32 then t else m.tagOf j := by
  rw [Mem.writeSector_some, ← Mem.tagOf_retag h]
  split
  · rw [Mem.tagOf_setPoison, Mem.tagOf_putN]
  · rw [Mem.tagOf_putN]

theorem Mem.isPoison_writeSector (j : Nat) : (m.writeSector k bs (some t)).isPoison j =
    if k / 32 = j / 32 ∧ bs.length = 32 then false else m.isPoison j := by
  rw [Mem.writeSector_some]
  split
  next hlen => rw [Mem.isPoison_setPoison (Mem.wf_putN (Mem.wf_retag h k t) _ _), Mem.isPoison_putN, Mem.isPoison_retag]; simp [hlen]
  next hlen => simp [hlen]

theorem Mem.readN_writeSector : (m.writeSector k bs (some t)).readN k bs.length = bs := by
  rw [Mem.readN_congr fun j _ _ => Mem.read_writeSector k t bs j]
  exact Mem.readN_putN (Mem.wf_retag h k t) k bs

/-- Outside its bytes a store leaves its sector as it was under its own tag, and zero under another (R141). -/
theorem Mem.read_writeSector_out (j : Nat) (hj : j < k ∨ k + bs.length ≤ j) : (m.writeSector k bs (some t)).read j =
    if k / 32 = j / 32 ∧ m.tagOf k ≠ t then 0 else m.read j := by
  rw [Mem.read_writeSector, Mem.read_putN_out (Mem.wf_retag h k t) _ _ _ hj, Mem.read_retag h]

end

/-- A write that keeps its sector's tag changes its own bytes alone. -/
theorem Mem.read_writeSector_keep_out {m : Mem} (h : m.wf = true) (k : Nat) (bs : List Byte) (j : Nat) (hj : j < k ∨ k + bs.length ≤ j) :
    (m.writeSector k bs none).read j = m.read j := by
  unfold Mem.writeSector
  simp only
  split
  · rw [Mem.read_setPoison, Mem.read_putN_out h _ _ _ hj]
  · exact Mem.read_putN_out h _ _ _ hj

theorem Mem.val_writeSector_keep {m : Mem} (h : m.wf = true) (k n v : Nat) :
    (m.writeSector k (bytesLE n v) none).val k n = v % 256 ^ n := by
  have hread : (m.writeSector k (bytesLE n v) none).readN k n = (m.putN k (bytesLE n v)).readN k n := by
    refine Mem.readN_congr fun j _ _ => ?_
    unfold Mem.writeSector
    simp only
    split <;> rfl
  have hput := Mem.readN_putN h k (bytesLE n v)
  rw [bytesLE_length] at hput
  rw [Mem.val, hread, hput, valLE_bytesLE]

/-! ### Bytes, tags and poison after a clear -/

/-- A filter by keys leaves what it keeps and unlists the rest. -/
theorem sparseRead_filter {α : Type} (z : α) (p : Nat → Bool) (l : List (Nat × α)) (k : Nat) :
    sparseRead z (l.filter (fun c => p c.1)) k = if p k = true then sparseRead z l k else z := by
  induction l with
  | nil => simp [sparseRead]
  | cons e r ih =>
    obtain ⟨j, b⟩ := e
    by_cases hp : p j = true
    · rw [List.filter_cons_of_pos (by exact hp), sparseRead, sparseRead, ih]
      by_cases hjk : j = k
      · subst hjk; simp [hp]
      · simp [hjk]
    · rw [List.filter_cons_of_neg (by exact hp), ih, sparseRead]
      by_cases hjk : j = k
      · subst hjk; simp [hp]
      · simp [hjk]

theorem sparseRead_clear {α : Type} (z : α) (l : List (Nat × α)) (lo hi k : Nat) :
    sparseRead z (sparseClear l lo hi) k = if lo ≤ k ∧ k < hi then z else sparseRead z l k := by
  rw [sparseClear, sparseRead_filter z (fun k => decide (k < lo) || decide (hi ≤ k))]
  have hout : (decide (k < lo) || decide (hi ≤ k)) = true ↔ ¬(lo ≤ k ∧ k < hi) := by
    rw [Bool.or_eq_true, decide_eq_true_eq, decide_eq_true_eq]
    omega
  rw [if_congr hout rfl rfl, ite_not]

theorem Mem.read_clear (m : Mem) (lo hi k : Nat) : (m.clear lo hi).read k = if lo ≤ k ∧ k < hi then 0 else m.read k :=
  sparseRead_clear _ _ _ _ _

theorem Mem.tagOf_clear (m : Mem) (lo hi k : Nat) :
    (m.clear lo hi).tagOf k = if lo / 32 ≤ k / 32 ∧ k / 32 < hi / 32 then 0 else m.tagOf k := sparseRead_clear _ _ _ _ _

theorem Mem.isPoison_clear (m : Mem) (lo hi k : Nat) :
    (m.clear lo hi).isPoison k = if lo / 32 ≤ k / 32 ∧ k / 32 < hi / 32 then false else m.isPoison k := sparseRead_clear _ _ _ _ _

end Sys2Proof.Machine
end

section
/-! SUPPORT. What the memory port and the banks leave alone (06_memory R143 to R146): sending and pumping write no memory, bind steps and drop
none, and touch no other outstanding access; an audit writes none of a context that is not Spilled. -/

namespace Sys2Proof.Machine

/-! ### Binding steps -/

/-- The part has bound itself to more steps, and nothing else has changed. -/
def Hw.Binds (h h' : Hw) : Prop := ∃ agenda, h' = { h with agenda := agenda } ∧ h.agenda ⊆ agenda

theorem Hw.Binds.refl (h : Hw) : h.Binds h := ⟨_, rfl, fun _ he => he⟩

theorem Hw.Binds.trans {h h1 h2 : Hw} (a : h.Binds h1) (b : h1.Binds h2) : h.Binds h2 := by
  obtain ⟨l, rfl, hl⟩ := a
  obtain ⟨r, rfl, hr⟩ := b
  exact ⟨r, rfl, fun _ he => hr (hl he)⟩

theorem Hw.binds_schedule (h : Hw) (n : Nat) (i : Instr) (a : Arg) : h.Binds (h.schedule n i a) :=
  ⟨_, rfl, fun e he => (h.mem_agenda_schedule n i a e).mpr (.inr he)⟩

theorem Hw.binds_after (h : Hw) (d : Nat) (i : Instr) (a : Arg) : h.Binds (h.after d i a) := h.binds_schedule _ _ _

/-- A fold of steps that each only bind only binds. -/
theorem Hw.binds_foldl {β : Type} (f : Hw → β → Hw) (hf : ∀ h b, Hw.Binds h (f h b)) (l : List β) (h : Hw) : h.Binds (l.foldl f h) := by
  induction l generalizing h with
  | nil => exact .refl h
  | cons b r ih => exact (hf h b).trans (ih (f h b))

theorem Hw.Binds.now {h h' : Hw} (hb : h.Binds h') : h'.now = h.now := by
  obtain ⟨_, rfl, -⟩ := hb
  rfl

theorem Hw.Binds.core {h h' : Hw} (hb : h.Binds h') (c : Nat) : h'.core c = h.core c := by
  obtain ⟨_, rfl, -⟩ := hb
  rfl

theorem Hw.Binds.findOut {h h' : Hw} (hb : h.Binds h') (core txn : Nat) : h'.findOut core txn = h.findOut core txn := by
  rw [Hw.findOut, Hw.findOut, hb.core]

theorem Hw.Binds.agenda {h h' : Hw} (hb : h.Binds h') : h.agenda ⊆ h'.agenda := by
  obtain ⟨_, rfl, hl⟩ := hb
  exact hl

/-- An access leaves for its banks by binding steps. -/
theorem Hw.binds_toBank (h : Hw) (a : Acc) (extra : Nat) : h.Binds (h.toBank a extra) := by
  unfold Hw.toBank
  simp only
  split
  · exact h.binds_after _ _ _
  · split
    · exact Hw.binds_foldl _ (fun h _ => h.binds_schedule _ _ _) _ h
    · exact h.binds_schedule _ _ _

/-! ### Outstanding accesses -/

/-- Finding a transaction in a list in which some other one's entry has changed. -/
theorem find?_map_txn_ne (l : List Outst) (txn : Nat) (f : Outst → Outst) (hf : ∀ o, o.acc.txn = txn → (f o).acc.txn = txn) (t : Nat)
    (ht : txn ≠ t) : (l.map (fun o => if o.acc.txn = txn then f o else o)).find? (fun o => o.acc.txn == t) =
      l.find? (fun o => o.acc.txn == t) := by
  induction l with
  | nil => rfl
  | cons o r ih =>
    rw [List.map_cons]
    by_cases ho : o.acc.txn = txn
    · rw [if_pos ho, List.find?_cons_of_neg (by simpa [hf o ho] using ht), List.find?_cons_of_neg (by simpa [ho] using ht), ih]
    · rw [if_neg ho, List.find?_cons, List.find?_cons, ih]

/-- Finding the transaction whose entry has changed. -/
theorem find?_map_txn (l : List Outst) (txn : Nat) (f : Outst → Outst) (hf : ∀ o, o.acc.txn = txn → (f o).acc.txn = txn) :
    (l.map (fun o => if o.acc.txn = txn then f o else o)).find? (fun o => o.acc.txn == txn) =
      (l.find? (fun o => o.acc.txn == txn)).map f := by
  induction l with
  | nil => rfl
  | cons o r ih =>
    rw [List.map_cons]
    by_cases ho : o.acc.txn = txn
    · rw [if_pos ho, List.find?_cons_of_pos (by simpa using hf o ho), List.find?_cons_of_pos (by simpa using ho), Option.map_some]
    · rw [if_neg ho, List.find?_cons_of_neg (by simpa using ho), List.find?_cons_of_neg (by simpa using ho), ih]

theorem Hw.findOut_modOut_ne (h : Hw) (core txn : Nat) (f : Outst → Outst) (hf : ∀ o, o.acc.txn = txn → (f o).acc.txn = txn) (c t : Nat)
    (ht : txn ≠ t) : (h.modOut core txn f).findOut c t = h.findOut c t := by
  by_cases hc : core = c
  · subst hc
    rw [Hw.findOut, Hw.findOut, Hw.modOut, Hw.core_modCore]
    exact find?_map_txn_ne _ _ f hf t ht
  · rw [Hw.findOut, Hw.modOut, Hw.core_modCore_ne _ _ _ _ hc, Hw.findOut]

theorem Hw.findOut_modOut (h : Hw) (core txn : Nat) (f : Outst → Outst) (hf : ∀ o, o.acc.txn = txn → (f o).acc.txn = txn) :
    (h.modOut core txn f).findOut core txn = (h.findOut core txn).map f := by
  rw [Hw.findOut, Hw.findOut, Hw.modOut, Hw.core_modCore]
  exact find?_map_txn _ _ f hf

theorem Hw.findOut_txn {h : Hw} {core txn : Nat} {o : Outst} (ho : h.findOut core txn = some o) : o.acc.txn = txn := by
  simpa using List.find?_some ho

/-! ### Translation, sending, pumping -/

theorem Hw.tlbLookup_eq (h : Hw) (core tenant va : Nat) : ∃ dies clusters,
    (h.tlbLookup core tenant va).2 = { h with dies := dies, clusters := clusters } := by
  unfold Hw.tlbLookup
  split
  · exact ⟨_, _, rfl⟩
  · split <;> exact ⟨_, _, rfl⟩

theorem Hw.translate_eq (h : Hw) (core tenant : Nat) (svc : Bool) (need : Need) (brings : Option Nat) (ps acc : List Piece) (cyc : Nat) :
    ∃ dies clusters, (h.translate core tenant svc need brings ps acc cyc).2 = { h with dies := dies, clusters := clusters } := by
  induction ps generalizing h acc cyc with
  | nil => exact ⟨_, _, rfl⟩
  | cons p ps ih =>
    obtain ⟨dies, clusters, hlook⟩ := h.tlbLookup_eq core tenant p.key
    rw [Hw.translate]
    split
    next heq => rw [heq] at hlook; exact ⟨_, _, hlook⟩
    all_goals
      next heq =>
        rw [heq] at hlook
        simp only at hlook
        subst hlook
        split
        · exact ⟨_, _, rfl⟩
        · obtain ⟨d, c, hrest⟩ := ih { h with dies := dies, clusters := clusters } _ _
          exact ⟨d, c, hrest⟩

/-- Between two states memory has stood, no step has been dropped, and the outstanding accesses of the transactions kept are as they were. -/
def State.PortFrame (s t : State) (kept : Nat → Prop) : Prop :=
  t.mem = s.mem ∧ t.hw.now = s.hw.now ∧ s.hw.agenda ⊆ t.hw.agenda ∧ ∀ core txn, kept txn → t.hw.findOut core txn = s.hw.findOut core txn

theorem State.PortFrame.refl (s : State) (kept : Nat → Prop) : s.PortFrame s kept := ⟨rfl, rfl, fun _ he => he, fun _ _ _ => rfl⟩

theorem State.PortFrame.trans {s t u : State} {kept : Nat → Prop} (a : s.PortFrame t kept) (b : t.PortFrame u kept) :
    s.PortFrame u kept := by
  obtain ⟨hmem, hnow, hag, hout⟩ := a
  obtain ⟨hmem', hnow', hag', hout'⟩ := b
  exact ⟨hmem'.trans hmem, hnow'.trans hnow, fun _ he => hag' (hag he), fun c t h => (hout' c t h).trans (hout c t h)⟩

theorem State.PortFrame.mono {s t : State} {kept kept' : Nat → Prop} (a : s.PortFrame t kept) (h : ∀ txn, kept' txn → kept txn) :
    s.PortFrame t kept' := ⟨a.1, a.2.1, a.2.2.1, fun c t ht => a.2.2.2 c t (h t ht)⟩

/-- More steps bound keep every outstanding access. -/
theorem State.portFrame_binds {s : State} {h : Hw} (hb : s.hw.Binds h) (kept : Nat → Prop) : s.PortFrame { s with hw := h } kept :=
  ⟨rfl, hb.now, hb.agenda, fun c t _ => hb.findOut c t⟩

/-- A change of one outstanding access keeps the others. -/
theorem State.portFrame_modOut (s : State) (core txn : Nat) (f : Outst → Outst) (hf : ∀ o, o.acc.txn = txn → (f o).acc.txn = txn) :
    s.PortFrame (s.onHw (fun h => h.modOut core txn f)) (fun t => t ≠ txn) :=
  ⟨rfl, rfl, fun _ he => he, fun c t ht => Hw.findOut_modOut_ne _ _ _ f hf c t ht.symm⟩

/-- What a translation changes, no access sees. -/
theorem State.portFrame_tlbs (s : State) (dies : SMap Die) (clusters : SMap Cluster) (kept : Nat → Prop) :
    s.PortFrame { s with hw := { s.hw with dies := dies, clusters := clusters } } kept := ⟨rfl, rfl, fun _ he => he, fun _ _ _ => rfl⟩

/-- An access is on its way with its pieces (R145). -/
def Hw.sentOff (h : Hw) (a : Acc) : Hw :=
  h.modOut a.core a.txn (fun u => { u with acc := a, sent := true, todo := a.pieces, got := [] })

theorem State.portFrame_sentOff (s : State) (a : Acc) (h : Hw) (hb : Hw.Binds (s.hw.sentOff a) h) :
    s.PortFrame { s with hw := h } (fun txn => txn ≠ a.txn) :=
  (s.portFrame_modOut a.core a.txn _ (fun _ _ => rfl)).trans
    (State.portFrame_binds (s := s.onHw (fun h => h.sentOff a)) hb _)

/-- Sending an access changes, of what is outstanding, that access alone. -/
theorem State.send_frame (s : State) (o : Outst) : s.PortFrame (s.send o) (fun txn => txn ≠ o.acc.txn) := by
  unfold State.send
  simp only
  split
  · exact s.portFrame_sentOff { o.acc with pieces := piecesOf o.acc.addr o.acc.size } _ (Hw.binds_toBank _ _ _)
  · obtain ⟨dies, clusters, htr⟩ := s.hw.translate_eq o.acc.core o.acc.tenant o.acc.svc (AccOp.need o.acc.op) (Acc.brings o.acc)
      (piecesOf o.acc.addr o.acc.size) [] 0
    have htlb := s.portFrame_tlbs dies clusters (fun txn => txn ≠ o.acc.txn)
    generalize s.hw.translate o.acc.core o.acc.tenant o.acc.svc (AccOp.need o.acc.op) (Acc.brings o.acc)
      (piecesOf o.acc.addr o.acc.size) [] 0 = r at htr
    obtain ⟨x, h⟩ := r
    simp only at htr
    subst htr
    refine htlb.trans ?_
    cases x with
    | refused sub va => exact State.portFrame_sentOff _ o.acc _ (Hw.binds_after _ _ _ _)
    | miss va => exact State.portFrame_sentOff _ o.acc _ (Hw.binds_after _ _ _ _)
    | ok ps cyc =>
      have hpieces := State.portFrame_modOut { s with hw := { s.hw with dies := dies, clusters := clusters } } o.acc.core o.acc.txn
        (fun u => { u with acc := { o.acc with pieces := ps } }) (fun _ _ => rfl)
      simp only
      split
      · exact hpieces
      · exact hpieces.trans (State.portFrame_sentOff _ { o.acc with pieces := ps } _ (Hw.binds_toBank _ _ _))

/-- A port that looks for work leaves alone what was sent before. -/
theorem State.pump_frame (s : State) (core : Nat) : s.PortFrame (s.pump core)
    (fun txn => ∃ o, s.hw.findOut core txn = some o ∧ o.sent = true) := by
  have step (l : List Outst) (s : State) (kept : Nat → Prop) (hkept : ∀ txn, kept txn → ∃ o, s.hw.findOut core txn = some o ∧ o.sent = true) :
      s.PortFrame (l.foldl (fun s w =>
        match s.hw.findOut core w.acc.txn with
        | none => s
        | some o => if o.sent || o.waits != [] || heldBack (s.hw.core core).out o then s else s.send o) s) kept := by
    induction l generalizing s with
    | nil => exact .refl s kept
    | cons w r ih =>
      rw [List.foldl_cons]
      split
      · exact ih s hkept
      next o ho =>
        split
        · exact ih s hkept
        next hgo =>
          have hnot : o.sent = false := by
            cases hsent : o.sent with
            | false => rfl
            | true => simp [hsent] at hgo
          have hframe : s.PortFrame (s.send o) kept := (s.send_frame o).mono fun txn ht heq => by
            obtain ⟨u, hu, husent⟩ := hkept txn ht
            rw [heq, Hw.findOut_txn ho, ho] at hu
            injection hu with hu
            rw [← hu, hnot] at husent
            cases husent
          refine hframe.trans (ih _ fun txn ht => ?_)
          rw [hframe.2.2.2 core txn ht]
          exact hkept txn ht
  exact step _ s _ fun _ ht => ht

end Sys2Proof.Machine
end

section
/-! PROOFS. What a store, a load and an atomic do at their bank (01_machine R38; 06_memory R140 to R142, R151; 20_tags R412, R418; O14). -/

namespace Sys2Proof.Machine

/-! ### Audits, replies, and the end of a performance -/

theorem Hw.audit_eq (h : Hw) (core slot kind prin addr : Nat) (virt : Bool) (gset tag : Nat) : ∃ mods,
    h.audit core slot kind prin addr virt gset tag = { h with mods := mods } := by
  unfold Hw.audit
  split <;> exact ⟨_, rfl⟩

/-- Denials are posted to modules alone. -/
theorem Hw.auditFold_eq (h : Hw) (a : Acc) (den : List (Nat × Nat)) : ∃ mods,
    den.foldl (fun h d => h.audit a.core a.slot (AccOp.auditKind a.op) a.prin d.1 a.virt a.gset d.2) h = { h with mods := mods } := by
  induction den generalizing h with
  | nil => exact ⟨_, rfl⟩
  | cons d r ih =>
    obtain ⟨mods, haudit⟩ := h.audit_eq a.core a.slot (AccOp.auditKind a.op) a.prin d.1 a.virt a.gset d.2
    rw [List.foldl_cons, haudit]
    exact ih { h with mods := mods }

theorem Hw.findOut_modCtx (h : Hw) (core slot : Nat) (f : Ctx → Ctx) (c t : Nat) : (h.modCtx core slot f).findOut c t = h.findOut c t := by
  by_cases hc : core = c
  · subst hc
    rw [Hw.findOut, Hw.core_modCtx]
    rfl
  · rw [Hw.findOut, Hw.core_modCtx_ne _ _ _ _ _ hc, Hw.findOut]

/-- An audit of a context that is not Spilled writes no memory: TS stands in the context (R142, R250). -/
theorem State.auditAll_frame (s : State) (a : Acc) (uid : Nat) (den : List (Nat × Nat)) (hst : (s.hw.ctx a.core a.slot).st ≠ .spilled)
    (kept : Nat → Prop) : s.PortFrame (s.auditAll a uid den) kept := by
  obtain ⟨mods, hden⟩ := s.hw.auditFold_eq a den
  have hmods : s.PortFrame { s with hw := { s.hw with mods := mods } } kept := ⟨rfl, rfl, fun _ he => he, fun _ _ _ => rfl⟩
  unfold State.auditAll State.onHw
  simp only [hden]
  split
  · refine hmods.trans ?_
    unfold State.flagTs
    rw [if_neg (fun hsp => hst hsp.1)]
    exact ⟨rfl, rfl, fun _ he => he, fun c t _ => Hw.findOut_modCtx _ _ _ _ c t⟩
  · exact hmods

theorem State.reply_frame (s : State) (a : Acc) (due : Nat) (r : AccRes) (kept : Nat → Prop) : s.PortFrame (s.reply a due r) kept :=
  State.portFrame_binds (Hw.binds_schedule _ _ _ _) kept

theorem State.mem_agenda_reply (s : State) (a : Acc) (due : Nat) (r : AccRes) :
    (⟨max due s.hw.now, Acc.replyStep a, .accRes a r⟩ : Due) ∈ (s.reply a due r).hw.agenda :=
  (Hw.mem_agenda_schedule _ _ _ _ _).mpr (.inl rfl)

/-- After a performance the port of the access's core may look for work (R145). -/
def State.portLooks (s : State) (a : Acc) : State :=
  match s.hw.findOut a.core a.txn with
  | some o => if Acc.own o.acc then s.pump a.core else s
  | none => s

theorem State.portLooks_frame (s : State) (a : Acc) : s.PortFrame (s.portLooks a)
    (fun txn => ∃ o, s.hw.findOut a.core txn = some o ∧ o.sent = true) := by
  unfold State.portLooks
  split
  · split
    · exact s.pump_frame a.core
    · exact .refl s _
  · exact .refl s _

/-! ### Arrival at the bank -/

/-- The access that a bank performs: what is outstanding, with the grant word and the pieces that have arrived. -/
def Hw.arriving (h : Hw) (a : Acc) : Acc :=
  match h.findOut a.core a.txn with
  | some o => { o.acc with group := a.group, gword := a.gword, pieces := a.pieces }
  | none => a

theorem Hw.arriving_same {h : Hw} {a : Acc}
    (hout : ∀ o, h.findOut a.core a.txn = some o → { o.acc with group := a.group, gword := a.gword, pieces := a.pieces } = a) :
    h.arriving a = a := by
  unfold Hw.arriving
  split
  next o ho => exact hout o ho
  next => rfl

/-- An access at the banks of its pieces, none of which is held for an image (R262). -/
def State.atBank (s : State) (a : Acc) (due : Nat) : State :=
  match (a.pieces.map (fun p => keyCore p.key)).find? (fun t => t != a.core && (s.hw.core t).imaging) with
  | some t => s.onHw (fun h => h.holdIn t .remoteAccessAtBank s.hw.arg)
  | none =>
    match a.op with
    | .fork _ e => s.forkAtBank a e due
    | _ => if AccOp.record a.op then s.recordAt a due else s.perform a due

theorem exec_remoteAccessAtBank_acc {s : State} {a : Acc} {due : Nat} (harg : s.hw.arg = .acc a due) :
    exec .remoteAccessAtBank s = .next (s.atBank (s.hw.arriving a) due) := by
  rw [exec_remoteAccessAtBank, execRemoteAccessAtBank, State.atBank, harg]
  rfl

/-- An access with one piece, whose bank is not being imaged, is performed. -/
theorem State.atBank_performs {s : State} {a : Acc} {p : Piece} (due : Nat) (hp : a.pieces = [p])
    (himg : keyCore p.key = a.core ∨ (s.hw.core (keyCore p.key)).imaging = false) (hfork : ∀ r e, a.op ≠ .fork r e)
    (hrec : AccOp.record a.op = false) : s.atBank a due = s.perform a due := by
  have hnone : (a.pieces.map (fun p => keyCore p.key)).find? (fun t => t != a.core && (s.hw.core t).imaging) = none := by
    rcases himg with h | h <;> simp [hp, h]
  rw [State.atBank, hnone]
  simp only [hrec, Bool.false_eq_true, if_false]

/-! ### A piece of a store -/

theorem State.kRefused_one {s : State} {a : Acc} {p : Piece} (hp : a.pieces = [p]) (hk : s.kRefused a = none) : s.kRefusedPiece a p = false := by
  rw [State.kRefused, hp] at hk
  simpa using hk

/-- A fold of changes outside memory changes no memory. -/
theorem State.foldl_onHw_mem {β : Type} (f : Hw → β → Hw) (l : List β) (s : State) :
    (l.foldl (fun s b => s.onHw (fun h => f h b)) s).mem = s.mem := by
  induction l generalizing s with
  | nil => rfl
  | cons b r ih => exact (ih _).trans rfl

theorem State.bankWrite_mem (s : State) (key : Nat) {bs : List Byte} (tag : Option Nat) (hbs : bs ≠ []) :
    (s.bankWrite key bs tag).mem = s.mem.writeRange key bs tag := by
  rw [State.bankWrite, if_neg hbs, State.foldl_onHw_mem (fun h (p : Piece) => h.wakeMonitors p.key p.len)]
  rfl

theorem Hw.wakeSectors_now (h : Hw) (home bank lo hi key : Nat) : (h.wakeSectors home bank lo hi key).now = h.now := by
  unfold Hw.wakeSectors
  simp only
  split
  · rfl
  · exact (Hw.binds_foldl _ (fun h _ => h.binds_after _ _ _) _ _).now

theorem State.foldl_now {β : Type} (f : State → β → State) (hf : ∀ s b, (f s b).hw.now = s.hw.now) (l : List β) (s : State) :
    (l.foldl f s).hw.now = s.hw.now := by
  induction l generalizing s with
  | nil => rfl
  | cons b r ih => exact (ih _).trans (hf s b)

theorem State.bankWrite_now (s : State) (key : Nat) (bs : List Byte) (tag : Option Nat) : (s.bankWrite key bs tag).hw.now = s.hw.now := by
  unfold State.bankWrite
  split
  · rfl
  · exact State.foldl_now _ (fun s p => s.hw.wakeSectors_now _ _ _ _ _) _ _

/-- What is left of a performance once its pieces are done: the port looks for work. -/
theorem State.perform_piece {s : State} {a : Acc} {p : Piece} (due : Nat) (hpw : AccOp.piecewise a.op = true) (hp : a.pieces = [p]) :
    s.perform a due = (s.performPiece a p due).portLooks a := by
  rw [State.perform, if_pos hpw, hp]
  rfl

/-- The reply to a piece leaves, once no piece is still to come. -/
def State.pieceReply (s : State) (a : Acc) (due : Nat) : State :=
  match s.hw.findOut a.core a.txn with
  | none => s
  | some o => if o.todo = [] then (s.performed a).reply o.acc due .pieces else s

theorem State.pieceReply_mem (s : State) (a : Acc) (due : Nat) : (s.pieceReply a due).mem = s.mem := by
  unfold State.pieceReply
  split
  · rfl
  · split <;> rfl

/-- A store's piece in one sector is written to it with the store's tag (R141). -/
theorem State.performPiece_store_mem {s : State} {a : Acc} {bs : List Byte} {p : Piece} (due : Nat) (hop : a.op = .store bs)
    (hk : s.kRefusedPiece a p = false) (hoff : p.off = 0) (hlen : p.len = bs.length) (hbs : bs ≠ []) (hin : p.key % 32 + p.len ≤ 32) :
    (s.performPiece a p due).mem = s.mem.writeSector p.key bs (some a.otag) := by
  have hst : AccOp.storeData a.op = some bs := by rw [hop]; rfl
  have hdata : (bs.drop p.off).take p.len = bs := by rw [hoff, hlen, List.drop_zero, List.take_length]
  have hpos : 0 < bs.length := List.length_pos_iff.mpr hbs
  have href : (s.pieceRead a p).refused = false := hk
  have hpiece : s.performPiece a p due = (((s.bankWrite p.key bs (some a.otag)).onHw (fun h => h.modOut a.core a.txn (fun o =>
      { o with got := o.got ++ [{ s.pieceRead a p with bytes := [], grant := some true, poison := false }],
               todo := o.todo.filter (fun q => q != p) }))).pieceReply a due) := by
    rw [State.performPiece]
    simp only [hst, href, hdata]
    rfl
  rw [hpiece, State.pieceReply_mem, State.onHw_mem, State.bankWrite_mem _ _ _ hbs, Mem.writeRange_one _ _ hpos (hlen ▸ hin)]

/-- A store at its bank, and the reads of its sector and of all others after it. -/
theorem storeAtBank {s : State} {a : Acc} {bs : List Byte} {p : Piece} {due : Nat} (harg : s.hw.arg = .acc a due)
    (hout : ∀ o, s.hw.findOut a.core a.txn = some o → { o.acc with group := a.group, gword := a.gword, pieces := a.pieces } = a)
    (hop : a.op = .store bs) (hp : a.pieces = [p]) (hoff : p.off = 0) (hlen : p.len = bs.length) (hbs : bs ≠ [])
    (hin : p.key % 32 + p.len ≤ 32) (himg : (s.hw.core (keyCore p.key)).imaging = false) (hk : s.kRefused a = none) :
    ∃ t, exec .remoteAccessAtBank s = .next t ∧ t.mem = s.mem.writeSector p.key bs (some a.otag) := by
  refine ⟨_, exec_remoteAccessAtBank_acc harg, ?_⟩
  rw [Hw.arriving_same hout, State.atBank_performs due hp (.inr himg) (by simp [hop]) (by rw [hop]; rfl),
    State.perform_piece due (by rw [hop]; rfl) hp, (State.portLooks_frame _ a).1]
  exact State.performPiece_store_mem due hop (State.kRefused_one hp hk) hoff hlen hbs hin

/-! ### A piece of a load -/

/-- A piece of a read is added to what the banks have found, and taken from what is still to come. -/
def Outst.found (o : Outst) (p : Piece) (r : PieceRes) : Outst := { o with got := o.got ++ [r], todo := o.todo.filter (fun q => q != p) }

/-- The bank of the requester's own core audits the sector of a read that it denies (R142, R418). -/
def State.pieceAudit (s : State) (a : Acc) (p : Piece) : State :=
  if (s.pieceRead a p).grant = some false ∧ !(s.pieceRead a p).refused then
    s.auditAll a (s.hw.uidOf a.core a.txn) [((s.pieceRead a p).sector, (s.pieceRead a p).tag)]
  else s

theorem State.pieceAudit_frame (s : State) (a : Acc) (p : Piece) (hst : (s.hw.ctx a.core a.slot).st ≠ .spilled) (kept : Nat → Prop) :
    s.PortFrame (s.pieceAudit a p) kept := by
  unfold State.pieceAudit
  split
  · exact s.auditAll_frame a _ _ hst kept
  · exact .refl s kept

/-- A load's piece is read, audited where the bank decides its tag and denies it, and answered. -/
theorem State.performPiece_load {s : State} {a : Acc} {ld : LdKind} {rs : List Nat} (p : Piece) (due : Nat) (hop : a.op = .load ld rs) :
    s.performPiece a p due = ((s.pieceAudit a p).onHw
      (fun h => h.modOut a.core a.txn (fun o => o.found p (s.pieceRead a p)))).pieceReply a due := by
  have hst : AccOp.storeData a.op = none := by rw [hop]; rfl
  rw [State.performPiece]
  simp only [hst]
  rfl

/-- Once nothing of it is to come, the pieces of a read are answered, and it is performed. -/
theorem State.pieceReply_last {s : State} {a : Acc} {o : Outst} (due : Nat) (ho : s.hw.findOut a.core a.txn = some o) (hacc : o.acc = a)
    (htodo : o.todo = []) :
    (s.pieceReply a due).hw.findOut a.core a.txn = some { o with performed := true, todo := [] } ∧
    (⟨max due s.hw.now, Acc.replyStep a, .accRes a .pieces⟩ : Due) ∈ (s.pieceReply a due).hw.agenda := by
  have hreply : s.pieceReply a due = (s.performed a).reply a due .pieces := by
    rw [State.pieceReply, ho]
    simp only [htodo, if_true, hacc]
  rw [hreply]
  refine ⟨?_, (s.performed a).mem_agenda_reply a due .pieces⟩
  rw [((s.performed a).reply_frame a due .pieces (fun _ => True)).2.2.2 _ _ trivial, State.performed, State.onHw_hw,
    Hw.findOut_modOut, ho]
  · rfl
  · exact fun _ h => h

/-- A load at its bank: memory stands, and its piece is found as the bank reads it. -/
theorem loadAtBank {s : State} {a : Acc} {o : Outst} {ld : LdKind} {rs : List Nat} {p : Piece} {due : Nat} (harg : s.hw.arg = .acc a due)
    (ho : s.hw.findOut a.core a.txn = some o) (hacc : o.acc = a) (hsent : o.sent = true) (htodo : o.todo = [p]) (hop : a.op = .load ld rs)
    (hp : a.pieces = [p]) (himg : (s.hw.core (keyCore p.key)).imaging = false) (hst : (s.hw.ctx a.core a.slot).st ≠ .spilled) :
    ∃ t, exec .remoteAccessAtBank s = .next t ∧ t.mem = s.mem ∧
      t.hw.findOut a.core a.txn = some { o with got := o.got ++ [s.pieceRead a p], performed := true, todo := [] } ∧
      (⟨max due s.hw.now, Acc.replyStep a, .accRes a .pieces⟩ : Due) ∈ t.hw.agenda := by
  refine ⟨_, exec_remoteAccessAtBank_acc harg, ?_⟩
  have hout : ∀ o', s.hw.findOut a.core a.txn = some o' → { o'.acc with group := a.group, gword := a.gword, pieces := a.pieces } = a := by
    intro o' ho'
    rw [ho] at ho'
    injection ho' with ho'
    rw [← ho', hacc]
  rw [Hw.arriving_same hout, State.atBank_performs due hp (.inr himg) (by simp [hop]) (by rw [hop]; rfl),
    State.perform_piece due (by rw [hop]; rfl) hp]
  rw [State.performPiece_load p due hop]
  obtain ⟨hmem, hnow, -, hfind⟩ := s.pieceAudit_frame a p hst (fun _ => True)
  have hfound : ((s.pieceAudit a p).onHw (fun h => h.modOut a.core a.txn (fun o => o.found p (s.pieceRead a p)))).hw.findOut a.core a.txn =
      some (o.found p (s.pieceRead a p)) := by
    rw [State.onHw_hw, Hw.findOut_modOut, hfind _ _ trivial, ho]
    · rfl
    · exact fun _ h => h
  obtain ⟨hlast, hagenda⟩ := State.pieceReply_last due hfound hacc (by simp [Outst.found, htodo])
  obtain ⟨hmem', -, hag, hkept⟩ := State.portLooks_frame (State.pieceReply ((s.pieceAudit a p).onHw (fun h => h.modOut a.core a.txn
    (fun o => o.found p (s.pieceRead a p)))) a due) a
  refine ⟨?_, ?_, hag ?_⟩
  · rw [hmem', State.pieceReply_mem, State.onHw_mem, hmem]
  · rw [hkept a.core a.txn ⟨_, hlast, hsent⟩, hlast]
    rfl
  · rw [← hnow]
    exact hagenda

/-! ### An atomic -/

theorem sext_toNat (v : Word) : sext v.toNat 64 = v.toInt := by
  have hv := v.isLt
  rw [sext, BitVec.toInt_eq_toNat_cond]
  omega

theorem wrap_toInt (v : Word) : wrap v.toInt 64 = v.toNat := by
  have hv := v.isLt
  rw [wrap, BitVec.toInt_eq_toNat_cond]
  omega

theorem outAt_inAt_word (v : Word) : outAt true 64 (inAt true 64 v.toNat) = v := by
  simp only [outAt, inAt, if_true, sext_toNat, wrap_toInt, word, BitVec.ofInt_toInt]

/-- The value that an atomic of 64 bits leaves in its word (R151). -/
def atomLeaves (op : AtomOp) (old x y : Word) : Nat :=
  match op with
  | .add => (old.toNat + x.toNat) % 2 ^ 64
  | .and => (old &&& x).toNat
  | .or => (old ||| x).toNat
  | .xor => (old ^^^ x).toNat
  | .min => if old.toInt ≤ x.toInt then old.toNat else x.toNat
  | .max => if x.toInt ≤ old.toInt then old.toNat else x.toNat
  | .swap => x.toNat
  | .cas => if old.toNat = x.toNat then y.toNat else old.toNat

theorem atomNew_s64 (op : AtomOp) (old x y : Word) : (atomNew op .s64 old.toNat x.toNat y.toNat).getD old.toNat = atomLeaves op old x y := by
  have hold := old.isLt
  have hx := x.isLt
  have hy := y.isLt
  have hin (v : Word) : inAt (atomSigned .s64) (atomWidth .s64) v.toNat = v.toInt := sext_toNat v
  cases op <;> simp only [atomNew, atomLeaves, hin, Option.getD_some]
  case add =>
    rw [wrap, BitVec.toInt_eq_toNat_cond, BitVec.toInt_eq_toNat_cond, atomWidth]
    omega
  case and => exact Nat.mod_eq_of_lt (by rw [← BitVec.toNat_and]; exact (old &&& x).isLt)
  case or => exact Nat.mod_eq_of_lt (by rw [← BitVec.toNat_or]; exact (old ||| x).isLt)
  case xor => exact Nat.mod_eq_of_lt (by rw [← BitVec.toNat_xor]; exact (old ^^^ x).isLt)
  case min =>
    rw [atomWidth, min_def, apply_ite (wrap · 64), wrap_toInt, wrap_toInt]
  case max =>
    rw [atomWidth, max_comm, max_def, apply_ite (wrap · 64), wrap_toInt, wrap_toInt]
  case swap => exact Nat.mod_eq_of_lt hx
  case cas =>
    simp only [BitVec.toInt_inj, ← BitVec.toNat_inj]
    split
    · exact Nat.mod_eq_of_lt hy
    · rfl

theorem atomLeaves_lt (op : AtomOp) (old x y : Word) : atomLeaves op old x y < 2 ^ 64 := by
  unfold atomLeaves
  cases op
  case add => exact Nat.mod_lt _ (by decide)
  case and | or | xor | swap => exact BitVec.isLt _
  case min | max | cas => simp only; split <;> exact BitVec.isLt _

theorem Hw.ctx_modOut (h : Hw) (core txn : Nat) (f : Outst → Outst) (c slot : Nat) : (h.modOut core txn f).ctx c slot = h.ctx c slot := by
  by_cases hc : core = c
  · subst hc
    rw [Hw.ctx, Hw.modOut, Hw.core_modCore]
    rfl
  · rw [Hw.ctx, Hw.modOut, Hw.core_modCore_ne _ _ _ _ hc, Hw.ctx]

theorem Hw.granted_modOut (h : Hw) (core txn : Nat) (f : Outst → Outst) (c gset tag : Nat) :
    (h.modOut core txn f).granted c gset tag = h.granted c gset tag := by
  by_cases hc : core = c
  · subst hc
    rw [Hw.granted, Hw.modOut, Hw.core_modCore]
    rfl
  · rw [Hw.granted, Hw.modOut, Hw.core_modCore_ne _ _ _ _ hc, Hw.granted]

/-- At its own core's bank the requester's set decides, whatever has been performed (R418). -/
theorem State.bankGrant_local {s : State} {a : Acc} {p : Piece} (hlocal : keyCore p.key = a.core) : s.bankGrant a p = some (s.granted a p) := by
  rw [State.bankGrant, if_pos (by simpa [Acc.local_] using hlocal)]

theorem State.bankGrant_performed {s : State} {a : Acc} {p : Piece} (hlocal : keyCore p.key = a.core) :
    (s.performed a).bankGrant a p = some (s.granted a p) := by
  rw [State.bankGrant_local hlocal, State.granted, State.granted, State.performed, State.onHw_hw, Hw.granted_modOut]
  rfl

/-- The write of an atomic at its bank, or none (R151). -/
def State.atomWrites (s : State) (a : Acc) (p : Piece) : Option Nat → State
  | none => s.onHw (fun h => h.signFill a.core a.slot (s.hw.uidOf a.core a.txn) a.txn [])
  | some v => (s.writeKeep p.key (bytesLE p.len v)).onHw (fun h =>
      h.signFill a.core a.slot (s.hw.uidOf a.core a.txn) a.txn (sigMessage a.seg a.off (bytesLE p.len v)))

theorem State.atomWrites_now (s : State) (a : Acc) (p : Piece) (w : Option Nat) : (s.atomWrites a p w).hw.now = s.hw.now := by
  cases w with
  | none => rfl
  | some v => exact s.bankWrite_now _ _ _

theorem State.atomWrites_mem (s : State) (a : Acc) (p : Piece) (w : Option Nat) (hlen : p.len = 8) (hal : p.key % 8 = 0) :
    (s.atomWrites a p w).mem = w.elim s.mem (fun v => s.mem.writeSector p.key (bytesLE 8 v) none) := by
  cases w with
  | none => rfl
  | some v =>
    rw [State.atomWrites, State.onHw_mem, State.writeKeep, hlen,
      State.bankWrite_mem _ _ _ (List.length_pos_iff.mp (by simp)), Mem.writeRange_one _ _ (by simp) (by simp; omega)]
    rfl

section
variable {s : State} {a : Acc} {op : AtomOp} {r : Nat} {x y : Word} {p : Piece} (due : Nat) (hop : a.op = .atom op .s64 r x y)
include hop

/-- An atomic that its bank grants writes its value and answers the old one. -/
theorem State.performOne_atom (hgrant : s.bankGrant a p = some true) (hpois : s.mem.isPoison p.key = false) :
    s.performOne a p due = (s.atomWrites a p (atomNew op .s64 (s.mem.val p.key p.len) x.toNat y.toNat)).reply a due
      (.data (outAt true 64 (inAt true 64 (s.mem.val p.key p.len))).toNat []) := by
  rw [State.performOne, hgrant]
  simp only [hpois, hop]
  cases atomNew op .s64 (s.mem.val p.key p.len) x.toNat y.toNat <;> rfl

/-- An atomic that its bank denies is audited and answers 0 (R142). -/
theorem State.performOne_denied (hgrant : s.bankGrant a p = some false) :
    s.performOne a p due = (s.auditAll a (s.hw.uidOf a.core a.txn) [(Acc.sectorAddr a p, effTag s.mem p)]).reply a due (.data 0 []) := by
  rw [State.performOne, hgrant]
  simp only [hop]

theorem State.perform_atom (hp : a.pieces = [p]) (hk : s.kRefused a = none) (hlocal : keyCore p.key = a.core) :
    s.perform a due = ((s.performed a).performOne a p due).portLooks a := by
  have hpw : AccOp.piecewise a.op = false := by rw [hop]; rfl
  have hsome : (s.bankGrant a p).isSome = true := by rw [State.bankGrant_local hlocal]; rfl
  rw [State.perform, hpw, hk, hp, hop]
  simp only [hsome, if_true]
  rfl

end

theorem Mem.val_lt (m : Mem) (k n : Nat) : m.val k n < 256 ^ n := by
  rw [Mem.val]
  induction n generalizing k with
  | zero => exact Nat.one_pos
  | succ n ih =>
    have hb := (m.read k).isLt
    have hr := ih (k + 1)
    rw [Mem.readN, valLE, Nat.pow_succ]
    omega

/-- The word of an atomic after its write, if it writes, and the bytes around it. -/
theorem Mem.atom_written {m : Mem} (h : m.wf = true) (k : Nat) (w : Option Nat) (hlt : w.getD (m.val k 8) < 2 ^ 64) :
    (w.elim m (fun v => m.writeSector k (bytesLE 8 v) none)).val k 8 = w.getD (m.val k 8) ∧
    ∀ j, j < k ∨ k + 8 ≤ j → (w.elim m (fun v => m.writeSector k (bytesLE 8 v) none)).read j = m.read j := by
  cases w with
  | none => exact ⟨rfl, fun _ _ => rfl⟩
  | some v =>
    refine ⟨?_, fun j hj => Mem.read_writeSector_keep_out h k (bytesLE 8 v) j (by rw [bytesLE_length]; exact hj)⟩
    exact (Mem.val_writeSector_keep h k 8 v).trans (Nat.mod_eq_of_lt hlt)

/-- An atomic of 64 bits at the bank of its own core, on a word that holds `old`. -/
theorem atomAtBank {s : State} {a : Acc} {op : AtomOp} {r : Nat} {x y old : Word} {p : Piece} {due : Nat} (hinv : s.Inv)
    (harg : s.hw.arg = .acc a due)
    (hout : ∀ o, s.hw.findOut a.core a.txn = some o → { o.acc with group := a.group, gword := a.gword, pieces := a.pieces } = a)
    (hop : a.op = .atom op .s64 r x y) (hp : a.pieces = [p]) (hlen : p.len = 8) (hal : p.key % 8 = 0) (hlocal : keyCore p.key = a.core)
    (hk : s.kRefused a = none) (hpois : s.mem.isPoison p.key = false) (hst : (s.hw.ctx a.core a.slot).st ≠ .spilled)
    (hold : s.mem.val p.key 8 = old.toNat) :
    ∃ t, exec .remoteAccessAtBank s = .next t ∧
      (s.granted a p = true → t.mem.val p.key 8 = atomLeaves op old x y ∧
        (⟨max due s.hw.now, Acc.replyStep a, .accRes a (.data old.toNat [])⟩ : Due) ∈ t.hw.agenda) ∧
      (s.granted a p = false → t.mem = s.mem ∧ (⟨max due s.hw.now, Acc.replyStep a, .accRes a (.data 0 [])⟩ : Due) ∈ t.hw.agenda) ∧
      ∀ j, j < p.key ∨ p.key + 8 ≤ j → t.mem.read j = s.mem.read j := by
  have hgrant := State.bankGrant_performed (s := s) (a := a) hlocal
  refine ⟨_, exec_remoteAccessAtBank_acc harg, ?_⟩
  rw [Hw.arriving_same hout, State.atBank_performs due hp (.inl hlocal) (by simp [hop]) (by rw [hop]; rfl),
    State.perform_atom due hop hp hk hlocal]
  obtain ⟨hmem, -, hagenda, -⟩ := State.portLooks_frame ((s.performed a).performOne a p due) a
  rw [hmem]
  cases hg : s.granted a p with
  | false =>
    rw [hg] at hgrant
    rw [State.performOne_denied due hop hgrant] at hagenda ⊢
    obtain ⟨haudit, hnow, -, -⟩ := State.auditAll_frame (s.performed a) a ((s.performed a).hw.uidOf a.core a.txn)
      [(Acc.sectorAddr a p, effTag (s.performed a).mem p)] (by rw [State.performed, State.onHw_hw, Hw.ctx_modOut]; exact hst) (fun _ => True)
    have hsame : (State.auditAll (s.performed a) a ((s.performed a).hw.uidOf a.core a.txn)
      [(Acc.sectorAddr a p, effTag (s.performed a).mem p)]).mem = s.mem := haudit
    have hreply := hagenda (State.mem_agenda_reply _ a due (.data 0 []))
    rw [hnow] at hreply
    exact ⟨nofun, fun _ => ⟨hsame, hreply⟩, fun j _ => congrArg (Mem.read · j) hsame⟩
  | true =>
    rw [hg] at hgrant
    have hword : (s.performed a).mem.val p.key p.len = old.toNat := by rw [hlen]; exact hold
    rw [State.performOne_atom due hop hgrant hpois, hword, outAt_inAt_word] at hagenda ⊢
    have hwrites : ((s.performed a).atomWrites a p (atomNew op .s64 old.toNat x.toNat y.toNat)).mem = _ :=
      State.atomWrites_mem (s.performed a) a p _ hlen hal
    have hleaves := atomNew_s64 op old x y
    rw [← hold] at hleaves
    obtain ⟨hval, hread⟩ := Mem.atom_written hinv p.key (atomNew op .s64 (s.mem.val p.key 8) x.toNat y.toNat)
      (hleaves ▸ atomLeaves_lt op old x y)
    have hreply := hagenda (State.mem_agenda_reply _ a due _)
    rw [State.atomWrites_now] at hreply
    rw [← hold] at hwrites
    refine ⟨fun _ => ⟨?_, hreply⟩, nofun, fun j hj => ?_⟩
    · rw [← hleaves, ← hval, ← hold]
      exact congrArg (Mem.val · p.key 8) hwrites
    · rw [← hread j hj, ← hold]
      exact congrArg (Mem.read · j) hwrites

/-- Settles O14, by the three kinds of access that a bank performs. -/
theorem writesAtBank : Obligations.WritesAtBank := by
  refine ⟨?_, ?_, ?_⟩
  · intro s a bs p due hinv harg hout hop hp hoff hlen hbs hin himg hk
    obtain ⟨t, hexec, hmem⟩ := storeAtBank harg hout hop hp hoff hlen hbs hin himg hk
    refine ⟨t, hexec, ?_⟩
    rw [State.Inv, hmem, hlen]
    refine ⟨Mem.wf_writeSector hinv _ _ _, Mem.readN_writeSector hinv _ _ bs, ?_, fun h32 => ?_, fun j hj => ⟨?_, ?_, ?_⟩, fun j hj hout => ?_⟩
    · rw [Mem.tagOf_writeSector hinv, if_pos rfl]
    · rw [Mem.isPoison_writeSector hinv, if_pos ⟨rfl, h32⟩]
    · rw [Mem.read_writeSector_out hinv _ _ _ _ (by omega), if_neg (fun h => hj h.1.symm)]
    · rw [Mem.tagOf_writeSector hinv, if_neg (Ne.symm hj)]
    · rw [Mem.isPoison_writeSector hinv, if_neg (fun h => hj h.1.symm)]
    · rw [Mem.read_writeSector_out hinv _ _ _ _ hout]
      by_cases htag : s.mem.tagOf p.key = a.otag <;> simp [htag, hj]
  · intro s a o ld rs p due harg ho hacc hsent htodo hop hp himg hk hst
    obtain ⟨t, hexec, hmem, hfind, hagenda⟩ := loadAtBank harg ho hacc hsent htodo hop hp himg hst
    have hgrant : (s.pieceRead a p).grant = if keyCore p.key = a.core then some (s.granted a p) else none := by
      rw [State.pieceRead, hop]
      simp [Acc.local_]
    exact ⟨t, _, _, hexec, hmem, hfind, rfl, rfl, rfl, rfl, rfl, fun h => by rw [hgrant, if_pos h], fun h => by rw [hgrant, if_neg h], hagenda⟩
  · intro s a op r x y p due hinv harg hout hop hp hlen hal hlocal hk hpois hst old new
    have hold : (BitVec.ofNat 64 old).toNat = old := (BitVec.toNat_ofNat _ _).trans (Nat.mod_eq_of_lt (s.mem.val_lt p.key 8))
    have hnew : new = atomLeaves op (BitVec.ofNat 64 old) x y := by cases op <;> simp only [new, atomLeaves, hold]
    have hatom := atomAtBank hinv harg hout hop hp hlen hal hlocal hk hpois hst hold.symm
    rw [hold] at hatom
    rw [hnew]
    exact hatom

end Sys2Proof.Machine
end

section
/-! PROOFS. A failed plain access whose context has been spilled with its image writes TS.AUD into that image (06_memory R142; 12_preempt R250;
22_link R456; O35 fails). -/

namespace Sys2Proof.Machine

/-- The chain of the load that fails. -/
def failedLoadChain : Cur := ⟨0, 0, 0, 0, 0, 0x25, 1, 0, 100⟩

/-- A plain 64-bit load of core 0 into `g5`, from the scratchpad of core 1. -/
def failedLoad : Acc :=
  { txn := 0, core := 0, slot := 0, op := .load (.val .s64) [5], relaxed := false, virt := false, addr := 2 ^ 20, size := 8,
    pieces := [⟨2 ^ 20, 8, 0, 0⟩], seg := 0, off := 0, tenant := 0, svc := false, otag := 0, gset := 0, prin := 0, group := 0, sent := 0 }

/-- That load under way: its bank has left the decision on the sector's tag 0 to the requester (R418). -/
def failedLoadOut : Outst :=
  { acc := failedLoad, uid := 0, cls := .plain, chain := failedLoadChain, wasFull := [5], sent := true, performed := false, waits := [],
    dropped := false, todo := [], got := [⟨⟨2 ^ 20, 8, 0, 0⟩, [], 2 ^ 20, 0, none, false, false⟩] }

/-- After reset, but that context 0 of core 0 is Spilled with its image, that it waits for that load, and that a timeout of the load is
reported. -/
def spilledLoad : State :=
  { State.reset with hw :=
      { State.reset.hw with
        arg := .acc failedLoad 1
        cores := [(0, { Core.reset with slots := [(0, { Ctx.free with st := .spilled, imaged := true })], out := [failedLoadOut] })] } }

/-- The core's empty grant set denies the sector, and the audit bit goes to the image of the Spilled context. -/
theorem answer_spilledLoad_mem : (spilledLoad.answer 0 0 (.remote 1 1)).mem ≠ spilledLoad.mem := by
  decide +kernel

theorem exec_fabricTimeout_spilledLoad : exec .fabricTimeout spilledLoad = .next (spilledLoad.answer 0 0 (.remote 1 1)) := rfl

/-- Refutes O35: the clause about a failed plain access admits a context that is Spilled with its image, and then the audit of a sector
whose tag the requester's set does not grant sets TS.AUD in the image, which stands in memory (R142, R250). -/
theorem not_pagesAndFailures : ¬ Obligations.PagesAndFailures := by
  unfold Obligations.PagesAndFailures
  intro h
  obtain ⟨-, -, -, -, -, hfail⟩ := h spilledLoad failedLoadChain failedLoadChain false .every 0 0 ⟨0, 0, 0⟩ failedLoad failedLoadOut
    ⟨0, 0, 0, 0, .plain, 0, failedLoadChain, none⟩ ⟨0, 0, 0, 0, []⟩ [] ⟨0, 0, 0, 0, 0, 0, 0, 0, false, false, false⟩ 0 0 0 0 0 0 0 0 0 0 1 0
  obtain ⟨-, hload⟩ := hfail .fabricTimeout (by simp)
  obtain ⟨t, hexec, hmem, -⟩ := hload rfl (by decide +kernel) rfl rfl rfl (by decide) _ _ rfl (by decide +kernel) (by decide +kernel)
    (by decide +kernel) (by decide +kernel)
  rw [exec_fabricTimeout_spilledLoad] at hexec
  injection hexec with ht
  exact answer_spilledLoad_mem (ht ▸ hmem)

end Sys2Proof.Machine
end

section
/-! PROOFS. Reset, the boot order, power and cooling, telemetry and scrubs (01_machine R22, R39; 24_bringup R480 to R487; O51). -/

namespace Sys2Proof.Machine

/-! ### Sparse maps and modules -/

/-- A filter by keys keeps the entries of the keys that it keeps. -/
theorem SMap.find?_filter {α : Type} (p : Nat → Bool) (m : SMap α) (j : Nat) :
    SMap.find? (m.filter (fun e => p e.1)) j = if p j = true then SMap.find? m j else none := by
  induction m with
  | nil => simp [SMap.find?]
  | cons e r ih =>
    obtain ⟨i, w⟩ := e
    by_cases hp : p i = true
    · rw [List.filter_cons_of_pos (by exact hp), SMap.find?, SMap.find?, ih]
      by_cases hij : i = j
      · subst hij; simp [hp]
      · simp [hij]
    · rw [List.filter_cons_of_neg (by exact hp), ih, SMap.find?]
      by_cases hij : i = j
      · subst hij; simp [hp]
      · simp [hij]

/-! ### Reset -/

theorem Hw.mod_restart (h : Hw) : h.restart.mod h.self = (h.mod h.self).restart h.now := SMap.get_set_same _ _ _ _

theorem Hw.core_restart (h : Hw) {core : Nat} (hm : moduleOf core = h.self) : h.restart.core core = Core.reset := by
  have hfind : SMap.find? h.restart.cores core = none := by
    refine (SMap.find?_filter (fun k => moduleOf k != h.self) h.cores core).trans (if_neg ?_)
    simp [hm]
  rw [Hw.core, SMap.get, hfind]
  rfl

theorem Hw.count_restart (h : Hw) {core : Nat} (hm : moduleOf core = h.self) : h.restart.count core = 0 := by
  have hsince : h.restart.since core = h.now := by rw [Hw.since, hm, Hw.mod_restart]; rfl
  rw [Hw.count, hsince]
  exact Nat.sub_self h.now

theorem State.restart_inv {s : State} (h : s.Inv) : s.restart.Inv := Mem.wf_clear (Mem.wf_clear h _ _) _ _

/-- The scratchpads of a module's cores read 0 after its reset (R479). -/
theorem State.read_restart_scratch (s : State) {core j : Nat} (hm : moduleOf core = s.hw.self) (hc : core < 2 ^ 21 + 2 ^ 13) (hj : j < 2 ^ 20) :
    s.restart.mem.read (scratchKey core j) = 0 := by
  have hmem : s.restart.mem = (s.mem.clear (scratchKey (8192 * s.hw.self) 0) (scratchKey (8192 * (s.hw.self + 1)) 0)).clear
    (scratchKey (firstService + 32 * s.hw.self) 0) (scratchKey (firstService + 32 * (s.hw.self + 1)) 0) := rfl
  rw [hmem, Mem.read_clear, Mem.read_clear, ← ite_or]
  refine if_pos ?_
  rw [← hm]
  unfold moduleOf dieOf scratchKey firstService
  split <;> omega

/-- DRAM stands over a reset (R479). -/
theorem State.read_restart_dram (s : State) {key : Nat} (hself : s.hw.self < 256) (hkey : Config.dramKey ≤ key) :
    s.restart.mem.read key = s.mem.read key := by
  have hmem : s.restart.mem = (s.mem.clear (scratchKey (8192 * s.hw.self) 0) (scratchKey (8192 * (s.hw.self + 1)) 0)).clear
    (scratchKey (firstService + 32 * s.hw.self) 0) (scratchKey (firstService + 32 * (s.hw.self + 1)) 0) := rfl
  rw [hmem, Mem.read_clear, Mem.read_clear, ← ite_or]
  refine if_neg ?_
  unfold Config.dramKey at hkey
  unfold scratchKey firstService
  omega

/-! ### The boot order -/

theorem Boot.at_iff (b : Boot) (step : Nat) : b.at step = true ↔ b.code = step ∧ b.halt = false := by
  simp [Boot.at]

@[simp] theorem Hw.mod_modBoot (h : Hw) (f : Boot → Boot) : (h.modBoot f).mod h.self = { h.mod h.self with boot := f (h.mod h.self).boot } :=
  h.mod_modMod _ _

@[simp] theorem Hw.mod_halt (h : Hw) (code die : Nat) : (h.halt code die).mod h.self =
    { h.mod h.self with boot := { (h.mod h.self).boot with halt := true, die := die, code := code } } := h.mod_modBoot _

/-- The place of a module whose uplinks have changed, in the node's record of having none (R452). -/
def Module.notesUplinks (m : Module) (was : Bool) (now : Nat) : Module :=
  if m.linked then { m with ownDown := false } else if was then { m with lastUp := now } else m

theorem Module.notesUplinks_eq (m : Module) (was : Bool) (now : Nat) : ∃ down last, m.notesUplinks was now = { m with ownDown := down, lastUp := last } := by
  unfold Module.notesUplinks
  split
  · exact ⟨_, _, rfl⟩
  · split <;> exact ⟨_, _, rfl⟩

theorem Hw.mod_linkTo (h : Hw) (m u lanes : Nat) (st : LinkState) : ∃ down last, (h.linkTo m u st lanes).mod m = { h.mod m with
    uplinks := SMap.set (h.mod m).uplinks u { (h.mod m).link u with st := st, lanes := lanes, refused := 0, epoch := ((h.mod m).link u).epoch + 1 }
    ownDown := down, lastUp := last } := by
  have hmod : (h.linkTo m u st lanes).mod m = Module.notesUplinks { h.mod m with
      uplinks := SMap.set (h.mod m).uplinks u { (h.mod m).link u with st := st, lanes := lanes, refused := 0, epoch := ((h.mod m).link u).epoch + 1 } }
      (h.mod m).linked h.now := by
    have hmods (g : Hw) (p : Prop) [Decidable p] (d : Nat) (i : Instr) (a : Arg) : (if p then g.after d i a else g).mod m = g.mod m := by split <;> rfl
    unfold Hw.linkTo
    cases st <;> exact (hmods _ _ _ _ _).trans (h.mod_modMod _ _)
  obtain ⟨down, last, heq⟩ := Module.notesUplinks_eq { h.mod m with
    uplinks := SMap.set (h.mod m).uplinks u { (h.mod m).link u with st := st, lanes := lanes, refused := 0, epoch := ((h.mod m).link u).epoch + 1 } }
    (h.mod m).linked h.now
  exact ⟨down, last, hmod.trans heq⟩

/-- A link that is told to train trains, and the other links and the boot record stand (R451). -/
theorem Hw.link_linkTo_training (h : Hw) (m u : Nat) : ((h.linkTo m u .training 0).mod m).boot = (h.mod m).boot ∧
    (((h.linkTo m u .training 0).mod m).link u).st = .training ∧
    ∀ n, u ≠ n → ((h.linkTo m u .training 0).mod m).link n = (h.mod m).link n := by
  obtain ⟨down, last, hmod⟩ := h.mod_linkTo m u 0 .training
  rw [hmod]
  exact ⟨rfl, congrArg Uplink.st (SMap.get_set_same _ _ _ _), fun n hn => SMap.get_set_ne _ _ _ _ _ hn⟩

theorem Hw.linkTo_self (h : Hw) (m u lanes : Nat) (st : LinkState) : (h.linkTo m u st lanes).self = h.self := by
  have hself (g : Hw) (p : Prop) [Decidable p] (d : Nat) (i : Instr) (a : Arg) : (if p then g.after d i a else g).self = g.self := by split <;> rfl
  unfold Hw.linkTo
  cases st <;> exact hself _ _ _ _ _

/-- Uplinks of a module are told to train. -/
def Hw.trainLinks (h : Hw) (m : Nat) (l : List Nat) : Hw := l.foldl (fun h u => h.linkTo m u .training 0) h

theorem Hw.trainLinks_self (h : Hw) (m : Nat) (l : List Nat) : (h.trainLinks m l).self = h.self := by
  induction l generalizing h with
  | nil => rfl
  | cons u r ih => exact (ih _).trans (h.linkTo_self _ _ _ _)

theorem Hw.st_trainLinks (h : Hw) (m : Nat) (l : List Nat) {n : Nat} (hn : n ∈ l ∨ ((h.mod m).link n).st = .training) :
    (((h.trainLinks m l).mod m).link n).st = .training := by
  induction l generalizing h with
  | nil => exact hn.resolve_left (List.not_mem_nil)
  | cons u r ih =>
    obtain ⟨-, hu, hne⟩ := h.link_linkTo_training m u
    refine ih _ ?_
    by_cases hun : u = n
    · exact .inr (hun ▸ hu)
    · rw [hne n hun]
      exact hn.imp_left fun hmem => (List.mem_cons.mp hmem).resolve_left (Ne.symm hun)

/-- The end of step 5: the node starts to count its time without uplinks, and step 6 is next (R452, R480). -/
def Hw.upTrained (h : Hw) : Hw :=
  ((h.modMod h.self (fun x => { x with lastUp := h.now })).after 65536 .ownUplinksDown (.nats [h.self])).modBoot (fun b => { b with code := 6 })

theorem Hw.mod_upTrained (h : Hw) :
    h.upTrained.mod h.self = { h.mod h.self with lastUp := h.now, boot := { (h.mod h.self).boot with code := 6 } } := by
  have hboot := ((h.modMod h.self (fun x => { x with lastUp := h.now })).after 65536 .ownUplinksDown (.nats [h.self])).mod_modBoot
    (fun b => { b with code := 6 })
  have hnoted : ((h.modMod h.self (fun x => { x with lastUp := h.now })).after 65536 .ownUplinksDown (.nats [h.self])).mod h.self =
      { h.mod h.self with lastUp := h.now } := h.mod_modMod h.self (fun x => { x with lastUp := h.now })
  exact hboot.trans (congrArg (fun m : Module => { m with boot := { m.boot with code := 6 } }) hnoted)

/-- The end of step 5 after links have been told to train. -/
theorem Hw.upTrained_trainLinks (h : Hw) (l : List Nat) : ((h.trainLinks h.self l).upTrained.mod h.self).boot.code = 6 ∧
    ∀ n ∈ l, (((h.trainLinks h.self l).upTrained.mod h.self).link n).st = .training := by
  have hmod := (h.trainLinks h.self l).mod_upTrained
  rw [Hw.trainLinks_self] at hmod
  exact ⟨congrArg (fun m : Module => m.boot.code) hmod,
    fun n hn => (congrArg (fun m : Module => (m.link n).st) hmod).trans (h.st_trainLinks _ _ (.inl hn))⟩

@[simp] theorem State.writeLeaves_hw (s : State) (tenant : Option Nat) (l : List Nat) : (s.writeLeaves tenant l).hw = s.hw := by
  fun_induction State.writeLeaves s tenant l with
  | case1 s pa q0 q1 r ih =>
    rw [ih]
    split <;> rfl
  | case2 => rfl

/-- Service cores of the module are released. -/
def Hw.runsBrs (h : Hw) (l : List Nat) : Hw :=
  l.foldl (fun h i => h.modCore (firstService + 32 * h.self + i) (fun k => { k with svc := true })) h

theorem Hw.runsBrs_eq (h : Hw) (l : List Nat) : ∃ cores, h.runsBrs l = { h with cores := cores } := by
  induction l generalizing h with
  | nil => exact ⟨_, rfl⟩
  | cons i r ih =>
    obtain ⟨cores, hc⟩ := ih (h.modCore (firstService + 32 * h.self + i) (fun k => { k with svc := true }))
    exact ⟨cores, hc⟩

theorem Hw.runsBrs_self (h : Hw) (l : List Nat) : (h.runsBrs l).self = h.self := by
  obtain ⟨cores, hcores⟩ := h.runsBrs_eq l
  rw [hcores]

theorem Hw.mod_runsBrs (h : Hw) (l : List Nat) (n : Nat) : (h.runsBrs l).mod n = h.mod n := by
  obtain ⟨cores, hcores⟩ := h.runsBrs_eq l
  rw [hcores]
  rfl

theorem Hw.svc_runsBrs (h : Hw) (l : List Nat) {n : Nat} (hn : n ∈ l ∨ (h.core (firstService + 32 * h.self + n)).svc = true) :
    ((h.runsBrs l).core (firstService + 32 * h.self + n)).svc = true := by
  induction l generalizing h with
  | nil => exact hn.resolve_left (List.not_mem_nil)
  | cons i r ih =>
    refine ih (h.modCore (firstService + 32 * h.self + i) (fun k => { k with svc := true })) ?_
    by_cases hi : i = n
    · subst hi
      exact .inr (congrArg Core.svc (h.core_modCore _ _))
    · refine hn.imp (fun hmem => (List.mem_cons.mp hmem).resolve_left (Ne.symm hi)) fun hsvc => ?_
      exact (congrArg Core.svc (h.core_modCore_ne _ _ _ (fun heq => hi (Nat.add_left_cancel heq)))).trans hsvc

theorem Hw.boot_released (h : Hw) (l : List Nat) :
    (((h.runsBrs l).modBoot (fun b => { b with code := 0xF })).mod h.self).boot = { (h.mod h.self).boot with code := 0xF } := by
  have hmod := (h.runsBrs l).mod_modBoot (fun b => { b with code := 0xF })
  rw [Hw.runsBrs_self, Hw.mod_runsBrs] at hmod
  exact congrArg Module.boot hmod

theorem Hw.svc_released (h : Hw) (l : List Nat) (f : Boot → Boot) {n : Nat} (hn : n ∈ l) :
    (((h.runsBrs l).modBoot f).core (firstService + 32 * h.self + n)).svc = true := h.svc_runsBrs l (.inl hn)

/-! ### Each step of the boot order (R480) -/

section
variable {s : State}

theorem modnum_assigns {n : Nat} (harg : s.hw.arg = .nats [n]) (hcode : (s.hw.mod s.hw.self).boot.code = 1)
    (hhalt : (s.hw.mod s.hw.self).boot.halt = false) (hnum : (s.hw.mod s.hw.self).boot.numbered = false) (hn : n < 256)
    (hfree : n = s.hw.self ∨ s.hw.hasModule n = false) : ∃ t, exec .modnum s = .next t ∧ t.mem = s.mem ∧ t.hw.self = n ∧
      (t.hw.mod n).boot.code = 2 ∧ (t.hw.mod n).boot.numbered = true := by
  have hcond : ((s.hw.mod s.hw.self).boot.at 1 && !(s.hw.mod s.hw.self).boot.numbered && decide (n < 256) &&
      (n == s.hw.self || !s.hw.hasModule n)) = true := by
    have hat := ((s.hw.mod s.hw.self).boot.at_iff 1).mpr ⟨hcode, hhalt⟩
    simpa [hat, hnum, hn] using hfree
  refine ⟨_, by rw [exec_modnum, execModnum, harg], ?_⟩
  refine ⟨rfl, ?_⟩
  simp only [State.onHw, if_pos hcond, true_and]
  constructor <;> rw [Hw.mod, SMap.get_set_same]

theorem firmwareVerify_verdict {a b : Option (List Byte)} (harg : s.hw.arg = .blobs a b) (hcode : (s.hw.mod s.hw.self).boot.code = 2)
    (hhalt : (s.hw.mod s.hw.self).boot.halt = false) : let good := (vendorImage a).isSome || (vendorImage b).isSome
    ∃ t, exec .bootFirmwareVerify s = .next t ∧ t.mem = s.mem ∧ (t.hw.mod s.hw.self).boot.code = (if good = true then 4 else 3) ∧
      (t.hw.mod s.hw.self).boot.halt = !good := by
  have hat := ((s.hw.mod s.hw.self).boot.at_iff 2).mpr ⟨hcode, hhalt⟩
  refine ⟨_, by rw [exec_bootFirmwareVerify, execBootFirmwareVerify, harg], ?_⟩
  refine ⟨rfl, ?_⟩
  simp only [State.onHw, hat, Bool.not_true, Bool.false_eq_true, if_false]
  cases vendorImage a with
  | some x => simp [hhalt]
  | none =>
    cases vendorImage b with
    | some x => simp [hhalt]
    | none =>
      have hself (h : Hw) (f : Boot → Boot) : (h.modBoot f).self = h.self := rfl
      have hmod := (s.hw.modBoot (fun x => { x with fw := 2 })).mod_halt 3 0
      rw [hself] at hmod
      simp [hmod]

theorem dramTrain_done (hinv : s.Inv) (harg : s.hw.arg = .nats []) (hcode : (s.hw.mod s.hw.self).boot.code = 4)
    (hhalt : (s.hw.mod s.hw.self).boot.halt = false) (n : Nat) : ∃ t, exec .bootDramTrain s = .next t ∧ t.Inv ∧
      (t.hw.mod s.hw.self).boot.code = 5 ∧ (t.hw.mod s.hw.self).disabled = (s.hw.mod s.hw.self).fused ∧
      (s.hw.self * 2 ^ 41 ≤ n → n < (s.hw.self + 1) * 2 ^ 41 → t.mem.read (dramKeyOf n) = 0 ∧ t.mem.tagOf (dramKeyOf n) = 0 ∧
        t.mem.isPoison (dramKeyOf n) = false) := by
  have hat := ((s.hw.mod s.hw.self).boot.at_iff 4).mpr ⟨hcode, hhalt⟩
  refine ⟨_, by rw [exec_bootDramTrain, execBootDramTrain, harg], ?_⟩
  simp only [hat, Bool.not_true, Bool.false_eq_true, if_false, ne_eq, not_true_eq_false, State.onHw, State.onMem, Hw.mod_modMod, true_and]
  refine ⟨Mem.wf_clear hinv _ _, fun hlo hhi => ?_⟩
  unfold dramKeyOf Config.dramKey
  exact ⟨(Mem.read_clear _ _ _ _).trans (if_pos (by omega)), (Mem.tagOf_clear _ _ _ _).trans (if_pos (by omega)),
    (Mem.isPoison_clear _ _ _ _).trans (if_pos (by omega))⟩

theorem dramTrain_fails {die : Nat} {rest : List Nat} (harg : s.hw.arg = .nats (die :: rest)) (hcode : (s.hw.mod s.hw.self).boot.code = 4)
    (hhalt : (s.hw.mod s.hw.self).boot.halt = false) : ∃ t, exec .bootDramTrain s = .next t ∧ t.mem = s.mem ∧
      (t.hw.mod s.hw.self).boot.code = 4 ∧ (t.hw.mod s.hw.self).boot.halt = true := by
  have hat := ((s.hw.mod s.hw.self).boot.at_iff 4).mpr ⟨hcode, hhalt⟩
  refine ⟨_, by rw [exec_bootDramTrain, execBootDramTrain, harg], ?_⟩
  simp [hat, State.onHw]

theorem uplinkTrain_trains (hcode : (s.hw.mod s.hw.self).boot.code = 5) (hhalt : (s.hw.mod s.hw.self).boot.halt = false) (n : Nat) :
    ∃ t, exec .bootUplinkTrain s = .next t ∧ t.mem = s.mem ∧ (t.hw.mod s.hw.self).boot.code = 6 ∧
      (n < 48 → ((t.hw.mod s.hw.self).link n).st = .training) := by
  have hat := ((s.hw.mod s.hw.self).boot.at_iff 5).mpr ⟨hcode, hhalt⟩
  obtain ⟨hsix, htraining⟩ := s.hw.upTrained_trainLinks (List.range 48)
  refine ⟨{ s with hw := (s.hw.trainLinks s.hw.self (List.range 48)).upTrained }, ?_, rfl, ?_⟩
  · rw [exec_bootUplinkTrain, execBootUplinkTrain, State.onHw]
    simp only [hat, Bool.not_true, Bool.false_eq_true, if_false, Hw.upTrained, Hw.trainLinks_self]
    rw [Hw.trainLinks]
  · dsimp only
    exact ⟨hsix, fun hn => htraining n (List.mem_range.mpr hn)⟩

theorem kMapLock_locks {granules : List Nat} {leaves : List Word} (harg : s.hw.arg = .words granules leaves)
    (hcode : (s.hw.mod s.hw.self).boot.code = 6) (hhalt : (s.hw.mod s.hw.self).boot.halt = false) :
    ∃ t, exec .bootKMapLock s = .next t ∧ (t.hw.mod s.hw.self).boot.code = 7 ∧ (t.hw.mod s.hw.self).kmap = granules ∧
      (t.hw.mod s.hw.self).klocked = true := by
  have hat := ((s.hw.mod s.hw.self).boot.at_iff 6).mpr ⟨hcode, hhalt⟩
  refine ⟨_, by rw [exec_bootKMapLock, execBootKMapLock, harg], ?_⟩
  simp [hat, State.onHw]

theorem brsVerify_signed {a b : Option (List Byte)} {img : List Byte} (harg : s.hw.arg = .blobs a b)
    (hcode : (s.hw.mod s.hw.self).boot.code = 7) (hhalt : (s.hw.mod s.hw.self).boot.halt = false) (ha : a = some img)
    (hsig : imageSigner img = some (s.hw.mod s.hw.self).boot.signer) : ∃ t, exec .bootBrsVerify s = .next t ∧ t.mem = s.mem ∧
      (t.hw.mod s.hw.self).boot.code = 8 ∧ (t.hw.mod s.hw.self).boot.halt = false := by
  have hat := ((s.hw.mod s.hw.self).boot.at_iff 7).mpr ⟨hcode, hhalt⟩
  refine ⟨_, by rw [exec_bootBrsVerify, execBootBrsVerify, harg], ?_⟩
  refine ⟨rfl, ?_⟩
  simp [hat, State.onHw, ha, hsig, hhalt]

/-- Without an image, or with one that another has signed, the module halts with code 7 (R480). -/
theorem brsVerify_halts {a b : Option (List Byte)} (harg : s.hw.arg = .blobs a b)
    (hcode : (s.hw.mod s.hw.self).boot.code = 7) (hhalt : (s.hw.mod s.hw.self).boot.halt = false)
    (hsig : ∀ img, a = some img → imageSigner img ≠ some (s.hw.mod s.hw.self).boot.signer) :
    ∃ t, exec .bootBrsVerify s = .next t ∧ t.mem = s.mem ∧ (t.hw.mod s.hw.self).boot.code = 7 ∧ (t.hw.mod s.hw.self).boot.halt = true := by
  have hat := ((s.hw.mod s.hw.self).boot.at_iff 7).mpr ⟨hcode, hhalt⟩
  refine ⟨_, by rw [exec_bootBrsVerify, execBootBrsVerify, harg], ?_⟩
  refine ⟨rfl, ?_⟩
  cases a with
  | none => simp [hat, State.onHw]
  | some img => simp [hat, State.onHw, hsig img rfl]

theorem bootRelease_runs (hcode : (s.hw.mod s.hw.self).boot.code = 8) (hhalt : (s.hw.mod s.hw.self).boot.halt = false) :
    ∃ t, exec .bootRelease s = .next t ∧ t.mem = s.mem ∧ (t.hw.mod s.hw.self).boot.code = 0xF ∧ (t.hw.mod s.hw.self).boot.halt = false ∧
      ∀ n < 32, (t.hw.core (firstService + 32 * s.hw.self + n)).svc = true := by
  have hat := ((s.hw.mod s.hw.self).boot.at_iff 8).mpr ⟨hcode, hhalt⟩
  have hboot := s.hw.boot_released (List.range 32)
  refine ⟨{ s with hw := (s.hw.runsBrs (List.range 32)).modBoot (fun b => { b with code := 0xF }) }, ?_, rfl, ?_⟩
  · rw [exec_bootRelease, execBootRelease, State.onHw]
    simp only [hat, Bool.not_true, Bool.false_eq_true, if_false, Hw.runsBrs]
  · dsimp only
    exact ⟨congrArg Boot.code hboot, (congrArg Boot.halt hboot).trans hhalt, fun n hn => s.hw.svc_released _ _ (List.mem_range.mpr hn)⟩

end

/-! ### Power, cooling and telemetry (R486, R487) -/

/-- Readings change temperatures and powers alone. -/
theorem Hw.boot_sense (h : Hw) (l : List ThermalReading) : ((h.sense l).mod h.self).boot = (h.mod h.self).boot := by
  rw [Hw.sense, Hw.mod_modMod]
  induction l using List.reverseRecOn with
  | nil => rfl
  | append_singleton r x ih => rw [List.foldl_append]; exact ih

section
variable {s : State} {l : List ThermalReading} (harg : s.hw.arg = .thermal l)
include harg

theorem throttle_lowers (hhot : 950 < ((s.hw.sense l).mod s.hw.self).hottest ∨ 3200000 < ((s.hw.sense l).mod s.hw.self).power) :
    ∃ t, exec .thermalThrottle s = .next t ∧ t.mem = s.mem ∧
      (t.hw.mod s.hw.self).boot.clock = min 15 ((s.hw.mod s.hw.self).boot.clock + 1) := by
  refine ⟨s.onHw (fun h => (h.sense l).modBoot (fun b => { b with clock := min 15 (b.clock + 1) })), ?_, rfl, ?_⟩
  · rw [exec_thermalThrottle, execThermalThrottle, harg]
    exact congrArg (fun h => Host.Outcome.next { s with hw := h }) (if_pos hhot)
  · have hmod := (s.hw.sense l).mod_modBoot (fun b => { b with clock := min 15 (b.clock + 1) })
    rw [← s.hw.boot_sense l]
    exact congrArg (fun m : Module => m.boot.clock) hmod

theorem throttle_raises (hhot : ((s.hw.sense l).mod s.hw.self).hottest ≤ 902) (hpow : ((s.hw.sense l).mod s.hw.self).power ≤ 3040000) :
    ∃ t, exec .thermalThrottle s = .next t ∧ t.mem = s.mem ∧ (t.hw.mod s.hw.self).boot.clock = (s.hw.mod s.hw.self).boot.clock - 1 := by
  refine ⟨s.onHw (fun h => (h.sense l).modBoot (fun b => { b with clock := b.clock - 1 })), ?_, rfl, ?_⟩
  · have hcool : ¬(950 < ((s.hw.sense l).mod s.hw.self).hottest ∨ 3200000 < ((s.hw.sense l).mod s.hw.self).power) := by omega
    have hlow : 20 * ((s.hw.sense l).mod s.hw.self).hottest ≤ 19 * 950 ∧ 20 * ((s.hw.sense l).mod s.hw.self).power ≤ 19 * 3200000 := by omega
    rw [exec_thermalThrottle, execThermalThrottle, harg]
    exact congrArg (fun h => Host.Outcome.next { s with hw := h }) ((if_neg hcool).trans (if_pos hlow))
  · have hmod := (s.hw.sense l).mod_modBoot (fun b => { b with clock := b.clock - 1 })
    rw [← s.hw.boot_sense l]
    exact congrArg (fun m : Module => m.boot.clock) hmod

theorem thermalHalt_halts (hhot : 1050 ≤ ((s.hw.sense l).mod s.hw.self).hottest) : ∃ t, exec .thermalHalt s = .next t ∧ t.mem = s.mem ∧
    (t.hw.mod s.hw.self).boot.halt = true ∧ (t.hw.mod s.hw.self).boot.code = 0xE ∧
    (t.hw.mod s.hw.self).boot.die = ((s.hw.sense l).mod s.hw.self).hotDie := by
  refine ⟨s.onHw (fun h => (h.sense l).halt 0xE ((h.sense l).mod h.self).hotDie), ?_, rfl, ?_⟩
  · rw [exec_thermalHalt, execThermalHalt, harg]
    exact congrArg (fun h => Host.Outcome.next { s with hw := h }) (if_pos hhot)
  · have hmod := congrArg Module.boot ((s.hw.sense l).mod_halt 0xE ((s.hw.sense l).mod s.hw.self).hotDie)
    exact ⟨congrArg Boot.halt hmod, congrArg Boot.code hmod, congrArg Boot.die hmod⟩

theorem thermalHalt_keeps (hcool : ((s.hw.sense l).mod s.hw.self).hottest < 1050) : ∃ t, exec .thermalHalt s = .next t ∧ t.mem = s.mem ∧
    (t.hw.mod s.hw.self).boot = (s.hw.mod s.hw.self).boot := by
  refine ⟨s.onHw (fun h => h.sense l), ?_, rfl, s.hw.boot_sense l⟩
  rw [exec_thermalHalt, execThermalHalt, harg]
  exact congrArg (fun h => Host.Outcome.next { s with hw := h }) (if_neg (Nat.not_le.mpr hcool))

end

theorem telemetrySample_samples (s : State) : ∃ t, exec .telemetrySample s = .next t ∧ t.mem = s.mem ∧
    (t.hw.mod s.hw.self).telem = (s.hw.mod s.hw.self).sample s.hw.self (s.hw.now - (s.hw.mod s.hw.self).since) ∧
    (⟨s.hw.now + 65536, .telemetrySample, .none⟩ : Due) ∈ t.hw.agenda := by
  refine ⟨_, exec_telemetrySample s, ?_⟩
  refine ⟨rfl, ?_, ?_⟩
  · exact congrArg Module.telem (s.hw.mod_modMod s.hw.self (fun m => { m with telem := m.sample s.hw.self (s.hw.now - m.since) }))
  · exact (Hw.mem_agenda_schedule _ _ _ _ _).mpr (.inl rfl)

end Sys2Proof.Machine
end

section
/-! PROOFS. Scrubs of memory, and the boot order as a whole (01_machine R39; 24_bringup R480 to R487; O51). -/

namespace Sys2Proof.Machine

/-! ### Scrubs (R37 to R39) -/

/-- Memory after sectors have been poisoned. -/
def Mem.poisoned (m : Mem) (l : List Nat) : Mem := l.foldl (fun m k => m.setPoison k true) m

theorem Mem.read_poisoned (m : Mem) (l : List Nat) (j : Nat) : (m.poisoned l).read j = m.read j := by
  induction l generalizing m with
  | nil => rfl
  | cons k r ih => exact ih _

theorem Mem.isPoison_poisoned {m : Mem} (h : m.wf = true) {l : List Nat} {k : Nat} (hk : k ∈ l ∨ m.isPoison k = true) :
    (m.poisoned l).isPoison k = true := by
  induction l generalizing m with
  | nil => exact hk.resolve_left List.not_mem_nil
  | cons i r ih =>
    refine ih (Mem.wf_setPoison h i true) ?_
    rw [Mem.isPoison_setPoison h]
    by_cases hik : i = k
    · simp [hik]
    · refine hk.imp (fun hmem => (List.mem_cons.mp hmem).resolve_left (Ne.symm hik)) fun hp => ?_
      simp [hp]

/-- The errors counted at a place of a core's die (R37). -/
def Hw.eccAt (h : Hw) (core place : Nat) : Nat := SMap.get 0 (h.mod (moduleOf core)).ecc (8 * (dieOf core % 8) + place)

theorem Hw.eccAt_countEcc (h : Hw) (core place n p : Nat) :
    (h.countEcc core place n).eccAt core p = h.eccAt core p + if place = p then n else 0 := by
  unfold Hw.countEcc
  split
  next hn => simp [hn]
  next =>
    rw [Hw.eccAt, Hw.mod_modMod]
    split
    next hp => rw [hp, SMap.get_set_same]; rfl
    next hp => rw [SMap.get_set_ne _ _ _ _ _ (fun heq => hp (Nat.add_left_cancel heq))]; rfl

theorem Hw.scrubFinds_iff (h : Hw) (core site period rest rate n : Nat) (bad : List Nat) :
    h.scrubFinds core site period rest rate n bad = true ↔ h.grainNow (clusterOf core) % period = rest ∧
      SMap.get 0 (h.core core).scrubAt site < h.grainNow (clusterOf core) ∧
      (∀ k ∈ bad, keyCore k = core ∧ keyDram k = (site == 0) ∧ k % 32 = 0) ∧ bad.Nodup ∧ n + 2 * bad.length ≤ 2 * rate := by
  simp only [Hw.scrubFinds, Bool.and_eq_true, beq_iff_eq, decide_eq_true_eq, List.all_eq_true, and_assoc]

/-- What a scrub leaves: the failing sectors are poisoned, no byte is changed, and the errors are counted (R37, R38). -/
theorem State.scrub_leaves {s : State} (hinv : s.Inv) (core site n : Nat) (bad : List Nat) :
    (∀ k ∈ bad, (s.scrub core site n bad).mem.isPoison k = true) ∧ (∀ k, (s.scrub core site n bad).mem.read k = s.mem.read k) ∧
    ∀ p, (s.scrub core site n bad).hw.eccAt core p =
      s.hw.eccAt core p + (if site = p then n else 0) + if 3 = p then bad.length else 0 := by
  refine ⟨fun k hk => Mem.isPoison_poisoned hinv (.inl hk), fun k => s.mem.read_poisoned bad k, fun p => ?_⟩
  have hecc : (s.scrub core site n bad).hw.eccAt core p = ((s.hw.countEcc core site n).countEcc core 3 bad.length).eccAt core p := rfl
  rw [hecc, Hw.eccAt_countEcc, Hw.eccAt_countEcc]

section
variable {s : State} {core n : Nat} {bad : List Nat} (harg : s.hw.arg = .nats (core :: n :: bad))
include harg

theorem exec_dramRefreshGrain_nats :
    exec .dramRefreshGrain s = .next (if s.hw.scrubFinds core 0 256 255 4 n bad then s.scrub core 0 n bad else s) := by
  rw [exec_dramRefreshGrain, execDramRefreshGrain, harg]

theorem exec_scratchpadScrubGrain_nats :
    exec .scratchpadScrubGrain s = .next (if s.hw.scrubFinds core 1 1024 511 64 n bad then s.scrub core 1 n bad else s) := by
  rw [exec_scratchpadScrubGrain, execScratchpadScrubGrain, harg]

end

/-! ### The obligation -/

/-- A module as a reset leaves it (R479). -/
theorem State.restart_fresh {s : State} (hinv : s.Inv) (hself : s.hw.self < 256) {core : Nat} (hcore : core < 2 ^ 21 + 2 ^ 13)
    (hm : moduleOf core = s.hw.self) (j key : Nat) : s.restart.Inv ∧ s.restart.hw.now = s.hw.now ∧ s.restart.hw.count core = 0 ∧
      s.restart.hw.agenda = State.reset.hw.agenda.map (fun d => { d with at_ := s.hw.now + d.at_ }) ∧
      (s.restart.hw.mod s.hw.self).boot = Boot.reset ∧ s.restart.hw.core core = Core.reset ∧
      (j < 2 ^ 20 → s.restart.mem.read (scratchKey core j) = 0) ∧ (Config.dramKey ≤ key → s.restart.mem.read key = s.mem.read key) :=
  ⟨State.restart_inv hinv, rfl, s.hw.count_restart hm, rfl, congrArg Module.boot s.hw.mod_restart, s.hw.core_restart hm,
    s.read_restart_scratch hm hcore, s.read_restart_dram hself⟩

theorem exec_i3cReset_nats {s : State} {n : Nat} (harg : s.hw.arg = .nats [n]) :
    exec .i3cReset s = .next (if n = 0xA5 then s.restart else s) := by
  rw [exec_i3cReset, execI3cReset, harg]

/-- Settles O51: each step of the boot order by its own lemma; a reset by what the clears leave; scrubs by their counts. -/
theorem bootOrder : Obligations.BootOrder := by
  unfold Obligations.BootOrder
  intro s l a b img granules leaves n core cnt key j die rest bad
  refine ⟨fun hinv hself hcore hm => ⟨?_, fun harg => ?_⟩, fun harg hn => ?_, modnum_assigns, exec_moduleNumberWaitExpiry s,
    fun hhalt => ⟨fun hcode harg => ?_, fun hcode => ⟨fun hinv harg => ?_, fun harg => ?_⟩, fun hcode => ?_, fun hcode harg => ?_,
      fun hcode harg => ⟨fun ha hsig => ?_, fun ha hsig => ?_, fun ha => ?_⟩, fun hcode => ?_⟩,
    fun harg => ⟨throttle_lowers harg, throttle_raises harg, thermalHalt_halts harg, thermalHalt_keeps harg⟩,
    telemetrySample_samples s, fun hinv harg hnodup => ⟨fun hgrain hlast hbad hrate => ?_, fun hgrain hlast hbad hrate => ?_, fun hgrain => ?_,
      fun hgrain => ?_⟩, rfl⟩
  · exact ⟨_, exec_powerOnReset s, State.restart_fresh hinv hself hcore hm j key⟩
  · exact ⟨_, (exec_i3cReset_nats harg).trans (by rw [if_pos rfl]), State.restart_fresh hinv hself hcore hm j key⟩
  · rw [exec_i3cReset_nats harg, if_neg hn]
  · exact firmwareVerify_verdict harg hcode hhalt
  · exact dramTrain_done hinv harg hcode hhalt n
  · exact dramTrain_fails harg hcode hhalt
  · exact uplinkTrain_trains hcode hhalt n
  · exact kMapLock_locks harg hcode hhalt
  · exact brsVerify_signed harg hcode hhalt ha hsig
  · exact brsVerify_halts harg hcode hhalt fun i hi => Option.some.inj (ha.symm.trans hi) ▸ hsig
  · exact brsVerify_halts harg hcode hhalt fun i hi => absurd (hi.symm.trans ha) (Option.some_ne_none i)
  · obtain ⟨t, hnext, hmem, hfifteen, hrun, hsvc⟩ := bootRelease_runs hcode hhalt
    exact ⟨⟨t, hnext, hmem, hfifteen, hrun⟩, fun hn => ⟨t, hnext, hsvc n hn⟩⟩
  · have hfinds := (s.hw.scrubFinds_iff core 0 256 255 4 cnt bad).mpr ⟨hgrain, hlast, hbad, hnodup, hrate⟩
    obtain ⟨hpoison, hread, hecc⟩ := State.scrub_leaves hinv core 0 cnt bad
    exact ⟨_, (exec_dramRefreshGrain_nats harg).trans (by rw [if_pos hfinds]), hpoison, hread, hecc 0, hecc 3⟩
  · have hfinds := (s.hw.scrubFinds_iff core 1 1024 511 64 cnt bad).mpr ⟨hgrain, hlast, hbad, hnodup, hrate⟩
    obtain ⟨hpoison, hread, hecc⟩ := State.scrub_leaves hinv core 1 cnt bad
    exact ⟨_, (exec_scratchpadScrubGrain_nats harg).trans (by rw [if_pos hfinds]), hpoison, hread, hecc 1, hecc 3⟩
  · rw [exec_dramRefreshGrain_nats harg, if_neg fun hfinds => hgrain ((s.hw.scrubFinds_iff _ _ _ _ _ _ _).mp hfinds).1]
  · rw [exec_scratchpadScrubGrain_nats harg, if_neg fun hfinds => hgrain ((s.hw.scrubFinds_iff _ _ _ _ _ _ _).mp hfinds).1]

end Sys2Proof.Machine
end

section
/-! PROOFS. Tenants, sessions, and what BRS sends on them (20_tags R417; 23_service R469, R470, R473, R476; 24_bringup R484; for O50). -/

namespace Sys2Proof.Machine

/-! ### Tenants and messages of a module -/

theorem SMap.find?_set_same {α : Type} (m : SMap α) (k : Nat) (v : α) : SMap.find? (SMap.set m k v) k = some v := by
  rw [SMap.find?_set, if_pos rfl]

@[simp] theorem Hw.tenant_modTenant (h : Hw) (m t : Nat) (f : Tenant → Tenant) :
    ((h.modTenant m t f).mod m).tenant t = f ((h.mod m).tenant t) := by
  rw [Hw.modTenant, Hw.mod_modMod, Module.tenant, SMap.get_set_same]

@[simp] theorem Hw.sent_modTenant (h : Hw) (m t : Nat) (f : Tenant → Tenant) : ((h.modTenant m t f).mod m).sent = (h.mod m).sent := by
  rw [Hw.modTenant, Hw.mod_modMod]

section
variable {h : Hw} {m : Nat} (hm : h.self = m) (session : Nat) (b : List Byte)
include hm

/-- A message changes nothing in its module but the list of messages (R476). -/
theorem Hw.mod_tell : (h.tell session b).mod m = { h.mod m with sent := (h.mod m).sent ++ [(session, b)] } := by
  subst hm
  exact h.mod_modMod _ _

theorem Hw.sent_tell : ((h.tell session b).mod m).sent = (h.mod m).sent ++ [(session, b)] := congrArg Module.sent (Hw.mod_tell hm session b)

theorem Hw.tenant_tell (t : Nat) : ((h.tell session b).mod m).tenant t = (h.mod m).tenant t := by
  rw [Hw.mod_tell hm]
  rfl

end

/-! ### Sessions, records, the operator (R469, R473, R476) -/

section
variable {s : State} {session tn n : Nat}

/-- What a request of the operator or of a tenant needs (R469, R475, R482): BRS runs, and the tenant exists and is not being deleted. -/
def Hw.served (h : Hw) (t : Nat) : Prop := h.serving = true ∧ ((h.mod h.self).tenant t).exist = true ∧ ((h.mod h.self).tenant t).deleting = false

theorem sessionOpen_binds (harg : s.hw.arg = .nats [session, tn]) (hserved : s.hw.served tn)
    (hnew : SMap.find? (s.hw.mod s.hw.self).sessions session = none) (hsession : session < 65536) :
    ∃ t, exec .ultraEthernetSessionOpen s = .next t ∧ t.mem = s.mem ∧ SMap.find? (t.hw.mod s.hw.self).sessions session = some tn := by
  obtain ⟨hrun, hexist, hlive⟩ := hserved
  refine ⟨_, by rw [exec_ultraEthernetSessionOpen, execUltraEthernetSessionOpen, harg], ?_⟩
  simp [State.onHw, hrun, hexist, hlive, hnew, hsession, SMap.find?_set_same]

theorem eventForward_sends {recs : List (BitVec 256)} (hs : s.hw.sessionTenant session = some tn) (harg : s.hw.arg = .nats [session, 0])
    (hrecs : (((s.hw.mod s.hw.self).tenant tn).events.drop ((s.hw.mod s.hw.self).tenant tn).eventSent).take 64 = recs) (hsome : recs ≠ []) :
    ∃ t, exec .eventForward s = .next t ∧ t.mem = s.mem ∧
      (t.hw.mod s.hw.self).sent = (s.hw.mod s.hw.self).sent ++ [(session, recs.flatMap (fun r => bytesLE 32 r.toNat))] ∧
      ((t.hw.mod s.hw.self).tenant tn).eventSent = ((s.hw.mod s.hw.self).tenant tn).eventSent + recs.length ∧
      ((t.hw.mod s.hw.self).tenant tn).events = ((s.hw.mod s.hw.self).tenant tn).events := by
  refine ⟨s.onHw (fun h => (h.modTenant h.self tn (fun x => { x with eventSent := x.eventSent + recs.length })).tell session
    (recs.flatMap (fun r => bytesLE 32 r.toNat))), ?_, rfl, ?_⟩
  · rw [exec_eventForward, execEventForward, harg]
    simp only [State.onHw, hs, if_pos, hrecs, if_neg hsome]
  · simp only [State.onHw]
    rw [Hw.sent_tell, Hw.sent_modTenant, Hw.tenant_tell, Hw.tenant_modTenant]
    · exact ⟨rfl, rfl, rfl⟩
    · rfl
    · rfl

theorem acknowledge_frees (hs : s.hw.sessionTenant session = some tn) (harg : s.hw.arg = .nats [session, 0, n])
    (hn : n ≤ ((s.hw.mod s.hw.self).tenant tn).eventSent) : ∃ t, exec .tenantAcknowledge s = .next t ∧ t.mem = s.mem ∧
      ((t.hw.mod s.hw.self).tenant tn).events = ((s.hw.mod s.hw.self).tenant tn).events.drop n ∧
      ((t.hw.mod s.hw.self).tenant tn).eventSent = ((s.hw.mod s.hw.self).tenant tn).eventSent - n := by
  refine ⟨_, by rw [exec_tenantAcknowledge, execTenantAcknowledge, harg], ?_⟩
  simp [State.onHw, hs, Nat.min_eq_left hn]

theorem createTenant_creates (hrun : s.hw.serving = true) (hnone : ((s.hw.mod s.hw.self).tenant tn).exist = false) (htn : tn < 64)
    (harg : s.hw.arg = .operator (.createTenant tn)) : ∃ t, exec .operatorRequest s = .next t ∧ t.mem = s.mem ∧
      (t.hw.mod s.hw.self).tenant tn = { Tenant.none with exist := true } := by
  refine ⟨_, by rw [exec_operatorRequest, execOperatorRequest, harg], ?_⟩
  simp [State.onHw, hrun, hnone, htn]

theorem readMap_sends (hs : s.hw.sessionTenant session = some tn) (harg : s.hw.arg = .operator (.readMap session)) :
    ∃ t, exec .operatorRequest s = .next t ∧ t.mem = s.mem ∧
      (t.hw.mod s.hw.self).sent = (s.hw.mod s.hw.self).sent ++ [(session, (s.hw.mod s.hw.self).capMap)] := by
  refine ⟨s.onHw (fun h => h.tell session (s.hw.mod s.hw.self).capMap), ?_, rfl, Hw.sent_tell rfl session _⟩
  rw [exec_operatorRequest, execOperatorRequest, harg]
  simp [hs]

theorem State.foldl_hw {β : Type} (f : State → β → State) (hf : ∀ s b, (f s b).hw = s.hw) (l : List β) (s : State) : (l.foldl f s).hw = s.hw := by
  induction l generalizing s with
  | nil => rfl
  | cons b r ih => exact (ih _).trans (hf s b)

@[simp] theorem State.writeDirectory_hw (s : State) (t : Nat) : (s.writeDirectory t).hw = s.hw := by
  refine State.foldl_hw _ (fun u d => ?_) _ s
  split <;> rfl

theorem setPrincipal_sets {otag : Nat} {grants : BitVec 4096} (hserved : s.hw.served tn)
    (hroom : ((s.hw.mod s.hw.self).tenant tn).dir.length < 4096) (hn : n < 2 ^ 32) (hotag : otag < 4096)
    (harg : s.hw.arg = .operator (.setPrincipal tn n otag grants)) : ∃ t, exec .operatorRequest s = .next t ∧
      SMap.find? ((t.hw.mod s.hw.self).tenant tn).dir n = some ⟨otag, grants⟩ := by
  obtain ⟨hrun, hexist, hlive⟩ := hserved
  have hprin : n % 4294967296 = n := Nat.mod_eq_of_lt hn
  refine ⟨_, by rw [exec_operatorRequest, execOperatorRequest, harg], ?_⟩
  simp [State.onHw, hrun, hexist, hlive, hroom, hprin, Nat.mod_eq_of_lt hotag, SMap.find?_set_same]

end

/-! ### Reports (R484) -/

theorem bytesBE_length (n v : Nat) : (bytesBE n v).length = n := by rw [bytesBE, List.length_reverse, bytesLE_length]

theorem shaBlocks_length (n : Nat) {v : List Nat} (hv : v.length = 8) (bs : List Byte) : (shaBlocks n v bs).length = 8 := by
  induction n generalizing v bs with
  | zero => exact hv
  | succ n ih =>
    rw [shaBlocks]
    split
    · exact hv
    · exact ih rfl _

theorem sha512256Init_length : sha512256Init.length = 8 := shaBlocks_length _ rfl _

theorem sha512256_length (bs : List Byte) : (sha512256 bs).length = 32 := by
  have hwords : (shaRun sha512256Init bs).length = 8 := shaBlocks_length _ sha512256Init_length _
  have hbytes : (List.map (fun v => (bytesBE 8 v).length) (shaRun sha512256Init bs)).sum = 64 := by
    simp only [bytesBE_length, List.map_const', List.sum_replicate, hwords]
    rfl
  rw [sha512256, List.length_take, List.length_flatMap, hbytes]
  rfl

theorem Hw.report_length (h : Hw) (nonce : List Byte) : (h.report nonce).length = 288 := by
  have hnonce : ((nonce ++ bytesLE 32 0).take 32).length = 32 := by
    rw [List.length_take, List.length_append, bytesLE_length]
    omega
  unfold Hw.report
  simp only [List.length_append, bytesLE_length, hnonce, sha512256_length]

theorem attestation_reports {s : State} {session log : Nat} {nonce : List Byte} (harg : s.hw.arg = .blob [session, log] nonce)
    (hrun : s.hw.serving = true) (hfrom : session = 65536 ∨ ∃ tn, s.hw.sessionTenant session = some tn) :
    ∃ t b, exec .attestationRequest s = .next t ∧ t.mem = s.mem ∧
      (t.hw.mod s.hw.self).sent = (s.hw.mod s.hw.self).sent ++ [(session, b)] ∧ b.take 288 = s.hw.report nonce := by
  have hcond : (s.hw.serving && (session == i3cPort || (s.hw.sessionTenant session).isSome)) = true := by
    rw [hrun, Bool.true_and, Bool.or_eq_true, beq_iff_eq]
    exact hfrom.imp id fun ⟨tn, htn⟩ => by rw [htn]; rfl
  refine ⟨s.onHw (fun h => h.tell session (h.report nonce ++ bytesBE 512 Config.identityModulus ++ signReport (h.report nonce) ++
    (if log = 0 then [] else (h.mod h.self).boot.logBytes))), _, ?_, rfl, Hw.sent_tell rfl session _, ?_⟩
  · rw [exec_attestationRequest, execAttestationRequest, harg]
    simp only [State.onHw, if_pos hcond]
  · rw [List.append_assoc, List.append_assoc]
    exact List.take_left' (s.hw.report_length nonce)

end Sys2Proof.Machine
end

section
/-! PROOFS. The deletion of a tenant and the allocation of a cluster (23_service R470, R475; for O50). -/

namespace Sys2Proof.Machine

/-! ### Deletion (R475) -/

/-- Clearings of clusters start. -/
def Hw.startClears (h : Hw) (l : List Nat) : Hw := l.foldl (fun h c => h.schedule h.now .clusterClear (.nats [c])) h

theorem Hw.binds_startClears (h : Hw) (l : List Nat) : h.Binds (h.startClears l) := Hw.binds_foldl _ (fun h _ => h.binds_schedule _ _ _) l h

theorem Hw.mem_agenda_startClears (h : Hw) (l : List Nat) {c : Nat} (hc : c ∈ l) :
    (⟨h.now, .clusterClear, .nats [c]⟩ : Due) ∈ (h.startClears l).agenda := by
  induction l generalizing h with
  | nil => exact absurd hc List.not_mem_nil
  | cons d r ih =>
    rcases List.mem_cons.mp hc with heq | hr
    · subst heq
      exact (Hw.binds_startClears _ r).agenda ((Hw.mem_agenda_schedule _ _ _ _ _).mpr (.inl rfl))
    · exact ih (h.schedule h.now .clusterClear (.nats [d])) hr

/-- The tenant is being deleted, and its records are dropped from the die queues. -/
def Hw.refuseTenant (h : Hw) (t : Nat) : Hw :=
  let h1 := h.modTenant h.self t (fun x => { x with deleting := true })
  { h1 with
    dies := h1.dies.map (fun (d : Nat × Die) => if d.1 / 8 = h1.self then (d.1, { d.2 with queues := SMap.erase d.2.queues t }) else d) }

theorem Hw.tenant_refuseTenant (h : Hw) (t : Nat) :
    ((h.refuseTenant t).mod h.self).tenant t = { (h.mod h.self).tenant t with deleting := true } :=
  h.tenant_modTenant h.self t (fun x => { x with deleting := true })

section
variable {s : State} {tn : Nat}

theorem exec_tenantDeletion_first (harg : s.hw.arg = .nats [tn]) (hexist : ((s.hw.mod s.hw.self).tenant tn).exist = true) :
    exec .tenantDeletion s = .next (s.onHw (fun h => ((h.refuseTenant tn).startClears ((h.mod h.self).tenant tn).clusters).schedule h.now
      .tenantDeletion (.nats [tn, 1]))) := by
  have hclusters := congrArg Tenant.clusters (s.hw.tenant_refuseTenant tn)
  rw [exec_tenantDeletion, execTenantDeletion, harg]
  simp only [State.onHw, hexist, Bool.not_true, Bool.false_eq_true, if_false]
  rw [← hclusters]
  rfl

theorem tenantDeletion_starts (harg : s.hw.arg = .nats [tn]) (hexist : ((s.hw.mod s.hw.self).tenant tn).exist = true) :
    ∃ t, exec .tenantDeletion s = .next t ∧ t.mem = s.mem ∧ ((t.hw.mod s.hw.self).tenant tn).deleting = true ∧
      (∀ c ∈ ((s.hw.mod s.hw.self).tenant tn).clusters, (⟨s.hw.now, .clusterClear, .nats [c]⟩ : Due) ∈ t.hw.agenda) ∧
      (⟨s.hw.now, .tenantDeletion, .nats [tn, 1]⟩ : Due) ∈ t.hw.agenda := by
  refine ⟨_, exec_tenantDeletion_first harg hexist, ?_⟩
  refine ⟨rfl, ?_, fun c hc => ?_, (Hw.mem_agenda_schedule _ _ _ _ _).mpr (.inl rfl)⟩
  · obtain ⟨agenda, heq, -⟩ := (s.hw.refuseTenant tn).binds_startClears ((s.hw.mod s.hw.self).tenant tn).clusters
    simp only [State.onHw, heq]
    exact congrArg Tenant.deleting (s.hw.tenant_refuseTenant tn)
  · exact (Hw.mem_agenda_schedule _ _ _ _ _).mpr (.inr ((s.hw.refuseTenant tn).mem_agenda_startClears _ hc))

theorem tenantDeletion_waits (harg : s.hw.arg = .nats [tn, 1]) (hleft : ((s.hw.mod s.hw.self).tenant tn).clusters ≠ []) :
    ∃ t, exec .tenantDeletion s = .next t ∧ t.mem = s.mem ∧ (⟨s.hw.now + 16, .tenantDeletion, .nats [tn, 1]⟩ : Due) ∈ t.hw.agenda := by
  refine ⟨s.onHw (fun h => h.after 16 .tenantDeletion (.nats [tn, 1])), ?_, rfl, (Hw.mem_agenda_schedule _ _ _ _ _).mpr (.inl rfl)⟩
  rw [exec_tenantDeletion, execTenantDeletion, harg]
  simp only [State.onHw, if_pos hleft]

theorem tenantDeletion_drops (harg : s.hw.arg = .nats [tn, 1]) (hnone : ((s.hw.mod s.hw.self).tenant tn).clusters = []) :
    ∃ t, exec .tenantDeletion s = .next t ∧ t.mem = s.mem ∧ SMap.find? (t.hw.mod s.hw.self).tenants tn = none ∧
      ∀ e ∈ (t.hw.mod s.hw.self).sessions, e.2 ≠ tn := by
  refine ⟨_, by rw [exec_tenantDeletion, execTenantDeletion, harg], ?_⟩
  simp only [State.onHw, hnone, ne_eq, not_true_eq_false, if_false, Hw.mod_modMod]
  exact ⟨trivial, (SMap.find?_erase _ _ _).trans (if_pos rfl), fun e he => by simpa using (List.mem_filter.mp he).2⟩

end

/-! ### Allocation (R34, R470) -/

/-- A fold that changes cores alone. -/
theorem Hw.foldl_modCore_eq (g : Core → Core) (l : List Nat) (h : Hw) : ∃ cores, l.foldl (fun h c => h.modCore c g) h = { h with cores := cores } := by
  induction l generalizing h with
  | nil => exact ⟨_, rfl⟩
  | cons c r ih =>
    obtain ⟨cores, heq⟩ := ih (h.modCore c g)
    exact ⟨cores, heq⟩

/-- A core that a fold has changed or left, where a second change changes no more. -/
theorem Hw.core_foldl_modCore (g : Core → Core) (hg : ∀ k, g (g k) = g k) (l : List Nat) (h : Hw) (c : Nat) :
    (l.foldl (fun h c => h.modCore c g) h).core c = h.core c ∨ (l.foldl (fun h c => h.modCore c g) h).core c = g (h.core c) := by
  induction l generalizing h with
  | nil => exact .inl rfl
  | cons d r ih =>
    by_cases hdc : d = c
    · subst hdc
      refine .inr ((ih (h.modCore d g)).elim (fun he => he.trans (h.core_modCore d g)) fun he => he.trans ?_)
      rw [Hw.core_modCore, hg]
    · rw [← h.core_modCore_ne d g c hdc]
      exact ih (h.modCore d g)

/-- A core with its set-up (R470). -/
def Core.setUp (u : CoreSetup) (k : Core) : Core :=
  { k with age := u.age, deqb := u.deqb, deql := u.deql, ovfb := u.ovfb, ovfl := u.ovfl, saveBase := some u.save }

/-- A core with a list of its tenant's clusters (R231). -/
def Core.withList (l : List Nat) (k : Core) : Core := { k with stealList := l }

/-- A core of an allocated cluster gets its set-up, where it is not disabled (R470). -/
def Hw.setUpCore (u : CoreSetup) (h : Hw) (c : Nat) : Hw :=
  if h.coreDisabled c then h else (h.modCore c (Core.setUp u)).schedule h.now .coreModeSet (.nats [c, u.mode])

theorem Hw.setUpCore_def (u : CoreSetup) : Hw.setUpCore u = fun h c =>
    if h.coreDisabled c then h
    else (h.modCore c (fun k => { k with
      age := u.age, deqb := u.deqb, deql := u.deql, ovfb := u.ovfb, ovfl := u.ovfl, saveBase := some u.save })).schedule h.now .coreModeSet
        (.nats [c, u.mode]) := rfl

/-- A core has its set-up, and its mode is about to be set (R470). -/
def Hw.isSetUp (h : Hw) (u : CoreSetup) (c : Nat) : Prop :=
  (h.core c).age = u.age ∧ (h.core c).deqb = u.deqb ∧ (h.core c).deql = u.deql ∧ (h.core c).ovfb = u.ovfb ∧ (h.core c).ovfl = u.ovfl ∧
    (h.core c).saveBase = some u.save ∧ (⟨h.now, .coreModeSet, .nats [c, u.mode]⟩ : Due) ∈ h.agenda

/-- A set-up stands while the core changes in its list of clusters alone, and steps are only added. -/
theorem Hw.isSetUp.mono {h h' : Hw} {u : CoreSetup} {c : Nat} (hu : h.isSetUp u c) {l : List Nat} (hcore : h'.core c = (h.core c).withList l)
    (hnow : h'.now = h.now) (hagenda : h.agenda ⊆ h'.agenda) : h'.isSetUp u c := by
  unfold Hw.isSetUp at hu ⊢
  rw [hcore, hnow]
  obtain ⟨hage, hdeqb, hdeql, hovfb, hovfl, hsave, hmode⟩ := hu
  exact ⟨hage, hdeqb, hdeql, hovfb, hovfl, hsave, hagenda hmode⟩

theorem Hw.setUpCore_eq (u : CoreSetup) (h : Hw) (c : Nat) : ∃ cores agenda, h.setUpCore u c = { h with cores := cores, agenda := agenda } := by
  unfold Hw.setUpCore
  split
  · exact ⟨_, _, rfl⟩
  · exact ⟨_, _, rfl⟩

theorem Hw.foldl_setUpCore_eq (u : CoreSetup) (l : List Nat) (h : Hw) : ∃ cores agenda,
    l.foldl (Hw.setUpCore u) h = { h with cores := cores, agenda := agenda } := by
  induction l generalizing h with
  | nil => exact ⟨_, _, rfl⟩
  | cons c r ih =>
    obtain ⟨cores, agenda, heq⟩ := h.setUpCore_eq u c
    obtain ⟨cores', agenda', heq'⟩ := ih (h.setUpCore u c)
    exact ⟨cores', agenda', by rw [List.foldl_cons, heq', heq]⟩

theorem Hw.isSetUp_setUpCore {u : CoreSetup} {h : Hw} {c d : Nat} (hd : (d = c ∧ h.coreDisabled d = false) ∨ h.isSetUp u d) :
    (h.setUpCore u c).isSetUp u d := by
  unfold Hw.setUpCore
  split
  next hoff =>
    refine hd.resolve_left ?_
    rintro ⟨rfl, hon⟩
    rw [hon] at hoff
    cases hoff
  next =>
    by_cases hcd : c = d
    · subst hcd
      have hcore := h.core_modCore c (Core.setUp u)
      exact ⟨congrArg Core.age hcore, congrArg Core.deqb hcore, congrArg Core.deql hcore, congrArg Core.ovfb hcore, congrArg Core.ovfl hcore,
        congrArg Core.saveBase hcore, (Hw.mem_agenda_schedule _ _ _ _ _).mpr (.inl rfl)⟩
    · exact (hd.resolve_left fun hsame => hcd hsame.1.symm).mono (l := (h.core d).stealList) (h.core_modCore_ne c (Core.setUp u) d hcd) rfl
        fun e he => (Hw.mem_agenda_schedule _ _ _ _ _).mpr (.inr he)

theorem Hw.isSetUp_foldl {u : CoreSetup} {d : Nat} (l : List Nat) {h : Hw} (hd : (d ∈ l ∧ h.coreDisabled d = false) ∨ h.isSetUp u d) :
    (l.foldl (Hw.setUpCore u) h).isSetUp u d := by
  induction l generalizing h with
  | nil => exact hd.resolve_left fun hmem => List.not_mem_nil hmem.1
  | cons c r ih =>
    refine ih ?_
    obtain ⟨cores, agenda, heq⟩ := h.setUpCore_eq u c
    have hoff : (h.setUpCore u c).coreDisabled d = h.coreDisabled d := by rw [heq]; rfl
    by_cases hr : d ∈ r ∧ h.coreDisabled d = false
    · exact .inl ⟨hr.1, hoff.trans hr.2⟩
    · exact .inr (Hw.isSetUp_setUpCore (hd.imp_left fun hmem =>
        ⟨(List.mem_cons.mp hmem.1).resolve_right fun hin => hr ⟨hin, hmem.2⟩, hmem.2⟩))

/-- The lists of clusters change on their cores alone. -/
theorem Hw.listClusters_eq (h : Hw) (t : Nat) : ∃ cores, h.listClusters t = { h with cores := cores } := Hw.foldl_modCore_eq (Core.withList _) _ _

theorem Hw.core_listClusters (h : Hw) (t c : Nat) : ∃ l, (h.listClusters t).core c = (h.core c).withList l :=
  (Hw.core_foldl_modCore (Core.withList _) (fun _ => rfl) _ h c).elim (fun he => ⟨(h.core c).stealList, he⟩) fun he => ⟨_, he⟩

/-- A cluster that asks its die queue notes that it has asked (R225). -/
theorem Hw.askCluster_eq (h : Hw) (clu d : Nat) : h.askCluster clu d = h ∨
    h.askCluster clu d = (h.modCluster clu (fun c => { c with peckOut := true })).after d .clusterPeckRequest (.nats [clu]) := by
  unfold Hw.askCluster
  simp only
  split
  · exact .inl rfl
  · split
    · exact .inr rfl
    · exact .inl rfl

theorem Hw.cluster_askCluster (h : Hw) (clu d c : Nat) : ∃ out, (h.askCluster clu d).cluster c = { h.cluster c with peckOut := out } := by
  rcases h.askCluster_eq clu d with heq | heq
  · exact ⟨_, congrArg (fun g => Hw.cluster g c) heq⟩
  · by_cases hc : clu = c
    · subst hc
      exact ⟨_, (congrArg (fun g => Hw.cluster g clu) heq).trans (h.cluster_modCluster clu (fun c => { c with peckOut := true }))⟩
    · exact ⟨_, (congrArg (fun g => Hw.cluster g c) heq).trans (SMap.get_set_ne _ _ _ _ _ hc)⟩

/-- What a request for pecks leaves alone. -/
theorem Hw.askCluster_frame (h : Hw) (clu d : Nat) : ∃ clusters agenda,
    h.askCluster clu d = { h with clusters := clusters, agenda := agenda } ∧ h.agenda ⊆ agenda := by
  rcases h.askCluster_eq clu d with heq | heq
  · exact ⟨_, _, heq, fun _ he => he⟩
  · exact ⟨_, _, heq, ((h.modCluster clu (fun c => { c with peckOut := true })).binds_after d .clusterPeckRequest (.nats [clu])).agenda⟩

/-- The cores of a cluster. -/
def clusterCores (clu : Nat) : List Nat := (List.range 16).map (fun i => 16 * clu + i)

theorem mem_clusterCores {clu c : Nat} : c ∈ clusterCores clu ↔ ∃ i < 16, c = 16 * clu + i := by
  simp [clusterCores, eq_comm]

/-- The cluster and its cores are given to a tenant (R34, R470). -/
def Hw.giveCluster (h : Hw) (clu t elim : Nat) (u : CoreSetup) : Hw :=
  (clusterCores clu).foldl (Hw.setUpCore u) (h.modCluster clu (fun c => { c with owner := some t, elim := elim }))

/-- The die of an allocated cluster knows the tenant's tables, and its queue there grows (R470). -/
def Hw.setUpDie (h : Hw) (die t root droot cap : Nat) : Hw :=
  let h1 := h.modDie die (fun d => { d with roots := SMap.set d.roots t root, droots := SMap.set d.droots t droot })
  let q := h1.dieQueue die t
  let k := 1 + (h1.dieClusters die (some t)).length
  let given := decide (8 * k ≤ cap)
  let n := if given then cap else 32 * k
  h1.setDieQueue die t { q with cap := if given then cap else max q.cap n, setup := n }

/-- An allocated cluster enters the tenant's lists, and asks for work (R225, R231, R470). -/
def Hw.enlistCluster (h : Hw) (m clu t root : Nat) : Hw :=
  ((h.modTenant m t (fun x => { x with clusters := x.clusters ++ [clu], pageRoot := root })).listClusters t).askCluster clu 0

/-- What an allocation does to everything but memory. -/
def Hw.allocate (h : Hw) (clu t elim root droot cap : Nat) (u : CoreSetup) : Hw :=
  ((h.giveCluster clu t elim u).setUpDie (clu / 64) t root droot cap).enlistCluster h.self clu t root

/-- The allocation of a cluster that may be allocated. -/
theorem exec_clusterAllocation_nats {s : State} {clu tn mode elim age deqb deql ovfb ovfl save cap root droot : Nat}
    (harg : s.hw.arg = .nats [clu, tn, mode, elim, age, deqb, deql, ovfb, ovfl, save, cap, root, droot]) (hserved : s.hw.served tn)
    (hmod : clu / 512 = s.hw.self) (howner : (s.hw.cluster clu).owner = none) (hclear : clu ∉ (s.hw.mod s.hw.self).clearing)
    (hlo : 2 ≤ elim) (hhi : elim ≤ 64) (hdeql : deql ≤ 0x5C000) (hovfl : ovfl ≤ 0x5C000) : exec .clusterAllocation s =
      .next ((s.onHw (fun h => h.allocate clu tn elim root droot cap ⟨mode, age, deqb, deql, ovfb, ovfl, save⟩)).writeDirectory tn) := by
  obtain ⟨hrun, hexist, hlive⟩ := hserved
  have hcond : (s.hw.serving && clu / 512 == s.hw.self && ((s.hw.mod s.hw.self).tenant tn).exist && !((s.hw.mod s.hw.self).tenant tn).deleting &&
      (s.hw.cluster clu).owner.isNone && !(s.hw.mod s.hw.self).clearing.contains clu && decide (2 ≤ elim) && decide (elim ≤ 64) &&
      decide (deql ≤ 0x5C000) && decide (ovfl ≤ 0x5C000)) = true := by
    simp [hrun, hmod, hexist, hlive, howner, hclear, hlo, hhi, hdeql, hovfl]
  rw [exec_clusterAllocation, execClusterAllocation, harg]
  simp only [if_pos hcond, Hw.allocate, Hw.enlistCluster, Hw.setUpDie, Hw.giveCluster, clusterCores, Hw.setUpCore_def]

theorem Hw.enlistCluster_frame (h : Hw) (m clu t root : Nat) : (h.enlistCluster m clu t root).now = h.now ∧
    h.agenda ⊆ (h.enlistCluster m clu t root).agenda ∧
    ((h.enlistCluster m clu t root).mod m).tenant t =
      { (h.mod m).tenant t with clusters := ((h.mod m).tenant t).clusters ++ [clu], pageRoot := root } ∧
    (∀ c, ∃ l, (h.enlistCluster m clu t root).core c = (h.core c).withList l) ∧
    ∀ c, ∃ out, (h.enlistCluster m clu t root).cluster c = { h.cluster c with peckOut := out } := by
  obtain ⟨cores, hlist⟩ := (h.modTenant m t (fun x => { x with clusters := x.clusters ++ [clu], pageRoot := root })).listClusters_eq t
  have hcore := (h.modTenant m t (fun x => { x with clusters := x.clusters ++ [clu], pageRoot := root })).core_listClusters t
  have hten := h.tenant_modTenant m t (fun x => { x with clusters := x.clusters ++ [clu], pageRoot := root })
  unfold Hw.enlistCluster
  rw [hlist] at hcore ⊢
  obtain ⟨clusters, agenda, hask, hsub⟩ := Hw.askCluster_frame
    { h.modTenant m t (fun x => { x with clusters := x.clusters ++ [clu], pageRoot := root }) with cores := cores } clu 0
  have hclu := Hw.cluster_askCluster
    { h.modTenant m t (fun x => { x with clusters := x.clusters ++ [clu], pageRoot := root }) with cores := cores } clu 0
  rw [hask] at hclu ⊢
  exact ⟨rfl, hsub, hten, hcore, hclu⟩

theorem Hw.giveCluster_eq (h : Hw) (clu t elim : Nat) (u : CoreSetup) : ∃ cores agenda, h.giveCluster clu t elim u =
    { h.modCluster clu (fun c => { c with owner := some t, elim := elim }) with cores := cores, agenda := agenda } := Hw.foldl_setUpCore_eq _ _ _

theorem Hw.now_giveCluster (h : Hw) (clu t elim : Nat) (u : CoreSetup) : (h.giveCluster clu t elim u).now = h.now := by
  obtain ⟨cores, agenda, heq⟩ := h.giveCluster_eq clu t elim u
  rw [heq]
  rfl

theorem Hw.cluster_giveCluster (h : Hw) (clu t elim : Nat) (u : CoreSetup) :
    (h.giveCluster clu t elim u).cluster clu = { h.cluster clu with owner := some t, elim := elim } := by
  obtain ⟨cores, agenda, heq⟩ := h.giveCluster_eq clu t elim u
  rw [heq]
  exact h.cluster_modCluster clu (fun c => { c with owner := some t, elim := elim })

theorem Hw.isSetUp_giveCluster (h : Hw) (clu t elim : Nat) (u : CoreSetup) {i : Nat} (hi : i < 16) (hon : h.coreDisabled (16 * clu + i) = false) :
    (h.giveCluster clu t elim u).isSetUp u (16 * clu + i) :=
  Hw.isSetUp_foldl (clusterCores clu) (.inl ⟨mem_clusterCores.mpr ⟨i, hi, rfl⟩, hon⟩)

/-- What the set-up of the die and the lists leave of what the cluster was given. -/
theorem Hw.enlist_setUpDie (h : Hw) (m clu t root droot cap : Nat) :
    (((h.setUpDie (clu / 64) t root droot cap).enlistCluster m clu t root).mod m).tenant t =
      { (h.mod m).tenant t with clusters := ((h.mod m).tenant t).clusters ++ [clu], pageRoot := root } ∧
    ((h.setUpDie (clu / 64) t root droot cap).enlistCluster m clu t root).now = h.now ∧
    (∀ c, ∃ out, ((h.setUpDie (clu / 64) t root droot cap).enlistCluster m clu t root).cluster c = { h.cluster c with peckOut := out }) ∧
    ∀ u c, h.isSetUp u c → ((h.setUpDie (clu / 64) t root droot cap).enlistCluster m clu t root).isSetUp u c := by
  obtain ⟨hnow, hagenda, hten, hcore, hclu⟩ := (h.setUpDie (clu / 64) t root droot cap).enlistCluster_frame m clu t root
  refine ⟨hten, hnow, hclu, fun u c hu => ?_⟩
  obtain ⟨l, hl⟩ := hcore c
  exact hu.mono hl hnow hagenda

/-- What an allocation leaves: the owner and the eviction limit, the tenant's page tables, and the set-up of the cores (R470). -/
theorem Hw.allocate_gives (h : Hw) (clu t elim root droot cap : Nat) (u : CoreSetup) :
    ((h.allocate clu t elim root droot cap u).cluster clu).owner = some t ∧ ((h.allocate clu t elim root droot cap u).cluster clu).elim = elim ∧
      (((h.allocate clu t elim root droot cap u).mod h.self).tenant t).pageRoot = root ∧ (h.allocate clu t elim root droot cap u).now = h.now ∧
      ∀ i < 16, h.coreDisabled (16 * clu + i) = false → (h.allocate clu t elim root droot cap u).isSetUp u (16 * clu + i) := by
  obtain ⟨hten, hnow, hclu, hset⟩ := (h.giveCluster clu t elim u).enlist_setUpDie h.self clu t root droot cap
  unfold Hw.allocate
  obtain ⟨out, hout⟩ := hclu clu
  rw [hout, h.cluster_giveCluster, hten, hnow, h.now_giveCluster]
  exact ⟨rfl, rfl, rfl, rfl, fun i hi hon => hset u _ (h.isSetUp_giveCluster clu t elim u hi hon)⟩

theorem clusterAllocation_gives {s : State} {clu tn mode elim age deqb deql ovfb ovfl save cap root droot : Nat}
    (harg : s.hw.arg = .nats [clu, tn, mode, elim, age, deqb, deql, ovfb, ovfl, save, cap, root, droot]) (hserved : s.hw.served tn)
    (hmod : clu / 512 = s.hw.self) (howner : (s.hw.cluster clu).owner = none) (hclear : clu ∉ (s.hw.mod s.hw.self).clearing)
    (hlo : 2 ≤ elim) (hhi : elim ≤ 64) (hdeql : deql ≤ 0x5C000) (hovfl : ovfl ≤ 0x5C000) : ∃ t, exec .clusterAllocation s = .next t ∧
      (t.hw.cluster clu).owner = some tn ∧ (t.hw.cluster clu).elim = elim ∧ ((t.hw.mod s.hw.self).tenant tn).pageRoot = root ∧
      t.hw.now = s.hw.now ∧ ∀ i < 16, s.hw.coreDisabled (16 * clu + i) = false →
        t.hw.isSetUp ⟨mode, age, deqb, deql, ovfb, ovfl, save⟩ (16 * clu + i) := by
  refine ⟨_, exec_clusterAllocation_nats harg hserved hmod howner hclear hlo hhi hdeql hovfl, ?_⟩
  rw [State.writeDirectory_hw]
  dsimp only [State.onHw]
  exact s.hw.allocate_gives clu tn elim root droot cap ⟨mode, age, deqb, deql, ovfb, ovfl, save⟩

end Sys2Proof.Machine
end

section
/-! PROOFS. The clearing of a cluster (01_machine R36; 23_service R475; for O50): it takes no time and writes no memory until everything is quiet; then
the scratchpads of the cluster's cores are clear. -/

namespace Sys2Proof.Machine

/-! ### What takes no time -/

theorem Hw.now_foldl {β : Type} (f : Hw → β → Hw) (hf : ∀ h b, (f h b).now = h.now) (l : List β) (h : Hw) : (l.foldl f h).now = h.now := by
  induction l generalizing h with
  | nil => rfl
  | cons b r ih => exact (ih _).trans (hf h b)

/-- A change that takes no time takes none where it is made under a condition. -/
theorem Hw.now_ite (p : Prop) [Decidable p] {g h : Hw} (hg : g.now = h.now) : (if p then g else h).now = h.now := by
  split
  · exact hg
  · rfl

theorem Hw.now_modCore (h : Hw) (c : Nat) (f : Core → Core) : (h.modCore c f).now = h.now := rfl

theorem Hw.now_post (h : Hw) (core : Nat) (r : BitVec 256) : (h.post core r).now = h.now := by
  unfold Hw.post
  split <;> rfl

theorem Hw.now_codeRetry (h : Hw) (clu : Nat) : (h.codeRetry clu).now = h.now := Hw.now_ite _ rfl

theorem Hw.now_runDec (h : Hw) (clu e : Nat) : (h.runDec clu e).now = h.now := by
  unfold Hw.runDec
  simp only
  split
  · rfl
  · split
    · exact Hw.now_codeRetry _ _
    · rfl

theorem Hw.now_endWaiting (h : Hw) (core slot txn : Nat) (v : Word) : (h.endWaiting core slot txn v).now = h.now := by
  unfold Hw.endWaiting
  split
  · have hland (r : Nat) : (if r = 0 then h else h.landG core slot r txn v).now = h.now := by split <;> rfl
    exact hland _
  · rfl

theorem Hw.now_grantGive (h : Hw) (core i : Nat) : (h.grantGive core i).now = h.now := by
  unfold Hw.grantGive
  simp only
  split <;> rfl

theorem Hw.now_gangRetire (h : Hw) (clu g : Nat) : (h.gangRetire clu g).now = h.now := by
  unfold Hw.gangRetire
  split
  · rfl
  · refine (Hw.now_foldl _ (fun h j => ?_) _ _).trans ?_
    · exact Hw.now_ite _ rfl
    · refine (Hw.now_foldl _ (fun h m => ?_) _ _).trans ?_
      · rfl
      · rfl

/-! ### Bookings that are cancelled (R311, R320) -/

theorem Hw.now_modBooking (h : Hw) (clu num : Nat) (f : Booking → Booking) : (h.modBooking clu num f).now = h.now := by
  unfold Hw.modBooking
  split <;> rfl

theorem Hw.now_bookOver (h : Hw) (clu num : Nat) (st : BState) : (h.bookOver clu num st).now = h.now := Hw.now_modBooking _ _ _ _

theorem Hw.now_endBkq (h : Hw) (b : Booking) (cyc : Nat) : (h.endBkq b cyc).now = h.now := by
  unfold Hw.endBkq
  split
  · rfl
  · exact Hw.now_ite _ (Hw.now_endWaiting _ _ _ _ _)

/-- A member of a booking gives up its slot, its RUN and its grant set (R313). -/
def Hw.giveUpMember (clu : Nat) (b : Booking) (h : Hw) (m : BMember) : Hw :=
  let h2 := match m.slot with
    | some i => if (h.ctx m.core i).uid = m.uid then h.setCtx m.core i { Ctx.free with freeAt := h.now } else h
    | none => h
  let h3 := match m.entry with | some e => h2.runDec clu e | none => h2
  if m.grant then h3.grantGive m.core (recGset b.rec_) else h3

theorem Hw.now_giveUpMember (clu : Nat) (b : Booking) (h : Hw) (m : BMember) : (Hw.giveUpMember clu b h m).now = h.now := by
  refine (Hw.now_ite _ (Hw.now_grantGive _ _ _)).trans ?_
  cases m.entry with
  | none =>
    cases m.slot with
    | none => rfl
    | some i => exact Hw.now_ite _ rfl
  | some e =>
    refine (Hw.now_runDec _ _ _).trans ?_
    cases m.slot with
    | none => rfl
    | some i => exact Hw.now_ite _ rfl

theorem Hw.now_bookRelease (h : Hw) (clu num : Nat) : (h.bookRelease clu num).now = h.now := by
  unfold Hw.bookRelease
  split
  · rfl
  next b _ =>
    refine Eq.trans ?_ (Hw.now_foldl (Hw.giveUpMember clu b) (Hw.now_giveUpMember clu b) b.members h)
    cases b.chan with
    | none => rfl
    | some g => exact Hw.now_gangRetire _ _ _

theorem Hw.now_cancelBooking (h : Hw) (clu num cause : Nat) : (h.cancelBooking clu num cause).now = h.now := by
  unfold Hw.cancelBooking
  split
  · rfl
  next b _ =>
    have hposted : (if cause = 0 then h else h.postSlip b cause).now = h.now := by
      split
      · rfl
      · exact Hw.now_post _ _ _
    refine (Hw.now_bookOver _ _ _ _).trans ?_
    refine Eq.trans ?_ hposted
    dsimp only [Hw.unpin, Hw.modCluster]
    split
    · refine (Hw.now_endBkq _ _ _).trans (Hw.now_foldl _ (fun h m => ?_) _ _)
      cases m.entry with
      | none => rfl
      | some e => exact Hw.now_runDec _ _ _
    · exact Hw.now_bookRelease _ _ _

theorem Hw.now_cancelAll (h : Hw) (clu : Nat) : (h.cancelAll clu).now = h.now :=
  Hw.now_foldl _ (fun _ _ => Hw.now_ite _ (Hw.now_cancelBooking _ _ _ _)) _ _

theorem Hw.now_cancelOwn (h : Hw) (core slot : Nat) : (h.cancelOwn core slot).now = h.now :=
  Hw.now_foldl _ (fun _ _ => Hw.now_ite _ (Hw.now_cancelBooking _ _ _ _)) _ _

/-! ### Contexts that end (R36, R83, R86) -/

theorem Hw.now_wakePipes (h : Hw) (core : Nat) (p : Nat → Bool) : (h.wakePipes core p).now = h.now := by
  refine Hw.now_foldl _ (fun h e => ?_) _ _
  split
  · exact Hw.now_ite _ rfl
  · rfl

theorem Hw.now_gangLeave (h : Hw) (core slot : Nat) : (h.gangLeave core slot).now = h.now := by
  unfold Hw.gangLeave
  split
  · rfl
  · dsimp only
    split
    · rfl
    · split
      · exact Hw.now_gangRetire _ _ _
      · exact Hw.now_foldl _ (fun _ _ => Hw.now_wakePipes _ _ _) _ _

theorem Hw.now_partEnds (h : Hw) (core slot code : Nat) : (h.partEnds core slot code).now = h.now := Hw.now_ite _ rfl

theorem Hw.now_dropCkpt (h : Hw) (core slot : Nat) : (h.dropCkpt core slot).now = h.now := by
  unfold Hw.dropCkpt
  split <;> rfl

theorem Hw.now_wakeEngine (h : Hw) (core f : Nat) (p : Ctx → Bool) : (h.wakeEngine core f p).now = h.now := by
  refine Hw.now_foldl _ (fun h e => ?_) _ _
  exact Hw.now_ite _ rfl

theorem Hw.now_liveDec (h : Hw) (clu : Nat) (d : BitVec 256) : (h.liveDec clu d).now = h.now := by
  unfold Hw.liveDec
  split <;> rfl

theorem State.now_dropFrames (s : State) (core slot : Nat) : (s.dropFrames core slot).hw.now = s.hw.now :=
  State.foldl_now _ (fun _ _ => Hw.now_liveDec _ _ _) _ _

theorem State.mem_dropFrames (s : State) (core slot : Nat) : (s.dropFrames core slot).mem = s.mem := by
  have hfold (f : Mem → Nat → Hw → Hw) (l : List Nat) (u : State) : (l.foldl (fun u i => u.onHw (f u.mem i)) u).mem = u.mem := by
    induction l generalizing u with
    | nil => rfl
    | cons i r ih => exact ih _
  exact hfold (fun m i h => h.liveDec (clusterOf core) (BitVec.ofNat 256 (m.val ((s.hw.ctx core slot).frameKey core i) 32))) _ _

theorem State.vacate_still (s : State) (core slot : Nat) (faulted : Bool) :
    (s.vacate core slot faulted).hw.now = s.hw.now ∧ (s.vacate core slot faulted).mem = s.mem := by
  unfold State.vacate
  dsimp only [State.onHw]
  refine ⟨?_, s.mem_dropFrames core slot⟩
  have hbegun (p : Prop) [Decidable p] (e : Nat) :
      (if p then (s.dropFrames core slot).hw.runDec (clusterOf core) e else (s.dropFrames core slot).hw).now = s.hw.now :=
    (Hw.now_ite _ (Hw.now_runDec _ _ _)).trans (s.now_dropFrames core slot)
  rw [Hw.now_foldl _ (fun _ _ => Hw.now_wakeEngine _ _ _ _), Hw.now_modCore, Hw.now_dropCkpt, Hw.now_gangLeave, Hw.now_cancelOwn,
    Hw.now_partEnds, hbegun]

/-- The context of a slot ends, where one is there (R36). -/
def State.endContext (s : State) (p : Nat × Nat) : State := if (s.hw.ctx p.1 p.2).st.taken then s.vacate p.1 p.2 false else s

theorem State.endContexts_eq (s : State) (clu : Nat) : s.endContexts clu = (s.hw.clusterSlots clu).foldl State.endContext s := rfl

theorem State.endContext_still (s : State) (p : Nat × Nat) : (s.endContext p).hw.now = s.hw.now ∧ (s.endContext p).mem = s.mem := by
  unfold State.endContext
  split
  · exact s.vacate_still p.1 p.2 false
  · exact ⟨rfl, rfl⟩

theorem State.endContexts_still (s : State) (clu : Nat) : (s.endContexts clu).hw.now = s.hw.now ∧ (s.endContexts clu).mem = s.mem := by
  have hfold (l : List (Nat × Nat)) (u : State) : (l.foldl State.endContext u).hw.now = u.hw.now ∧ (l.foldl State.endContext u).mem = u.mem := by
    induction l generalizing u with
    | nil => exact ⟨rfl, rfl⟩
    | cons p r ih =>
      obtain ⟨hnow, hmem⟩ := ih (u.endContext p)
      rw [List.foldl_cons, hnow, hmem]
      exact u.endContext_still p
  exact hfold _ s

/-- Where every context of a cluster is Free, none ends. -/
theorem State.endContexts_free {s : State} {clu : Nat} (hfree : ∀ p ∈ s.hw.clusterSlots clu, (s.hw.ctx p.1 p.2).st = .free) : s.endContexts clu = s := by
  have hfold (l : List (Nat × Nat)) (hl : ∀ p ∈ l, (s.hw.ctx p.1 p.2).st = .free) : l.foldl State.endContext s = s := by
    induction l with
    | nil => rfl
    | cons p r ih =>
      have hp : s.endContext p = s := by
        rw [State.endContext, hl p List.mem_cons_self]
        rfl
      rw [List.foldl_cons, hp]
      exact ih fun q hq => hl q (List.mem_cons_of_mem _ hq)
  rw [State.endContexts_eq]
  exact hfold _ hfree

/-! ### Clearing a cluster (R36) -/

theorem State.foldl_onMem (g : Hw → Nat → Mem → Mem) (l : List Nat) (s : State) :
    l.foldl (fun s c => s.onMem (g s.hw c)) s = { s with mem := l.foldl (fun m c => g s.hw c m) s.mem } := by
  induction l generalizing s with
  | nil => rfl
  | cons c r ih => exact ih _

/-- A key that the clearing of a core's slice keeps. -/
def sliceKept (core : Nat) (save : Option Nat) (kmap : List Nat) (k : Nat) : Bool :=
  decide (k < dramKeyOf (core * 2 ^ 28)) || decide (dramKeyOf (core * 2 ^ 28) + 2 ^ 28 ≤ k) ||
    (kmap.contains ((k - Config.dramKey) / 65536) && decide (k < dramKeyOf (core * 2 ^ 28) + Config.recordArea) &&
      !(match save with
        | some o => decide (dramKeyOf (core * 2 ^ 28) + o ≤ k) && decide (k < dramKeyOf (core * 2 ^ 28) + o + 0x420000)
        | none => false))

theorem sliceKept_of_scratch (core : Nat) (save : Option Nat) (kmap : List Nat) {k : Nat} (hk : k < Config.dramKey) :
    sliceKept core save kmap k = true := by
  have hlow : k < dramKeyOf (core * 2 ^ 28) := Nat.lt_of_lt_of_le hk (Nat.le_add_right _ _)
  unfold sliceKept
  rw [decide_eq_true hlow, Bool.true_or, Bool.true_or]

/-- The clearing of a slice keeps every scratchpad. -/
theorem Mem.read_clearSlice (m : Mem) (core : Nat) (save : Option Nat) (kmap : List Nat) {k : Nat} (hk : k < Config.dramKey) :
    (m.clearSlice core save kmap).read k = m.read k :=
  (sparseRead_filter _ (sliceKept core save kmap) m.bytes k).trans (if_pos (sliceKept_of_scratch core save kmap hk))

theorem Mem.tagOf_clearSlice (m : Mem) (core : Nat) (save : Option Nat) (kmap : List Nat) {k : Nat} (hk : k < Config.dramKey) :
    (m.clearSlice core save kmap).tagOf k = m.tagOf k := by
  have hsector : 32 * (k / 32) < Config.dramKey := Nat.lt_of_le_of_lt (Nat.mul_div_le k 32) hk
  exact (sparseRead_filter _ (fun i => sliceKept core save kmap (32 * i)) m.tags (k / 32)).trans
    (if_pos (sliceKept_of_scratch core save kmap hsector))

/-- Memory after a core's scratchpad and slice have been cleared (R36). -/
def Mem.clearCore (kmap : List Nat) (save : Nat → Option Nat) (m : Mem) (c : Nat) : Mem :=
  (m.clear (scratchKey c 0) (scratchKey (c + 1) 0)).clearSlice c (save c) kmap

section
variable (kmap : List Nat) (save : Nat → Option Nat) (m : Mem)

theorem Mem.wf_clearCore {m : Mem} (h : m.wf = true) (c : Nat) : (m.clearCore kmap save c).wf = true := Mem.wf_clearSlice (Mem.wf_clear h _ _) _ _ _

theorem Mem.read_clearCore (c : Nat) {n j : Nat} (hn : n < 2 ^ 21) (hj : j < 2 ^ 20) :
    (m.clearCore kmap save c).read (scratchKey n j) = if c = n then 0 else m.read (scratchKey n j) := by
  have hkey : scratchKey n j < Config.dramKey := by unfold scratchKey Config.dramKey; omega
  have hin : (scratchKey c 0 ≤ scratchKey n j ∧ scratchKey n j < scratchKey (c + 1) 0) ↔ c = n := by unfold scratchKey; omega
  rw [Mem.clearCore, Mem.read_clearSlice _ _ _ _ hkey, Mem.read_clear, if_congr hin rfl rfl]

theorem Mem.tagOf_clearCore (c : Nat) {n j : Nat} (hn : n < 2 ^ 21) (hj : j < 2 ^ 20) :
    (m.clearCore kmap save c).tagOf (scratchKey n j) = if c = n then 0 else m.tagOf (scratchKey n j) := by
  have hkey : scratchKey n j < Config.dramKey := by unfold scratchKey Config.dramKey; omega
  have hin : (scratchKey c 0 / 32 ≤ scratchKey n j / 32 ∧ scratchKey n j / 32 < scratchKey (c + 1) 0 / 32) ↔ c = n := by unfold scratchKey; omega
  rw [Mem.clearCore, Mem.tagOf_clearSlice _ _ _ _ hkey, Mem.tagOf_clear, if_congr hin rfl rfl]

/-- The scratchpads of the cores that are cleared read 0 with tag 0, and the others are as they were. -/
theorem Mem.foldl_clearCore (l : List Nat) {n j : Nat} (hn : n < 2 ^ 21) (hj : j < 2 ^ 20) :
    (l.foldl (Mem.clearCore kmap save) m).read (scratchKey n j) = (if n ∈ l then 0 else m.read (scratchKey n j)) ∧
      (l.foldl (Mem.clearCore kmap save) m).tagOf (scratchKey n j) = if n ∈ l then 0 else m.tagOf (scratchKey n j) := by
  induction l generalizing m with
  | nil => simp
  | cons c r ih =>
    obtain ⟨hread, htag⟩ := ih (m.clearCore kmap save c)
    rw [List.foldl_cons, hread, htag, Mem.read_clearCore _ _ _ _ hn hj, Mem.tagOf_clearCore _ _ _ _ hn hj]
    by_cases hr : n ∈ r
    · simp [hr]
    · simp [hr, eq_comm]

end

/-- What the clearing takes of a cluster outside its cores: the cluster itself, its cells and slots, and what waits for it in its module. -/
def Hw.dropCluster (h : Hw) (clu : Nat) : Hw :=
  let h2 := h.modCluster clu (fun c => { Cluster.reset with tids := c.tids })
  let h3 : Hw := { h2 with
    cells := h2.cells.filter (fun (e : Nat × CellBind) => clusterOf (keyCore e.1) != clu),
    reds := h2.reds.filter (fun (e : Nat × RedSlot) => e.1 / 32 != 16 * clu) }
  h3.modMod (clu / 512) (fun m => { m with
    clearing := m.clearing.filter (fun c => c != clu), heldPages := m.heldPages.filter (fun p => clusterOf p.1.core != clu),
    pageReqs := m.pageReqs.filter (fun q => clusterOf q.core != clu), traps := m.traps.filter (fun q => clusterOf q.core != clu),
    searches := m.searches.filter (fun q => q.clu != clu) })

theorem Hw.owner_dropCluster (h : Hw) (clu : Nat) : ((h.dropCluster clu).cluster clu).owner = none :=
  congrArg Cluster.owner (h.cluster_modCluster clu (fun c => { Cluster.reset with tids := c.tids }))

theorem Hw.clearing_dropCluster (h : Hw) (clu : Nat) :
    ((h.dropCluster clu).mod (clu / 512)).clearing = (h.mod (clu / 512)).clearing.filter (fun c => c != clu) := by
  unfold Hw.dropCluster
  rw [Hw.mod_modMod]
  rfl

/-- A cluster leaves its tenant (R36, R231). -/
def Hw.leaveTenant (h : Hw) (clu : Nat) (owner : Option Nat) : Hw :=
  match owner with
  | some t => (h.modTenant (clu / 512) t (fun x => { x with clusters := x.clusters.filter (fun c => c != clu) })).listClusters t
  | none => h

theorem Hw.clearing_modTenant (h : Hw) (m t : Nat) (f : Tenant → Tenant) : ((h.modTenant m t f).mod m).clearing = (h.mod m).clearing := by
  rw [Hw.modTenant, Hw.mod_modMod]

theorem Hw.leaveTenant_keeps (h : Hw) (clu : Nat) (owner : Option Nat) : (h.leaveTenant clu owner).cluster clu = h.cluster clu ∧
    ((h.leaveTenant clu owner).mod (clu / 512)).clearing = (h.mod (clu / 512)).clearing := by
  cases owner with
  | none => exact ⟨rfl, rfl⟩
  | some t =>
    obtain ⟨cores, heq⟩ := (h.modTenant (clu / 512) t (fun x => { x with clusters := x.clusters.filter (fun c => c != clu) })).listClusters_eq t
    have hleave : h.leaveTenant clu (some t) =
        { h.modTenant (clu / 512) t (fun x => { x with clusters := x.clusters.filter (fun c => c != clu) }) with cores := cores } := heq
    rw [hleave]
    exact ⟨rfl, h.clearing_modTenant (clu / 512) t (fun x => { x with clusters := x.clusters.filter (fun c => c != clu) })⟩

/-- The part without memory after a clearing. -/
def Hw.clearCluster (h : Hw) (clu : Nat) : Hw :=
  let h1 := (clusterCores clu).foldl (fun h c => h.modCore c Core.cleared) h
  (h1.dropCluster clu).leaveTenant clu (h1.cluster clu).owner

theorem State.clearCluster_eq (s : State) (clu : Nat) : s.clearCluster clu =
    { hw := s.hw.clearCluster clu,
      mem := (clusterCores clu).foldl (Mem.clearCore (s.hw.mod (clu / 512)).kmap (fun c => (s.hw.core c).saveBase)) s.mem } := by
  have hmem := State.foldl_onMem (fun h c m => Mem.clearCore (s.hw.mod (clu / 512)).kmap (fun c => (h.core c).saveBase) m c) (clusterCores clu) s
  unfold State.clearCluster Hw.clearCluster
  refine (congrArg (fun u => State.onHw u _) hmem).trans ?_
  dsimp only [State.onHw, clusterCores]
  generalize ((List.range 16).map (fun i => 16 * clu + i)).foldl (fun h c => h.modCore c Core.cleared) s.hw = g
  cases howner : (g.cluster clu).owner with
  | none => rfl
  | some t => rfl

theorem Hw.clearCluster_leaves (h : Hw) (clu : Nat) : ((h.clearCluster clu).cluster clu).owner = none ∧
    clu ∉ ((h.clearCluster clu).mod (clu / 512)).clearing := by
  unfold Hw.clearCluster
  dsimp only
  generalize (clusterCores clu).foldl (fun h c => h.modCore c Core.cleared) h = g
  obtain ⟨hclu, hclear⟩ := (g.dropCluster clu).leaveTenant_keeps clu (g.cluster clu).owner
  rw [hclu, hclear, Hw.clearing_dropCluster]
  exact ⟨g.owner_dropCluster clu, by simp⟩

section
variable {s : State} {clu x : Nat}

/-- A cluster is noted as being cleared, and its clearing goes on in this cycle. -/
def Hw.notesClearing (h : Hw) (clu : Nat) : Hw :=
  (h.modMod (clu / 512) (fun m => { m with clearing := if m.clearing.contains clu then m.clearing else clu :: m.clearing })).schedule h.now
    .clusterClear (.nats [clu, 1])

theorem Hw.clearing_notesClearing (h : Hw) (clu : Nat) : clu ∈ ((h.notesClearing clu).mod (clu / 512)).clearing := by
  have hmod := h.mod_modMod (clu / 512) (fun m => { m with clearing := if m.clearing.contains clu then m.clearing else clu :: m.clearing })
  have hclear : ((h.notesClearing clu).mod (clu / 512)).clearing =
      if (h.mod (clu / 512)).clearing.contains clu then (h.mod (clu / 512)).clearing else clu :: (h.mod (clu / 512)).clearing :=
    congrArg Module.clearing hmod
  rw [hclear]
  split
  next hin => exact List.contains_iff_mem.mp hin
  next => exact List.mem_cons_self

theorem exec_clusterClear_first (harg : s.hw.arg = .nats [clu]) :
    exec .clusterClear s = .next (((s.onHw (fun h => h.cancelAll clu)).endContexts clu).onHw (fun h => h.notesClearing clu)) := by
  rw [exec_clusterClear, execClusterClear, harg]
  rfl

theorem clusterClear_begins (harg : s.hw.arg = .nats [clu]) : ∃ t, exec .clusterClear s = .next t ∧ t.mem = s.mem ∧
    clu ∈ (t.hw.mod (clu / 512)).clearing ∧ (⟨s.hw.now, .clusterClear, .nats [clu, 1]⟩ : Due) ∈ t.hw.agenda := by
  obtain ⟨hnow, hmem⟩ := (s.onHw (fun h => h.cancelAll clu)).endContexts_still clu
  refine ⟨_, exec_clusterClear_first harg, ?_⟩
  generalize (s.onHw (fun h => h.cancelAll clu)).endContexts clu = u at hnow hmem
  have htime : u.hw.now = s.hw.now := hnow.trans (s.hw.now_cancelAll clu)
  refine ⟨hmem, u.hw.clearing_notesClearing clu, (Hw.mem_agenda_schedule _ _ _ _ _).mpr (.inl ?_)⟩
  rw [htime]

theorem exec_clusterClear_again (harg : s.hw.arg = .nats [clu, x]) (hfree : ∀ p ∈ s.hw.clusterSlots clu, (s.hw.ctx p.1 p.2).st = .free)
    (hclear : clu ∈ (s.hw.mod (clu / 512)).clearing) : exec .clusterClear s =
      .next (if s.hw.quiet clu then s.clearCluster clu else s.onHw (fun h => h.after 16 .clusterClear (.nats [clu, 1]))) := by
  rw [exec_clusterClear, execClusterClear, harg]
  simp only [State.endContexts_free hfree]
  rw [if_neg (by simpa using hclear)]

theorem clusterClear_waits (harg : s.hw.arg = .nats [clu, x]) (hfree : ∀ p ∈ s.hw.clusterSlots clu, (s.hw.ctx p.1 p.2).st = .free)
    (hclear : clu ∈ (s.hw.mod (clu / 512)).clearing) (hbusy : s.hw.quiet clu = false) : ∃ t, exec .clusterClear s = .next t ∧ t.mem = s.mem ∧
      (⟨s.hw.now + 16, .clusterClear, .nats [clu, 1]⟩ : Due) ∈ t.hw.agenda := by
  refine ⟨s.onHw (fun h => h.after 16 .clusterClear (.nats [clu, 1])), ?_, rfl, (Hw.mem_agenda_schedule _ _ _ _ _).mpr (.inl rfl)⟩
  rw [exec_clusterClear_again harg hfree hclear, hbusy]
  rfl

theorem clusterClear_ends (harg : s.hw.arg = .nats [clu, x]) (hfree : ∀ p ∈ s.hw.clusterSlots clu, (s.hw.ctx p.1 p.2).st = .free)
    (hclear : clu ∈ (s.hw.mod (clu / 512)).clearing) (hinv : s.Inv) (hquiet : s.hw.quiet clu = true) (hclu : clu < 2 ^ 17) (i j n : Nat) :
    ∃ t, exec .clusterClear s = .next t ∧ t.Inv ∧ (t.hw.cluster clu).owner = none ∧ clu ∉ (t.hw.mod (clu / 512)).clearing ∧
      (i < 16 → j < 2 ^ 20 → t.mem.read (scratchKey (16 * clu + i) j) = 0 ∧ t.mem.tagOf (scratchKey (16 * clu + i) j) = 0) ∧
      (n < 2 ^ 21 → n / 16 ≠ clu → j < 2 ^ 20 → t.mem.read (scratchKey n j) = s.mem.read (scratchKey n j)) := by
  obtain ⟨howner, hgone⟩ := s.hw.clearCluster_leaves clu
  refine ⟨{ hw := s.hw.clearCluster clu,
            mem := (clusterCores clu).foldl (Mem.clearCore (s.hw.mod (clu / 512)).kmap (fun c => (s.hw.core c).saveBase)) s.mem },
    ?_, ?_, howner, hgone, fun hi hj => ?_, fun hn hother hj => ?_⟩
  · rw [exec_clusterClear_again harg hfree hclear, if_pos hquiet, State.clearCluster_eq]
  · exact Mem.wf_foldl _ (fun _ c h => Mem.wf_clearCore _ _ h c) _ hinv
  · obtain ⟨hread, htag⟩ := Mem.foldl_clearCore (s.hw.mod (clu / 512)).kmap (fun c => (s.hw.core c).saveBase) s.mem (clusterCores clu)
      (n := 16 * clu + i) (by omega) hj
    have hin : 16 * clu + i ∈ clusterCores clu := mem_clusterCores.mpr ⟨i, hi, rfl⟩
    exact ⟨hread.trans (if_pos hin), htag.trans (if_pos hin)⟩
  · obtain ⟨hread, -⟩ := Mem.foldl_clearCore (s.hw.mod (clu / 512)).kmap (fun c => (s.hw.core c).saveBase) s.mem (clusterCores clu) hn hj
    refine hread.trans (if_neg fun hin => hother ?_)
    obtain ⟨k, hk, heq⟩ := mem_clusterCores.mp hin
    omega

end

end Sys2Proof.Machine
end

section
/-! PROOFS. Launch requests (23_service R471, R472; for O50): the status decides; a kernel's record enters the die queue. -/

namespace Sys2Proof.Machine

/-! ### The record of a launch (R471) -/

/-- A record of low quadwords, a TID and two more quadwords. -/
def launchQuads (low tid n9 n11 : Nat) : Nat := low + tid * 2 ^ 512 + 2 ^ 576 * n9 + 2 ^ 704 * n11

theorem launchQuads_fields {low tid n9 n11 : Nat} (hlow : low < 2 ^ 512) (htid : tid < 2 ^ 64) (h9 : n9 < 2 ^ 64) (h11 : n11 < 2 ^ 64) :
    launchQuads low tid n9 n11 < 2 ^ 1024 ∧ launchQuads low tid n9 n11 % 2 ^ 512 = low ∧ launchQuads low tid n9 n11 / 2 ^ 512 % 2 ^ 64 = tid ∧
      launchQuads low tid n9 n11 / 2 ^ 576 % 2 ^ 64 = n9 ∧ launchQuads low tid n9 n11 / 2 ^ 704 % 2 ^ 64 = n11 := by
  unfold launchQuads
  omega

/-- Quadword 9 of a launch's record (R221, R471). -/
def launchNine (m : LaunchMsg) (otag : Nat) : Nat :=
  bits (msgQuad m 8) 63 32 * 2 ^ 32 + otag % 4096 * 2 ^ 20 + bits (msgQuad m 8) 7 5 * 2 ^ 17 + bits (msgQuad m 9) 1 0 * 2 ^ 15 +
    bits (msgQuad m 9) 3 2 * 2 ^ 13 + bits (msgQuad m 8) 4 3 * 2 ^ 11 + bits (msgQuad m 9) 7 4 * 2 ^ 2 + bits (msgQuad m 8) 2 2 * 2

/-- Quadword 11 of a launch's record (R221, R471). -/
def launchEleven (m : LaunchMsg) : Nat := bits (msgQuad m 9) 29 29 * 2 ^ 63 + bits (msgQuad m 9) 28 8 * 2 ^ 42

theorem bits_lt (v hi lo : Nat) : bits v hi lo < 2 ^ (hi + 1 - lo) := Nat.mod_lt _ (Nat.two_pow_pos _)

theorem launchNine_fields (m : LaunchMsg) (otag : Nat) : launchNine m otag < 2 ^ 64 ∧ launchNine m otag / 2 ^ 32 = bits (msgQuad m 8) 63 32 ∧
    launchNine m otag / 2 % 2 = bits (msgQuad m 8) 2 2 := by
  have hprin := bits_lt (msgQuad m 8) 63 32
  have hgset := bits_lt (msgQuad m 8) 7 5
  have hsteal := bits_lt (msgQuad m 9) 1 0
  have hdecl := bits_lt (msgQuad m 9) 3 2
  have hprio := bits_lt (msgQuad m 8) 4 3
  have hwindow := bits_lt (msgQuad m 9) 7 4
  have hpaired := bits_lt (msgQuad m 8) 2 2
  unfold launchNine
  omega

theorem launchEleven_fields (m : LaunchMsg) : launchEleven m < 2 ^ 64 ∧ launchEleven m / 2 ^ 63 = bits (msgQuad m 9) 29 29 := by
  have hpin := bits_lt (msgQuad m 9) 29 29
  have hcore := bits_lt (msgQuad m 9) 28 8
  unfold launchEleven
  omega

/-- A launch's record with its TID. -/
def launchTask (m : LaunchMsg) (otag tid : Nat) : BitVec 1024 := recPut (launchRecord m otag) 8 0 64 tid

theorem launchTask_toNat (m : LaunchMsg) (otag tid : Nat) :
    (launchTask m otag tid).toNat = launchQuads (m.toNat % 2 ^ 512) (tid % 2 ^ 64) (launchNine m otag) (launchEleven m) := by
  obtain ⟨h9, -, -⟩ := launchNine_fields m otag
  obtain ⟨h11, -⟩ := launchEleven_fields m
  have hlow : m.toNat % 2 ^ 512 < 2 ^ 512 := by omega
  have htid : tid % 2 ^ 64 < 2 ^ 64 := by omega
  obtain ⟨hlt, -, hfree, -, -⟩ := launchQuads_fields hlow (Nat.two_pow_pos 64) h9 h11
  have hrec : (launchRecord m otag).toNat = launchQuads (m.toNat % 2 ^ 512) 0 (launchNine m otag) (launchEleven m) := by
    have hof : launchRecord m otag = BitVec.ofNat 1024 (m.toNat % 2 ^ 512 + 2 ^ 576 * launchNine m otag + 2 ^ 704 * launchEleven m) := rfl
    rw [hof, BitVec.toNat_ofNat]
    unfold launchQuads at hlt ⊢
    omega
  have hput : launchTask m otag tid = BitVec.ofNat 1024 ((launchRecord m otag).toNat -
      (launchRecord m otag).toNat / 2 ^ 512 % 2 ^ 64 * 2 ^ 512 + tid % 2 ^ 64 * 2 ^ 512) := rfl
  rw [hput, hrec, hfree, BitVec.toNat_ofNat]
  unfold launchQuads
  omega

/-- What a launch's record holds (R221, R471). -/
theorem launchTask_fields (m : LaunchMsg) (otag tid : Nat) : recTid (launchTask m otag tid) = tid % 2 ^ 64 ∧
    (launchTask m otag tid).toNat % 2 ^ 512 = m.toNat % 2 ^ 512 ∧ recPrin (launchTask m otag tid) = bits (msgQuad m 8) 63 32 ∧
    recPaired (launchTask m otag tid) = bitAt (msgQuad m 8) 2 ∧ recPin (launchTask m otag tid) = bitAt (msgQuad m 9) 29 := by
  obtain ⟨h9, hprin, hpaired⟩ := launchNine_fields m otag
  obtain ⟨h11, hpin⟩ := launchEleven_fields m
  have hlow : m.toNat % 2 ^ 512 < 2 ^ 512 := by omega
  have htid : tid % 2 ^ 64 < 2 ^ 64 := by omega
  obtain ⟨-, hlast, height, hnine, heleven⟩ := launchQuads_fields hlow htid h9 h11
  rw [← launchTask_toNat m otag tid] at hlast height hnine heleven
  have hquad9 : recQuad (launchTask m otag tid) 9 = launchNine m otag := hnine
  have hquad11 : recQuad (launchTask m otag tid) 11 = launchEleven m := heleven
  refine ⟨height, hlast, ?_, ?_, ?_⟩
  · rw [recPrin, hquad9, bits, hprin]
    exact Nat.mod_eq_of_lt (bits_lt _ _ _)
  · rw [recPaired, hquad9, bitAt, pow_one, hpaired]
    rfl
  · rw [recPin, hquad11, bitAt, hpin]
    exact congrArg (· == 1) (Nat.mod_mod _ 2)

/-! ### Die queues (R225) -/

/-- A die queue with room keeps it while no die changes: a queue that is not set up is empty. -/
theorem Hw.dieQueue_room {h h' : Hw} {die t : Nat} (hd : h'.dies = h.dies) (hroom : (h.dieQueue die t).entries.length < (h.dieQueue die t).cap) :
    (h'.dieQueue die t).entries.length < (h'.dieQueue die t).cap := by
  unfold Hw.dieQueue SMap.get Hw.die at *
  rw [hd]
  cases hq : SMap.find? (SMap.get Die.reset h.dies die).queues t with
  | none => simp
  | some q =>
    rw [hq] at hroom
    exact hroom

theorem Hw.room_of_headroom {h : Hw} {die t : Nat} (hd : h.headroomShort die t = false) :
    (h.dieQueue die t).entries.length < (h.dieQueue die t).cap := by
  have hfree : ¬ (h.dieQueue die t).cap - (h.dieQueue die t).entries.length < 8 * (1 + (h.dieClusters die (some t)).length) :=
    of_decide_eq_false hd
  omega

/-- Clusters that ask for pecks leave the dies and the modules alone. -/
theorem Hw.askClusters_frame (l : List Nat) (h : Hw) : ∃ clusters agenda,
    l.foldl (fun h c => h.askCluster c 0) h = { h with clusters := clusters, agenda := agenda } := by
  induction l generalizing h with
  | nil => exact ⟨_, _, rfl⟩
  | cons c r ih =>
    obtain ⟨clusters, agenda, heq, -⟩ := h.askCluster_frame c 0
    obtain ⟨clusters', agenda', heq'⟩ := ih (h.askCluster c 0)
    exact ⟨clusters', agenda', by rw [List.foldl_cons, heq', heq]⟩

theorem Hw.dieQueue_setDieQueue (h : Hw) (die t : Nat) (q : DieQueue) : (h.setDieQueue die t q).dieQueue die t = q := by
  rw [Hw.dieQueue, Hw.setDieQueue, Hw.die_modDie, SMap.get_set_same]

/-- A record that enters a die queue with room is in it, and no module changes. -/
theorem Hw.insertDie_enters {h : Hw} {die t : Nat} (e : QEntry) (hroom : (h.dieQueue die t).entries.length < (h.dieQueue die t).cap) :
    (h.insertDie die t e).self = h.self ∧ (h.insertDie die t e).mods = h.mods ∧
      ∃ f ∈ ((h.insertDie die t e).dieQueue die t).entries, f.rec_ = e.rec_ := by
  unfold Hw.insertDie
  dsimp only
  rw [if_neg (Nat.not_le.mpr hroom)]
  obtain ⟨clusters, agenda, hask⟩ := Hw.askClusters_frame ((Hw.dieClusters { h with nextTxn := h.nextTxn + 1 } die (some t)))
    (Hw.setDieQueue { h with nextTxn := h.nextTxn + 1 } die t
      { h.dieQueue die t with entries := (h.dieQueue die t).entries ++ [e.enters h.nextTxn] })
  rw [hask]
  refine ⟨rfl, rfl, e.enters h.nextTxn, ?_, rfl⟩
  have hqueue := Hw.dieQueue_setDieQueue { h with nextTxn := h.nextTxn + 1, clusters := clusters, agenda := agenda } die t
    { h.dieQueue die t with entries := (h.dieQueue die t).entries ++ [e.enters h.nextTxn] }
  exact (congrArg (fun q : DieQueue => e.enters h.nextTxn ∈ q.entries) hqueue).mpr (List.mem_append_right _ (List.mem_singleton_self _))

/-! ### Launches (R471, R472) -/

theorem msgQuad_lt (m : LaunchMsg) (i : Nat) : msgQuad m i < 2 ^ 64 := by
  have hlt := bits_lt m.toNat (64 * i + 63) (64 * i)
  rwa [show 64 * i + 63 + 1 - 64 * i = 64 by omega] at hlt

theorem not_and_eq_zero_of_ite {p : Prop} [Decidable p] {n x : Nat} (hn : n ≠ 0) (h : (if p then n else x) = 0) : ¬p ∧ x = 0 := by
  by_cases hp : p
  · rw [if_pos hp] at h
    exact absurd h hn
  · rw [if_neg hp] at h
    exact ⟨hp, h⟩

/-- A request that passes every check is well formed, and the die has room for a kernel's record (R472). -/
theorem Hw.launchStatus_zero {h : Hw} {t : Nat} {m : LaunchMsg} (hs : h.launchStatus t m = 0) : h.launchMalformed t m = false ∧
    (bits (msgQuad m 8) 31 16 = 0xFFFF →
      h.headroomShort (if bitAt (msgQuad m 9) 29 then dieOf (bits (msgQuad m 9) 28 8) else 8 * h.self + bits (msgQuad m 8) 15 8) t = false) := by
  obtain ⟨hform, hheld⟩ := not_and_eq_zero_of_ite Nat.one_ne_zero hs
  obtain ⟨-, hpaired⟩ := not_and_eq_zero_of_ite (by decide) hheld
  obtain ⟨-, hroom⟩ := not_and_eq_zero_of_ite (by decide) hpaired
  obtain ⟨hfull, -⟩ := not_and_eq_zero_of_ite (by decide) hroom
  exact ⟨Bool.eq_false_of_not_eq_true hform, fun hkernel => Bool.eq_false_of_not_eq_true fun hshort => hfull ⟨hkernel, hshort⟩⟩

theorem Hw.launchMalformed_false {h : Hw} {t : Nat} {m : LaunchMsg} (hf : h.launchMalformed t m = false) :
    (bits (msgQuad m 8) 31 16 = 0 ∨ bits (msgQuad m 8) 31 16 = 0xFFFF) ∧ bits (msgQuad m 8) 15 8 ≤ 7 := by
  unfold Hw.launchMalformed at hf
  simp only [Bool.or_eq_false_iff, Bool.and_eq_false_iff, bne_eq_false_iff_eq, decide_eq_false_iff_not, Nat.not_lt] at hf
  obtain ⟨⟨⟨⟨⟨⟨⟨-, hnode⟩, -⟩, hdie⟩, -⟩, -⟩, -⟩, -⟩ := hf
  exact ⟨hnode, hdie⟩

section
variable {s : State} {session tn : Nat} {m : LaunchMsg} (hs : s.hw.sessionTenant session = some tn) (harg : s.hw.arg = .launch session m)
include hs harg

theorem launch_refused (hstatus : s.hw.launchStatus tn m ≠ 0) : ∃ t, exec .launchRequest s = .next t ∧ t.mem = s.mem ∧
    (t.hw.mod s.hw.self).sent = (s.hw.mod s.hw.self).sent ++ [(session, launchReply (msgQuad m 10) 0 (s.hw.launchStatus tn m))] ∧
    t.hw.dies = s.hw.dies := by
  refine ⟨s.onHw (fun h => h.tell session (launchReply (msgQuad m 10) 0 (s.hw.launchStatus tn m))), ?_, rfl, Hw.sent_tell rfl _ _, rfl⟩
  rw [exec_launchRequest, execLaunchRequest, harg]
  simp only [State.onHw, hs]

/-- A graph launch begins in this cycle (R301). -/
theorem launch_graph (hstatus : s.hw.launchStatus tn m = 0) (hnode : bits (msgQuad m 8) 31 16 = 0) : ∃ t, exec .launchRequest s = .next t ∧
    t.mem = s.mem ∧ ∃ l, (⟨s.hw.now, .graphLaunch, .nats (session :: tn :: bits (msgQuad m 9) 63 48 :: l)⟩ : Due) ∈ t.hw.agenda := by
  refine ⟨_, by rw [exec_launchRequest, execLaunchRequest, harg], ?_⟩
  simp only [State.onHw, hs, hstatus, if_pos hnode]
  exact ⟨trivial, _, (Hw.mem_agenda_schedule _ _ _ _ _).mpr (.inl rfl)⟩

end

/-- What a kernel's launch does: its record enters the die queue, its package counts it, and BRS replies (R471). -/
def Hw.launches (h : Hw) (session t die otag n : Nat) (m : LaunchMsg) : Hw :=
  let tid := h.newTid (64 * die)
  let h1 := tid.2.enterRecord (1024 * die) t .die (launchTask m otag tid.1)
  (h1.modTenant h.self t (fun x => { x with packs := x.packs.map (fun (e : Nat × Package) =>
    if e.1 = n then (e.1, { e.2 with launches := e.2.launches.filter (fun l => l.1.any h.tidAlive) ++ [([tid.1], [])] }) else e) })).tell
      session (launchReply (msgQuad m 10) tid.1 0)

theorem Hw.newTid_frame (h : Hw) (clu : Nat) : (h.newTid clu).2.dies = h.dies ∧ (h.newTid clu).2.mods = h.mods ∧ (h.newTid clu).2.self = h.self :=
  ⟨rfl, rfl, rfl⟩

/-- A record that is not pinned and enters at a die with room is in the die queue (R225, R227). -/
theorem Hw.enterRecord_enters {h : Hw} {die t : Nat} {r : BitVec 1024} (hpin : recPin r = false) (hdie : die < 2048)
    (hroom : (h.dieQueue die t).entries.length < (h.dieQueue die t).cap) : (h.enterRecord (1024 * die) t .die r).self = h.self ∧
      (h.enterRecord (1024 * die) t .die r).mods = h.mods ∧ ∃ e ∈ ((h.enterRecord (1024 * die) t .die r).dieQueue die t).entries, e.rec_ = r := by
  have hplace : dieOf (1024 * die) = die := by
    unfold dieOf firstService
    rw [if_pos (by omega)]
    omega
  have henter : h.enterRecord (1024 * die) t .die r = Hw.insertDie { h with nextTxn := h.nextTxn + 1 } die t ⟨r, h.nextTxn, 0, 0, none, none⟩ := by
    unfold Hw.enterRecord
    simp only [hpin, Bool.false_eq_true, if_false, hplace]
  rw [henter]
  exact Hw.insertDie_enters (h := { h with nextTxn := h.nextTxn + 1 }) ⟨r, h.nextTxn, 0, 0, none, none⟩ (Hw.dieQueue_room rfl hroom)

theorem Hw.launches_enters (h : Hw) (session otag n : Nat) {t die : Nat} {m : LaunchMsg} (hpin : bitAt (msgQuad m 9) 29 = false) (hdie : die < 2048)
    (hroom : (h.dieQueue die t).entries.length < (h.dieQueue die t).cap) : ∃ tid,
      ((h.launches session t die otag n m).mod h.self).sent = (h.mod h.self).sent ++ [(session, launchReply (msgQuad m 10) tid 0)] ∧
      ∃ e ∈ ((h.launches session t die otag n m).dieQueue die t).entries, e.rec_ = launchTask m otag tid := by
  obtain ⟨hdies, hmods, hself⟩ := h.newTid_frame (64 * die)
  obtain ⟨-, -, -, -, htask⟩ := launchTask_fields m otag (h.newTid (64 * die)).1
  obtain ⟨hself', hmods', e, he, hrec⟩ := Hw.enterRecord_enters (htask.trans hpin) hdie (Hw.dieQueue_room hdies hroom)
  refine ⟨(h.newTid (64 * die)).1, ?_, e, he, hrec⟩
  unfold Hw.launches
  dsimp only
  rw [Hw.sent_tell, Hw.sent_modTenant, Hw.mod, hmods', hmods, Hw.mod]
  exact hself'.trans hself

/-- The record of an accepted kernel launch, not pinned, enters the queue of the die that it names, and BRS replies with its TID (R471). -/
theorem launch_kernel {s : State} {session tn : Nat} {m : LaunchMsg} (hs : s.hw.sessionTenant session = some tn) (harg : s.hw.arg = .launch session m)
    (hstatus : s.hw.launchStatus tn m = 0) (hnode : bits (msgQuad m 8) 31 16 ≠ 0) (hpin : bitAt (msgQuad m 9) 29 = false) (hself : s.hw.self < 256) :
    ∃ t tid otag, exec .launchRequest s = .next t ∧ t.mem = s.mem ∧
      (t.hw.mod s.hw.self).sent = (s.hw.mod s.hw.self).sent ++ [(session, launchReply (msgQuad m 10) tid 0)] ∧
      ∃ e ∈ (t.hw.dieQueue (8 * s.hw.self + bits (msgQuad m 8) 15 8) tn).entries, e.rec_ = launchTask m otag tid := by
  obtain ⟨hform, hhead⟩ := Hw.launchStatus_zero hstatus
  obtain ⟨hnodes, hdie⟩ := Hw.launchMalformed_false hform
  have hroom := hhead (hnodes.resolve_left hnode)
  rw [hpin, if_neg Bool.false_ne_true] at hroom
  let otag : Nat := ((SMap.find? ((s.hw.mod s.hw.self).tenant tn).dir (bits (msgQuad m 8) 63 32)).map (fun p => p.otag)).getD 0
  let n : Nat := (((s.hw.mod s.hw.self).tenant tn).launcher (BitVec.ofNat 256 m.toNat)).getD 0
  obtain ⟨tid, hsent, e, he, hrec⟩ := s.hw.launches_enters session otag n hpin (by omega) (Hw.room_of_headroom hroom)
  refine ⟨s.onHw (fun h => h.launches session tn (8 * s.hw.self + bits (msgQuad m 8) 15 8) otag n m), tid, otag, ?_, rfl, hsent, e, he, hrec⟩
  rw [exec_launchRequest, execLaunchRequest, harg]
  simp only [State.onHw, hs, hstatus, if_neg hnode, hpin, Bool.false_eq_true, if_false]
  rfl

end Sys2Proof.Machine
end

section
/-! PROOFS. Tenants, as one statement (23_service R469 to R476; O50). -/

namespace Sys2Proof.Machine

/-- Settles O50: each request by its own lemma; the fields of a launch message are those of its quadwords. -/
theorem tenants : Obligations.Tenants := by
  unfold Obligations.Tenants
  intro s m recs nonce grants session tn n clu mode elim age deqb deql ovfb ovfl save cap root droot i j otag log x
  refine ⟨fun harg hactive hnew hsession => ?_, fun hs harg => ⟨fun hstatus => ?_, fun hstatus hnode => ?_, fun hstatus hnode hpin hself => ?_⟩,
    fun hs => ⟨fun harg hrecs hsome => ?_, fun harg hn => ?_⟩, fun hrun hnone htn harg => ?_, fun hs harg => ?_,
    fun hactive hroom hn hotag harg => ?_, fun hactive harg hmod hself howner hclear hlo hhi hdeql hovfl => ?_,
    fun hfree => ⟨fun harg => ?_, fun harg hclear => ⟨fun hbusy => ?_, fun hinv hquiet hclu => ?_⟩⟩, fun harg hexist => ?_,
    fun harg => ⟨fun hleft => ?_, fun hnone => ?_⟩, fun harg hrun hfrom => ?_⟩
  · exact sessionOpen_binds harg hactive hnew hsession
  · exact launch_refused hs harg hstatus
  · have hnumber : bits (msgQuad m 9) 63 48 = msgQuad m 9 / 2 ^ 48 := by
      have hlt := msgQuad_lt m 9
      unfold bits
      omega
    obtain ⟨t, hnext, hmem, l, hl⟩ := launch_graph hs harg hstatus hnode
    rw [hnumber] at hl
    exact ⟨t, hnext, hmem, l, hl⟩
  · have hunpinned : bitAt (msgQuad m 9) 29 = false := beq_false_of_ne fun hone => Nat.zero_ne_one (hpin.symm.trans hone)
    obtain ⟨t, tid, og, hnext, hmem, hsent, e, he, hrec⟩ := launch_kernel hs harg hstatus hnode hunpinned hself
    obtain ⟨htid, hlow, hprin, hpaired, -⟩ := launchTask_fields m og tid
    have hprinq : bits (msgQuad m 8) 63 32 = msgQuad m 8 / 2 ^ 32 := by
      have hlt := msgQuad_lt m 8
      unfold bits
      omega
    have hpairedq : bitAt (msgQuad m 8) 2 = (msgQuad m 8).testBit 2 := by
      rw [Nat.testBit_eq_decide_div_mod_eq]
      rfl
    rw [← hrec] at htid hlow hprin hpaired
    exact ⟨t, tid, hnext, hmem, hsent, e, he, htid, hlow, hprin.trans hprinq, hpaired.trans hpairedq⟩
  · exact eventForward_sends hs harg hrecs hsome
  · exact acknowledge_frees hs harg hn
  · exact createTenant_creates hrun hnone htn harg
  · exact readMap_sends hs harg
  · exact setPrincipal_sets hactive hroom hn hotag harg
  · obtain ⟨t, hnext, hown, helim, hroot, hnow, hset⟩ :=
      clusterAllocation_gives harg hactive hmod howner hclear hlo hhi hdeql hovfl
    refine ⟨t, hnext, hown, helim, hroot, fun hi hon => ?_⟩
    obtain ⟨hage, hdeqb, hdeql, hovfb, hovfl, hsave, hmode⟩ := hset i hi hon
    exact ⟨hage, hdeqb, hdeql, hovfb, hovfl, hsave, hnow ▸ hmode⟩
  · exact clusterClear_begins harg
  · exact clusterClear_waits harg hfree hclear hbusy
  · exact clusterClear_ends harg hfree hclear hinv hquiet hclu i j n
  · exact tenantDeletion_starts harg hexist
  · exact tenantDeletion_waits harg hleft
  · exact tenantDeletion_drops harg hnone
  · exact attestation_reports harg hrun (hfrom.imp_right fun hs => ⟨tn, hs⟩)

end Sys2Proof.Machine
end

section
/-! PROOFS. What a step runs where one context may issue: its chain decoded, or the fault of what does not decode (02_formats R52, R54;
10_issue R212; O55). -/

namespace Sys2Proof.Machine

/-! ### The step's choice -/

theorem firstDue_of_later {now : Nat} {l : List Due} (h : ∀ d ∈ l, now < d.at_) : firstDue now l = none := by
  cases l with
  | nil => rfl
  | cons d r => simp [firstDue, h d List.mem_cons_self]

theorem inputDue_of_later {now : Nat} {l : List Due} (h : ∀ d ∈ l, now < d.at_) : inputDue now l = none := by
  have hnone : l.find? (fun d => decide (d.at_ ≤ now)) = none := by simpa using h
  rw [inputDue, hnone]

/-- The round-robin from any pointer comes past each of the 64 slots (R212). -/
theorem find?_roundRobin (p : Nat) {slot : Nat} (h : slot < 64) :
    ((List.range 64).map (fun i => (p + 1 + i) % 64)).find? (fun i => [slot].contains i) = some slot := by
  cases hfind : ((List.range 64).map (fun i => (p + 1 + i) % 64)).find? (fun i => [slot].contains i) with
  | none =>
    have hmem : slot ∈ (List.range 64).map (fun i => (p + 1 + i) % 64) :=
      List.mem_map.mpr ⟨(slot + 63 - p % 64) % 64, List.mem_range.mpr (by omega), by omega⟩
    exact absurd (List.find?_eq_none.mp hfind slot hmem) (by simp)
  | some j => simpa using List.find?_some hfind

/-- EFF is at most 3, so a core picks its only eligible slot (R212, R216). -/
theorem Core.pick_singleton (k : Core) {slot : Nat} (h : slot < 64) : k.pick [slot] = some slot := by
  have heff : (k.ctx slot).eff ≤ 3 := Nat.le_of_lt_succ (bits_lt _ 1 0)
  have hmine : [slot].filter (fun i => (k.ctx i).eff ≤ [slot].foldl (fun m i => min m (k.ctx i).eff) 3) = [slot] := by simp [heff]
  rw [Core.pick, hmine]
  exact find?_roundRobin _ h

/-- A core with one eligible context attempts it, whether or not the attempt takes the issue cycle (R211, R212). -/
theorem State.issueCore_of_candidate (s : State) {core slot : Nat} (hc : s.hw.candidates core = [slot]) (hslot : slot < 64) :
    s.issueCore core = some (s.attempt core slot) := by
  cases hissues : s.issues core slot <;> simp [State.issueCore, hc, hissues, Core.pick_singleton _ hslot]

/-- Where nothing else is due, the step is the attempt of the first core's one eligible context (R212; log 5). -/
theorem step_eq_attempt {s : State} {core slot : Nat} {rest : List Nat} (hrun : s.hw.stopped = false)
    (hagenda : ∀ d ∈ s.hw.agenda, s.hw.now < d.at_) (hinputs : ∀ d ∈ s.hw.inputs, s.hw.now < d.at_) (hdef : s.hw.deferredNow = none)
    (hcores : s.hw.cores.map (fun (e : Nat × Core) => e.1) = core :: rest) (hc : s.hw.candidates core = [slot]) (hslot : slot < 64) :
    step s = s.attempt core slot := by
  have hissue : s.issueFirst (core :: rest) = some (s.attempt core slot) := by
    rw [State.issueFirst, s.issueCore_of_candidate hc hslot]
  simp [step, State.next, State.running, hrun, firstDue_of_later hagenda, inputDue_of_later hinputs, hdef, hcores, hissue]

theorem State.attempt_of_passed {s : State} {core slot : Nat} {ch : Chain} (hbegun : (s.hw.ctx core slot).begun = true)
    (hdec : decodeChain (s.hw.codeFrom core slot) = .ok ch)
    (hpre : s.hw.preCheck (s.hw.curAt core slot ch.raw.page ch.raw.op ch.raw.len) ch = none) :
    s.attempt core slot = exec ch.instr (s.onHw (fun h => { h with cur := some (s.hw.curAt core slot ch.raw.page ch.raw.op ch.raw.len) })) := by
  simp [State.attempt, hbegun, hdec, hpre]

theorem State.attempt_of_preCheck {s : State} {core slot : Nat} {ch : Chain} {cause : Cause} {sub frb : Nat}
    (hbegun : (s.hw.ctx core slot).begun = true) (hdec : decodeChain (s.hw.codeFrom core slot) = .ok ch)
    (hpre : s.hw.preCheck (s.hw.curAt core slot ch.raw.page ch.raw.op ch.raw.len) ch = some (cause, sub, frb)) :
    s.attempt core slot = .next (s.faultWith (s.hw.curAt core slot ch.raw.page ch.raw.op ch.raw.len) cause sub frb) := by
  simp [State.attempt, hbegun, hdec, hpre]

theorem State.attempt_of_badChain {s : State} {core slot : Nat} {e : BadChain} (hbegun : (s.hw.ctx core slot).begun = true)
    (hdec : decodeChain (s.hw.codeFrom core slot) = .error e) :
    s.attempt core slot = .next (s.faultWith (s.hw.curAt core slot e.page e.op (e.widx + 1))
      (if e.illegal then .illegalChain else .undefinedInstruction) 0 (s.hw.curAt core slot e.page e.op (e.widx + 1)).words) := by
  simp [State.attempt, hbegun, hdec]

/-- Settles O55: the step is the attempt of the one eligible context, whose three outcomes are the three clauses. -/
theorem stepRunsDecoded : Obligations.StepRunsDecoded := by
  intro s core slot rest ch e c hrun hagenda hinputs hdef hcores hc hslot hbegun
  rw [step_eq_attempt hrun hagenda hinputs hdef hcores hc hslot]
  exact ⟨State.attempt_of_passed hbegun, fun _ _ _ => State.attempt_of_preCheck hbegun, State.attempt_of_badChain hbegun⟩

end Sys2Proof.Machine
end

section
/-! PROOFS. The scan of a shortest chain reads the fields of its full form back (02_formats R43 to R46, R57; for O54). -/

namespace Sys2Proof

/-! ### The scan of a shortest chain (R43 to R46) -/

theorem bit_le (b : Bool) : bit b ≤ 1 := by cases b <;> decide

/-- B[3:0] of the base word: the low bits of the immediate, or of B (R45). -/
def FullForm.bLow (f : FullForm) : Nat := if f.immInB then f.immBits % 16 else f.b % 16

/-- What the PX words of a full form carry (R45). -/
def FullForm.pxBits (f : FullForm) : Nat := if f.immInB then f.immBits / 16 else f.immBits

/-- What the scan reads from the shortest chain of a full form; without PG there is no X, without PR no C (R45). -/
def FullForm.raw (f : FullForm) : Raw where
  sw := f.sw
  page := f.page
  op := f.op
  len := f.prefixes + 1
  x := if f.needPG then f.x else 0
  m := f.m
  ahi := f.a / 32
  alo := f.a % 32
  bh := f.bHigh
  bl := f.bLow
  c := if f.needPR then f.cBits else 0
  hasPB := f.needPB
  hasPR := f.needPR
  ipx := f.pxBits
  k := f.k

/-- Each field fits the bits that R45 gives it. -/
structure FullForm.Bounded (f : FullForm) : Prop where
  page : f.page < 16
  op : f.op < 0x3C
  x : f.x < 32
  m : f.m < 64
  a : f.a < 128
  b : f.b < 128
  c : f.cBits < 128

section
variable {page x bh m ahi c op payload n last v : Nat} {ws : List Half} {r : Raw}

/-- The class of a prefix word, and the two fields of its payload (R43). -/
theorem bitsOf_pfx {lo high low : Nat} (hop : op < 64) (hlo : lo = 5 ∨ lo = 6 ∨ lo = 7) (hh : high < 2 ^ (9 - lo)) (hl : low < 2 ^ lo) :
    let w := (pfx op (high * 2 ^ lo + low)).toNat
    bitsOf w 14 9 = op ∧ bitsOf w 15 15 = 0 ∧ bitsOf w 8 lo = high ∧ bitsOf w (lo - 1) 0 = low := by
  obtain rfl | rfl | rfl := hlo <;> simp only [pfx, BitVec.toNat_ofNat, bitsOf] <;> omega

theorem scan_pg (hp0 : page ≠ 0) (hp : page < 16) (hx : x < 32) :
    scan (pfx 0x3F (page * 32 + x) :: ws) 0 0 r = scan ws 1 1 { r with page := page, x := x } := by
  obtain ⟨hop, h15, hpage, hxs⟩ := bitsOf_pfx (op := 0x3F) (lo := 5) (by decide) (by decide) hp hx
  simp_all [scan, prefixRank]

theorem scan_pb (hn : n ≠ 4) (hl : last ≤ 1) (hb : bh < 8) (hm : m < 64) :
    scan (pfx 0x3E (bh * 64 + m) :: ws) n last r = scan ws (n + 1) 2 { r with bh := bh, m := m, hasPB := true } := by
  obtain ⟨hop, h15, hbs, hms⟩ := bitsOf_pfx (op := 0x3E) (lo := 6) (by decide) (by decide) hb hm
  have horder : ¬ (2 < last ∨ 2 = last) := by omega
  simp_all [scan, prefixRank]

theorem scan_pr (hn : n ≠ 4) (hl : last ≤ 2) (ha : ahi < 4) (hc : c < 128) :
    scan (pfx 0x3D (ahi * 128 + c) :: ws) n last r = scan ws (n + 1) 3 { r with ahi := ahi, c := c, hasPR := true } := by
  obtain ⟨hop, h15, has, hcs⟩ := bitsOf_pfx (op := 0x3D) (lo := 7) (by decide) (by decide) ha hc
  have horder : ¬ (3 < last ∨ 3 = last) := by omega
  simp_all [scan, prefixRank]

theorem scan_px (hn : n ≠ 4) (hl : last ≤ 4) (hv : v < 512) :
    scan (pfx 0x3C v :: ws) n last r = scan ws (n + 1) 4 { r with ipx := r.ipx * 512 + v, k := r.k + 1 } := by
  have hword : (pfx 0x3C v).toNat = 0x7800 + v := by
    rw [pfx, BitVec.toNat_ofNat]
    omega
  obtain ⟨hop, h15, hvs⟩ : bitsOf (0x7800 + v) 14 9 = 0x3C ∧ bitsOf (0x7800 + v) 15 15 = 0 ∧ bitsOf (0x7800 + v) 8 0 = v := by
    simp only [bitsOf]
    omega
  have horder : ¬ 4 < last := by omega
  simp [scan, prefixRank, hword, hop, h15, hvs, hn, horder]

/-- The PX words append their bits to the immediate, the most significant first (R45). -/
theorem scan_pxWords {k : Nat} (hn : n + k ≤ 4) (hl : last ≤ 4) :
    ∃ last', scan (pxWords k v ++ ws) n last r = scan ws (n + k) last' { r with ipx := r.ipx * 512 ^ k + v % 512 ^ k, k := r.k + k } := by
  induction k generalizing n last r with
  | zero => exact ⟨last, by simp [pxWords, Nat.mod_one]⟩
  | succ k ih =>
    obtain ⟨last', hrest⟩ := ih (n := n + 1) (last := 4) (r := { r with ipx := r.ipx * 512 + v / 512 ^ k % 512, k := r.k + 1 })
      (by omega) le_rfl
    have hval : (r.ipx * 512 + v / 512 ^ k % 512) * 512 ^ k + v % 512 ^ k = r.ipx * 512 ^ (k + 1) + v % 512 ^ (k + 1) := by
      rw [Nat.pow_succ, Nat.mod_mul]
      ring
    refine ⟨last', ?_⟩
    rw [pxWords, List.cons_append, scan_px (by omega) hl (Nat.mod_lt _ (by omega)), hrest]
    simp only [hval, Nat.add_assoc, Nat.add_comm 1 k]

theorem scan_base {sw : Bool} {a b : Nat} (hop : op < 0x3C) (ha : a < 32) (hb : b < 16) :
    scan (BitVec.ofNat 16 (bit sw * 32768 + op * 512 + a * 16 + b) :: ws) n last r =
      .ok { r with sw := sw, op := op, len := n + 1, alo := a, bl := b } := by
  have hbit := bit_le sw
  have hsw : decide (bit sw = 1) = sw := by cases sw <;> rfl
  have hword : (BitVec.ofNat 16 (bit sw * 32768 + op * 512 + a * 16 + b)).toNat = bit sw * 32768 + op * 512 + a * 16 + b := by
    rw [BitVec.toNat_ofNat]
    omega
  obtain ⟨hops, h15, has, hbs⟩ : bitsOf (bit sw * 32768 + op * 512 + a * 16 + b) 14 9 = op ∧
      bitsOf (bit sw * 32768 + op * 512 + a * 16 + b) 15 15 = bit sw ∧ bitsOf (bit sw * 32768 + op * 512 + a * 16 + b) 8 4 = a ∧
      bitsOf (bit sw * 32768 + op * 512 + a * 16 + b) 3 0 = b := by
    simp only [bitsOf]
    omega
  simp [scan, -BitVec.toNat_ofNat, hword, hops, h15, has, hbs, hop, hsw]

end

section
variable {f : FullForm} {ws : List Half} {r : Raw}

theorem FullForm.bHigh_lt (hf : f.Bounded) : f.bHigh < 8 := by
  have hb := hf.b
  unfold FullForm.bHigh
  split
  · split <;> omega
  · omega

/-- PG, where the chain needs it (R45). -/
theorem scan_needPG (hf : f.Bounded) :
    scan ((if f.needPG then [pfx 0x3F (f.page * 32 + f.x)] else []) ++ ws) 0 0 {} =
      scan ws (bit f.needPG) (bit f.needPG) { page := f.page, x := if f.needPG then f.x else 0 } := by
  cases hneed : f.needPG with
  | false =>
    have h0 : f.page = 0 := by simpa [FullForm.needPG] using hneed
    simp [h0, bit]
  | true =>
    have h0 : f.page ≠ 0 := by simpa [FullForm.needPG] using hneed
    simp [scan_pg h0 hf.page hf.x, bit]

/-- PB, where the chain needs it; without it M and the high bits of B are 0 (R45). -/
theorem scan_needPB (hf : f.Bounded) {n page x : Nat} (hn : n ≤ 1) :
    ∃ last ≤ 2, scan ((if f.needPB then [pfx 0x3E (f.bHigh * 64 + f.m)] else []) ++ ws) n n { page := page, x := x } =
      scan ws (n + bit f.needPB) last { page := page, x := x, bh := f.bHigh, m := f.m, hasPB := f.needPB } := by
  cases hneed : f.needPB with
  | false =>
    obtain ⟨hm, hb⟩ : f.m = 0 ∧ f.bHigh = 0 := by simpa [FullForm.needPB] using hneed
    exact ⟨n, by omega, by simp [hm, hb, bit]⟩
  | true => exact ⟨2, le_rfl, by simp [scan_pb (show n ≠ 4 by omega) hn (f.bHigh_lt hf) hf.m, bit]⟩

/-- PR, where the chain needs it; without it the high bits of A are 0 (R45). -/
theorem scan_needPR (hf : f.Bounded) {n last page x bh m : Nat} {pb : Bool} (hn : n ≤ 2) (hl : last ≤ 2) :
    ∃ last' ≤ 3, scan ((if f.needPR then [pfx 0x3D (f.a / 32 * 128 + f.cBits)] else []) ++ ws) n last
        { page := page, x := x, bh := bh, m := m, hasPB := pb } =
      scan ws (n + bit f.needPR) last' { page := page, x := x, bh := bh, m := m, hasPB := pb,
                                         ahi := f.a / 32, c := if f.needPR then f.cBits else 0, hasPR := f.needPR } := by
  cases hneed : f.needPR with
  | false =>
    have ha : f.a / 32 = 0 := by
      rw [FullForm.needPR, Bool.or_eq_false_iff] at hneed
      simpa using hneed.1
    exact ⟨last, by omega, by simp [ha, bit]⟩
  | true =>
    have ha : f.a / 32 < 4 := Nat.div_lt_of_lt_mul hf.a
    exact ⟨3, le_rfl, by simp [scan_pr (show n ≠ 4 by omega) hl ha hf.c, bit]⟩

theorem FullForm.bLow_lt (f : FullForm) : f.bLow < 16 := by
  unfold FullForm.bLow
  split <;> exact Nat.mod_lt _ (by decide)

/-- The bits of an immediate fill its PX words, and B where B is its low part (R51). -/
theorem FullForm.pxBits_lt (f : FullForm) : f.pxBits < 512 ^ f.k := by
  have hpow : 512 ^ f.k = 2 ^ (9 * f.k) := by rw [Nat.pow_mul]
  unfold FullForm.pxBits FullForm.immBits FullForm.immInB
  cases himm : f.imm with
  | none => simp
  | some i =>
    cases hb : i.inB
    · simpa [ImmF.bitsAt, hb, hpow] using Nat.mod_lt _ (Nat.two_pow_pos _)
    · have hlt := Nat.mod_lt i.val (Nat.two_pow_pos (9 * f.k + 4))
      simp only [ImmF.bitsAt, hb, if_true, hpow]
      rw [Nat.pow_add] at hlt ⊢
      omega

theorem FullForm.words_eq (f : FullForm) : f.words =
    (if f.needPG then [pfx 0x3F (f.page * 32 + f.x)] else []) ++ (if f.needPB then [pfx 0x3E (f.bHigh * 64 + f.m)] else []) ++
      (if f.needPR then [pfx 0x3D (f.a / 32 * 128 + f.cBits)] else []) ++ pxWords f.k f.pxBits ++
      [BitVec.ofNat 16 (bit f.sw * 32768 + f.op * 512 + f.a % 32 * 16 + f.bLow)] := rfl

/-- The scan of a shortest chain reads its full form back, whatever stands behind the chain (R44 to R46, R57). -/
theorem scan_words (hf : f.Bounded) (hp : f.prefixes ≤ 4) : scan (f.words ++ ws) 0 0 {} = .ok f.raw := by
  have hpg := bit_le f.needPG
  have hpb := bit_le f.needPB
  have hpr := bit_le f.needPR
  have hsum : bit f.needPG + bit f.needPB + bit f.needPR + f.k ≤ 4 := hp
  simp only [FullForm.words_eq, List.append_assoc]
  rw [scan_needPG hf]
  obtain ⟨last, hlast, hscan⟩ := scan_needPB hf hpg
  rw [hscan]
  obtain ⟨last, hlast, hscan⟩ := scan_needPR hf (show bit f.needPG + bit f.needPB ≤ 2 by omega) hlast
  rw [hscan]
  obtain ⟨last, hscan⟩ := scan_pxWords hsum (show last ≤ 4 by omega)
  rw [hscan, List.singleton_append, scan_base hf.op (Nat.mod_lt _ (by decide)) f.bLow_lt, Nat.mod_eq_of_lt f.pxBits_lt]
  simp [FullForm.raw, FullForm.prefixes]

end

end Sys2Proof
end

section
/-! PROOFS. A variant that takes the fields of a full form refuses nothing of its chain (02_formats R47 to R52; for O54). -/

namespace Sys2Proof

/-! ### A full form that a variant takes (R47 to R52) -/

/-- The fields of a full form are ones that a variant of shape `s` accepts, and fit their bits. -/
structure Shape.Takes (s : Shape) (f : FullForm) : Prop where
  aOk : s.a.ok f.a = true
  aBits : f.a < 128
  aHigh : s.pr = true ∨ f.a / 32 = 0
  bImm : s.b = .imm ↔ f.immInB = true
  bOk : f.immInB = false → s.b.ok f.b = true
  bBits : f.b < 128
  bHigh : s.pb = true ∨ f.bHigh = 0
  cBits : f.cBits < 128
  cHigh : s.pr = true ∨ f.c = .absent
  cMand : s.c.mand = true → f.needPR = true
  cOk : f.needPR = true → s.c.ok f.cBits = true
  mBits : f.m < 64
  mHas : s.pb = true ∨ f.m = 0
  x : ∃ rnd nsat, f.x = xCode rnd nsat ∧ (s.rounds = true ∨ rnd = .rne) ∧ (s.converts = true ∨ nsat = false)
  kmin : s.kmin ≤ f.k
  kmax : f.k ≤ s.kmax

section
variable {f : FullForm} {s : Shape}

@[simp] theorem FullForm.raw_a (f : FullForm) : f.raw.a = f.a := Nat.div_add_mod' f.a 32

theorem FullForm.bLow_of_imm (h : f.immInB = true) : f.bLow = f.immBits % 16 := by simp [FullForm.bLow, h]

theorem FullForm.bHigh_of_not_imm (h : f.immInB = false) : f.bHigh = f.b / 16 := by
  unfold FullForm.immInB at h
  unfold FullForm.bHigh
  split <;> simp_all

theorem FullForm.bHigh_of_imm (h : f.immInB = true) : f.bHigh = 0 := by
  unfold FullForm.immInB at h
  unfold FullForm.bHigh
  split <;> simp_all

theorem FullForm.raw_b_of_not_imm (h : f.immInB = false) : f.raw.b = f.b := by
  simp only [Raw.b, FullForm.raw, FullForm.bHigh_of_not_imm h, FullForm.bLow, h]
  exact Nat.div_add_mod' f.b 16

theorem FullForm.raw_b_of_imm (h : f.immInB = true) : f.raw.b = f.bLow := by
  simp [Raw.b, FullForm.raw, FullForm.bHigh_of_imm h]

/-- X as the scan reads it: the rounding mode and NSAT that the variant admits (R47). -/
theorem Shape.Takes.raw_x (h : s.Takes f) :
    ∃ rnd nsat, f.raw.x = xCode rnd nsat ∧ (s.rounds = true ∨ rnd = .rne) ∧ (s.converts = true ∨ nsat = false) := by
  cases hpg : f.needPG with
  | false => exact ⟨.rne, false, by simp [FullForm.raw, hpg, xCode, Rnd.code, bit], .inr rfl, .inr rfl⟩
  | true => simpa [FullForm.raw, hpg] using h.x

theorem rndOf_code (r : Rnd) : rndOf r.code = some r := by cases r <;> rfl

theorem xCode_div (r : Rnd) (n : Bool) : xCode r n / 4 = r.code := by
  have := bit_le n
  unfold xCode
  omega

theorem xCode_nsat (r : Rnd) (n : Bool) : xCode r n / 2 % 2 = bit n := by
  have := bit_le n
  unfold xCode
  omega

theorem xCode_even (r : Rnd) (n : Bool) : xCode r n % 2 = 0 := by
  unfold xCode
  omega

theorem Rnd.code_le (r : Rnd) : r.code ≤ 4 := by cases r <;> decide

theorem xCode_lt (r : Rnd) (n : Bool) : xCode r n < 32 := by
  have := bit_le n
  have := r.code_le
  unfold xCode
  omega

theorem Shape.Takes.hasPB (h : s.Takes f) (hneed : f.needPB = true) : s.pb = true := by
  simp only [FullForm.needPB, Bool.or_eq_true, bne_iff_ne] at hneed
  have := h.bHigh
  have := h.mHas
  tauto

theorem Shape.Takes.hasPR (h : s.Takes f) (hneed : f.needPR = true) : s.pr = true := by
  obtain hpr | hc := h.cHigh
  · exact hpr
  · exact h.aHigh.resolve_right (by simpa [FullForm.needPR, hc] using hneed)

/-- Step 4 of R52 refuses nothing of what the variant takes. -/
theorem Shape.Takes.refuses_nothing (h : s.Takes f) : (s.refusals f.raw).any id = false := by
  obtain ⟨rnd, nsat, hx, hrnd, hnsat⟩ := h.raw_x
  have hb : s.b.ok f.raw.b = true := by
    cases himm : f.immInB with
    | false => simpa [FullForm.raw_b_of_not_imm himm] using h.bOk himm
    | true => simpa [FullForm.raw_b_of_imm himm, h.bImm.mpr himm, BK.ok] using f.bLow_lt
  have hc : f.needPR = true → s.c.ok f.raw.c = true := fun hneed => by simpa [FullForm.raw, hneed] using h.cOk hneed
  have hrounds : rnd.code ≠ 0 → s.rounds = true := by cases rnd <;> simp_all [Rnd.code]
  have hconverts : bit nsat = 1 → s.converts = true := by cases nsat <;> simp_all [bit]
  have hpb : f.raw.hasPB = f.needPB := rfl
  have hpr : f.raw.hasPR = f.needPR := rfl
  have hk : f.raw.k = f.k := rfl
  have hpbOk := h.hasPB
  have hprOk := h.hasPR
  have hmand := h.cMand
  simpa [Shape.refusals, hx, xCode_even, xCode_div, xCode_nsat, h.aOk, hb, hpb, hpr, hk, h.kmin, h.kmax] using
    And.intro hpbOk ⟨hprOk, hmand, hc, hrounds, hconverts⟩

/-- Step 5 of R52 finds no reserved rounding mode. -/
theorem Shape.Takes.rounding_known (h : s.Takes f) : (rndOf (f.raw.x / 4)).isNone = false := by
  obtain ⟨rnd, nsat, hx, -⟩ := h.raw_x
  rw [hx, xCode_div, rndOf_code]
  rfl

/-- No form has the OP of a prefix (R43). -/
theorem formOf_prefix (page n : Nat) : formOf page (n + 0x3C) = none := by
  unfold formOf
  split <;> rfl

theorem formOf_bounds {page op : Nat} {F : Form} (h : formOf page op = some F) : page < 16 ∧ op < 0x3C := by
  constructor
  · unfold formOf at h
    split at h
    case h_9 => cases h
    all_goals decide
  · by_contra hop
    obtain ⟨n, rfl⟩ := Nat.exists_eq_add_of_le' (Nat.le_of_not_lt hop)
    rw [formOf_prefix] at h
    cases h

theorem Shape.Takes.bounded {F : Form} (h : s.Takes f) (hF : formOf f.page f.op = some F) : f.Bounded := by
  obtain ⟨hpage, hop⟩ := formOf_bounds hF
  obtain ⟨rnd, nsat, hx, -⟩ := h.x
  exact ⟨hpage, hop, hx ▸ xCode_lt _ _, h.mBits, h.aBits, h.bBits, h.cBits⟩

/-- The opcode map reads the fields of `f` as the instruction `i`. -/
def FullForm.Reads (f : FullForm) (i : Instr) : Prop :=
  ∃ F s, formOf f.page f.op = some F ∧ F.pick f.m f.raw.sel = some s ∧ s.Takes f ∧ F.build s f.raw = i

theorem FullForm.Reads.decode_words {i : Instr} (h : f.Reads i) (hp : f.prefixes ≤ 4) (rest : List Half) :
    decode (f.words ++ rest) = .ok (i, f.words.length) := by
  obtain ⟨F, s, hF, hpick, ht, rfl⟩ := h
  have hcheck : checkForm f.raw = .ok (s, F.build s f.raw) := by
    have hF' : formOf f.raw.page f.raw.op = some F := hF
    have hpick' : F.pick f.raw.m f.raw.sel = some s := hpick
    simp [checkForm, hF', hpick', ht.refuses_nothing, ht.rounding_known]
  simp only [decode, decodeChain, scan_words (ht.bounded hF) hp, hcheck, Laws.Length.length_words]
  rfl

end

end Sys2Proof
end

section
/-! PROOFS. The operands in the fields A, B, C, M and X, and the immediate (02_formats R45, R47 to R51; for O54). -/

namespace Sys2Proof

/-! ### Operands in the fields of a chain -/

/-- A value of field A that a kind admits, with PR or (`pr` false) without it, how the form reads it and what it denotes. -/
inductive AK.Reads : AK → (pr : Bool) → Nat → {α : Type} → (Nat → α) → α → Prop where
  | none {pr : Bool} : Reads .none pr 0 (fun _ => ()) ()
  | g (a : GReg) : Reads .g true a.toNat (BitVec.ofNat 7) a
  | p3 {pr : Bool} (p : BitVec 3) : Reads .p3 pr p.toNat (BitVec.ofNat 3) p
  | lc {pr : Bool} (v : Fin 3) : Reads .lc pr v.val (Fin.ofNat 3) v
  | m2 {pr : Bool} (m : BitVec 2) : Reads .m2 pr m.toNat (BitVec.ofNat 2) m
  | c4 {pr : Bool} (n : BitVec 4) : Reads .c4 pr n.toNat (BitVec.ofNat 4) n
  | st (n : BitVec 7) : Reads .st true n.toNat (BitVec.ofNat 7) n

/-- See `AK.Reads`: field B, with PB or (`pb` false) without it. -/
inductive BK.Reads : BK → (pb : Bool) → Nat → {α : Type} → (Nat → α) → α → Prop where
  | none {pb : Bool} : Reads .none pb 0 (fun _ => ()) ()
  | zero {pb : Bool} {w : Nat} : Reads .none pb 0 (BitVec.ofNat w) 0
  | g (b : GReg) : Reads .g true b.toNat (BitVec.ofNat 7) b
  | p3 {pb : Bool} (p : BitVec 3) : Reads .p3 pb p.toNat (BitVec.ofNat 3) p
  | lc {pb : Bool} (v : Fin 3) : Reads .lc pb v.val (Fin.ofNat 3) v
  | m2 {pb : Bool} (m : BitVec 2) : Reads .m2 pb m.toNat (BitVec.ofNat 2) m
  | c4 {pb : Bool} (n : BitVec 4) : Reads .c4 pb n.toNat (BitVec.ofNat 4) n
  | ch3 {pb : Bool} (n : BitVec 4) (h : n.toNat < 8) : Reads .ch3 pb n.toNat (BitVec.ofNat 4) n
  | ch4 {pb : Bool} (n : BitVec 4) : Reads .ch4 pb n.toNat (BitVec.ofNat 4) n
  | st (n : BitVec 7) : Reads .st true n.toNat (BitVec.ofNat 7) n

/-- See `AK.Reads`: field C, whose default is A, `g0` or none (R49). -/
inductive CK.Reads : CK → (pr : Bool) → (a : Nat) → CF → {α : Type} → (Nat → α) → α → Prop where
  | none {pr : Bool} {a : Nat} : Reads .none pr a .absent (fun _ => ()) ()
  | gA {a : Nat} (c : GReg) : Reads .gA true a (.val c.toNat (some a)) (BitVec.ofNat 7) c
  | pA {a : Nat} (c : BitVec 3) : Reads .pA true a (.val c.toNat (some a)) (BitVec.ofNat 3) c
  | mA {a : Nat} (c : BitVec 2) : Reads .mA true a (.val c.toNat (some a)) (BitVec.ofNat 2) c
  | g0 {a : Nat} (c : GReg) : Reads .g0 true a (.val c.toNat (some 0)) (BitVec.ofNat 7) c
  | gMand {a : Nat} (c : GReg) : Reads .gMand true a (.val c.toNat Option.none) (BitVec.ofNat 7) c
  | pMand {a : Nat} (c : BitVec 3) : Reads .pMand true a (.val c.toNat Option.none) (BitVec.ofNat 3) c

/-- A value of M that PB carries, or 0 (R47). -/
inductive MReads : (pb : Bool) → Nat → Prop where
  | zero {pb : Bool} : MReads pb 0
  | code {m : Nat} (h : m < 64) : MReads true m

/-- The values of X that a form admits: RND and NSAT, or nothing (R47). -/
inductive XReads : (rounds converts : Bool) → Nat → Prop where
  | zero {r c : Bool} : XReads r c 0
  | code {r c : Bool} (rnd : Rnd) (nsat : Bool) (hr : r = true ∨ rnd = .rne) (hc : c = true ∨ nsat = false) : XReads r c (xCode rnd nsat)

theorem XReads.spec {r c : Bool} {x : Nat} (h : XReads r c x) :
    ∃ rnd nsat, x = xCode rnd nsat ∧ (r = true ∨ rnd = .rne) ∧ (c = true ∨ nsat = false) := by
  cases h with
  | zero => exact ⟨.rne, false, rfl, .inr rfl, .inr rfl⟩
  | code rnd nsat hr hc => exact ⟨rnd, nsat, rfl, hr, hc⟩

section
variable {α : Type} {read : Nat → α} {v : α}

theorem AK.Reads.spec {k : AK} {pr : Bool} {n : Nat} (h : k.Reads pr n read v) :
    k.ok n = true ∧ n < 128 ∧ (pr = true ∨ n / 32 = 0) ∧ read n = v := by
  cases h <;> simp [AK.ok] <;> omega

theorem BK.Reads.spec {k : BK} {pb : Bool} {n : Nat} (h : k.Reads pb n read v) :
    k.ok n = true ∧ n < 128 ∧ (pb = true ∨ n / 16 = 0) ∧ read n = v ∧ k ≠ .imm := by
  cases h <;> simp [BK.ok] <;> omega

theorem MReads.spec {pb : Bool} {m : Nat} (h : MReads pb m) : m < 64 ∧ (pb = true ∨ m = 0) := by
  cases h <;> simp_all

variable {f : FullForm} {s : Shape}

/-- The effective field C: PR's, or the default, which needs no PR (R49). -/
theorem CK.Reads.cVal_raw (h : s.c.Reads s.pr f.a f.c read v) : s.cVal f.raw = f.cBits := by
  cases hneed : f.needPR with
  | true => simp [Shape.cVal, hneed, FullForm.raw]
  | false =>
    have hpr : f.raw.hasPR = false := hneed
    generalize hs : s.c = k, hf : f.c = cf, hp : s.pr = pr at h
    cases h <;> simp_all [FullForm.needPR, FullForm.cBits, Shape.cVal]

theorem CK.Reads.spec (h : s.c.Reads s.pr f.a f.c read v) :
    f.cBits < 128 ∧ (s.pr = true ∨ f.c = .absent) ∧ (s.c.mand = true → f.needPR = true) ∧ (f.needPR = true → s.c.ok f.cBits = true) ∧
      read (s.cVal f.raw) = v := by
  rw [h.cVal_raw]
  generalize hs : s.c = k, hf : f.c = cf, hp : s.pr = pr at h
  cases h <;> simp [FullForm.cBits, FullForm.needPR, CK.mand, CK.ok, hf] <;> omega

variable {α γ β : Type} {ra : Nat → α} {rc : Nat → γ} {rb : Nat → β} {va : α} {vc : γ} {vb : β} {F : Form}

theorem Shape.takes_fields (hm : MReads s.pb f.m) (hA : s.a.Reads s.pr f.a ra va) (hC : s.c.Reads s.pr f.a f.c rc vc)
    (hB : s.b.Reads s.pb f.b rb vb) (hx : XReads s.rounds s.converts f.x) (himm : f.immInB = false) (hkmin : s.kmin ≤ f.k)
    (hkmax : f.k ≤ s.kmax) : s.Takes f := by
  obtain ⟨hm, hmHas⟩ := hm.spec
  obtain ⟨haOk, haBits, haHigh, -⟩ := hA.spec
  obtain ⟨hcBits, hcHigh, hcMand, hcOk, -⟩ := hC.spec
  obtain ⟨hbOk, hbBits, hbHigh, -, hbImm⟩ := hB.spec
  exact ⟨haOk, haBits, haHigh, by simp [hbImm, himm], fun _ => hbOk, hbBits, by rwa [FullForm.bHigh_of_not_imm himm], hcBits, hcHigh, hcMand,
    hcOk, hm, hmHas, hx.spec, hkmin, hkmax⟩

/-- A form whose operands are its fields A, C and B, besides an immediate that B is no part of. -/
theorem FullForm.Reads.fields_imm (mk : α → γ → β → Instr) (hF : formOf f.page f.op = some F) (hpick : F.pick f.m f.raw.sel = some s)
    (hm : MReads s.pb f.m) (hA : s.a.Reads s.pr f.a ra va) (hC : s.c.Reads s.pr f.a f.c rc vc) (hB : s.b.Reads s.pb f.b rb vb)
    (hx : XReads s.rounds s.converts f.x) (himm : f.immInB = false) (hkmin : s.kmin ≤ f.k) (hkmax : f.k ≤ s.kmax)
    (hbuild : s.Takes f → F.build s f.raw = mk (ra f.raw.a) (rc (s.cVal f.raw)) (rb f.raw.b)) : f.Reads (mk va vc vb) := by
  have ht : s.Takes f := Shape.takes_fields hm hA hC hB hx himm hkmin hkmax
  obtain ⟨-, -, -, ha⟩ := hA.spec
  obtain ⟨-, -, -, -, hc⟩ := hC.spec
  obtain ⟨-, -, -, hb, -⟩ := hB.spec
  refine ⟨F, s, hF, hpick, ht, ?_⟩
  rw [hbuild ht, FullForm.raw_a, FullForm.raw_b_of_not_imm himm, ha, hb, hc]

/-- A form whose operands are its fields A, C and B. -/
theorem FullForm.Reads.fields {m : Nat} (mk : α → γ → β → Instr) (hF : formOf f.page f.op = some F) (hpick : F.pick m f.raw.sel = some s)
    (hm : MReads s.pb m) (hA : s.a.Reads s.pr f.a ra va) (hC : s.c.Reads s.pr f.a f.c rc vc) (hB : s.b.Reads s.pb f.b rb vb)
    (hfm : f.m = m := by rfl) (himm : f.imm = none := by rfl) (hkmin : s.kmin = 0 := by rfl)
    (hx : XReads s.rounds s.converts f.x := by exact .zero)
    (hbuild : ∀ r : Raw, F.build s { r with sw := f.sw, m := m } = mk (ra r.a) (rc (s.cVal r)) (rb r.b) := by exact fun _ => rfl) :
    f.Reads (mk va vc vb) := by
  subst hfm
  have hk : f.k = 0 := by simp [FullForm.k, himm]
  exact .fields_imm mk hF hpick hm hA hC hB hx (by simp [FullForm.immInB, himm]) (by omega) (by omega) fun _ => hbuild f.raw

end

/-! ### Immediates (R45, R51) -/

section
variable {i : ImmF} {f : FullForm} {s : Shape}

theorem ImmF.pxCount_le_four (i : ImmF) : i.pxCount ≤ 4 := by
  unfold ImmF.pxCount
  repeat' split
  all_goals decide

/-- The count of PX words is the fewest that hold the immediate (R57). -/
theorem ImmF.pxCount_le {j : Nat} (hex : i.exact1 = false) (hfits : i.fitsAt j = true) : i.pxCount ≤ j := by
  obtain hj | hj := Nat.lt_or_ge j 4
  · interval_cases j <;> simp [ImmF.pxCount, hex, hfits] <;> split_ifs <;> simp
  · exact i.pxCount_le_four.trans hj

theorem ImmF.fitsAt_of_lt {j : Nat} (hs : i.signed = false) (hlt : i.val < 2 ^ i.bitsAt j) : i.fitsAt j = true := by
  by_cases hn : i.bitsAt j = 0
  · simpa [ImmF.fitsAt, hn] using hlt
  · simpa [ImmF.fitsAt, hn, hs] using hlt

theorem FullForm.k_le_four (f : FullForm) : f.k ≤ 4 := by
  unfold FullForm.k
  split
  · exact Nat.zero_le _
  · exact ImmF.pxCount_le_four _

/-- Where the chain needs PG, three prefixes are left (R44). -/
theorem FullForm.k_le_three (hpage : f.page ≠ 0) (hp : f.prefixes ≤ 4) : f.k ≤ 3 := by
  have hpg : f.needPG = true := by simp [FullForm.needPG, hpage]
  simp only [FullForm.prefixes, hpg, bit, if_true] at hp
  omega

/-- The immediate as the variant reads it, before extension (R45). -/
theorem Shape.Takes.immRaw_raw (h : s.Takes f) : s.immRaw f.raw = f.immBits := by
  have hbl : f.raw.bl = f.bLow := rfl
  have hpx : f.raw.ipx = f.pxBits := rfl
  cases himm : f.immInB with
  | false =>
    have hb : s.b ≠ .imm := fun hb => by simp [h.bImm.mp hb] at himm
    simp [Shape.immRaw, hb, hpx, FullForm.pxBits, himm]
  | true =>
    simp only [Shape.immRaw, h.bImm.mpr himm, if_true, hbl, hpx, FullForm.pxBits, FullForm.bLow, himm]
    exact Nat.div_add_mod' f.immBits 16

theorem Shape.Takes.immBits_raw (h : s.Takes f) (himm : f.imm = some i) : s.immBits f.raw = i.bitsAt f.k := by
  have hk : f.raw.k = f.k := rfl
  have hb : s.b = .imm ↔ i.inB = true := by simpa [FullForm.immInB, himm] using h.bImm
  simp [Shape.immBits, ImmF.bitsAt, hk, hb]

variable {w w' : Nat} {n : BitVec w} {inB ex : Bool}

theorem ImmF.lt_of_fitsAt {j : Nat} (hs : i.signed = false) (hfits : i.fitsAt j = true) : i.val < 2 ^ i.bitsAt j := by
  by_cases hn : i.bitsAt j = 0
  · simpa [ImmF.fitsAt, hn] using hfits
  · simpa [ImmF.fitsAt, hn, hs] using hfits

/-- Sign extension to `w` bits from the `n` low bits of a value that fits `n` signed bits gives the value back (R51). -/
theorem signExtend_fits {w n v : Nat} (hv : v < 2 ^ w) (hn : n ≠ 0) (hfits : v < 2 ^ (n - 1) ∨ 2 ^ w - 2 ^ (n - 1) ≤ v) :
    (if v % 2 ^ n < 2 ^ (n - 1) then v % 2 ^ n else v % 2 ^ n + (2 ^ w - 2 ^ n)) = v := by
  obtain ⟨m, rfl⟩ := Nat.exists_eq_succ_of_ne_zero hn
  simp only [Nat.succ_eq_add_one, Nat.add_sub_cancel] at hfits ⊢
  have hpow : 2 ^ (m + 1) = 2 * 2 ^ m := by rw [Nat.pow_succ, Nat.mul_comm]
  by_cases hlow : v < 2 ^ m
  · rw [Nat.mod_eq_of_lt (by omega), if_pos hlow]
  · have hmw : m + 1 ≤ w := by
      by_contra hwm
      have := Nat.pow_le_pow_right (show 0 < 2 by decide) (show w ≤ m by omega)
      omega
    obtain ⟨q, hq⟩ := Nat.pow_dvd_pow 2 hmw
    have hneg : v % 2 ^ (m + 1) = 2 ^ (m + 1) - (2 ^ w - v) := by
      have hsplit : v = 2 ^ (m + 1) - (2 ^ w - v) + 2 ^ (m + 1) * (q - 1) := by
        have hq1 : q ≠ 0 := by
          rintro rfl
          simp at hq
        obtain ⟨q, rfl⟩ := Nat.exists_eq_succ_of_ne_zero hq1
        rw [Nat.mul_succ] at hq
        simp only [Nat.succ_eq_add_one, Nat.add_sub_cancel]
        omega
      conv_lhs => rw [hsplit]
      rw [Nat.add_mul_mod_self_left, Nat.mod_eq_of_lt (by omega)]
    have hle : 2 ^ (m + 1) ≤ 2 ^ w := Nat.pow_le_pow_right (by decide) hmw
    rw [hneg, if_neg (by omega)]
    omega

/-- A zero-extended immediate that fits its bits is read back (R51). -/
theorem Shape.Takes.immZ_raw (h : s.Takes f) (himm : f.imm = some ⟨false, w', n.toNat, inB, ex⟩) (hok : f.immOk = true) :
    s.immZ f.raw w = n := by
  have hlt : n.toNat < 2 ^ ImmF.bitsAt ⟨false, w', n.toNat, inB, ex⟩ f.k :=
    ImmF.lt_of_fitsAt (i := ⟨false, w', n.toNat, inB, ex⟩) rfl (by simpa [FullForm.immOk, FullForm.k, himm] using hok)
  have hbits : f.immBits = n.toNat := by simp [FullForm.immBits, himm, Nat.mod_eq_of_lt hlt]
  rw [Shape.immZ, h.immRaw_raw, hbits, BitVec.ofNat_toNat, BitVec.setWidth_eq]

/-- A sign-extended immediate that fits its bits is read back (R51). -/
theorem Shape.Takes.immS_raw (h : s.Takes f) (himm : f.imm = some ⟨true, w, n.toNat, inB, ex⟩) (hok : f.immOk = true) :
    s.immS f.raw w = n := by
  have hfits : ImmF.fitsAt ⟨true, w, n.toNat, inB, ex⟩ f.k = true := by simpa [FullForm.immOk, FullForm.k, himm] using hok
  have hbits : f.immBits = n.toNat % 2 ^ ImmF.bitsAt ⟨true, w, n.toNat, inB, ex⟩ f.k := by simp [FullForm.immBits, himm]
  simp only [Shape.immS, h.immRaw_raw, h.immBits_raw himm, hbits]
  simp only [ImmF.fitsAt, if_true] at hfits
  generalize ImmF.bitsAt ⟨true, w, n.toNat, inB, ex⟩ f.k = b at hfits
  by_cases hb : b = 0
  · have hn : n.toNat = 0 := by simpa [hb] using hfits
    simpa [hb] using BitVec.eq_of_toNat_eq (x := 0#w) (y := n) (by simp [hn])
  · have hval := signExtend_fits n.isLt hb (by simpa [hb] using hfits)
    rw [if_neg hb, ← apply_ite (BitVec.ofNat w), hval, BitVec.ofNat_toNat, BitVec.setWidth_eq]
end

end Sys2Proof
end

section
/-! PROOFS. The layouts that operands have in a chain (02_formats R42, R51; for O54). -/

namespace Sys2Proof

/-! ### Layouts of the operands -/

section
variable {f : FullForm} {s : Shape} {α γ β : Type} {ra : Nat → α} {rc : Nat → γ} {rb : Nat → β} {va : α} {vc : γ} {vb : β} {F : Form}

theorem FullForm.k_le {i : ImmF} {j : Nat} (himm : f.imm = some i) (hex : i.exact1 = false) (hfits : i.fitsAt j = true) : f.k ≤ j := by
  simpa [FullForm.k, himm] using ImmF.pxCount_le hex hfits

/-- A zero-extended immediate takes no more PX words than its width fills (R51, R57). -/
theorem FullForm.k_le_of_width {w v j : Nat} {inB : Bool} (himm : f.imm = some ⟨false, w, v, inB, false⟩) (hv : v < 2 ^ w)
    (hw : w ≤ 9 * j + if inB then 4 else 0) : f.k ≤ j :=
  FullForm.k_le himm rfl (ImmF.fitsAt_of_lt rfl (hv.trans_le (Nat.pow_le_pow_right (by decide) hw)))

theorem Shape.takes_imm (hm : MReads s.pb f.m) (hA : s.a.Reads s.pr f.a ra va) (hC : s.c.Reads s.pr f.a f.c rc vc) (hb : s.b = .imm)
    (hb0 : f.b = 0) (hx : XReads s.rounds s.converts f.x) (himm : f.immInB = true) (hkmin : s.kmin ≤ f.k) (hkmax : f.k ≤ s.kmax) :
    s.Takes f := by
  obtain ⟨hm, hmHas⟩ := hm.spec
  obtain ⟨haOk, haBits, haHigh, -⟩ := hA.spec
  obtain ⟨hcBits, hcHigh, hcMand, hcOk, -⟩ := hC.spec
  exact ⟨haOk, haBits, haHigh, by simp [hb, himm], by simp [himm], by omega, .inr (FullForm.bHigh_of_imm himm), hcBits, hcHigh, hcMand,
    hcOk, hm, hmHas, hx.spec, hkmin, hkmax⟩

/-- The immediate of a chain, extended as its form says (R51). -/
def Shape.immOf (s : Shape) (signed : Bool) (r : Raw) (w : Nat) : BitVec w := if signed then s.immS r w else s.immZ r w

/-- A form whose operands are its fields A and C, and an immediate with B as its low part. -/
theorem FullForm.Reads.imm {m : Nat} {signed ex : Bool} {w : Nat} {n : BitVec w} (mk : α → γ → BitVec w → Instr)
    (hF : formOf f.page f.op = some F) (hpick : F.pick m f.raw.sel = some s) (hm : MReads s.pb m) (hA : s.a.Reads s.pr f.a ra va)
    (hC : s.c.Reads s.pr f.a f.c rc vc) (hok : f.immOk = true) (hkmax : f.k ≤ s.kmax)
    (hfm : f.m = m := by rfl) (himm : f.imm = some ⟨signed, w, n.toNat, true, ex⟩ := by rfl) (hkmin : s.kmin ≤ f.k := by exact Nat.zero_le _)
    (hb : s.b = .imm := by rfl) (hb0 : f.b = 0 := by rfl) (hx : XReads s.rounds s.converts f.x := by exact .zero)
    (hbuild : ∀ r : Raw, F.build s { r with sw := f.sw, m := m } = mk (ra r.a) (rc (s.cVal r)) (s.immOf signed r w) := by exact fun _ => rfl) :
    f.Reads (mk va vc n) := by
  subst hfm
  have ht : s.Takes f := Shape.takes_imm hm hA hC hb hb0 hx (by simp [FullForm.immInB, himm]) hkmin hkmax
  obtain ⟨-, -, -, ha⟩ := hA.spec
  obtain ⟨-, -, -, -, hc⟩ := hC.spec
  have hn : s.immOf signed f.raw w = n := by
    cases signed with
    | false => exact ht.immZ_raw himm hok
    | true => exact ht.immS_raw himm hok
  exact ⟨F, s, hF, hpick, ht, (hbuild f.raw).trans (by rw [FullForm.raw_a, ha, hc, hn])⟩

/-- A form whose operands are its field A and an immediate of four bits in the place of B. -/
theorem FullForm.Reads.nibble {m : Nat} {n : BitVec 4} (mk : α → BitVec 4 → Instr) (hF : formOf f.page f.op = some F)
    (hpick : F.pick m f.raw.sel = some s) (hm : MReads s.pb m) (hA : s.a.Reads s.pr f.a ra va)
    (hfm : f.m = m := by rfl) (himm : f.imm = some ⟨false, 4, n.toNat, true, false⟩ := by rfl)
    (hC : s.c.Reads s.pr f.a f.c (fun _ => ()) () := by exact .none)
    (hkmin : s.kmin ≤ f.k := by exact Nat.zero_le _)
    (hb : s.b = .imm := by rfl) (hb0 : f.b = 0 := by rfl) (hx : XReads s.rounds s.converts f.x := by exact .zero)
    (hbuild : ∀ r : Raw, F.build s { r with sw := f.sw, m := m } = mk (ra r.a) (BitVec.ofNat 4 r.bl) := by exact fun _ => rfl) :
    f.Reads (mk va n) := by
  subst hfm
  have hinB : f.immInB = true := by simp [FullForm.immInB, himm]
  have hk : f.k ≤ 0 := FullForm.k_le_of_width himm n.isLt (by decide)
  have hbl : f.raw.bl = n.toNat := by
    have hval : f.immBits = n.toNat % 2 ^ 4 := by simp [FullForm.immBits, himm, ImmF.bitsAt, Nat.le_zero.mp hk]
    have hlow : f.raw.bl = f.immBits % 16 := FullForm.bLow_of_imm hinB
    rw [hlow, hval]
    omega
  obtain ⟨-, -, -, ha⟩ := hA.spec
  exact ⟨F, s, hF, hpick, Shape.takes_imm hm hA hC hb hb0 hx hinB hkmin (by omega),
    (hbuild f.raw).trans (by rw [FullForm.raw_a, ha, hbl, BitVec.ofNat_toNat, BitVec.setWidth_eq])⟩

/-- A form whose operands are its field A and a memory operand (R42). -/
theorem FullForm.Reads.mem {m : Nat} {o : MemOp} (mk : α → MemOp → Instr) (hF : formOf f.page f.op = some F)
    (hpick : F.pick m f.raw.sel = some s)
    (hm : MReads s.pb m) (hA : s.a.Reads s.pr f.a ra va) (hok : f.immOk = true) (hkmax : f.k ≤ s.kmax)
    (hC : s.c.Reads s.pr f.a f.c (BitVec.ofNat 7) o.idx := by exact .g0 _)
    (hB : s.b.Reads s.pb f.b (BitVec.ofNat 3) o.sg := by exact .p3 _)
    (hfm : f.m = m := by rfl) (himm : f.imm = some ⟨true, 36, o.disp.toNat, false, false⟩ := by rfl)
    (hkmin : s.kmin ≤ f.k := by exact Nat.zero_le _) (hx : XReads s.rounds s.converts f.x := by exact .zero)
    (hbuild : ∀ r : Raw, F.build s { r with sw := f.sw, m := m } = mk (ra r.a) (s.memOp r) := by exact fun _ => rfl) : f.Reads (mk va o) := by
  subst hfm
  have hnot : f.immInB = false := by simp [FullForm.immInB, himm]
  have ht : s.Takes f := Shape.takes_fields hm hA hC hB hx hnot hkmin hkmax
  obtain ⟨-, -, -, -, hc⟩ := hC.spec
  obtain ⟨-, -, -, hb, -⟩ := hB.spec
  have hmem : s.memOp f.raw = o := by
    rw [Shape.memOp, Shape.gc, FullForm.raw_b_of_not_imm hnot, hb, hc, ht.immS_raw himm hok]
  obtain ⟨-, -, -, ha⟩ := hA.spec
  exact ⟨F, s, hF, hpick, ht, (hbuild f.raw).trans (by rw [FullForm.raw_a, ha, hmem])⟩

end

end Sys2Proof
end

section
/-! PROOFS. The vector forms (18_vector R361 to R387; for O54). -/

namespace Sys2Proof

section
variable {f : FullForm}

theorem etyOf_code (t : ETy) : etyOf t.code = some t := by cases t <;> rfl

theorem ETy.code_lt (t : ETy) : t.code < 16 := by cases t <;> decide

theorem VHdr.m_lt (h : VHdr) : h.m < 64 := by
  have := h.ty.code_lt
  unfold VHdr.m
  omega

theorem VHdr.m_type (h : VHdr) : etyOf (h.m % 16) = some h.ty := by
  have hm : h.m % 16 = h.ty.code := by
    have := h.ty.code_lt
    unfold VHdr.m
    omega
  rw [hm, etyOf_code]

theorem VHdr.ok_iff {h : VHdr} {tr : TypeRule} {rounds converts : Bool} : h.ok tr rounds converts = true ↔
    tr.admits h.ty = true ∧ (rounds = true ∨ h.rnd = .rne) ∧ (converts = true ∨ h.nsat = false) := by
  simp [VHdr.ok, and_assoc]

/-- The row of R364 admits the type of a header that is legal for it. -/
theorem VHdr.admitted_m {h : VHdr} {tr : TypeRule} (hty : tr.admits h.ty = true) : admitted tr h.m = some h.ty := by
  simp [admitted, h.m_type, hty]

theorem FullForm.raw_vhdr {h : VHdr} (hpage : f.page = 1) (hsw : f.sw = h.sw) (hx : f.x = xCode h.rnd h.nsat) (hm : f.m = h.m) :
    f.raw.vhdr = h := by
  have hpg : f.needPG = true := by simp [FullForm.needPG, hpage]
  have hty := h.ty.code_lt
  have hmask : BitVec.ofNat 2 (h.m / 16) = h.mask := by
    have hdiv : h.m / 16 = h.mask.toNat := by
      unfold VHdr.m
      omega
    simp [hdiv]
  have hnsat : (bit h.nsat == 1) = h.nsat := by cases h.nsat <;> rfl
  simp [Raw.vhdr, FullForm.raw, hpg, hsw, hx, hm, xCode_div, xCode_nsat, rndOf_code, h.m_type, hmask, hnsat]

theorem FullForm.raw_sel {sel : Nat} (hpage : f.page = 1) (himm : f.imm = some ⟨false, 9, sel, false, false⟩) (hsel : sel < 512) :
    f.raw.sel = sel := by
  have hfits : ImmF.fitsAt ⟨false, 9, sel, false, false⟩ 1 = true := ImmF.fitsAt_of_lt rfl hsel
  have hpage' : f.raw.page = 1 := hpage
  have hval : f.raw.ipx = f.immBits := by simp [FullForm.raw, FullForm.pxBits, FullForm.immInB, himm]
  have hlt : sel < 2 ^ ImmF.bitsAt ⟨false, 9, sel, false, false⟩ f.k := by
    by_cases h0 : ImmF.fitsAt ⟨false, 9, sel, false, false⟩ 0 = true
    · simpa [FullForm.k, himm, ImmF.pxCount, h0] using ImmF.lt_of_fitsAt rfl h0
    · simpa [FullForm.k, himm, ImmF.pxCount, h0, hfits] using ImmF.lt_of_fitsAt rfl hfits
  simp [Raw.sel, hpage', hval, FullForm.immBits, himm, Nat.mod_eq_of_lt hlt, Nat.mod_eq_of_lt hsel]

end

section
variable {h : VHdr} {op a b sel : Nat} {cf : CF} {s : Shape} {α γ β : Type} {ra : Nat → α} {rc : Nat → γ} {rb : Nat → β}
  {va : α} {vc : γ} {vb : β} {F : Form} {i : Instr}

/-- A page-1 form with a selector: its operands are its header, the selector, and its fields A, C and B. -/
theorem FullForm.Reads.selector (mk : VHdr → Nat → α → γ → β → Instr) (hF : formOf 1 op = some F) (hpick : F.pick h.m sel = some s)
    (hA : s.a.Reads s.pr a ra va) (hC : s.c.Reads s.pr a cf rc vc) (hB : s.b.Reads s.pb b rb vb) (hsel : sel < 512)
    (hr : s.rounds = true ∨ h.rnd = .rne) (hc : s.converts = true ∨ h.nsat = false) (hi : mk h sel va vc vb = i)
    (hkmax : sel = 0 ∨ s.kmax = 1 := by exact .inr rfl) (hkmin : s.kmin = 0 := by rfl) (hpb : s.pb = true := by rfl)
    (hbuild : ∀ r : Raw, r.sel = sel → F.build s r = mk r.vhdr r.sel (ra r.a) (rc (s.cVal r)) (rb r.b) := by exact fun _ _ => rfl) :
    (ffv h op a cf b sel).Reads i := by
  have himm : (ffv h op a cf b sel).imm = some ⟨false, 9, sel, false, false⟩ := rfl
  have hread : (ffv h op a cf b sel).raw.sel = sel := FullForm.raw_sel rfl himm hsel
  have hhdr : (ffv h op a cf b sel).raw.vhdr = h := FullForm.raw_vhdr rfl rfl rfl rfl
  have hk : (ffv h op a cf b sel).k ≤ s.kmax := by
    obtain rfl | hk1 := hkmax
    · exact (FullForm.k_le (j := 0) himm rfl rfl).trans (Nat.zero_le _)
    · exact hk1 ▸ FullForm.k_le_of_width himm hsel (by decide)
  refine hi ▸ .fields_imm (mk h sel) hF (hread.symm ▸ hpick) (hpb ▸ .code h.m_lt) hA hC hB (.code h.rnd h.nsat hr hc) rfl (by omega) hk
    fun _ => ?_
  rw [hbuild _ hread, hhdr, hread]

/-- A page-1 form without a selector: what M's type rounds, its row of R364 says. -/
theorem FullForm.Reads.vec {base : Shape} {tr : TypeRule} {rounds : ETy → Bool} {build : Shape → Raw → Instr}
    (mk : VHdr → α → γ → β → Instr) (hF : formOf 1 op = some (.vec base tr rounds build)) (hok : h.ok tr (rounds h.ty) false = true)
    (hA : base.a.Reads base.pr a ra va) (hC : base.c.Reads base.pr a cf rc vc) (hB : base.b.Reads base.pb b rb vb)
    (hi : mk h va vc vb = i := by rfl) (hkmin : base.kmin = 0 := by rfl) (hpb : base.pb = true := by rfl)
    (hbuild : ∀ s r, build s r = mk r.vhdr (ra r.a) (rc (Shape.cVal s r)) (rb r.b) := by exact fun _ _ => rfl) : (ffv h op a cf b 0).Reads i := by
  obtain ⟨hty, hr, hc⟩ := VHdr.ok_iff.mp hok
  exact .selector (s := { base with rounds := rounds h.ty }) (fun h _ => mk h) hF (by simp [Form.vec, VHdr.admitted_m hty]) hA hC hB
    (by decide) hr (.inr (hc.resolve_left Bool.false_ne_true)) hi (.inl rfl) hkmin hpb fun _ _ => hbuild _ _
end

/-- A header of a form that converts to no block type has no NSAT, and no RND where the form does not round (R364, R365). -/
theorem VHdr.ok_plain {h : VHdr} {tr : TypeRule} (hok : h.ok tr false false = true) :
    tr.admits h.ty = true ∧ h.rnd = .rne ∧ h.nsat = false := by
  simpa [VHdr.ok, and_assoc] using hok

@[simp] theorem condOf_code (k : Cond) : condOf k.code = k := by cases k <;> rfl
@[simp] theorem redOpOf_code (k : RedOp) : redOpOf k.code = k := by cases k <;> rfl
@[simp] theorem mskOpOf_code (k : MskOp) : mskOpOf k.code = k := by cases k <;> rfl
@[simp] theorem qfmtOf_code (q : QFmt) : qfmtOf q.code = some q := by cases q <;> rfl
@[simp] theorem sfuOf_code (k : SfuFn) : sfuOf k.code = some k := by cases k <;> rfl

theorem Cond.code_lt (k : Cond) : k.code < 6 := by cases k <;> decide
theorem RedOp.code_lt (k : RedOp) : k.code < 3 := by cases k <;> decide
theorem QFmt.code_lt (q : QFmt) : q.code < 16 := by cases q <;> decide
theorem SfuFn.code_lt (k : SfuFn) : k.code < 512 := by cases k <;> decide

/-- The target and the part that a selector of VCVT, VQNT or VDQNT holds (R377 to R379). -/
theorem partSel {code : Nat} (part : BitVec 3) (hcode : code < 16) :
    (code + 16 * part.toNat) % 16 = code ∧ (code + 16 * part.toNat) / 16 = part.toNat ∧ code + 16 * part.toNat < 128 := by
  omega

section
variable {h : VHdr}

theorem vcvt_reads {tgt : ETy} {part a c : BitVec 3}
    (hops : (h.ok .all (vcvtRounds h.ty tgt) tgt.isBlock && vcvtPartOk h.ty tgt part.toNat) = true) :
    (ffv h 0x12 a.toNat (.val c.toNat (some a.toNat)) 0 (tgt.code + 16 * part.toNat)).Reads (.vcvt h tgt part a c) := by
  rw [Bool.and_eq_true, VHdr.ok_iff] at hops
  obtain ⟨⟨-, hr, hc⟩, hpart⟩ := hops
  obtain ⟨htgt, hdiv, hlt⟩ := partSel part tgt.code_lt
  exact .selector (s := { v2 with kmax := 1, rounds := vcvtRounds h.ty tgt, converts := tgt.isBlock })
    (fun h n a c _ => .vcvt h ((etyOf (n % 16)).getD .f32) (BitVec.ofNat 3 (n / 16)) a c) rfl
    (by simp [Form.sel, h.m_type, htgt, hdiv, hlt, hpart, etyOf_code]) (.p3 a) (.pA c) .none (by omega) hr hc
    (by simp [htgt, hdiv, etyOf_code])

theorem vqnt_reads {tgt : QFmt} {part a c b : BitVec 3}
    (hops : (h.ok .f true (tgt != .s8) && decide (h.mask = 0) && vqntPartOk h.ty tgt part.toNat) = true) :
    (ffv h 0x13 a.toNat (.val c.toNat (some a.toNat)) b.toNat (tgt.code + 16 * part.toNat)).Reads (.vqnt h tgt part a c b) := by
  rw [Bool.and_eq_true, Bool.and_eq_true, VHdr.ok_iff, decide_eq_true_eq] at hops
  obtain ⟨⟨⟨hty, -, hc⟩, hmask⟩, hpart⟩ := hops
  obtain ⟨htgt, hdiv, hlt⟩ := partSel part tgt.code_lt
  have hm : h.m < 16 := by simpa [VHdr.m, hmask] using h.ty.code_lt
  exact .selector (s := { v3 with kmax := 1, rounds := true, converts := tgt != .s8 })
    (fun h n a c b => .vqnt h ((qfmtOf (n % 16)).getD .s8) (BitVec.ofNat 3 (n / 16)) a c b) rfl
    (by simp [Form.sel, VHdr.admitted_m hty, hm, htgt, hdiv, hlt, hpart]) (.p3 a) (.pA c) (.p3 b) (by omega) (.inl rfl) hc
    (by simp [htgt, hdiv])

theorem vdqnt_reads {frm : QFmt} {part a c b : BitVec 3} (hops : (h.ok .f true false && vqntPartOk h.ty frm part.toNat) = true) :
    (ffv h 0x14 a.toNat (.val c.toNat (some a.toNat)) b.toNat (frm.code + 16 * part.toNat)).Reads (.vdqnt h frm part a c b) := by
  rw [Bool.and_eq_true, VHdr.ok_iff] at hops
  obtain ⟨⟨hty, -, hc⟩, hpart⟩ := hops
  obtain ⟨hfrm, hdiv, hlt⟩ := partSel part frm.code_lt
  exact .selector (s := { v3 with kmax := 1, rounds := true })
    (fun h n a c b => .vdqnt h ((qfmtOf (n % 16)).getD .s8) (BitVec.ofNat 3 (n / 16)) a c b) rfl
    (by simp [Form.sel, VHdr.admitted_m hty, hfrm, hdiv, hlt, hpart]) (.p3 a) (.pA c) (.p3 b) (by omega) (.inl rfl)
    (.inr (hc.resolve_left Bool.false_ne_true)) (by simp [hfrm, hdiv])

theorem vcmp_reads {k : Cond} {a : BitVec 2} {c b : BitVec 3} (hops : h.ok .fi false false = true) :
    (ffv h 0x10 a.toNat (.val c.toNat none) b.toNat k.code).Reads (.vcmp h k a c b) := by
  obtain ⟨hty, hr, hc⟩ := VHdr.ok_plain hops
  exact .selector (s := { a := .m2, b := .p3, c := .pMand, pb := true, pr := true, kmax := 1 }) (fun h n a c b => .vcmp h (condOf n) a c b) rfl
    (by simp [Form.sel, VHdr.admitted_m hty, k.code_lt]) (.m2 a) (.pMand c) (.p3 b) (by have := k.code_lt; omega)
    (.inr hr) (.inr hc) (by simp)

theorem vred_reads {k : RedOp} {a c : BitVec 3} (hops : h.ok .fi (onF h.ty && k == .add) false = true) :
    (ffv h 0x15 a.toNat (.val c.toNat (some a.toNat)) 0 k.code).Reads (.vred h k a c) := by
  obtain ⟨hty, hr, hc⟩ := VHdr.ok_iff.mp hops
  have hadd : (k.code == 0) = (k == .add) := by cases k <;> rfl
  exact .selector (s := { v2 with kmax := 1, rounds := onF h.ty && k == .add }) (fun h n a c _ => .vred h (redOpOf n) a c) rfl
    (by simp [Form.sel, VHdr.admitted_m hty, k.code_lt, hadd, onF]) (.p3 a) (.pA c) .none (by have := k.code_lt; omega) hr
    (.inr (hc.resolve_left Bool.false_ne_true)) (by simp)

theorem vscan_reads {k : RedOp} {excl : Bool} {a c : BitVec 3} (hops : h.ok .fi (onF h.ty && k == .add) false = true) :
    (ffv h 0x16 a.toNat (.val c.toNat (some a.toNat)) 0 (k.code + 4 * bit excl)).Reads (.vscan h k excl a c) := by
  obtain ⟨hty, hr, hc⟩ := VHdr.ok_iff.mp hops
  have hmod : k.code % 4 = k.code := Nat.mod_eq_of_lt (k.code_lt.trans (by decide))
  have hadd : (k.code == 0) = (k == .add) := by cases k <;> rfl
  have hdiv : (k.code + 4 * bit excl) / 4 = bit excl := by omega
  have hexcl : (bit excl == 1) = excl := by cases excl <;> rfl
  have hlt : k.code + 4 * bit excl < 7 := by
    have := k.code_lt
    have := bit_le excl
    omega
  exact .selector (s := { v2 with kmax := 1, rounds := onF h.ty && k == .add }) (fun h n a c _ => .vscan h (redOpOf (n % 4)) (n / 4 == 1) a c)
    rfl (by simp [Form.sel, VHdr.admitted_m hty, hlt, hmod, k.code_lt, hadd, onF]) (.p3 a) (.pA c) .none (by omega) hr
    (.inr (hc.resolve_left Bool.false_ne_true)) (by simp [hmod, hdiv, hexcl])

theorem vbcast_reads {a : BitVec 3} {src : BcSrc} {f : FullForm} (hf : (Instr.vbcast h a src).fullForm = some f)
    (hops : (Instr.vbcast h a src).operandsOk = true) : f.Reads (.vbcast h a src) := by
  cases src with
  | lane c k =>
    cases hf
    simp only [Instr.operandsOk, Bool.and_eq_true, decide_eq_true_eq] at hops
    obtain ⟨hok, hlane⟩ := hops
    obtain ⟨hty, hr, hc⟩ := VHdr.ok_plain hok
    have hk : k.toNat ≠ 256 := by omega
    exact .selector (s := { v2 with kmax := 1 })
      (fun h n a c _ => .vbcast h a (.lane c (BitVec.ofNat 8 n))) rfl
      (by simp [Form.sel, VHdr.admitted_m hty, hk, k.isLt, hlane]) (.p3 a) (.pA c) .none (by omega)
      (.inr hr) (.inr hc) (by simp)
      (hbuild := fun _ hr => if_neg (by omega))
  | reg b =>
    cases hf
    obtain ⟨hty, hr, hc⟩ := VHdr.ok_plain hops
    exact .selector (s := { a := .p3, b := .g, pb := true, pr := true, kmax := 1 }) (fun h _ a _ b => .vbcast h a (.reg b)) rfl
      (by simp [Form.sel, VHdr.admitted_m hty]) (.p3 a) .none (.g b) (by omega)
      (.inr hr) (.inr hc) rfl (hbuild := fun _ hr => if_pos hr)

/-- A gather or a scatter: its selector is a segment (R383, R384). -/
theorem FullForm.Reads.elements {op : Nat} {a b sg : BitVec 3} {F : Form} (mk : VHdr → BitVec 3 → BitVec 3 → BitVec 3 → Instr)
    (hF : formOf 1 op = some F) (hok : h.ok .elems false false = true)
    (hpick : ∀ m n, F.pick m n = (admitted .elems m).bind fun _ =>
      if n < 8 then some { a := .p3, b := .p3, pb := true, pr := true, kmax := 1 } else none := by exact fun _ _ => rfl)
    (hbuild : ∀ s r, F.build s r = mk r.vhdr r.pa r.pb (BitVec.ofNat 3 r.sel) := by exact fun _ _ => rfl) :
    (ffv h op a.toNat .absent b.toNat sg.toNat).Reads (mk h a b sg) := by
  obtain ⟨hty, hr, hc⟩ := VHdr.ok_plain hok
  exact .selector (fun h n a _ b => mk h a b (BitVec.ofNat 3 n)) hF (by rw [hpick, VHdr.admitted_m hty]; exact if_pos sg.isLt) (.p3 a) .none
    (.p3 b) (by omega) (.inr hr) (.inr hc) (by simp) (hbuild := fun _ _ => hbuild _ _)

theorem vsfu_reads {k : SfuFn} {a c : BitVec 3} (hops : h.ok .f true false = true) :
    (ffv h 0x1C a.toNat (.val c.toNat (some a.toNat)) 0 k.code).Reads (.vsfu h k a c) := by
  obtain ⟨hty, -, hc⟩ := VHdr.ok_iff.mp hops
  exact .selector (s := { v2 with kmax := 1, rounds := true }) (fun h n a c _ => .vsfu h ((sfuOf n).getD .rcp) a c) rfl
    (by simp [Form.sel, VHdr.admitted_m hty]) (.p3 a) (.pA c) .none k.code_lt (.inl rfl) (.inr (hc.resolve_left Bool.false_ne_true)) (by simp)

/-- A mask operation names two masks, or one where it is a complement (R386). -/
theorem vmsk_reads {sw : Bool} {k : MskOp} {a c b : BitVec 2} (hops : (k != .not || decide (b = 0)) = true) :
    FullForm.Reads { sw := sw, page := 1, op := 0x1D, a := a.toNat, c := .val c.toNat (some a.toNat), b := b.toNat,
                     imm := some ⟨false, 9, k.code, false, false⟩ } (.vmsk sw k a c b) := by
  cases k
  case not =>
    obtain rfl : b = 0 := by simpa using hops
    exact .fields_imm (s := { a := .m2, c := .mA, pb := true, pr := true, kmax := 1 }) (.vmsk sw .not) rfl rfl .zero (.m2 a)
      (.mA c) .zero .zero rfl (Nat.zero_le _) (Nat.le_refl 1) fun _ => rfl
  all_goals
    exact .fields_imm (s := { a := .m2, b := .m2, c := .mA, pb := true, pr := true, kmax := 1 }) (.vmsk sw _) rfl rfl .zero (.m2 a)
      (.mA c) (.m2 b) .zero rfl (Nat.zero_le _) (FullForm.k_le_of_width rfl (by decide) (by decide)) fun _ => rfl

theorem vmovm_reads {sw : Bool} {k : MovmOp} {f : FullForm} (hf : (Instr.vmovm sw k).fullForm = some f) : f.Reads (.vmovm sw k) := by
  cases k with
  | put m b =>
    cases hf
    exact .fields_imm (s := { a := .m2, b := .g, pb := true, pr := true, kmax := 1 }) (fun m _ b => .vmovm sw (.put m b))
      rfl rfl .zero (.m2 m) .none (.g b) .zero rfl (Nat.zero_le _) (Nat.zero_le _) fun _ => rfl
  | get a m =>
    cases hf
    exact .fields_imm (s := { a := .g, b := .m2, pb := true, pr := true, kmax := 1 }) (fun a _ m => .vmovm sw (.get a m))
      rfl rfl .zero (.g a) .none (.m2 m) .zero rfl (Nat.zero_le _) (Nat.le_refl 1) fun _ => rfl
  | cnt a m =>
    cases hf
    exact .fields_imm (s := { a := .g, b := .m2, pb := true, pr := true, kmax := 1 }) (fun a _ m => .vmovm sw (.cnt a m))
      rfl rfl .zero (.g a) .none (.m2 m) .zero rfl (Nat.zero_le _) (Nat.le_refl 1) fun _ => rfl
end

end Sys2Proof
end

section
/-! PROOFS. The forms of the opcode map, one by one (02_formats R58 to R60), and the decoder on the words of a well-formed instruction (O54). -/

namespace Sys2Proof

section
variable {sw : Bool} {page op m : Nat} {a c b : GReg} {F : Form}

/-- A form of two registers. -/
theorem FullForm.Reads.regs2 (mk : GReg → GReg → Instr) (hF : formOf page op = some F)
    (hpick : F.pick m (ff2 sw page op m a b).raw.sel = some s2 := by rfl) (hm : m < 64 := by decide)
    (hbuild : ∀ r : Raw, F.build s2 { r with sw := sw, m := m } = mk r.ga r.gb := by exact fun _ => rfl) :
    (ff2 sw page op m a b).Reads (mk a b) :=
  .fields (fun a _ b => mk a b) hF hpick (.code hm) (.g a) .none (.g b) (hbuild := hbuild)

/-- A form of three registers, the second of them the first where PR does not stand. -/
theorem FullForm.Reads.regs3 (mk : GReg → GReg → GReg → Instr) (hF : formOf page op = some F)
    (hpick : F.pick m ({ ff3 sw op m a c b with page := page } : FullForm).raw.sel = some s3 := by rfl) (hm : m < 64 := by decide)
    (hbuild : ∀ r : Raw, F.build s3 { r with sw := sw, m := m } = mk r.ga (s3.gc r) r.gb := by exact fun _ => rfl) :
    ({ ff3 sw op m a c b with page := page } : FullForm).Reads (mk a c b) :=
  .fields mk hF hpick (.code hm) (.g a) (.gA c) (.g b) (hbuild := hbuild)
end

/-! ### Codes of the modifiers fit M (R47) -/

theorem ITy.code_lt (t : ITy) : t.code < 64 := by cases t <;> decide
theorem Test.code_lt (t : Test) : t.code < 64 := by cases t <;> decide
theorem BrTest.code_lt (k : BrTest) : k.code < 64 := by rcases k with ⟨⟨⟩⟩ | _ | _ <;> decide
theorem ShKind.code_lt (k : ShKind) : k.code < 64 := by cases k <;> decide
theorem TlbScope.code_lt (k : TlbScope) : k.code < 64 := by cases k <;> decide
theorem EnqLevel.code_lt (k : EnqLevel) : k.code < 64 := by cases k <;> decide
theorem TaskIdSel.code_lt (k : TaskIdSel) : k.code < 64 := by cases k <;> decide
theorem bit_lt (b : Bool) : bit b < 64 := by cases b <;> decide

/-! ### Modifiers that share M read back -/

theorem cmp_codes (k : Cond) (t : ITy) : condOf ((8 * k.code + t.code) / 8) = k ∧ ityOf ((8 * k.code + t.code) % 8) = t := by
  cases k <;> cases t <;> decide

theorem ld_codes (k : LdKind) (rx : Bool) : ldKindOf ((k.code + 16 * bit rx) % 16) = k ∧ ((k.code + 16 * bit rx) / 16 == 1) = rx := by
  rcases k with ⟨⟨⟩⟩ | _ <;> cases rx <;> decide

theorem st_codes (k : StKind) (rx : Bool) : stKindOf ((k.code + 16 * bit rx) % 16) = k ∧ ((k.code + 16 * bit rx) / 16 == 1) = rx := by
  cases k <;> cases rx <;> decide

theorem ldp_codes (k : LdKind) (md : PMode) : ldKindOf ((k.code + 16 * md.code) % 16) = k ∧ pmodeOf ((k.code + 16 * md.code) / 16) = md := by
  rcases k with ⟨⟨⟩⟩ | _ <;> cases md <;> decide

theorem stp_codes (k : StKind) (md : PMode) : stKindOf ((k.code + 16 * md.code) % 16) = k ∧ pmodeOf ((k.code + 16 * md.code) / 16) = md := by
  cases k <;> cases md <;> decide

theorem atom_codes (op : AtomOp) (t : AtomTy) (rx : Bool) :
    atomOpOf ((op.code + 8 * t.code + 32 * bit rx) % 8) = op ∧ atomTyOf ((op.code + 8 * t.code + 32 * bit rx) / 8 % 4) = t ∧
      ((op.code + 8 * t.code + 32 * bit rx) / 32 == 1) = rx := by
  cases op <;> cases t <;> cases rx <;> decide

theorem mma_codes (g z cq : Bool) : ((bit g + 2 * bit z + 4 * bit cq) % 2 == 1) = g ∧ ((bit g + 2 * bit z + 4 * bit cq) / 2 % 2 == 1) = z ∧
    ((bit g + 2 * bit z + 4 * bit cq) / 4 % 2 == 1) = cq := by
  cases g <;> cases z <;> cases cq <;> decide

theorem mzero_codes (f32 cq : Bool) : ((bit f32 + 2 * bit cq) % 2 == 1) = f32 ∧ ((bit f32 + 2 * bit cq) / 2 % 2 == 1) = cq := by
  cases f32 <;> cases cq <;> decide

theorem rndOf_xCode (rnd : Rnd) (nsat : Bool) : (rndOf (xCode rnd nsat / 4)).getD .rne = rnd := by
  rw [xCode_div, rndOf_code]
  rfl

theorem nsat_xCode (rnd : Rnd) (nsat : Bool) : (xCode rnd nsat / 2 % 2 == 1) = nsat := by
  rw [xCode_nsat]
  cases nsat <;> rfl

/-- The shape of a barrier form: at core scope a channel is below 8 (R200). -/
def barShape (a : AK) (clu : Bool) : Shape := { a := a, b := if clu then .ch4 else .ch3, pb := true, pr := true }

theorem BK.Reads.channel {a : AK} {clu : Bool} {ch : BitVec 4} (hops : (clu || decide (ch.toNat < 8)) = true) :
    (barShape a clu).b.Reads (barShape a clu).pb ch.toNat (BitVec.ofNat 4) ch := by
  cases clu with
  | false => exact .ch3 ch (by simpa using hops)
  | true => exact .ch4 ch

/-- A barrier form: M is its variant, and 8 more at cluster scope (R200). -/
theorem FullForm.Reads.barrier {sw clu : Bool} {ch : BitVec 4} {a m : Nat} {ak : AK} {α : Type} {ra : Nat → α} {va : α} {F : Form} (n : Nat)
    (mk : Bool → Bool → α → BitVec 4 → Instr) (hF : formOf 0 0x38 = some F) (hpick : F.pick m 0 = some (barShape ak clu))
    (hA : ak.Reads true a ra va) (hops : (clu || decide (ch.toNat < 8)) = true) (hm : m = n + 8 * bit clu) (hn : n < 8 := by decide)
    (hbuild : ∀ r : Raw, r.m % 8 = n → F.build (barShape ak clu) r = mk r.sw (r.m / 8 == 1) (ra r.a) (BitVec.ofNat 4 r.b) := by
      intro _ hk; simp only [hk]; rfl) :
    FullForm.Reads { sw := sw, op := 0x38, m := m, a := a, b := ch.toNat } (mk sw clu va ch) := by
  have hbit := bit_le clu
  have hclu : (m / 8 == 1) = clu := by cases clu <;> simp [bit, hm] <;> omega
  refine .fields (s := barShape ak clu) (fun a _ ch => mk sw clu a ch) hF hpick (.code (by omega)) hA .none (.channel hops)
    (hbuild := fun _ => ?_)
  rw [hbuild _ (show m % 8 = n by omega)]
  exact congrArg (mk sw · _ _) hclu

section
variable {i : Instr} {f : FullForm}

/-- Page 0 reads back (R58). -/
theorem FullForm.reads_page0 (hf : i.fullForm = some f) (hpage : f.page = 0) (hops : i.operandsOk = true) (hok : f.immOk = true) : f.Reads i := by
  cases i
  case vbcast h a src => cases src <;> cases hf <;> exact absurd hpage nofun
  case vmovm sw op => cases op <;> cases hf <;> exact absurd hpage nofun
  all_goals cases hf
  case nop sw => exact .fields (fun _ _ _ => .nop sw) rfl rfl .zero .none .none .none
  case mov sw a b => exact .regs2 (.mov sw) rfl
  case movWc sw a b => exact .fields (m := 1) (fun a _ b => .movWc sw a b) rfl rfl (.code (by decide)) (.c4 a) .none (.g b)
  case movRc sw a b => exact .fields (m := 2) (fun a _ b => .movRc sw a b) rfl rfl (.code (by decide)) (.g a) .none (.c4 b)
  case movRlc sw a b => exact .fields (m := 3) (fun a _ b => .movRlc sw a b) rfl rfl (.code (by decide)) (.g a) .none (.lc b)
  case li sw a n => exact .imm (n := n) (fun a _ n => .li sw a n) rfl rfl .zero (.g a) .none hok (FullForm.k_le_four _)
  case lih sw a n => exact .imm (n := n) (fun a _ n => .lih sw a n) rfl rfl .zero (.g a) .none hok (FullForm.k_le_four _)
  case add sw t a c b => exact .regs3 (.add sw t) rfl (by cases t <;> rfl) t.code_lt fun _ => by cases t <;> rfl
  case sub sw t a c b => exact .regs3 (.sub sw t) rfl (by cases t <;> rfl) t.code_lt fun _ => by cases t <;> rfl
  case addi sw t a c n =>
    exact .imm (n := n) (s := sACI 4) (.addi sw t) rfl (by cases t <;> rfl) (.code t.code_lt) (.g a) (.gA c) hok (FullForm.k_le_four _)
      (hbuild := fun _ => by cases t <;> rfl)
  case mul sw t a c b => exact .regs3 (.mul sw t) rfl (by cases t <;> rfl) t.code_lt fun _ => by cases t <;> rfl
  case mulh sw t a c b => exact .regs3 (.mulh sw t) rfl (by cases t <;> rfl) t.code_lt fun _ => by cases t <;> rfl
  case div sw t a c b => exact .regs3 (.div sw t) rfl (by cases t <;> rfl) t.code_lt fun _ => by cases t <;> rfl
  case rem sw t a c b => exact .regs3 (.rem sw t) rfl (by cases t <;> rfl) t.code_lt fun _ => by cases t <;> rfl
  case and sw a c b => exact .regs3 (.and sw) rfl
  case or sw a c b => exact .regs3 (.or sw) rfl
  case xor sw a c b => exact .regs3 (.xor sw) rfl
  case andn sw a c b => exact .regs3 (.andn sw) rfl
  case shl sw a c b => exact .regs3 (.shl sw) rfl
  case shr sw a c b => exact .regs3 (.shr sw) rfl
  case sar sw a c b => exact .regs3 (.sar sw) rfl
  case shi sw k a c n =>
    exact .imm (n := n) (s := sACI 1) (.shi sw k) rfl (by cases k <;> rfl) (.code k.code_lt) (.g a) (.gA c) hok
      (FullForm.k_le_of_width rfl n.isLt (by decide)) (hbuild := fun _ => by cases k <;> rfl)
  case rot sw a c b => exact .regs3 (.rot sw) rfl
  case clz sw a b => exact .regs2 (.clz sw) rfl
  case popc sw a b => exact .regs2 (.popc sw) rfl
  case min sw t a c b => exact .regs3 (.min sw t) rfl (by cases t <;> rfl) t.code_lt fun _ => by cases t <;> rfl
  case max sw t a c b => exact .regs3 (.max sw t) rfl (by cases t <;> rfl) t.code_lt fun _ => by cases t <;> rfl
  case cmp sw k t a c b =>
    obtain ⟨hk, ht⟩ := cmp_codes k t
    exact .regs3 (.cmp sw k t) rfl (by cases k <;> cases t <;> rfl) (by cases k <;> cases t <;> decide)
      fun _ => by simp only [Form.many, hk, ht]; rfl
  case cmpi sw k t a c n =>
    obtain ⟨hk, ht⟩ := cmp_codes k t
    exact .imm (n := n) (s := sACI 4) (.cmpi sw k t) rfl (by cases k <;> cases t <;> rfl)
      (.code (m := 8 * k.code + t.code) (by cases k <;> cases t <;> decide)) (.g a) (.gA c) hok (FullForm.k_le_four _)
      (hbuild := fun _ => by simp only [Form.many, hk, ht]; rfl)
  case sel sw k a c b => exact .regs3 (.sel sw k) rfl (by cases k <;> rfl) k.code_lt fun _ => by cases k <;> rfl
  case ext sw t a b => exact .regs2 (.ext sw t) rfl (by cases t <;> rfl) t.code_lt fun _ => by cases t <;> rfl
  case bfx sw sgn a c n =>
    exact .imm (n := n) (s := sACI 1) (.bfx sw sgn) rfl (by cases sgn <;> rfl) (.code (bit_lt sgn)) (.g a) (.gA c) hok
      (FullForm.k_le_of_width rfl n.isLt (by decide)) (hbuild := fun _ => by cases sgn <;> rfl)
  case bfi sw a c n => exact .imm (n := n) (.bfi sw) rfl rfl .zero (.g a) (.gA c) hok (FullForm.k_le_of_width rfl n.isLt (by decide))
  case lea sw hi a m =>
    exact .mem (s := sMem true 4) (.lea sw hi) rfl (by cases hi <;> rfl) (.code (bit_lt hi)) (.g a) hok (FullForm.k_le_four _)
      (hbuild := fun _ => by cases hi <;> rfl)
  case br sw k a n =>
    exact .imm (n := n) (s := sAI true 4) (fun a _ n => .br sw k a n) rfl (by rcases k with ⟨⟨⟩⟩ | _ | _ <;> rfl)
      (.code k.code_lt) (.g a) .none hok (FullForm.k_le_four _) (hbuild := fun _ => by rcases k with ⟨⟨⟩⟩ | _ | _ <;> rfl)
  case jmp sw n => exact .imm (n := n) (fun _ _ n => .jmp sw n) rfl rfl .zero .none .none hok (FullForm.k_le_four _)
  case jmpr sw b => exact .fields (fun _ _ b => .jmpr sw b) rfl rfl .zero .none .none (.g b)
  case calld sw n => exact .imm (n := n) (fun _ _ n => .calld sw n) rfl rfl .zero .none .none hok (FullForm.k_le_of_width rfl n.isLt (by decide))
  case ret sw => exact .fields (fun _ _ _ => .ret sw) rfl rfl .zero .none .none .none
  case loop sw lc b n =>
    exact .fields_imm (fun lc _ b => .loop sw lc b n) rfl rfl .zero (.lc lc) .none (.g b) .zero rfl (Nat.le_refl 1) (Nat.le_refl 1)
      fun ht => congrArg (Instr.loop sw _ _) (ht.immZ_raw rfl hok)
  case ld sw k rx a m =>
    obtain ⟨hk, hrx⟩ := ld_codes k rx
    exact .mem (s := sMem true 4) (.ld sw k rx) rfl (by rcases k with ⟨⟨⟩⟩ | _ <;> cases rx <;> rfl)
      (.code (m := k.code + 16 * bit rx) (by rcases k with ⟨⟨⟩⟩ | _ <;> cases rx <;> decide)) (.g a) hok (FullForm.k_le_four _)
      (hbuild := fun _ => by simp only [Form.many, hk, hrx]; rfl)
  case st sw k rx a m =>
    obtain ⟨hk, hrx⟩ := st_codes k rx
    exact .mem (s := sMem true 4) (.st sw k rx) rfl (by cases k <;> cases rx <;> rfl)
      (.code (m := k.code + 16 * bit rx) (by cases k <;> cases rx <;> decide)) (.g a) hok (FullForm.k_le_four _)
      (hbuild := fun _ => by simp only [Form.many, hk, hrx]; rfl)
  case ldp sw k md a p =>
    obtain ⟨hk, hmd⟩ := ldp_codes k md
    exact .fields (s := { a := .g, b := .p3, pb := true, pr := true }) (fun a _ p => .ldp sw k md a p) rfl
      (by rcases k with ⟨⟨⟩⟩ | _ <;> cases md <;> rfl)
      (.code (m := k.code + 16 * md.code) (by rcases k with ⟨⟨⟩⟩ | _ <;> cases md <;> decide)) (.g a) .none (.p3 p)
      (hbuild := fun _ => by simp only [Form.many, hk, hmd]; rfl)
  case stp sw k md a p =>
    obtain ⟨hk, hmd⟩ := stp_codes k md
    exact .fields (s := { a := .g, b := .p3, pb := true, pr := true }) (fun a _ p => .stp sw k md a p) rfl (by cases k <;> cases md <;> rfl)
      (.code (m := k.code + 16 * md.code) (by cases k <;> cases md <;> decide)) (.g a) .none (.p3 p)
      (hbuild := fun _ => by simp only [Form.many, hk, hmd]; rfl)
  case atom sw op t rx a m =>
    obtain ⟨hop, ht, hrx⟩ := atom_codes op t rx
    exact .mem (.atom sw op t rx) rfl rfl
      (.code (m := op.code + 8 * t.code + 32 * bit rx) (by cases op <;> cases t <;> cases rx <;> decide)) (.g a) hok (FullForm.k_le_four _)
      (hbuild := fun _ => by simp only [Form.many, hop, ht, hrx]; rfl)
  case fence sw n =>
    exact .imm (n := n) (s := { b := .imm, kmin := 1, kmax := 1 }) (fun _ _ n => .fence sw n) rfl rfl .zero .none .none hok
      (Nat.le_refl 1) (hkmin := Nat.le_refl 1)
  case send sw a c b => exact .regs3 (.send sw) rfl
  case take sw a b => exact .regs2 (.take sw) rfl
  case clrf sw a => exact .fields (fun a _ _ => .clrf sw a) rfl rfl .zero (.g a) .none .none
  case mwait sw a m => exact .mem (.mwait sw) rfl rfl .zero (.g a) hok (FullForm.k_le_four _)
  case srr sw a n => exact .fields (fun a _ n => .srr sw a n) rfl rfl .zero (.g a) .none (.st n)
  case srw sw n b => exact .fields (fun n _ b => .srw sw n b) rfl rfl .zero (.st n) .none (.g b)
  case epush sw e b => exact .fields (fun e _ b => .epush sw e b) rfl rfl .zero (.p3 e) .none (.g b)
  case epop sw a e => exact .fields (fun a _ e => .epop sw a e) rfl rfl .zero (.g a) .none (.p3 e)
  case trap sw a n => exact .imm (n := n) (fun a _ n => .trap sw a n) rfl rfl .zero (.g a) .none hok (FullForm.k_le_of_width rfl n.isLt (by decide))
  case brk sw n => exact .imm (n := n) (fun _ _ n => .brk sw n) rfl rfl .zero .none .none hok (FullForm.k_le_of_width rfl n.isLt (by decide))
  case yield sw => exact .fields (fun _ _ _ => .yield sw) rfl rfl .zero .none .none .none
  case quit sw => exact .fields (fun _ _ _ => .quit sw) rfl rfl .zero .none .none .none
  case spawn sw a c b => exact .fields (.spawn sw) rfl rfl .zero (.g a) (.gMand c) (.g b)
  case bar sw clu a ch => exact .barrier 0 .bar rfl (by cases clu <;> rfl) (.g a) hops (Nat.zero_add _).symm
  case barArr sw clu ch =>
    exact .barrier 1 (fun sw clu _ ch => .barArr sw clu ch) rfl (by cases clu <;> rfl) .none hops rfl
      (hbuild := fun _ hk => by simp only [hk])
  case barWt sw clu a ch => exact .barrier 2 .barWt rfl (by cases clu <;> rfl) (.g a) hops rfl
  case barFmax sw clu a ch => exact .barrier 3 .barFmax rfl (by cases clu <;> rfl) (.g a) hops rfl
  case barImax sw clu a ch => exact .barrier 4 .barImax rfl (by cases clu <;> rfl) (.g a) hops rfl
  case barArm sw clu a ch => exact .barrier 5 .barArm rfl (by cases clu <;> rfl) (.g a) hops rfl
  case ckpt sw m =>
    exact .mem (s := { b := .p3, c := .g0, pr := true, kmax := 3 }) (fun _ m => .ckpt sw m) rfl rfl .zero .none hok (FullForm.k_le rfl rfl hops)
  case pmov sw p b => exact .fields (fun p _ b => .pmov sw p b) rfl rfl .zero (.p3 p) .none (.g b)
  case pmovGet sw a p => exact .fields (m := 1) (fun a _ p => .pmovGet sw a p) rfl rfl (.code (by decide)) (.g a) .none (.p3 p)
  all_goals exact absurd hpage nofun

/-- Page 1 reads back (R364). -/
theorem FullForm.reads_page1 (hf : i.fullForm = some f) (hpage : f.page = 1) (hops : i.operandsOk = true) : f.Reads i := by
  cases i
  case vbcast => exact vbcast_reads hf hops
  case vmovm => exact vmovm_reads hf
  all_goals cases hf
  case vadd h a c b => exact .vec .vadd rfl hops (.p3 a) (.pA c) (.p3 b)
  case vsub h a c b => exact .vec .vsub rfl hops (.p3 a) (.pA c) (.p3 b)
  case vmul h a c b => exact .vec .vmul rfl hops (.p3 a) (.pA c) (.p3 b)
  case vfma h a c b => exact .vec .vfma rfl hops (.p3 a) (.pA c) (.p3 b)
  case vfms h a c b => exact .vec .vfms rfl hops (.p3 a) (.pA c) (.p3 b)
  case vmin h a c b => exact .vec .vmin rfl hops (.p3 a) (.pA c) (.p3 b)
  case vmax h a c b => exact .vec .vmax rfl hops (.p3 a) (.pA c) (.p3 b)
  case vabs h a c => exact .vec (fun h a c _ => .vabs h a c) rfl hops (.p3 a) (.pA c) .none
  case vneg h a c => exact .vec (fun h a c _ => .vneg h a c) rfl hops (.p3 a) (.pA c) .none
  case vand h a c b => exact .vec .vand rfl hops (.p3 a) (.pA c) (.p3 b)
  case vor h a c b => exact .vec .vor rfl hops (.p3 a) (.pA c) (.p3 b)
  case vxor h a c b => exact .vec .vxor rfl hops (.p3 a) (.pA c) (.p3 b)
  case vnot h a c => exact .vec (fun h a c _ => .vnot h a c) rfl hops (.p3 a) (.pA c) .none
  case vshl h a c b => exact .vec .vshl rfl hops (.p3 a) (.pA c) (.p3 b)
  case vshr h a c b => exact .vec .vshr rfl hops (.p3 a) (.pA c) (.p3 b)
  case vsar h a c b => exact .vec .vsar rfl hops (.p3 a) (.pA c) (.p3 b)
  case vcmp => exact vcmp_reads hops
  case vsel h a c b => exact .vec .vsel rfl hops (.p3 a) (.pA c) (.p3 b)
  case vcvt => exact vcvt_reads hops
  case vqnt => exact vqnt_reads hops
  case vdqnt => exact vdqnt_reads hops
  case vred => exact vred_reads hops
  case vscan => exact vscan_reads hops
  case viota h a => exact .vec (fun h a _ _ => .viota h a) rfl hops (.p3 a) .none .none
  case vperm h a c b => exact .vec .vperm rfl hops (.p3 a) (.pA c) (.p3 b)
  case vgath h a b sg => exact .elements .vgath rfl hops
  case vscat h a b sg => exact .elements .vscat rfl hops
  case vsfu => exact vsfu_reads hops
  case vmsk => exact vmsk_reads hops
  case vdot h a c b => exact .vec .vdot rfl hops (.p3 a) (.pA c) (.p3 b)
  case vclamp h a c b => exact .vec .vclamp rfl hops (.p3 a) (.pA c) (.p3 b)
  case vamax h a c => exact .vec (fun h a c _ => .vamax h a c) rfl hops (.p3 a) (.pA c) .none
  all_goals exact absurd hpage nofun

/-- Pages 2 to 6 and 15 read back (R59, R60). -/
theorem FullForm.reads_otherPage (hf : i.fullForm = some f) (hpage : Nat.blt 1 f.page = true) (hok : f.immOk = true) (hp : f.prefixes ≤ 4) :
    f.Reads i := by
  have hk3 : f.k ≤ 3 := FullForm.k_le_three (Nat.ne_of_gt (Nat.zero_lt_of_lt (Nat.le_of_ble_eq_true hpage))) hp
  cases i
  case vbcast h a src => cases src <;> cases hf <;> exact absurd hpage nofun
  case vmovm sw op => cases op <;> cases hf <;> exact absurd hpage nofun
  all_goals cases hf
  case mgath sw toB b =>
    exact .fields (s := { b := .g, pb := true }) (fun _ _ b => .mgath sw toB b) rfl (by cases toB <;> rfl) (.code (bit_lt toB)) .none .none (.g b)
      (hbuild := fun _ => by cases toB <;> rfl)
  case mald sw b => exact .fields (fun _ _ b => .mald sw b) rfl rfl .zero .none .none (.g b)
  case mbld sw b => exact .fields (fun _ _ b => .mbld sw b) rfl rfl .zero .none .none (.g b)
  case mma sw g z cq acc ks =>
    obtain ⟨hg, hz, hcq⟩ := mma_codes g z cq
    exact .nibble (s := { a := .m2, b := .imm, pb := true }) (.mma sw g z cq) rfl (by cases g <;> cases z <;> cases cq <;> rfl)
      (.code (m := bit g + 2 * bit z + 4 * bit cq) (by cases g <;> cases z <;> cases cq <;> decide))
      (.m2 acc) (hbuild := fun _ => by simp only [Form.many, hg, hz, hcq]; rfl)
  case mzero sw f32 cq acc =>
    obtain ⟨hf32, hcq⟩ := mzero_codes f32 cq
    exact .fields (s := { a := .m2, pb := true }) (fun acc _ _ => .mzero sw f32 cq acc) rfl (by cases f32 <;> cases cq <;> rfl)
      (.code (m := bit f32 + 2 * bit cq) (by cases f32 <;> cases cq <;> decide))
      (.m2 acc) .none .none (hbuild := fun _ => by simp only [Form.many, hf32, hcq]; rfl)
  case mrd sw rnd nsat acc b =>
    exact .fields_imm (fun acc _ b => .mrd sw rnd nsat acc b) rfl rfl .zero (.m2 acc) .none (.g b) (.code rnd nsat (.inl rfl) (.inl rfl)) rfl
      (Nat.zero_le _) (Nat.zero_le _) fun _ => congrArg₂ (Instr.mrd sw · · _ _) (rndOf_xCode rnd nsat) (nsat_xCode rnd nsat)
  case mwr sw acc b => exact .fields (fun acc _ b => .mwr sw acc b) rfl rfl .zero (.m2 acc) .none (.g b)
  case mscl sw toB b =>
    exact .fields (s := { b := .g, pb := true }) (fun _ _ b => .mscl sw toB b) rfl (by cases toB <;> rfl) (.code (bit_lt toB)) .none .none (.g b)
      (hbuild := fun _ => by cases toB <;> rfl)
  case mstat sw a => exact .fields (fun a _ _ => .mstat sw a) rfl rfl .zero (.g a) .none .none
  case baddq sw rnd acc b =>
    exact .fields_imm (fun acc _ b => .baddq sw rnd acc b) rfl rfl .zero (.m2 acc) .none (.g b) (.code rnd false (.inl rfl) (.inr rfl)) rfl
      (Nat.zero_le _) (Nat.zero_le _) fun _ => congrArg (Instr.baddq sw · _ _) (rndOf_xCode rnd false)
  case segw sw a b => exact .fields (fun a _ b => .segw sw a b) rfl rfl .zero (.p3 a) .none (.g b)
  case segr sw a b => exact .fields (fun a _ b => .segr sw a b) rfl rfl .zero (.g a) .none (.p3 b)
  case segrHi sw a b => exact .fields (m := 1) (fun a _ b => .segrHi sw a b) rfl rfl (.code (by decide)) (.g a) .none (.p3 b)
  case pgprobe sw a m => exact .mem (.pgprobe sw) rfl rfl .zero (.g a) hok hk3
  case tlbinv sw k a b => exact .regs2 (.tlbinv sw k) rfl (by cases k <;> rfl) k.code_lt fun _ => by cases k <;> rfl
  case codeinv sw a b => exact .regs2 (.codeinv sw) rfl
  case codeinvAll sw a => exact .fields (m := 1) (fun a _ _ => .codeinvAll sw a) rfl rfl (.code (by decide)) (.g a) .none .none
  case fbegin sw n => exact .imm (n := n) (fun _ _ n => .fbegin sw n) rfl rfl .zero .none .none hok hk3
  case fcommit sw => exact .fields (fun _ _ _ => .fcommit sw) rfl rfl .zero .none .none .none
  case fabort sw => exact .fields (fun _ _ _ => .fabort sw) rfl rfl .zero .none .none .none
  case spill sw a b => exact .regs2 (.spill sw) rfl
  case spillHold sw a b => exact .regs2 (.spillHold sw) rfl
  case spillRel sw a b => exact .regs2 (.spillRel sw) rfl
  case spillBase sw a b => exact .regs2 (.spillBase sw) rfl
  case spillCkpt sw a b => exact .regs2 (.spillCkpt sw) rfl
  case csave sw a b => exact .regs2 (.csave sw) rfl
  case cload sw a b => exact .regs2 (.cload sw) rfl
  case fork sw a c b => exact .fields (.fork sw) rfl rfl .zero (.g a) (.gMand c) (.g b)
  case join sw a m => exact .mem (.join sw) rfl rfl .zero (.g a) hok hk3
  case depnew sw a m => exact .mem (.depnew sw) rfl rfl .zero (.g a) hok hk3
  case deppub sw a m => exact .mem (.deppub sw) rfl rfl .zero (.g a) hok hk3
  case signal sw rx a m =>
    exact .mem (s := sMem true 3) (.signal sw rx) rfl (by cases rx <;> rfl) (.code (bit_lt rx)) (.g a) hok hk3
      (hbuild := fun _ => by cases rx <;> rfl)
  case enq sw l a m =>
    exact .mem (s := sMem true 3) (.enq sw l) rfl (by cases l <;> rfl) (.code l.code_lt) (.g a) hok hk3
      (hbuild := fun _ => by cases l <;> rfl)
  case taskid sw k a =>
    exact .fields (s := { a := .g, pb := true, pr := true }) (fun a _ _ => .taskid sw k a) rfl (by cases k <;> rfl) (.code k.code_lt)
      (.g a) .none .none (hbuild := fun _ => by cases k <;> rfl)
  case steal sw a b => exact .regs2 (.steal sw) rfl
  case book sw a b => exact .regs2 (.book sw) rfl
  case bkq sw a b => exact .regs2 (.bkq sw) rfl
  case bkqWt sw a b => exact .regs2 (.bkqWt sw) rfl
  case bkcan sw a b => exact .regs2 (.bkcan sw) rfl
  case bkend sw => exact .fields (fun _ _ _ => .bkend sw) rfl rfl .zero .none .none .none
  case gang sw a b => exact .regs2 (.gang sw) rfl
  case gangCancel sw a b => exact .regs2 (.gangCancel sw) rfl
  case pipew sw a ep => exact .nibble (.pipew sw) rfl rfl .zero (.g a)
  case piper sw a ep => exact .nibble (.piper sw) rfl rfl .zero (.g a)
  case piperDone sw ep => exact .nibble (m := 1) (fun _ ep => .piperDone sw ep) rfl rfl (.code (by decide)) .none
  case hnew sw a b => exact .regs2 (.hnew sw) rfl
  case hcopy sw a b => exact .regs2 (.hcopy sw) rfl
  case hdrop sw a => exact .fields (fun a _ _ => .hdrop sw a) rfl rfl .zero (.g a) .none .none
  case hdropLost sw a => exact .fields (m := 1) (fun a _ _ => .hdropLost sw a) rfl rfl (.code (by decide)) (.g a) .none .none
  case hbind sw a b => exact .regs2 (.hbind sw) rfl
  case hsend sw a c b => exact .regs3 (.hsend sw) rfl
  case haddr sw a c sg => exact .fields (.haddr sw) rfl rfl .zero (.g a) (.gA c) (.p3 sg)
  case haddrLen sw a c => exact .fields (m := 1) (fun a c _ => .haddrLen sw a c) rfl rfl (.code (by decide)) (.g a) (.gA c) .none
  case haddrWt sw a c => exact .fields (m := 2) (fun a c _ => .haddrWt sw a c) rfl rfl (.code (by decide)) (.g a) (.gA c) .none
  case mcw sw a b => exact .regs2 (.mcw sw) rfl
  case mcsend sw a c b => exact .regs3 (.mcsend sw) rfl
  case rslot sw a b => exact .regs2 (.rslot sw) rfl
  case redc sw a c b => exact .regs3 (.redc sw) rfl
  case redw sw a b => exact .regs2 (.redw sw) rfl
  case lnkst sw a b => exact .regs2 (.lnkst sw) rfl
  case lnkstCtl sw a b => exact .regs2 (.lnkstCtl sw) rfl
  case ldmb sw k a m =>
    exact .mem (.ldmb sw k) rfl (if_pos (decide_eq_true k.isLt)) (.code (k.isLt.trans (by decide))) (.g a) hok hk3
      (hbuild := fun _ => congrArg (Instr.ldmb sw · _ _) ((BitVec.ofNat_toNat 4 k).trans (BitVec.setWidth_eq k)))
  case stmb sw k a m =>
    exact .mem (.stmb sw k) rfl (if_pos (decide_eq_true k.isLt)) (.code (k.isLt.trans (by decide))) (.g a) hok hk3
      (hbuild := fun _ => congrArg (Instr.stmb sw · _ _) ((BitVec.ofNat_toNat 4 k).trans (BitVec.setWidth_eq k)))
  case blkcp sw a m => exact .mem (.blkcp sw) rfl rfl .zero (.g a) hok hk3
  case crcb sw a m => exact .mem (.crcb sw) rfl rfl .zero (.g a) hok hk3
  all_goals exact absurd hpage nofun

end

/-- Settles O54: the scan reads a well-formed instruction's full form back from its words, and the opcode map reads that form as the
instruction. -/
theorem encodedDecodes : Obligations.EncodedDecodes := by
  intro i ws rest hwf henc
  obtain ⟨f, hf, rfl⟩ := Option.map_eq_some_iff.mp henc
  simp only [Instr.wf, hf, Bool.and_eq_true, decide_eq_true_eq] at hwf
  obtain ⟨⟨hops, hok⟩, hp⟩ := hwf
  have hreads : f.Reads i := by
    obtain h0 | h1 | h2 : f.page = 0 ∨ f.page = 1 ∨ 1 < f.page := by omega
    · exact FullForm.reads_page0 hf h0 hops hok
    · exact FullForm.reads_page1 hf h1 hops
    · exact FullForm.reads_otherPage hf (Nat.ble_eq_true_of_le h2) hok hp
  exact hreads.decode_words hp rest

end Sys2Proof
end

section
/-! PROOFS. What the chain's own context reads after it retires (04_context R73; 05_scalar R108). -/

namespace Sys2Proof.Machine

/-- The context of a chain that retires: its place, its loops and its issue count have changed (R108, R134). -/
theorem Hw.curCtx_retire (h : Hw) (c : Cur) (sw : Bool) (d : Nat) : ∃ pc lp nb xstep role w, (h.retire c sw d).curCtx c =
    { h.curCtx c with pc := pc, lp := lp, notBefore := nb, swWait := sw, xstep := xstep, role := role, w := w } := by
  obtain ⟨pc, lp, nb, xstep, role, w, hctx, -⟩ := (h.core c.core).ctx_retired c h.now sw d
  rw [Hw.curCtx, Hw.ctx, Hw.core_retire, hctx]
  exact ⟨pc, lp, nb, xstep, role, w, rfl⟩

@[simp] theorem Hw.curCtx_modCur (h : Hw) (c : Cur) (f : Ctx → Ctx) : (h.modCur c f).curCtx c = f (h.curCtx c) := h.ctx_modCtx _ _ _

end Sys2Proof.Machine
end

section
/-! PROOFS. The values of reset (04_context R77; 22_link R451; 24_bringup R479, R480; O52). -/

namespace Sys2Proof.Machine

theorem Hw.core_reset (core : Nat) : State.reset.hw.core core = Core.reset := rfl

/-- Every module reads as power-on leaves it: the pod's map holds module 0 alone, and that one is fresh. -/
theorem Hw.mod_reset (m : Nat) : State.reset.hw.mod m = Module.reset := by
  change SMap.get Module.reset [(0, Module.reset)] m = Module.reset
  simp only [SMap.get, SMap.find?]
  split <;> rfl

theorem Hw.count_reset (core : Nat) : State.reset.hw.count core = 0 := Nat.zero_sub _

/-- The status registers of R77 at reset. -/
theorem Hw.status_reset (core slot : Nat) : (∀ n ∈ [0x00, 0x01, 0x02, 0x03, 0x0C, 0x0D, 0x0F, 0x10, 0x12, 0x16],
    State.reset.hw.status core slot n = some 0) ∧ State.reset.hw.status core slot 0x04 = some 0xA ∧
    State.reset.hw.status core slot 0x06 = some 1024 ∧ State.reset.hw.status core slot 0x0E = some 1 ∧
    State.reset.hw.status core slot 0x15 = some 0x0B02 := by
  have hcount : State.reset.hw.status core slot 0x12 = some (BitVec.ofNat 64 (State.reset.hw.count core)) := rfl
  rw [Hw.count_reset] at hcount
  simp only [List.forall_mem_cons, List.not_mem_nil, false_imp_iff, implies_true, and_true]
  exact ⟨⟨rfl, rfl, rfl, rfl, rfl, rfl, rfl, rfl, hcount, rfl⟩, rfl, rfl, rfl, rfl⟩

/-- Settles O52: after reset every module and every core reads as a fresh one, so each register is read off its reset value. -/
theorem resetState : Obligations.ResetState := by
  unfold Obligations.ResetState
  intro h
  have hmod : h.mod h.self = Module.reset := Hw.mod_reset _
  have hreleased (core : Nat) : h.released core = false := by
    simp only [Hw.released, h, Hw.mod_reset]
    rfl
  refine ⟨Mem.reset_wf, rfl, fun core slot n => ⟨rfl, ?_, ?_⟩, fun core slot => ?_, fun core => ⟨rfl, hreleased core, rfl⟩,
    fun core j => ⟨rfl, rfl⟩, fun clu e => ⟨rfl, rfl⟩, ?_, fun u => ?_, ?_, ?_⟩
  · change (State.reset.hw.core core).g _ n = 0
    rw [Hw.core_reset]
    exact ite_self _
  · change (State.reset.hw.core core).fullBit _ n = true
    rw [Hw.core_reset]
    exact Bool.or_true _
  · obtain ⟨h0, h4, h6, h14, h21⟩ := Hw.status_reset core slot
    simp only [List.forall_mem_cons] at h0
    obtain ⟨s0, s1, s2, s3, sC, sD, sF, s10, s12, s16, -⟩ := h0
    exact ⟨s0, s1, s2, s3, h4, h6, sC, sD, h14, sF, s10, s12, h21, s16⟩
  all_goals rw [hmod]; rfl

end Sys2Proof.Machine
end

section
/-! PROOFS. Addresses, pointers and segment registers (04_context R101; 05_scalar R129; 06_memory R136, R138; O9). -/

namespace Sys2Proof.Machine

/-! ### Addresses (R129) -/

/-- The offset of LEA wraps at 64 bits. -/
theorem Hw.wrap_memOffset (h : Hw) (c : Cur) (m : MemOp) :
    ((wrap (h.memOffset c m) 64 : Nat) : Int) = ((h.cg c m.idx).toNat + m.disp.toInt) % 2 ^ 64 :=
  Int.toNat_of_nonneg (Int.emod_nonneg _ (by decide))

/-- The bounds of an address are those of an access of one byte, without rights; a virtual address may lie anywhere (R129, R137). -/
theorem segCheck_address {sg : Seg} {o : Nat} (hvirt : sg.virt = true) (hin : o < sg.len) :
    segCheck sg o 1 {} 1 = .ok ((sg.base + o) % 2 ^ 72) := by
  have haddr : wrap ((sg.base : Int) + o) 72 = (sg.base + o) % 2 ^ 72 := by
    rw [wrap]
    omega
  simp [segCheck, Seg.grants, haddr, hvirt, Nat.mod_one, hin]

theorem segCheck_outside {sg : Seg} {o : Nat} (hout : sg.len < o + 1) :
    segCheck sg o 1 {} 1 = .bad .segmentBounds (wrap ((sg.base : Int) + o) 72) := by
  have hbounds : (o : Int) < 0 ∨ (sg.len : Int) < o + (1 : Nat) := by omega
  simp only [segCheck, Seg.grants, if_pos hbounds]
  rfl

section
variable {s : State} {c : Cur} (sw hi : Bool) (a : GReg) {m : MemOp} (h : s.atHand c (regs [m.idx]))
include h

theorem lea_inside (hin : wrap (s.hw.memOffset c m) 64 < ((s.hw.curCtx c).seg m.sg.toNat).len)
    (hvirt : ((s.hw.curCtx c).seg m.sg.toNat).virt = true) : exec (.lea sw hi a m) s = .next (s.result c sw a (BitVec.ofNat 64
      (let ad := (((s.hw.curCtx c).seg m.sg.toNat).base + wrap (s.hw.memOffset c m) 64) % 2 ^ 72; if hi then ad / 2 ^ 64 else ad)) 2) := by
  have hbits (ad : Nat) : bits (ad % 2 ^ 72) 71 64 = ad % 2 ^ 72 / 2 ^ 64 := by
    rw [bits]
    omega
  rw [exec_lea, execLea, State.withCur_some h.1, State.reads_atHand h]
  simp only [segCheck_address hvirt hin, hbits]
  rfl

theorem lea_outside (hout : ((s.hw.curCtx c).seg m.sg.toNat).len < wrap (s.hw.memOffset c m) 64 + 1) : ∃ ad, exec (.lea sw hi a m) s =
    .next (s.onHw fun h => h.faultChain c (c.faultAt .segmentBounds 0 ad ((s.hw.curCtx c).seg m.sg.toNat).virt)) := by
  rw [exec_lea, execLea, State.withCur_some h.1, State.reads_atHand h]
  simp only [segCheck_outside hout]
  exact ⟨_, rfl⟩

end

/-! ### Pointers (R101) -/

theorem bits_eq_extract (v : Word) (lo n : Nat) (hn : 0 < n) : bits v.toNat (lo + n - 1) lo = (v.extractLsb' lo n).toNat := by
  rw [bits, BitVec.extractLsb'_toNat, Nat.shiftRight_eq_div_pow, show lo + n - 1 + 1 - lo = n by omega]

/-- A pointer register from a word: its offset and its increment (R101). -/
def Ptr.ofWord (v : Word) : Ptr := ⟨v.extractLsb' 0 20, v.extractLsb' 32 16⟩

theorem Ptr.ofWord_bits (v : Word) : (⟨BitVec.ofNat 20 v.toNat, BitVec.ofNat 16 (bits v.toNat 47 32)⟩ : Ptr) = Ptr.ofWord v := by
  rw [bits_eq_extract v 32 16 (by decide), BitVec.ofNat_toNat, BitVec.ofNat_toNat, BitVec.setWidth_eq, Ptr.ofWord]
  congr 1

/-- What a PMOV does to its context: the pointer, and the cycle at which it is readable. -/
def Ctx.setPtr (x : Ctx) (p : Nat) (q : Ptr) (at_ : Nat) : Ctx := { x with p := SMap.set x.p p q, ptrAt := SMap.set x.ptrAt p at_ }

theorem Ctx.ptr_setPtr (x : Ctx) (p : Nat) (q : Ptr) (at_ j : Nat) : (x.setPtr p q at_).ptr j = if p = j then q else x.ptr j :=
  SMap.get_set _ _ _ _ _

theorem pmov_sets {s : State} {c : Cur} (sw : Bool) (p : BitVec 3) {b : GReg} (h : s.atHand c (regs [b]))
    (hlow : (s.hw.cg c b).extractLsb' 20 12 = 0) (hhigh : (s.hw.cg c b).extractLsb' 48 16 = 0) :
    ∃ t, exec (.pmov sw p b) s = .next t ∧ t.mem = s.mem ∧
      ∀ j, (t.hw.curCtx c).ptr j = if p.toNat = j then Ptr.ofWord (s.hw.cg c b) else (s.hw.curCtx c).ptr j := by
  have hmbz : ¬(bits (s.hw.cg c b).toNat 31 20 ≠ 0 ∨ bits (s.hw.cg c b).toNat 63 48 ≠ 0) := by
    rw [bits_eq_extract _ 20 12 (by decide), bits_eq_extract _ 48 16 (by decide), hlow, hhigh]
    decide
  refine ⟨s.onHw fun h => (h.modCur c (fun x => x.setPtr p.toNat (Ptr.ofWord (s.hw.cg c b)) (h.now + 2))).retire c sw 1, ?_, rfl, fun j => ?_⟩
  · rw [exec_pmov, execPmov, State.withCur_some h.1, State.reads_atHand h]
    simp only [if_neg hmbz, Ptr.ofWord_bits]
    rfl
  · obtain ⟨pc, lp, nb, xstep, role, w, hctx⟩ :=
      (s.hw.modCur c (fun x => x.setPtr p.toNat (Ptr.ofWord (s.hw.cg c b)) (s.hw.now + 2))).curCtx_retire c sw 1
    rw [State.onHw_hw, hctx, Hw.curCtx_modCur]
    exact Ctx.ptr_setPtr (s.hw.curCtx c) p.toNat _ (s.hw.now + 2) j

/-- The word of a pointer: the increment above the offset (R101). -/
theorem Ptr.word_eq (q : Ptr) :
    BitVec.ofNat 64 (q.off.toNat + q.inc.toNat * 2 ^ 32) = (q.inc.setWidth 64 <<< 32) ||| q.off.setWidth 64 := by
  have ho := q.off.isLt
  have hi := q.inc.isLt
  apply BitVec.eq_of_toNat_eq
  rw [BitVec.toNat_or, BitVec.toNat_shiftLeft, BitVec.toNat_setWidth, BitVec.toNat_setWidth, BitVec.toNat_ofNat,
    Nat.mod_eq_of_lt (a := q.off.toNat) (by omega), Nat.mod_eq_of_lt (a := q.inc.toNat) (by omega), Nat.shiftLeft_eq,
    Nat.mod_eq_of_lt (by omega), Nat.mod_eq_of_lt (by omega), Nat.mul_comm q.inc.toNat, Nat.add_comm, ← Nat.two_pow_add_eq_or_of_lt (by omega)]

theorem pmovGet_reads {s : State} {c : Cur} (sw : Bool) (a : GReg) (p : BitVec 3) (h : s.atHand c [])
    (hready : SMap.get 0 (s.hw.curCtx c).ptrAt p.toNat ≤ s.hw.now) : exec (.pmovGet sw a p) s = .next (s.result c sw a
      ((((s.hw.curCtx c).ptr p.toNat).inc.setWidth 64 <<< 32) ||| ((s.hw.curCtx c).ptr p.toNat).off.setWidth 64) 2) := by
  rw [exec_pmovGet, execPmovGet, State.withCur_some h.1, State.readsPtr, if_pos hready, State.result, State.onHw, State.onHw, ← Ptr.word_eq]

/-! ### Segments (R136, R138) -/

theorem segr_reads {s : State} {c : Cur} (sw : Bool) (a : GReg) (g : BitVec 3) (h : s.atHand c []) :
    exec (.segr sw a g) s = .next (s.result c sw a (BitVec.ofNat 64 ((s.hw.curCtx c).seg g.toNat).base) 2) := by
  rw [exec_segr, execSegr, State.withCur_some h.1, State.result, State.onHw, State.onHw]

theorem segrHi_reads {s : State} {c : Cur} (sw : Bool) (a : GReg) (g : BitVec 3) (h : s.atHand c []) :
    exec (.segrHi sw a g) s = .next (s.result c sw a (BitVec.ofNat 64 ((s.hw.curCtx c).seg g.toNat).word1) 2) := by
  rw [exec_segrHi, execSegrHi, State.withCur_some h.1, State.result, State.onHw, State.onHw]

section
variable {s : State} {c : Cur} (sw : Bool) (g : BitVec 3) {b : GReg} (h : s.atHand c [b.toNat, b.toNat + 1])
  (hwin : b.toNat + 1 < (s.hw.curCtx c).wsize)

/-- The segment that SEGW writes. -/
def State.newSeg (s : State) (c : Cur) (b : GReg) : Seg := Seg.ofWords (s.hw.cgn c b.toNat).toNat (s.hw.cgn c (b.toNat + 1)).toNat

include h hwin

/-- SEGW with its words at hand and valid faults if it would widen, and otherwise governs the context's chains from cycle 2. -/
theorem exec_segw_atHand (hmbz : (s.hw.cgn c (b.toNat + 1)).extractLsb' 13 11 = 0) (hplaced : (s.newSeg c b).placed = true) :
    exec (.segw sw g b) s = .next (if !(s.hw.curCtx c).service && decide ((s.newSeg c b).len ≠ 0) &&
        !(s.newSeg c b).narrows ((s.hw.curCtx c).seg g.toNat) then
      s.onHw (fun h => h.faultChain c (c.faultAt .segmentRights 1 (s.newSeg c b).base (s.newSeg c b).virt))
    else s.onHw fun h => (h.modCur c (fun x => { x with late := x.late ++ [⟨h.now + 2, .seg g.toNat (s.newSeg c b)⟩] })).retire c sw 1) := by
  have hok : ¬(bits (s.hw.cgn c (b.toNat + 1)).toNat 23 13 ≠ 0 ∨ (!(s.newSeg c b).placed) = true) := by
    rw [bits_eq_extract _ 13 11 (by decide), hmbz, hplaced]
    decide
  rw [exec_segw, execSegw, State.withCur_some h.1, State.window_ok hwin, State.reads_atHand h]
  exact congrArg Host.Outcome.next (if_neg hok)

theorem segw_narrows (hmbz : (s.hw.cgn c (b.toNat + 1)).extractLsb' 13 11 = 0) (hplaced : (s.newSeg c b).placed = true)
    (hmay : (s.hw.curCtx c).service = true ∨ (s.newSeg c b).len = 0 ∨ (s.newSeg c b).narrows ((s.hw.curCtx c).seg g.toNat) = true) :
    ∃ t, exec (.segw sw g b) s = .next t ∧ t.mem = s.mem ∧
      (t.hw.curCtx c).late = (s.hw.curCtx c).late ++ [⟨s.hw.now + 2, .seg g.toNat (s.newSeg c b)⟩] := by
  have hnarrow : ¬(!(s.hw.curCtx c).service && decide ((s.newSeg c b).len ≠ 0) &&
      !(s.newSeg c b).narrows ((s.hw.curCtx c).seg g.toNat)) = true := by
    rcases hmay with hm | hm | hm <;> simp [hm]
  rw [exec_segw_atHand sw g h hwin hmbz hplaced, if_neg hnarrow]
  refine ⟨_, rfl, rfl, ?_⟩
  obtain ⟨pc, lp, nb, xstep, role, w, hctx⟩ := (s.hw.modCur c
    (fun x => { x with late := x.late ++ [⟨s.hw.now + 2, .seg g.toNat (s.newSeg c b)⟩] })).curCtx_retire c sw 1
  rw [State.onHw_hw, hctx, Hw.curCtx_modCur]

theorem segw_widens (hmbz : (s.hw.cgn c (b.toNat + 1)).extractLsb' 13 11 = 0) (hplaced : (s.newSeg c b).placed = true)
    (htask : (s.hw.curCtx c).service = false) (hlen : (s.newSeg c b).len ≠ 0)
    (hwide : (s.newSeg c b).narrows ((s.hw.curCtx c).seg g.toNat) = false) : exec (.segw sw g b) s =
      .next (s.onHw fun h => h.faultChain c (c.faultAt .segmentRights 1 (s.newSeg c b).base (s.newSeg c b).virt)) := by
  rw [exec_segw_atHand sw g h hwin hmbz hplaced, if_pos (by simp [htask, hlen, hwide])]

end

/-- Settles O9, one form after the other: each by the word that it reads or writes. -/
theorem addressesAndSegments : Obligations.AddressesAndSegments := by
  unfold Obligations.AddressesAndSegments
  intro s c sw hi a b m p g x sg o
  have ho : o = ((wrap (s.hw.memOffset c m) 64 : Nat) : Int) := (s.hw.wrap_memOffset c m).symm
  clear_value o
  subst ho
  refine ⟨fun hat _ hin hvirt => ?_, fun hat hout => ?_, fun hat hlow hhigh => ?_, pmovGet_reads sw a p, fun hat => ?_,
    fun hat hwin => ?_⟩
  · rw [Int.toNat_natCast]
    exact lea_inside sw hi a hat (by exact_mod_cast hin) hvirt
  · exact lea_outside sw hi a hat (by exact_mod_cast hout)
  · obtain ⟨t, hexec, hmem, hptr⟩ := pmov_sets sw p hat hlow hhigh
    exact ⟨t, hexec, hmem, (hptr _).trans (if_pos rfl), fun j hj => (hptr j).trans (if_neg hj.symm)⟩
  · exact ⟨segr_reads sw a g hat, segrHi_reads sw a g hat⟩
  · intro new hmbz hplaced
    exact ⟨segw_narrows sw g hat hwin hmbz hplaced, segw_widens sw g hat hwin hmbz hplaced⟩

end Sys2Proof.Machine
end

section
/-! PROOFS. The status registers (04_context R77 to R79; O19). -/

namespace Sys2Proof.Machine

/-- The status registers end at 0x16 (R77). -/
theorem Hw.status_isSome_iff (h : Hw) (core slot n : Nat) : (h.status core slot n).isSome = true ↔ n < 0x17 := by
  refine ⟨fun hs => ?_, fun hn => ?_⟩
  · by_contra hn
    obtain ⟨m, rfl⟩ := Nat.exists_eq_add_of_le (Nat.not_lt.mp hn)
    rw [Nat.add_comm] at hs
    exact absurd hs (by simp [Hw.status])
  · interval_cases n <;> rfl

theorem Hw.status_eq_none {h : Hw} {core slot n : Nat} (hn : 0x17 ≤ n) : h.status core slot n = none := by
  have := (h.status_isSome_iff core slot n).not.mpr (Nat.not_lt.mpr hn)
  simpa using this

section
variable {s : State} {c : Cur} (sw : Bool) {n : BitVec 7}

theorem srr_reads {w : Word} (a : GReg) (hcur : s.hw.cur = some c) (hs : s.hw.status c.core c.slot n.toNat = some w) :
    exec (.srr sw a n) s = .next (s.result c sw a w 2) := by
  rw [exec_srr, execSrr, State.withCur_some hcur]
  simp only [hs]
  rfl

theorem srr_unassigned (a : GReg) (hcur : s.hw.cur = some c) (hn : 0x17 ≤ n.toNat) :
    exec (.srr sw a n) s = .next (s.faultWith c .undefinedInstruction 0 n.toNat) := by
  rw [exec_srr, execSrr, State.withCur_some hcur]
  simp only [Hw.status_eq_none hn]
  rfl

theorem srw_unassigned (b : GReg) (hcur : s.hw.cur = some c) (hn : 0x17 ≤ n.toNat) :
    exec (.srw sw n b) s = .next (s.faultWith c .undefinedInstruction 0 n.toNat) := by
  rw [exec_srw, execSrw, State.withCur_some hcur]
  simp only [Hw.status_eq_none hn]
  rfl

theorem srw_privileged (b : GReg) (hcur : s.hw.cur = some c) (hn : n.toNat < 0x17) (htask : taskWritable n.toNat = false)
    (hsvc : (s.hw.curCtx c).service = false) : exec (.srw sw n b) s = .next (s.faultWith c .privileged 0 n.toNat) := by
  obtain ⟨w, hw⟩ := Option.isSome_iff_exists.mp ((s.hw.status_isSome_iff c.core c.slot n.toNat).mpr hn)
  rw [exec_srw, execSrw, State.withCur_some hcur]
  simp only [hw]
  exact congrArg Host.Outcome.next (if_pos (by rw [hsvc, htask]; rfl))

variable {b : GReg} (h : s.atHand c (regs [b])) (hn : n.toNat < 0x17)
include h hn

/-- SRW of a register that its mode may write checks the value, and writes it for chains from cycle 2 on (R78). -/
theorem exec_srw_writable (hmay : (s.hw.curCtx c).service = true ∨ taskWritable n.toNat = true) : exec (.srw sw n b) s =
    .next (if s.hw.cg c b &&& mbzMask n.toNat ≠ 0 ∨ s.hw.badStatus c.core (s.hw.curCtx c).service n.toNat (s.hw.cg c b) = true then
        s.faultWith c .reservedValue 0 n.toNat
      else s.onHw fun h =>
        (h.modCur c (fun x => { x with late := x.late ++ [⟨h.now + 2, .status n.toNat (s.hw.cg c b)⟩] })).retire c sw 1) := by
  obtain ⟨w, hw⟩ := Option.isSome_iff_exists.mp ((s.hw.status_isSome_iff c.core c.slot n.toNat).mpr hn)
  have hpriv : ¬(!(s.hw.curCtx c).service && !taskWritable n.toNat) = true := by
    rcases hmay with hm | hm <;> simp [hm]
  rw [exec_srw, execSrw, State.withCur_some h.1]
  simp only [hw]
  rw [if_neg hpriv, State.reads_atHand h]

theorem srw_reserved (hmay : (s.hw.curCtx c).service = true ∨ taskWritable n.toNat = true)
    (hbad : s.hw.cg c b &&& mbzMask n.toNat ≠ 0 ∨ s.hw.badStatus c.core (s.hw.curCtx c).service n.toNat (s.hw.cg c b) = true) :
    exec (.srw sw n b) s = .next (s.faultWith c .reservedValue 0 n.toNat) := by
  rw [exec_srw_writable sw h hn hmay, if_pos hbad]

theorem srw_writes (hmay : (s.hw.curCtx c).service = true ∨ taskWritable n.toNat = true) (hmbz : s.hw.cg c b &&& mbzMask n.toNat = 0)
    (hok : s.hw.badStatus c.core (s.hw.curCtx c).service n.toNat (s.hw.cg c b) = false) : ∃ t, exec (.srw sw n b) s = .next t ∧ t.mem = s.mem ∧
      (t.hw.curCtx c).late = (s.hw.curCtx c).late ++ [⟨s.hw.now + 2, .status n.toNat (s.hw.cg c b)⟩] ∧ (t.hw.curCtx c).ts = (s.hw.curCtx c).ts := by
  rw [exec_srw_writable sw h hn hmay, if_neg (by simp [hmbz, hok])]
  refine ⟨_, rfl, rfl, ?_⟩
  obtain ⟨pc, lp, nb, xstep, role, w, hctx⟩ := (s.hw.modCur c
    (fun x => { x with late := x.late ++ [⟨s.hw.now + 2, .status n.toNat (s.hw.cg c b)⟩] })).curCtx_retire c sw 1
  rw [State.onHw_hw, hctx, Hw.curCtx_modCur]
  exact ⟨rfl, rfl⟩

end

/-- ROLE takes no value above 15, and none with DECL 0 (R78, R80). -/
theorem role_reserved_iff (h : Hw) (core : Nat) (svc : Bool) (v : Word) :
    (v &&& mbzMask 4 ≠ 0 ∨ h.badStatus core svc 4 v = true) ↔ v.toNat / 16 ≠ 0 ∨ v.toNat / 4 % 4 = 0 := by
  have hmask : v &&& mbzMask 4 = (v >>> 4) <<< 4 := by
    rw [BitVec.shiftLeft_ushiftRight]
    rfl
  have hmbz : v &&& mbzMask 4 = 0 ↔ v.toNat / 16 = 0 := by
    have hv := v.isLt
    rw [hmask, ← BitVec.toNat_inj, BitVec.toNat_shiftLeft, BitVec.toNat_ushiftRight, Nat.shiftRight_eq_div_pow, Nat.shiftLeft_eq]
    change v.toNat / 2 ^ 4 * 2 ^ 4 % 2 ^ 64 = 0 ↔ v.toNat / 16 = 0
    omega
  have hbad : h.badStatus core svc 4 v = true ↔ v.toNat / 4 % 4 = 0 := decide_eq_true_iff
  rw [hbad, ne_eq, hmbz]

theorem Core.ts_writeStatus (k : Core) (slot : Nat) (v : Word) (hsvc : (k.ctx slot).service = false) :
    ((k.writeStatus slot 0 v).ctx slot).ts = (k.ctx slot).ts &&& ~~~(v &&& 0xF) := by
  simp [Core.writeStatus, hsvc]

theorem Core.ctx_writeStatus_steald (k : Core) (slot : Nat) (v : Word) :
    (k.writeStatus slot 0x0E v).ctx slot = { k.ctx slot with steald := v.setWidth 2 } := by
  simp [Core.writeStatus]

/-- Settles O19: a read by the register that its number names, a write by the check of its value and the late write that it leaves. -/
theorem statusRegisters : Obligations.StatusRegisters := by
  unfold Obligations.StatusRegisters
  intro s c sw a b n x k v
  refine ⟨fun hat => ⟨fun hn => ?_, fun hn => ⟨srr_unassigned sw a hat.1 hn, srw_unassigned sw b hat.1 hn⟩, fun hn h0 h4 hE hsvc => ?_⟩,
    fun hat => ⟨fun hmbz => ?_, fun hmbz => ?_, fun hbad => ?_, fun hok => ?_⟩, fun hsvc => ⟨k.ts_writeStatus _ _ hsvc, k.ctx_writeStatus_steald _ _⟩⟩
  · obtain ⟨w, hw⟩ := Option.isSome_iff_exists.mp ((s.hw.status_isSome_iff c.core c.slot n.toNat).mpr hn)
    refine ⟨w, srr_reads sw a hat.1 hw, ?_⟩
    have plain {m : BitVec 7} {u : Word} (hu : s.hw.status c.core c.slot m.toNat = some u) (hm : n = m) : w = u :=
      Option.some.inj (hw.symm.trans (hm ▸ hu))
    have wide {m : BitVec 7} {i : Nat} {u : BitVec i} (hu : s.hw.status c.core c.slot m.toNat = some (BitVec.ofNat 64 u.toNat))
        (hm : n = m) : w = u.setWidth 64 := (plain hu hm).trans (BitVec.ofNat_toNat _ _)
    exact ⟨plain rfl, plain rfl, plain rfl, plain rfl, plain rfl, wide rfl, plain rfl, wide rfl, wide rfl, wide rfl, wide rfl, wide rfl,
      plain rfl, plain rfl, wide rfl, plain rfl, plain rfl, wide rfl, plain rfl, plain rfl, plain rfl, plain rfl, wide rfl⟩
  · refine srw_privileged sw b hat.1 hn ?_ hsvc
    have hne (m : BitVec 7) (hm : n ≠ m) : n.toNat ≠ m.toNat := fun h => hm (BitVec.eq_of_toNat_eq h)
    simpa [taskWritable] using ⟨⟨hne _ h0, hne _ h4⟩, hne _ hE⟩
  · exact srw_writes sw hat (by decide) (.inr rfl) hmbz rfl
  · exact srw_reserved sw hat (by decide) (.inr rfl) (.inl hmbz)
  · exact srw_reserved sw hat (by decide) (.inr rfl) ((role_reserved_iff _ _ _ _).mpr hbad)
  · have hgood := (role_reserved_iff s.hw c.core x.service v).not.mpr (by omega)
    obtain ⟨hmbz, hgood⟩ := not_or.mp hgood
    obtain ⟨t, hexec, -, hlate, -⟩ := srw_writes sw (n := 0x04) hat (by decide) (.inr rfl) (not_not.mp hmbz) (by simpa using hgood)
    exact ⟨t, hexec, hlate⟩

end Sys2Proof.Machine
end

section
/-! PROOFS. A frame that comes with a reply of another address (13_kernel R277; O23). -/

namespace Sys2Proof.Machine

/-- The access that core 0's link stack holds while a return reads its frame (R277). -/
def frameRead : Acc := { Tests.load5 false with op := .frame, addr := 0 }

/-- A reply for that access which names another address: the answer of a frame is matched by its core, slot and transaction alone. -/
def frameReply : Acc := { frameRead with addr := 64 }

/-- A return whose frame comes with such a reply. -/
def returning : State := { Tests.linking .frame .armed with
  hw := { (Tests.linking .frame .armed).hw with arg := .accRes frameReply (.data Tests.frame5 []) } }

/-- The lookup of the return is scheduled for the access that the core holds, and nothing else is. -/
theorem agenda_returning : ∃ t, exec .plainAccessReply returning = .next t ∧
    t.hw.agenda = [⟨returning.hw.now + 1, .plainAccessReply, .accRes frameRead .armed⟩] := ⟨_, rfl, by decide +kernel⟩

/-- Refutes O23: the frame's answer goes on with the access that the core holds, and the statement asks for the access that the reply
names; the two agree on core, slot and transaction only. -/
theorem not_callsAndReturns : ¬ Obligations.CallsAndReturns := by
  unfold Obligations.CallsAndReturns
  intro hall
  obtain ⟨-, -, hframe, -⟩ := hall returning Tests.c0 false 0 frameReply ⟨frameRead, 1, .plain, Tests.c0, [], true, true, [], false, [], []⟩
    (Tests.image 5 2) 5 0 1 0 0 0 0
  obtain ⟨hcame, -⟩ := hframe (by decide) (by decide) (by decide)
  obtain ⟨t, q, hexec, -, -, -, hdue⟩ := hcame rfl ⟨rfl, rfl, rfl, rfl, rfl, rfl, rfl, rfl⟩
  obtain ⟨t', hexec', hagenda⟩ := agenda_returning
  cases hexec.symm.trans hexec'
  rw [hagenda, List.mem_singleton] at hdue
  simp only [Due.mk.injEq, Arg.accRes.injEq] at hdue
  obtain ⟨-, -, hacc, -⟩ := hdue
  exact absurd (congrArg Acc.addr hacc) (by decide)

end Sys2Proof.Machine
end

section
/-! PROOFS. What the part does while it keeps every register (04_context R74, R85; for O20, O22, O37, O60). -/

namespace Sys2Proof.Machine

/-- Between two states of a core the registers, their full bits, the windows over them and the owed operations stand, and no result is newly
outstanding. -/
structure Core.KeepsRegs (k k' : Core) : Prop where
  rf : k'.rf = k.rf
  empty : k'.empty = k.empty
  owed : k'.owed = k.owed
  wbase : ∀ i, (k'.ctx i).wbase = (k.ctx i).wbase
  pend : ∀ i, (k'.ctx i).pend ⊆ (k.ctx i).pend

theorem Core.KeepsRegs.refl (k : Core) : k.KeepsRegs k := ⟨rfl, rfl, rfl, fun _ => rfl, fun _ _ hp => hp⟩

theorem Core.KeepsRegs.trans {k k1 k2 : Core} (a : k.KeepsRegs k1) (b : k1.KeepsRegs k2) : k.KeepsRegs k2 :=
  ⟨b.rf.trans a.rf, b.empty.trans a.empty, b.owed.trans a.owed, fun i => (b.wbase i).trans (a.wbase i), fun i _ hp => a.pend i (b.pend i hp)⟩

/-- A context that stays at its window, with no result newly outstanding, may change in every other way. -/
theorem Core.keepsRegs_setCtx (k : Core) (s : Nat) (x : Ctx) (hwbase : x.wbase = (k.ctx s).wbase) (hpend : x.pend ⊆ (k.ctx s).pend) :
    k.KeepsRegs (k.setCtx s x) := by
  refine ⟨rfl, rfl, rfl, fun i => ?_, fun i => ?_⟩ <;> by_cases hi : s = i
  · subst hi
    rwa [Core.ctx_setCtx]
  · rw [Core.ctx_setCtx_ne k s x i hi]
  · subst hi
    rwa [Core.ctx_setCtx]
  · rw [Core.ctx_setCtx_ne k s x i hi]
    exact fun _ hp => hp

/-- What the part does between two states keeps the registers of every core; it takes no time, and drops no step. -/
structure Hw.KeepsRegs (h h' : Hw) : Prop where
  now : h'.now = h.now
  agenda : h.agenda ⊆ h'.agenda
  core : ∀ c, (h.core c).KeepsRegs (h'.core c)

namespace Hw.KeepsRegs

theorem refl (h : Hw) : h.KeepsRegs h := ⟨rfl, fun _ he => he, fun _ => .refl _⟩

theorem trans {h h1 h2 : Hw} (a : h.KeepsRegs h1) (b : h1.KeepsRegs h2) : h.KeepsRegs h2 :=
  ⟨b.now.trans a.now, fun _ he => b.agenda (a.agenda he), fun c => (a.core c).trans (b.core c)⟩

theorem foldl {α : Type} {f : Hw → α → Hw} (hf : ∀ h a, Hw.KeepsRegs h (f h a)) (l : List α) (h : Hw) : h.KeepsRegs (l.foldl f h) := by
  induction l generalizing h with
  | nil => exact refl h
  | cons a r ih => exact (hf h a).trans (ih _)

variable {h h' : Hw} (hk : h.KeepsRegs h')
include hk

theorem g (c s n : Nat) : h'.g c s n = h.g c s n := Core.g_congr _ _ _ _ _ (hk.core c).rf ((hk.core c).wbase s)

theorem isFull (c s n : Nat) : h'.isFull c s n = h.isFull c s n := Core.fullBit_congr _ _ _ _ _ (hk.core c).empty ((hk.core c).wbase s)

theorem pend_nil {c s : Nat} (hp : (h.ctx c s).pend = []) : (h'.ctx c s).pend = [] :=
  List.eq_nil_of_subset_nil (hp ▸ (hk.core c).pend s)

end Hw.KeepsRegs

theorem Hw.Binds.keepsRegs {h h' : Hw} (hb : h.Binds h') : h.KeepsRegs h' := ⟨hb.now, hb.agenda, fun c => hb.core c ▸ .refl _⟩

theorem Hw.keepsRegs_schedule (h : Hw) (n : Nat) (i : Instr) (a : Arg) : h.KeepsRegs (h.schedule n i a) := (h.binds_schedule n i a).keepsRegs

theorem Hw.keepsRegs_after (h : Hw) (d : Nat) (i : Instr) (a : Arg) : h.KeepsRegs (h.after d i a) := h.keepsRegs_schedule _ _ _

theorem Hw.keepsRegs_modCore (h : Hw) (c : Nat) {f : Core → Core} (hf : (h.core c).KeepsRegs (f (h.core c))) : h.KeepsRegs (h.modCore c f) := by
  refine ⟨rfl, fun _ he => he, fun d => ?_⟩
  by_cases hd : c = d
  · subst hd
    rwa [Hw.core_modCore]
  · rw [Hw.core_modCore_ne h c f d hd]
    exact .refl _

/-- A change of a core that leaves registers, windows and owed operations out. -/
theorem Hw.keepsRegs_modCore_of_eq (h : Hw) (c : Nat) {f : Core → Core} (hrf : ∀ k, (f k).rf = k.rf) (hempty : ∀ k, (f k).empty = k.empty)
    (howed : ∀ k, (f k).owed = k.owed) (hslots : ∀ k, (f k).slots = k.slots) : h.KeepsRegs (h.modCore c f) := by
  have hctx (i : Nat) : (f (h.core c)).ctx i = (h.core c).ctx i := by rw [Core.ctx, Core.ctx, hslots]
  exact h.keepsRegs_modCore c ⟨hrf _, hempty _, howed _, fun i => by rw [hctx], fun i _ hp => hctx i ▸ hp⟩

theorem Hw.keepsRegs_setCtx (h : Hw) (c s : Nat) (x : Ctx) (hwbase : x.wbase = (h.ctx c s).wbase) (hpend : x.pend ⊆ (h.ctx c s).pend) :
    h.KeepsRegs (h.setCtx c s x) :=
  h.keepsRegs_modCore c ((h.core c).keepsRegs_setCtx s x hwbase hpend)

theorem Hw.keepsRegs_modCtx (h : Hw) (c s : Nat) (f : Ctx → Ctx) (hwbase : ∀ x, (f x).wbase = x.wbase) (hpend : ∀ x, (f x).pend ⊆ x.pend) :
    h.KeepsRegs (h.modCtx c s f) :=
  h.keepsRegs_setCtx c s _ (hwbase _) (hpend _)

theorem Hw.keepsRegs_modOut (h : Hw) (core txn : Nat) (f : Outst → Outst) : h.KeepsRegs (h.modOut core txn f) :=
  h.keepsRegs_modCore_of_eq core (fun _ => rfl) (fun _ => rfl) (fun _ => rfl) (fun _ => rfl)

/-- Code stores, dies and modules hold no register. -/
theorem Hw.keepsRegs_of_cores {h h' : Hw} (hcores : h'.cores = h.cores) (hnow : h'.now = h.now) (hagenda : h'.agenda = h.agenda) : h.KeepsRegs h' := by
  have hcore (c : Nat) : h'.core c = h.core c := by rw [Hw.core, Hw.core, hcores]
  exact ⟨hnow, hagenda ▸ fun _ he => he, fun c => hcore c ▸ .refl _⟩

end Sys2Proof.Machine
end

section
/-! PROOFS. A source that is not at hand (04_context R85; 15_calendar R316; O60). -/

namespace Sys2Proof.Machine

/-! ### A source that is not at hand (R85) -/

section
variable {s : State} {c : Cur}

/-- The issue time that a hazard wait sets is after the present cycle. -/
theorem lt_hazard_notBefore (now n : Nat) (l : List Pend) :
    now < l.foldl (fun m p => match p with | .fixed r k _ => if r = n then max m k else m | _ => m) (now + 1) := by
  suffices h : ∀ b, b ≤ l.foldl (fun m p => match p with | .fixed r k _ => if r = n then max m k else m | _ => m) b from h (now + 1)
  induction l with
  | nil => exact fun b => Nat.le_refl b
  | cons p r ih =>
    intro b
    refine Nat.le_trans ?_ (ih _)
    simp only
    split
    · split
      · exact Nat.le_max_left _ _
      · exact Nat.le_refl b
    · exact Nat.le_refl b

theorem Ctx.tsBit_setTs (x : Ctx) : (x.setTs tsHAZ true).tsBit tsHAZ = true := by
  have hodd : (x.ts.toNat - bits x.ts.toNat 0 0 * 2 ^ 0 + bit true % 2 ^ 1 * 2 ^ 0) % 2 = 1 := by
    have hbits : bits x.ts.toNat 0 0 = x.ts.toNat % 2 := by simp [bits]
    have hbit : bit true = 1 := rfl
    rw [hbits, hbit]
    omega
  change (BitVec.ofNat 64 (x.ts.toNat - bits x.ts.toNat 0 0 * 2 ^ 0 + bit true % 2 ^ 1 * 2 ^ 0)).getLsbD 0 = true
  rw [BitVec.getLsbD_ofNat, Nat.testBit_zero, hodd]
  rfl

/-- The reply of a TRAP is outstanding for a register (R99). -/
def Ctx.awaitsTrap (x : Ctx) (n : Nat) : Bool := x.pend.any (fun p => match p with | .trap r _ => r == n | _ => false)

theorem State.reads_one_pending {n : Nat} (hp : (s.hw.curCtx c).pending n = true) (k : State) : s.reads c [n] k =
    if (s.hw.curCtx c).booked then s.faultWith c .calendarViolation 1 0
    else if (s.hw.curCtx c).awaitsTrap n then s.onHw (fun h => h.parkChain c (.fullBit n))
    else s.onHw (fun h => h.hazard c n) := by
  have hfind : [n].find? (fun n => (s.hw.curCtx c).pending n) = some n := List.find?_cons_of_pos hp
  simp only [State.reads, hfind]
  rfl

theorem State.reads_one_empty {n : Nat} (hp : (s.hw.curCtx c).pending n = false) (hf : s.hw.isFull c.core c.slot n = false) (k : State) :
    s.reads c [n] k = if (s.hw.curCtx c).booked then s.faultWith c .calendarViolation 1 0 else s.onHw (fun h => h.parkChain c (.fullBit n)) := by
  have hnone : [n].find? (fun n => (s.hw.curCtx c).pending n) = none := by simp [hp]
  have hfind : [n].find? (fun n => !s.hw.isFull c.core c.slot n) = some n := List.find?_cons_of_pos (by simp [hf])
  simp only [State.reads, hnone, hfind]

theorem State.mov_hazard {sw : Bool} {a b : GReg} (hcur : s.hw.cur = some c) (hp : (s.hw.curCtx c).pending b.toNat = true)
    (hbooked : (s.hw.curCtx c).booked = false) (htrap : (s.hw.curCtx c).awaitsTrap b.toNat = false) :
    exec (.mov sw a b) s = .next (s.onHw fun h => h.hazard c b.toNat) := by
  rw [exec_mov, execMov, State.compute, State.withCur_some hcur, regs, List.map_singleton, State.reads_one_pending hp, hbooked, htrap]
  rfl

theorem State.mov_parks {sw : Bool} {a b : GReg} (hcur : s.hw.cur = some c) (hp : (s.hw.curCtx c).pending b.toNat = false)
    (hempty : s.hw.isFull c.core c.slot b.toNat = false) (hbooked : (s.hw.curCtx c).booked = false) :
    exec (.mov sw a b) s = .next (s.onHw fun h => h.parkChain c (.fullBit b.toNat)) := by
  rw [exec_mov, execMov, State.compute, State.withCur_some hcur, regs, List.map_singleton, State.reads_one_empty hp hempty, hbooked]
  rfl

theorem State.mov_booked {sw : Bool} {a b : GReg} (hcur : s.hw.cur = some c)
    (hwait : (s.hw.curCtx c).pending b.toNat = true ∨ s.hw.isFull c.core c.slot b.toNat = false) (hbooked : (s.hw.curCtx c).booked = true) :
    exec (.mov sw a b) s = .next (s.faultWith c .calendarViolation 1 0) := by
  rw [exec_mov, execMov, State.compute, State.withCur_some hcur, regs, List.map_singleton]
  cases hp : (s.hw.curCtx c).pending b.toNat with
  | true =>
    rw [State.reads_one_pending hp, hbooked]
    rfl
  | false =>
    rw [State.reads_one_empty hp (hwait.resolve_left (by simp [hp])), hbooked]
    rfl

/-- The context of a chain that waits for a result of its own (R85). -/
def Ctx.hazardWait (x : Ctx) (at_ : Nat) (on : Option Nat) : Ctx := { x.setTs tsHAZ true with notBefore := at_, hazOn := on }

/-- What a hazard wait leaves (R85): the chain is not issued, and its context waits past the present cycle with TS.HAZ set. -/
theorem Hw.hazard_waits (h : Hw) (c : Cur) (n : Nat) : (h.hazard c n).cur = none ∧ ((h.hazard c n).curCtx c).pc = (h.curCtx c).pc ∧
    ((h.hazard c n).curCtx c).pend = (h.curCtx c).pend ∧ ((h.hazard c n).curCtx c).tsBit tsHAZ = true ∧
    h.now < ((h.hazard c n).curCtx c).notBefore ∧ ((h.hazard c n).core c.core).lastIssue = (h.core c.core).lastIssue := by
  obtain ⟨nb, on, heq, hnb⟩ : ∃ nb on, h.hazard c n =
      { h.modCur c (fun x => x.hazardWait nb on) with cur := none } ∧ h.now < nb :=
    ⟨_, _, rfl, lt_hazard_notBefore _ _ _⟩
  have hctx : (h.hazard c n).curCtx c = (h.curCtx c).hazardWait nb on := by
    rw [heq]
    exact h.curCtx_modCur c (fun x => x.hazardWait nb on)
  have hcore : ((h.hazard c n).core c.core).lastIssue = (h.core c.core).lastIssue := by
    rw [heq, Hw.core_set_cur, Hw.modCur, Hw.core_modCtx]
    rfl
  rw [hctx, hcore, heq]
  exact ⟨rfl, rfl, rfl, (h.curCtx c).tsBit_setTs, hnb, rfl⟩

/-- What a park leaves (R84): the PC stays at the chain. -/
theorem Hw.parkChain_waits (h : Hw) (c : Cur) (why : Park) : ((h.parkChain c why).curCtx c).st = .parked ∧
    ((h.parkChain c why).curCtx c).park = some why ∧ ((h.parkChain c why).curCtx c).pc = c.pc ∧
    ((h.parkChain c why).curCtx c).pend = (h.curCtx c).pend := by
  have hissued : ((h.issued c).curCtx c).pend = (h.curCtx c).pend := by
    rw [Hw.curCtx, Hw.ctx, Hw.core_issued, Core.ctx_issued]
    rfl
  rw [Hw.parkChain, Hw.curCtx_modCur]
  exact ⟨rfl, rfl, rfl, hissued⟩

end

end Sys2Proof.Machine
end

section
/-! PROOFS. A result of fixed latency lands as its cycle begins (05_scalar R107; O60). -/

namespace Sys2Proof.Machine

/-! ### A result that lands (R107) -/

theorem Core.ctx_putG (k : Core) (x : Ctx) (n : Nat) (v : Word) (j : Nat) : (k.putG x n v).ctx j = k.ctx j := by
  unfold Core.putG
  split <;> rfl

theorem Core.ctx_land (k : Core) (s n : Nat) (v : Word) (j : Nat) : (k.land s n v).ctx j = k.ctx j := by
  rw [Core.land, Core.ctx_putFull, Core.ctx_putG]

theorem Core.g_land (k : Core) {s n : Nat} (v : Word) (hn : n ≠ 0) {x : Ctx} (hx : x.wbase = (k.ctx s).wbase) : (k.land s n v).g x n = v := by
  obtain ⟨empty, hput⟩ := (k.putG (k.ctx s) n v).putFull_eq (k.ctx s) n true
  rw [Core.land, hput]
  exact (Core.g_congr _ _ _ _ n rfl hx).trans (k.g_putG _ n v hn)

theorem Core.fullBit_land (k : Core) {s n : Nat} (v : Word) (hn : n ≠ 0) {x : Ctx} (hx : x.wbase = (k.ctx s).wbase) :
    (k.land s n v).fullBit x n = true :=
  (Core.fullBit_congr _ _ _ _ n rfl hx).trans (Core.fullBit_putFull _ _ n true hn)

/-- A result of fixed latency that is due is written, its register is full, and it is outstanding no longer. -/
theorem Core.landSlot_lands (k : Core) {now slot r cyc : Nat} {v : Word} (hpend : (k.ctx slot).pend = [.fixed r cyc v]) (hdue : cyc ≤ now)
    (hmask : (k.ctx slot).maskPend = []) (hlate : (k.ctx slot).late = []) (hr : r ≠ 0) :
    (k.landSlot now slot).g ((k.landSlot now slot).ctx slot) r = v ∧
    (k.landSlot now slot).fullBit ((k.landSlot now slot).ctx slot) r = true ∧ ((k.landSlot now slot).ctx slot).pend = [] := by
  have hnot : (k.ctx slot).pend.filter (fun p => !p.dueBy now) = [] := by simp [hpend, Pend.dueBy, hdue]
  have hdues : (k.ctx slot).pend.filter (Pend.dueBy now) = [.fixed r cyc v] := by simp [hpend, Pend.dueBy, hdue]
  simp only [Core.landSlot, hnot, hdues, hmask, hlate, List.filter_nil, List.foldl_nil, List.foldl_cons, Core.landPend, Core.ctx_setCtx]
  generalize hk : k.setCtx slot _ = k1
  have hwbase : (k.ctx slot).wbase = (k1.ctx slot).wbase := by rw [← hk, Core.ctx_setCtx]
  exact ⟨(Core.g_congr _ _ _ _ _ rfl rfl).trans (k1.g_land v hr hwbase), (Core.fullBit_congr _ _ _ _ _ rfl rfl).trans (k1.fullBit_land v hr hwbase), trivial⟩

/-! ### The slots that become Free, and the units that look for work, keep the registers -/

theorem Hw.keepsRegs_modEntry (h : Hw) (clu e : Nat) (f : DEntry → DEntry) : h.KeepsRegs (h.modEntry clu e f) := Hw.keepsRegs_of_cores rfl rfl rfl

theorem Hw.keepsRegs_codeRetry (h : Hw) (clu : Nat) : h.KeepsRegs (h.codeRetry clu) := by
  unfold Hw.codeRetry
  simp only
  split
  · exact h.keepsRegs_after _ _ _
  · exact .refl h

theorem Hw.keepsRegs_runDec (h : Hw) (clu e : Nat) : h.KeepsRegs (h.runDec clu e) := by
  unfold Hw.runDec
  simp only
  split
  · exact .refl h
  · split
    · exact (h.keepsRegs_modEntry clu e _).trans (Hw.keepsRegs_codeRetry _ clu)
    · exact h.keepsRegs_modEntry clu e _

theorem Hw.keepsRegs_setGrant (h : Hw) (core i : Nat) (g : GrantSet) : h.KeepsRegs (h.setGrant core i g) :=
  h.keepsRegs_modCore_of_eq core (fun _ => rfl) (fun _ => rfl) (fun _ => rfl) (fun _ => rfl)

theorem Hw.keepsRegs_grantGive (h : Hw) (core i : Nat) : h.KeepsRegs (h.grantGive core i) := by
  unfold Hw.grantGive
  simp only
  split
  · exact h.keepsRegs_setGrant _ _ _
  · exact h.keepsRegs_setGrant _ _ _

theorem Hw.keepsRegs_departs (h : Hw) (core slot : Nat) : h.KeepsRegs (h.departs core slot) := by
  unfold Hw.departs
  split
  · exact h.keepsRegs_schedule _ _ _
  · exact .refl h

/-- The context of a slot that becomes Free (R86). -/
def Ctx.freed (x : Ctx) : Ctx := { Ctx.free with freeAt := x.freeAt, wbase := x.wbase, wsize := x.wsize }

/-- A slot that becomes Free keeps its window and what its registers hold (R86, R97). -/
theorem Hw.keepsRegs_freeSlot (h : Hw) (core slot : Nat) : h.KeepsRegs (h.freeSlot core slot) := by
  have hrun : h.KeepsRegs (if (h.ctx core slot).begun then h.runDec (clusterOf core) (h.ctx core slot).entry else h) := by
    split
    · exact h.keepsRegs_runDec _ _
    · exact .refl h
  unfold Hw.freeSlot
  simp only
  generalize (if (h.ctx core slot).begun then h.runDec (clusterOf core) (h.ctx core slot).entry else h) = h1 at hrun ⊢
  have hgrant : h1.KeepsRegs (if (h.ctx core slot).noGrant then h1 else h1.grantGive core (h.ctx core slot).gset.toNat) := by
    split
    · exact .refl h1
    · exact h1.keepsRegs_grantGive _ _
  have h3 := (hrun.trans hgrant).trans (Hw.keepsRegs_departs _ core slot)
  generalize Hw.departs _ core slot = h2 at h3 ⊢
  refine h3.trans (h2.keepsRegs_modCore core ?_)
  have hset := (h2.core core).keepsRegs_setCtx slot (h.ctx core slot).freed ((h3.core core).wbase slot).symm (List.nil_subset _)
  exact ⟨hset.rf, hset.empty, hset.owed, hset.wbase, hset.pend⟩

/-- The slots of one core that are Free from this cycle. -/
def Hw.freeSlotsOf (h : Hw) (e : Nat × Core) : Hw :=
  (e.2.slots.filter (fun (y : Nat × Ctx) => !y.2.st.taken && y.2.st != .free && decide (y.2.freeAt ≤ h.now))).foldl (fun h y => h.freeSlot e.1 y.1) h

theorem Hw.freeSlots_eq (h : Hw) : h.freeSlots = h.cores.foldl Hw.freeSlotsOf h := rfl

theorem Hw.keepsRegs_freeSlotsOf (h : Hw) (e : Nat × Core) : h.KeepsRegs (h.freeSlotsOf e) :=
  Hw.KeepsRegs.foldl (fun h (y : Nat × Ctx) => h.keepsRegs_freeSlot e.1 y.1) _ h

theorem Hw.keepsRegs_freeSlots (h : Hw) : h.KeepsRegs h.freeSlots := by
  rw [Hw.freeSlots_eq]
  exact Hw.KeepsRegs.foldl Hw.keepsRegs_freeSlotsOf _ h

theorem State.enginePoll_keepsRegs (s : State) (core : Nat) : (s.enginePoll core).mem = s.mem ∧ s.hw.KeepsRegs (s.enginePoll core).hw := by
  have hlist (l : List Nat) : s.hw.KeepsRegs (s.hw.modCore core (fun k => { k with restores := l })) :=
    s.hw.keepsRegs_modCore_of_eq core (fun _ => rfl) (fun _ => rfl) (fun _ => rfl) (fun _ => rfl)
  unfold State.enginePoll
  simp only
  split
  · exact ⟨rfl, .refl _⟩
  · split
    · exact ⟨rfl, hlist _⟩
    · split
      · exact ⟨rfl, (hlist _).trans (Hw.keepsRegs_schedule _ _ _ _)⟩
      · exact ⟨rfl, hlist _⟩

theorem State.pollCore_keepsRegs (s : State) (core : Nat) : (s.pollCore core).mem = s.mem ∧ s.hw.KeepsRegs (s.pollCore core).hw := by
  have hpoll : (if (s.hw.core core).spillWork then s.enginePoll core else s).mem = s.mem ∧
      s.hw.KeepsRegs (if (s.hw.core core).spillWork then s.enginePoll core else s).hw := by
    split
    · exact s.enginePoll_keepsRegs core
    · exact ⟨rfl, .refl _⟩
  unfold State.pollCore
  simp only
  generalize (if (s.hw.core core).spillWork then s.enginePoll core else s) = s1 at hpoll ⊢
  obtain ⟨hmem, hkeeps⟩ := hpoll
  split
  · exact ⟨hmem, hkeeps.trans (Hw.keepsRegs_schedule _ _ _ _)⟩
  · exact ⟨hmem, hkeeps⟩

theorem State.pollCores_keepsRegs (l : List Nat) (s : State) : (l.foldl State.pollCore s).mem = s.mem ∧
    s.hw.KeepsRegs (l.foldl State.pollCore s).hw := by
  induction l generalizing s with
  | nil => exact ⟨rfl, .refl _⟩
  | cons core l ih =>
    obtain ⟨hmem, hkeeps⟩ := s.pollCore_keepsRegs core
    obtain ⟨hmem', hkeeps'⟩ := ih (s.pollCore core)
    exact ⟨hmem'.trans hmem, hkeeps.trans hkeeps'⟩

/-! ### A cycle of a machine with one context (R107, R213) -/

/-- The age of the one context of the one core. -/
theorem Hw.age_one {h : Hw} {core slot : Nat} {k : Core} {x : Ctx} (hcores : h.cores = [(core, k)]) (hslots : k.slots = [(slot, x)]) :
    ∃ n agenda, h.age = { h with cores := [(core, { k with slots := [(slot, { x with w := n })] })], agenda := agenda } := by
  have same : ∃ n agenda, h = { h with cores := [(core, { k with slots := [(slot, { x with w := n })] })], agenda := agenda } :=
    ⟨x.w, h.agenda, by rw [← hslots, ← hcores]⟩
  have hcore : h.core core = k := by simp [Hw.core, hcores, SMap.get, SMap.find?]
  have hctx : h.ctx core slot = x := by rw [Hw.ctx, hcore, Core.ctx, hslots]; simp [SMap.get, SMap.find?]
  have hmod : h.modCtx core slot (fun x => { x with w := x.w + 1 }) = { h with cores := [(core, { k with slots := [(slot, { x with w := x.w + 1 })] })] } := by
    simp [Hw.modCtx, Hw.setCtx, Hw.modCore, Hw.setCore, hcore, hctx, hcores, Core.setCtx, hslots, SMap.set]
  simp only [Hw.age, hcores, List.foldl_cons, List.foldl_nil, hslots]
  split
  · exact same
  · split
    · split
      · exact ⟨_, _, by rw [hmod]; rfl⟩
      · exact ⟨_, _, hmod⟩
    · exact same

theorem Hw.bookTick_idle {h : Hw} (hends : h.bookEnds = []) : h.bookTick = h := by
  simp only [Hw.bookTick, hends, List.foldl_nil, List.filter_nil, List.map_nil]
  exact congrArg (fun l => { h with bookEnds := l }) hends.symm

theorem Hw.core_landAll_one {h : Hw} {core slot : Nat} {k : Core} {x : Ctx} (hcores : h.cores = [(core, k)]) (hslots : k.slots = [(slot, x)]) :
    h.landAll.core core = k.landSlot h.now slot := by
  simp [Hw.core, Hw.landAll, hcores, SMap.get, SMap.find?, Core.land1, Core.slotNums, hslots]

/-- A result that is due as the cycle begins is in its register before anything else looks at it. -/
theorem Hw.landAll_lands {h : Hw} {core slot r cyc : Nat} {k : Core} {x : Ctx} {v : Word} (hcores : h.cores = [(core, k)])
    (hslots : k.slots = [(slot, x)]) (hpend : x.pend = [.fixed r cyc v]) (hdue : cyc ≤ h.now) (hr : r ≠ 0) (hmask : x.maskPend = [])
    (hlate : x.late = []) : h.landAll.g core slot r = v ∧ h.landAll.isFull core slot r = true ∧ (h.landAll.ctx core slot).pend = [] := by
  have hctx : k.ctx slot = x := by simp [Core.ctx, hslots, SMap.get, SMap.find?]
  rw [Hw.g, Hw.isFull, Hw.ctx, Hw.core_landAll_one hcores hslots]
  exact k.landSlot_lands (hctx ▸ hpend) hdue (hctx ▸ hmask) (hctx ▸ hlate) hr

/-- The part as its next cycle begins, before the results of that cycle land. -/
def Hw.nextCycle (h : Hw) : Hw := { h.age.bookTick with now := h.age.bookTick.now + 1 }

/-- After the results of its cycle have landed, the machine keeps the registers until a chain is issued. -/
theorem State.tick_keeps (s : State) : s.tick.mem = s.mem ∧ s.hw.nextCycle.landAll.KeepsRegs s.tick.hw := by
  obtain ⟨hmem, hkeeps⟩ := State.pollCores_keepsRegs (s.hw.nextCycle.landAll.freeSlots.cores.map (fun (e : Nat × Core) => e.1))
    { s with hw := s.hw.nextCycle.landAll.freeSlots }
  exact ⟨hmem, (Hw.keepsRegs_freeSlots _).trans hkeeps⟩

/-- A cycle in which the one context's one result falls due. -/
theorem State.tick_lands {s : State} {core slot r : Nat} {k : Core} {x : Ctx} {v : Word} (hcores : s.hw.cores = [(core, k)])
    (hslots : k.slots = [(slot, x)]) (hpend : x.pend = [.fixed r (s.hw.now + 1) v]) (hr : 0 < r) (hmask : x.maskPend = []) (hlate : x.late = [])
    (hends : s.hw.bookEnds = []) : s.tick.mem = s.mem ∧ s.tick.hw.now = s.hw.now + 1 ∧ s.tick.hw.g core slot r = v ∧
      s.tick.hw.isFull core slot r = true ∧ (s.tick.hw.ctx core slot).pend = [] := by
  obtain ⟨n, agenda, hage⟩ := Hw.age_one hcores hslots
  have hidle : s.hw.age.bookTick = s.hw.age := Hw.bookTick_idle (by rw [hage]; exact hends)
  have hnext : s.hw.nextCycle = { s.hw with
      cores := [(core, { k with slots := [(slot, { x with w := n })] })], agenda := agenda, now := s.hw.now + 1 } := by
    rw [Hw.nextCycle, hidle, hage]
  obtain ⟨hmem, hkeeps⟩ := s.tick_keeps
  obtain ⟨hg, hfull, hnone⟩ := Hw.landAll_lands (h := s.hw.nextCycle) (x := { x with w := n }) (by rw [hnext]) rfl hpend (by rw [hnext])
    (Nat.pos_iff_ne_zero.mp hr) hmask hlate
  exact ⟨hmem, hkeeps.now.trans (by rw [hnext]; rfl), (hkeeps.g _ _ _).trans hg, (hkeeps.isFull _ _ _).trans hfull, hkeeps.pend_nil hnone⟩

/-- A step in which nothing is due and no core issues a chain is the passing of a cycle. -/
theorem step_eq_tick {s : State} {core : Nat} {k : Core} (hcores : s.hw.cores = [(core, k)]) (hrun : s.hw.stopped = false)
    (hagenda : ∀ d ∈ s.hw.agenda, s.hw.now < d.at_) (hinputs : ∀ d ∈ s.hw.inputs, s.hw.now < d.at_) (hdeferred : s.hw.deferredNow = none)
    (hissue : s.issueFirst [core] = none) : step s = .next s.tick := by
  have hissue' : s.issueFirst (s.hw.cores.map (fun (e : Nat × Core) => e.1)) = none := by rw [hcores]; exact hissue
  simp only [step, State.next, hrun, State.running, firstDue_of_later hagenda, inputDue_of_later hinputs, hdeferred, hissue']
  rfl

/-- Settles O60: MOV by the wait that a source not at hand makes, and the cycle by what keeps a register once its result has landed. -/
theorem operandsWait : Obligations.OperandsWait := by
  unfold Obligations.OperandsWait
  intro s c sw a b core slot r v k x
  refine ⟨fun hcur => ⟨fun hp hbooked htrap => ?_, fun hp hempty hbooked => ?_, fun hwait hbooked => State.mov_booked hcur hwait hbooked⟩,
    fun hcores hslots hpend hr hmask hlate hends hrun hagenda hinputs hdeferred hissue => ?_⟩
  · exact ⟨_, State.mov_hazard hcur hp hbooked htrap, rfl, s.hw.hazard_waits c b.toNat⟩
  · exact ⟨_, State.mov_parks hcur hp hempty hbooked, rfl, s.hw.parkChain_waits c _⟩
  · exact ⟨_, step_eq_tick hcores hrun hagenda hinputs hdeferred hissue, State.tick_lands hcores hslots hpend hr hmask hlate hends⟩

end Sys2Proof.Machine
end

section
/-! PROOFS. An owed result that is paid, and what the port then does (04_context R88, R89, R99; 06_memory R144, R145; for O20, O22, O37). -/

namespace Sys2Proof.Machine

theorem Hw.KeepsRegs.schedule {h h' : Hw} (n : Nat) (i : Instr) (a : Arg) (hk : h.KeepsRegs h') : h.KeepsRegs (h'.schedule n i a) :=
  hk.trans (h'.keepsRegs_schedule n i a)

/-! ### What an operation that is performed leaves alone (R144, R187, R236, R460) -/

theorem Hw.keepsRegs_signFill (h : Hw) (core slot uid txn : Nat) (bs : List Byte) : h.KeepsRegs (h.signFill core slot uid txn bs) := by
  refine h.keepsRegs_modCore core ?_
  simp only
  split
  · have hset (task : TaskInfo) : (h.core core).KeepsRegs ((h.core core).setCtx slot { (h.core core).ctx slot with task := task }) :=
      Core.keepsRegs_setCtx _ _ _ rfl fun _ hp => hp
    exact ⟨rfl, rfl, rfl, (hset _).wbase, (hset _).pend⟩
  · exact ⟨rfl, rfl, rfl, fun _ => rfl, fun _ _ hp => hp⟩

theorem Hw.keepsRegs_copyKick (h : Hw) (core : Nat) : h.KeepsRegs (h.copyKick core) := by
  unfold Hw.copyKick
  simp only
  split
  · split
    · exact .schedule _ _ _ (h.keepsRegs_modCore_of_eq core (fun _ => rfl) (fun _ => rfl) (fun _ => rfl) (fun _ => rfl))
    · exact .refl h
  · exact .refl h

theorem Hw.keepsRegs_kickPath (h : Hw) (core : Nat) (array : Bool) : h.KeepsRegs (h.kickPath core array) := by
  unfold Hw.kickPath
  simp only
  split
  · split
    · refine .schedule _ _ _ (h.keepsRegs_modCore core ?_)
      split <;> exact ⟨rfl, rfl, rfl, fun _ => rfl, fun _ _ hp => hp⟩
    · exact .refl h
  · exact .refl h

theorem Hw.keepsRegs_matKick (h : Hw) (core : Nat) : h.KeepsRegs (h.matKick core) :=
  (h.keepsRegs_kickPath core true).trans (Hw.keepsRegs_kickPath _ core false)

theorem Hw.keepsRegs_transmit (h : Hw) (m : Msg) : h.KeepsRegs (h.transmit m) := by
  unfold Hw.transmit
  simp only
  split <;> exact h.keepsRegs_after _ _ _

theorem Hw.keepsRegs_sendKick (h : Hw) (core : Nat) : h.KeepsRegs (h.sendKick core) := by
  unfold Hw.sendKick
  simp only
  split
  · exact .refl h
  · refine Hw.KeepsRegs.trans ?_ (Hw.KeepsRegs.foldl (fun h t => ?_) _ _)
    · exact h.keepsRegs_modCore_of_eq core (fun _ => rfl) (fun _ => rfl) (fun _ => rfl) (fun _ => rfl)
    have later (h1 : Hw) (hk : h.KeepsRegs h1) : h.KeepsRegs (match t.later with | some (d, i, a) => h1.after d i a | none => h1) := by
      split
      · exact hk.trans (h1.keepsRegs_after _ _ _)
      · exact hk
    cases t.msg with
    | none => exact later h (.refl h)
    | some m => exact later _ (h.keepsRegs_transmit m)

theorem Hw.keepsRegs_checkRetire (h : Hw) (core uid : Nat) : h.KeepsRegs (h.checkRetire core uid) := by
  unfold Hw.checkRetire
  simp only
  split
  · exact .refl h
  · split
    · exact .refl h
    · exact .schedule _ _ _ (h.keepsRegs_modCore_of_eq core (fun _ => rfl) (fun _ => rfl) (fun _ => rfl) (fun _ => rfl))

/-- A context of which an operation is no longer outstanding. -/
def Ctx.without (x : Ctx) (txn : Nat) : Ctx :=
  { x with
    fence := x.fence.map (fun f => { f with set := f.set.filter (fun t => t != txn) }),
    region := x.region.map (fun r => { r with ops := r.ops.filter (fun t => t != txn) }), limWait := false,
    quiet := x.quiet.filter (fun t => t != txn) }

theorem Hw.keepsRegs_opDone (h : Hw) (core slot uid txn : Nat) : h.KeepsRegs (h.opDone core slot uid txn) := by
  unfold Hw.opDone
  simp only
  refine (h.keepsRegs_signFill core slot uid txn []).trans ?_
  generalize h.signFill core slot uid txn [] = h1
  refine Hw.KeepsRegs.trans ?_ (Hw.keepsRegs_checkRetire _ core uid)
  refine Hw.KeepsRegs.trans ?_ (Hw.keepsRegs_sendKick _ core)
  refine Hw.KeepsRegs.trans ?_ (Hw.keepsRegs_matKick _ core)
  refine Hw.KeepsRegs.trans ?_ (Hw.keepsRegs_copyKick _ core)
  refine Hw.KeepsRegs.trans ?_ (Hw.keepsRegs_modCore_of_eq _ core (fun _ => rfl) (fun _ => rfl) (fun _ => rfl) (fun _ => rfl))
  split
  · have hset : h1.KeepsRegs (h1.setCtx core slot ((h1.ctx core slot).without txn)) := h1.keepsRegs_setCtx core slot _ rfl fun _ hp => hp
    split
    · split
      · refine .schedule _ _ _ ?_
        split
        · split
          · exact .schedule _ _ _ hset
          · exact hset
        · exact hset
      · split
        · split
          · exact .schedule _ _ _ hset
          · exact hset
        · exact hset
    · split
      · split
        · exact .schedule _ _ _ hset
        · exact hset
      · exact hset
  · exact .refl h1

/-! ### What a wake leaves alone (R83, R85) -/

theorem Hw.keepsRegs_wakeAt (h : Hw) (c s cyc : Nat) : h.KeepsRegs (h.wakeAt c s cyc) := by
  refine h.keepsRegs_modCtx c s _ (fun x => ?_) fun x => ?_
  · split <;> rfl
  · split <;> exact fun _ hp => hp

theorem Hw.keepsRegs_fullWake (h : Hw) (c s n : Nat) : h.KeepsRegs (h.fullWake c s n) := by
  have hwake : h.KeepsRegs (if (h.ctx c s).park = some (.fullBit n) then h.wakeAt c s h.now else h) := by
    split
    · exact h.keepsRegs_wakeAt c s h.now
    · exact .refl h
  unfold Hw.fullWake
  simp only
  generalize (if (h.ctx c s).park = some (.fullBit n) then h.wakeAt c s h.now else h) = h1 at hwake ⊢
  split
  · exact hwake.trans (h1.keepsRegs_modCtx c s _ (fun _ => rfl) fun _ _ hp => hp)
  · exact hwake

/-! ### What a port that looks for work leaves alone (R145) -/

theorem State.send_keepsRegs (s : State) (o : Outst) : s.hw.KeepsRegs (s.send o).hw := by
  have sent (h : Hw) (a : Acc) : h.KeepsRegs (h.sentOff a) := h.keepsRegs_modOut _ _ _
  unfold State.send
  simp only
  split
  · exact (sent _ { o.acc with pieces := piecesOf o.acc.addr o.acc.size }).trans (Hw.binds_toBank _ _ _).keepsRegs
  · obtain ⟨dies, clusters, htr⟩ := s.hw.translate_eq o.acc.core o.acc.tenant o.acc.svc (AccOp.need o.acc.op) (Acc.brings o.acc)
      (piecesOf o.acc.addr o.acc.size) [] 0
    generalize s.hw.translate o.acc.core o.acc.tenant o.acc.svc (AccOp.need o.acc.op) (Acc.brings o.acc)
      (piecesOf o.acc.addr o.acc.size) [] 0 = r at htr
    obtain ⟨x, h⟩ := r
    have htlb : s.hw.KeepsRegs h := by
      subst htr
      exact Hw.keepsRegs_of_cores rfl rfl rfl
    refine htlb.trans ?_
    cases x with
    | refused sub va => exact (sent h o.acc).trans (Hw.keepsRegs_after _ _ _ _)
    | miss va => exact (sent h o.acc).trans (Hw.keepsRegs_after _ _ _ _)
    | ok ps cyc =>
      have hpieces := h.keepsRegs_modOut o.acc.core o.acc.txn (fun u => { u with acc := { o.acc with pieces := ps } })
      simp only
      split
      · exact hpieces
      · exact (hpieces.trans (sent _ { o.acc with pieces := ps })).trans (Hw.binds_toBank _ _ _).keepsRegs

theorem State.pump_keepsRegs (s : State) (core : Nat) : s.hw.KeepsRegs (s.pump core).hw := by
  unfold State.pump
  generalize (s.hw.core core).out.filter (fun o => !o.sent) = l
  induction l generalizing s with
  | nil => exact .refl _
  | cons w r ih =>
    rw [List.foldl_cons]
    refine Hw.KeepsRegs.trans ?_ (ih _)
    split
    · exact .refl _
    · split
      · exact .refl _
      · exact s.send_keepsRegs _

/-! ### A result that arrives by itself (R88, R99, R144) -/

theorem Core.land_eq (k : Core) (s n : Nat) (v : Word) : ∃ rf empty, k.land s n v = { k with rf := rf, empty := empty } := by
  obtain ⟨empty, hput⟩ := (k.putG (k.ctx s) n v).putFull_eq (k.ctx s) n true
  rw [Core.land, hput]
  unfold Core.putG
  split <;> exact ⟨_, _, rfl⟩

theorem Hw.landG_lands (h : Hw) (c s txn : Nat) {n : Nat} (v : Word) (hn : n ≠ 0) : (h.landG c s n txn v).g c s n = v ∧
    (h.landG c s n txn v).isFull c s n = true ∧ ((h.landG c s n txn v).core c).owed = (h.core c).owed := by
  rw [Hw.g, Hw.isFull, Hw.ctx, Hw.landG, Hw.core_modCore]
  refine ⟨(Core.g_congr _ _ _ _ n rfl rfl).trans ((h.core c).g_land v hn ?_),
    (Core.fullBit_congr _ _ _ _ n rfl rfl).trans ((h.core c).fullBit_land v hn ?_), ?_⟩
  · rw [Core.ctx_setCtx]
  · rw [Core.ctx_setCtx]
  · obtain ⟨rf, empty, hland⟩ := (h.core c).land_eq s n v
    rw [hland]
    rfl

/-- The result of a context that is Ready or Parked is written into its register, and wakes who waits for it. -/
theorem State.deliver_eq {s : State} {core slot n txn : Nat} (v : Word) (hn : 0 < n)
    (hpend : (s.hw.ctx core slot).pend.any (fun p => p.ofTxn n txn) = true)
    (hst : (s.hw.ctx core slot).st = .ready ∨ (s.hw.ctx core slot).st = .parked) :
    s.deliver core slot n txn v = s.onHw (fun h => (h.landG core slot n txn v).fullWake core slot n) := by
  have hnot (st : CtxState) (h1 : st ≠ .ready) (h2 : st ≠ .parked) : (s.hw.ctx core slot).st ≠ st := by
    rintro rfl
    exact hst.elim h1 h2
  simp [State.deliver, hpend, Nat.pos_iff_ne_zero.mp hn, hnot .spilled, hnot .faulted]
  rfl

/-- A transaction is owed no longer. -/
def Hw.owedNot (h : Hw) (core txn : Nat) : Hw := h.modCore core (fun k => { k with owed := k.owed.filter (fun e => e.txn != txn) })

section
variable {s : State} {core txn : Nat} {o : Owed} (v : Word) (hfind : (s.hw.core core).owed.find? (fun r => r.txn == txn) = some o)
  (hhand : o.hand = none) (hreg : 0 < o.reg) (halive : s.hw.alive core o.slot o.uid = true)
  (hst : (s.hw.ctx core o.slot).st = .ready ∨ (s.hw.ctx core o.slot).st = .parked)
  (hpend : (s.hw.ctx core o.slot).pend.any (fun p => p.ofTxn o.reg txn) = true)
include hfind hhand hreg halive hst hpend

/-- The value is delivered, and the operation is performed. -/
theorem State.payOwed_eq : s.payOwed core txn v =
    ((s.onHw (fun h => ((h.owedNot core txn).landG core o.slot o.reg txn v).fullWake core o.slot o.reg)).onHw
      (fun h => h.opDone core o.slot o.uid txn)).pump core := by
  have hctx : (s.hw.owedNot core txn).ctx core o.slot = s.hw.ctx core o.slot := by
    rw [Hw.ctx, Hw.owedNot, Hw.core_modCore]
    rfl
  have halive' : (s.hw.owedNot core txn).alive core o.slot o.uid = true := by rwa [Hw.alive, hctx]
  have hdeliver := State.deliver_eq (s := s.onHw (fun h => h.owedNot core txn)) v hreg (by rwa [State.onHw_hw, hctx]) (by rwa [State.onHw_hw, hctx])
  unfold Hw.owedNot at halive' hdeliver
  simp only [State.payOwed, hfind, hhand, State.onHw_hw, halive', if_true, hdeliver]
  rfl

/-- What is owed for a register is paid: the value is in the register, which is full, and the operation is owed no longer. -/
theorem State.payOwed_pays : (s.payOwed core txn v).mem = s.mem ∧ (s.payOwed core txn v).hw.g core o.slot o.reg = v ∧
    (s.payOwed core txn v).hw.isFull core o.slot o.reg = true ∧ ∀ q ∈ ((s.payOwed core txn v).hw.core core).owed, q.txn ≠ txn := by
  have hcore : (s.hw.owedNot core txn).core core = { s.hw.core core with owed := (s.hw.core core).owed.filter (fun e => e.txn != txn) } :=
    Hw.core_modCore _ _ _
  rw [State.payOwed_eq v hfind hhand hreg halive hst hpend]
  generalize hh : s.hw.owedNot core txn = h1 at hcore
  obtain ⟨hg, hfull, howed⟩ := h1.landG_lands core o.slot txn v (Nat.pos_iff_ne_zero.mp hreg)
  simp only [State.onHw, hh]
  have hkeeps := (Hw.keepsRegs_fullWake (h1.landG core o.slot o.reg txn v) core o.slot o.reg).trans (Hw.keepsRegs_opDone _ core o.slot o.uid txn)
  generalize Hw.opDone _ core o.slot o.uid txn = h2 at hkeeps ⊢
  obtain ⟨hmem, -⟩ := State.pump_frame { s with hw := h2 } core
  have hpumped := hkeeps.trans (State.pump_keepsRegs { s with hw := h2 } core)
  refine ⟨hmem, (hpumped.g _ _ _).trans hg, (hpumped.isFull _ _ _).trans hfull, fun q hq => ?_⟩
  rw [(hpumped.core core).owed, howed, hcore, List.mem_filter] at hq
  simpa using hq.2

end

end Sys2Proof.Machine
end

section
/-! PROOFS. The end of a chain keeps every register, and a result that it is owed is outstanding (04_context R88; 05_scalar R108; for O20, O21, O22). -/

namespace Sys2Proof.Machine

/-! ### The end of a chain (R108) -/

theorem Core.keepsRegs_retired (k : Core) (c : Cur) (now : Nat) (sw : Bool) (d : Nat) : k.KeepsRegs (k.retired c now sw d) := by
  have seen (x : Ctx) : (x.yieldSeen c.slot now).wbase = x.wbase ∧ (x.yieldSeen c.slot now).pend = x.pend := by
    unfold Ctx.yieldSeen
    split
    · exact ⟨rfl, rfl⟩
    · simp only
      split <;> exact ⟨rfl, rfl⟩
  have hctx (i : Nat) : ((k.retired c now sw d).ctx i).wbase = (k.ctx i).wbase ∧ ((k.retired c now sw d).ctx i).pend = (k.ctx i).pend := by
    by_cases hi : i = c.slot
    · obtain ⟨pc, lp, nb, xstep, role, w, heq, -⟩ := k.ctx_retired c now sw d
      rw [hi, heq]
      exact ⟨rfl, rfl⟩
    · obtain heq | heq := k.ctx_retired_ne c now sw d i hi
      · rw [heq]
        exact ⟨rfl, rfl⟩
      · rw [heq]
        exact seen _
  exact ⟨rfl, rfl, rfl, fun i => (hctx i).1, fun i => (hctx i).2 ▸ fun _ hp => hp⟩

theorem Hw.keepsRegs_retire (h : Hw) (c : Cur) (sw : Bool) (d : Nat) : h.KeepsRegs (h.retire c sw d) := by
  refine ⟨rfl, fun _ he => he, fun e => ?_⟩
  by_cases he : c.core = e
  · subst he
    rw [Hw.core_retire]
    exact Core.keepsRegs_retired _ _ _ _ _
  · rw [Hw.core_retire_ne _ _ _ _ _ he]
    exact .refl _

/-- What the chain's own context waits for stays outstanding as the chain ends. -/
theorem Hw.pend_retire (h : Hw) (c : Cur) (sw : Bool) (d : Nat) : ((h.retire c sw d).curCtx c).pend = (h.curCtx c).pend := by
  obtain ⟨pc, lp, nb, xstep, role, w, heq⟩ := h.curCtx_retire c sw d
  rw [heq]

/-! ### A result that a chain's context is owed (R88) -/

theorem Hw.owe_eq (h : Hw) (c : Cur) (txn reg target : Nat) (k : Cls) : ∃ cores, h.owe c txn reg target k = { h with cores := cores } := by
  unfold Hw.owe Hw.awaitG
  split <;> exact ⟨_, rfl⟩

theorem Core.ctx_of_slots {k k' : Core} (h : k'.slots = k.slots) (s : Nat) : k'.ctx s = k.ctx s := by rw [Core.ctx, Core.ctx, h]

theorem Hw.owe_awaits (h : Hw) (c : Cur) (txn target : Nat) (k : Cls) {reg : Nat} (hreg : reg ≠ 0) :
    (h.owe c txn reg target k).isFull c.core c.slot reg = false ∧ ((h.owe c txn reg target k).curCtx c).pending reg = true := by
  have hctx : (h.owe c txn reg target k).curCtx c =
    { h.curCtx c with
        pend := (h.curCtx c).pend ++ [.async reg txn],
        region := (h.curCtx c).region.map (fun r => if target = c.core then { r with own := r.own ++ [txn] } else { r with ops := r.ops ++ [txn] }) } := by
    rw [Hw.curCtx, Hw.ctx, Hw.owe, Hw.core_modCore]
    refine (Core.ctx_of_slots rfl c.slot).trans ?_
    change (Hw.modCur _ c _).curCtx c = _
    rw [Hw.curCtx_modCur, Hw.curCtx, Hw.ctx, Hw.awaitG, if_neg hreg, Hw.core_modSlot, Core.ctx_setCtx]
    rfl
  have hempty : ((h.owe c txn reg target k).core c.core).empty = ((h.core c.core).putFull (h.curCtx c) reg false).empty := by
    rw [Hw.owe, Hw.core_modCore]
    simp only [Hw.modCur, Hw.core_modCtx, Hw.awaitG, if_neg hreg, Hw.core_modSlot]
    rfl
  have hwbase : ((h.owe c txn reg target k).curCtx c).wbase = (h.curCtx c).wbase := by rw [hctx]
  refine ⟨?_, ?_⟩
  · exact (Core.fullBit_congr _ _ _ _ reg hempty hwbase).trans (Core.fullBit_putFull (h.core c.core) (h.curCtx c) reg false hreg)
  · rw [hctx]
    simp [Ctx.pending, hreg, Pend.reg]

end Sys2Proof.Machine
end

section
/-! PROOFS. Register messages (04_context R87 to R92, R95; O20). -/

namespace Sys2Proof.Machine

/-! ### SEND (R87, R88) -/

/-- A message whose route holds is at its target in the middle of its flight. -/
theorem Hw.transmit_routed {h : Hw} {m : Msg}
    (hroute : h.routeFails m.sender m.tenant true m.core (h.scratchLatency m.sender m.core) = none) :
    h.transmit m = h.after (h.scratchLatency m.sender m.core / 2 + 1) .sendArrival (.msg m (h.now + h.scratchLatency m.sender m.core)) := by
  simp only [Hw.transmit, hroute]

/-- The part once a chain has been given transaction `h.nextTxn` for a result that it is owed. -/
def Hw.owing (h : Hw) (c : Cur) (reg target : Nat) (k : Cls) : Hw := ({ h with nextTxn := h.nextTxn + 1 } : Hw).owe c h.nextTxn reg target k

theorem Hw.owing_eq (h : Hw) (c : Cur) (reg target : Nat) (k : Cls) : ∃ cores,
    h.owing c reg target k = { h with cores := cores, nextTxn := h.nextTxn + 1 } := by
  obtain ⟨cores, heq⟩ := ({ h with nextTxn := h.nextTxn + 1 } : Hw).owe_eq c h.nextTxn reg target k
  exact ⟨cores, heq⟩

theorem Hw.owing_awaits (h : Hw) (c : Cur) (target : Nat) (k : Cls) {reg : Nat} (hreg : reg ≠ 0) :
    (h.owing c reg target k).isFull c.core c.slot reg = false ∧ ((h.owing c reg target k).curCtx c).pending reg = true :=
  Hw.owe_awaits _ c _ target k hreg

@[simp] theorem Hw.now_owing (h : Hw) (c : Cur) (reg target : Nat) (k : Cls) : (h.owing c reg target k).now = h.now := by
  obtain ⟨cores, heq⟩ := h.owing_eq c reg target k
  rw [heq]

@[simp] theorem Hw.scratchLatency_owing (h : Hw) (c : Cur) (reg target : Nat) (k : Cls) (i j : Nat) :
    (h.owing c reg target k).scratchLatency i j = h.scratchLatency i j := by
  obtain ⟨cores, heq⟩ := h.owing_eq c reg target k
  rw [heq]
  rfl

@[simp] theorem Hw.routeFails_owing (h : Hw) (c : Cur) (reg target : Nat) (k : Cls) (i tenant : Nat) (svc : Bool) (j lat : Nat) :
    (h.owing c reg target k).routeFails i tenant svc j lat = h.routeFails i tenant svc j lat := by
  obtain ⟨cores, heq⟩ := h.owing_eq c reg target k
  rw [heq]
  rfl

/-- The message of a SEND (R88). -/
def State.sendMsg (s : State) (c : Cur) (d b : GReg) : Msg :=
  { txn := s.hw.nextTxn, core := bits (s.hw.cg c d).toNat 36 16, slot := bits (s.hw.cg c d).toNat 13 8, reg := bits (s.hw.cg c d).toNat 6 0,
    val := s.hw.cg c b, tenant := (s.hw.tenantOf c.core).getD 0, sender := c.core, senderSlot := c.slot, svc := (s.hw.curCtx c).service,
    mc := false, handle := false }

theorem badTarget_eq_false {w : Nat} (hw : w < 2 ^ 37) (h14 : w / 2 ^ 14 % 4 = 0) (h7 : w / 2 ^ 7 % 2 = 0) : badTarget w = false := by
  have hhigh : bits w 63 37 = 0 := by
    rw [bits, Nat.div_eq_of_lt hw, Nat.zero_mod]
  have hmid : bits w 15 14 = 0 := h14
  have hbit : bitAt w 7 = false := by
    rw [bitAt, h7]
    rfl
  simp [badTarget, hhigh, hmid, hbit]

section
variable {s : State} {c : Cur} (sw : Bool) (a : GReg) {d b : GReg} (hat : s.atHand c (regs [d, b]))
  (hw : badTarget (s.hw.cg c d).toNat = false) (hbooked : (s.hw.curCtx c).booked = false) (hfence : (s.hw.curCtx c).fence = none)
include hat hw hbooked hfence

theorem exec_send_goes : exec (.send sw a d b) s = .next (s.onHw fun h =>
    ((h.owing c a.toNat (s.sendMsg c d b).core .w).transmit (s.sendMsg c d b)).retire c sw 1) := by
  have hfenced : (s.hw.curCtx c).fenced .w = false := by simp [Ctx.fenced, hfence]
  rw [exec_send, execSend, State.withCur_some hat.1, State.reads_atHand hat]
  simp only [hw, hbooked, hfenced]
  rfl

theorem send_arrives (hroute : s.hw.routeFails c.core ((s.hw.tenantOf c.core).getD 0) true (s.sendMsg c d b).core
      (s.hw.scratchLatency c.core (s.sendMsg c d b).core) = none) :
    ∃ t, exec (.send sw a d b) s = .next t ∧ t.mem = s.mem ∧
      (a ≠ 0 → t.hw.isFull c.core c.slot a.toNat = false ∧ (t.hw.curCtx c).pending a.toNat = true) ∧
      (⟨s.hw.now + (s.hw.scratchLatency c.core (s.sendMsg c d b).core / 2 + 1), .sendArrival,
        .msg (s.sendMsg c d b) (s.hw.now + s.hw.scratchLatency c.core (s.sendMsg c d b).core)⟩ : Due) ∈ t.hw.agenda := by
  have hgoes := exec_send_goes sw a hat hw hbooked hfence
  rw [State.onHw, Hw.transmit_routed (by rw [Hw.routeFails_owing, Hw.scratchLatency_owing]; exact hroute)] at hgoes
  simp only [Hw.now_owing, Hw.scratchLatency_owing] at hgoes
  refine ⟨_, hgoes, rfl, fun ha => ?_, ?_⟩
  · obtain ⟨hempty, hpending⟩ := s.hw.owing_awaits c (s.sendMsg c d b).core .w (reg := a.toNat) (fun h => ha (BitVec.eq_of_toNat_eq h))
    exact ⟨((Hw.keepsRegs_retire _ c sw 1).isFull _ _ _).trans hempty, by rw [Ctx.pending, Hw.pend_retire]; exact hpending⟩
  · refine (Hw.keepsRegs_retire _ c sw 1).agenda ((Hw.mem_agenda_schedule _ _ _ _ _).mpr (.inl ?_))
    rw [Hw.now_owing]
    rfl

end

/-! ### The arrival of a SEND (R89 to R91) -/

/-- Registers and the arrivals held in the overflow deques stand. -/
def Hw.KeepsHeld (h h' : Hw) : Prop := h.KeepsRegs h' ∧ ∀ c, (h'.core c).ovf = (h.core c).ovf

theorem Hw.KeepsHeld.trans {h h1 h2 : Hw} (a : h.KeepsHeld h1) (b : h1.KeepsHeld h2) : h.KeepsHeld h2 :=
  ⟨a.1.trans b.1, fun c => (b.2 c).trans (a.2 c)⟩

theorem Hw.keepsHeld_modCtx (h : Hw) (c s : Nat) (f : Ctx → Ctx) (hwbase : ∀ x, (f x).wbase = x.wbase) (hpend : ∀ x, (f x).pend ⊆ x.pend) :
    h.KeepsHeld (h.modCtx c s f) := by
  refine ⟨h.keepsRegs_modCtx c s f hwbase hpend, fun d => ?_⟩
  by_cases hd : c = d
  · subst hd
    rw [Hw.core_modCtx]
    rfl
  · rw [Hw.core_modCtx_ne _ _ _ _ _ hd]

theorem Hw.keepsHeld_wakeAt (h : Hw) (c s cyc : Nat) : h.KeepsHeld (h.wakeAt c s cyc) := by
  refine h.keepsHeld_modCtx c s _ (fun x => ?_) fun x => ?_
  · split <;> rfl
  · split <;> exact fun _ hp => hp

theorem Hw.keepsHeld_fullWake (h : Hw) (c s n : Nat) : h.KeepsHeld (h.fullWake c s n) := by
  have hwake : h.KeepsHeld (if (h.ctx c s).park = some (.fullBit n) then h.wakeAt c s h.now else h) := by
    split
    · exact h.keepsHeld_wakeAt c s h.now
    · exact ⟨.refl h, fun _ => rfl⟩
  unfold Hw.fullWake
  simp only
  generalize (if (h.ctx c s).park = some (.fullBit n) then h.wakeAt c s h.now else h) = h1 at hwake ⊢
  split
  · exact hwake.trans (h1.keepsHeld_modCtx c s _ (fun _ => rfl) fun _ _ hp => hp)
  · exact hwake

/-- A context that is parked for a register goes on once it is full (R84). -/
theorem Hw.st_fullWake (h : Hw) {c s n : Nat} (hst : (h.ctx c s).st = .ready ∨ (h.ctx c s).st = .parked)
    (hpark : (h.ctx c s).park = some (.fullBit n)) : ((h.fullWake c s n).ctx c s).st = .ready := by
  have hwoken : ((h.wakeAt c s h.now).ctx c s).st = .ready := by
    rw [Hw.wakeAt, Hw.ctx_modCtx]
    rcases hst with hst | hst
    · rw [if_neg (by rw [hst]; nofun), hst]
    · rw [if_pos hst]
      rfl
  unfold Hw.fullWake
  simp only
  rw [if_pos hpark]
  split
  · rw [Hw.ctx_modCtx]
    exact hwoken
  · exact hwoken

/-- A value that is delivered is in its register, which is full, and what is held is as it was (R89). -/
theorem Hw.deliverMsg_lands (h : Hw) (core slot : Nat) {n : Nat} (v : Word) (coll : Bool) (hn : n ≠ 0) :
    (h.deliverMsg core slot n v coll).g core slot n = v ∧ (h.deliverMsg core slot n v coll).isFull core slot n = true ∧
    (h.deliverMsg core slot n v coll).now = h.now ∧ ((h.deliverMsg core slot n v coll).core core).ovf = (h.core core).ovf ∧
    ((h.ctx core slot).st = .ready ∨ (h.ctx core slot).st = .parked → (h.ctx core slot).park = some (.fullBit n) →
      ((h.deliverMsg core slot n v coll).ctx core slot).st = .ready) := by
  have hlanded : ∃ h1 : Hw, h.deliverMsg core slot n v coll = h1.fullWake core slot n ∧ h1.now = h.now ∧
      h1.core core = ((h.core core).land slot n v).setCtx slot (if coll then (h.ctx core slot).setTs tsCOLL true else h.ctx core slot) :=
    ⟨_, rfl, rfl, Hw.core_modCore _ _ _⟩
  obtain ⟨h1, hdeliver, hnow, hcore⟩ := hlanded
  have hctx : h1.ctx core slot = if coll then (h.ctx core slot).setTs tsCOLL true else h.ctx core slot := by
    rw [Hw.ctx, hcore, Core.ctx_setCtx]
  obtain ⟨hwbase, hst, hpark⟩ : (h1.ctx core slot).wbase = (h.ctx core slot).wbase ∧ (h1.ctx core slot).st = (h.ctx core slot).st ∧
      (h1.ctx core slot).park = (h.ctx core slot).park := by
    rw [hctx]
    split <;> exact ⟨rfl, rfl, rfl⟩
  obtain ⟨hwake, hovf⟩ := h1.keepsHeld_fullWake core slot n
  rw [hdeliver]
  refine ⟨(hwake.g _ _ _).trans ?_, (hwake.isFull _ _ _).trans ?_, hwake.now.trans hnow, (hovf core).trans ?_,
    fun hst' hpark' => h1.st_fullWake (hst ▸ hst') (hpark.trans hpark')⟩
  · rw [Hw.g, hcore]
    exact (Core.g_congr _ _ _ _ n rfl rfl).trans ((h.core core).g_land v hn hwbase)
  · rw [Hw.isFull, hcore]
    exact (Core.fullBit_congr _ _ _ _ n rfl rfl).trans ((h.core core).fullBit_land v hn hwbase)
  · obtain ⟨rf, empty, hland⟩ := (h.core core).land_eq slot n v
    rw [hcore, hland]
    rfl

/-! ### An arrival that is held (R91) -/

theorem Hw.keepsHeld_wakeSectors (h : Hw) (home bank lo hi key : Nat) : h.KeepsHeld (h.wakeSectors home bank lo hi key) := by
  unfold Hw.wakeSectors
  simp only
  split
  · exact ⟨.refl h, fun _ => rfl⟩
  · have hbinds := Hw.binds_foldl (fun h (m : Monitor) => h.after (h.oneWay m.core key) .monitorWake (.nats [m.core, m.slot, m.uid]))
      (fun h m => h.binds_after _ _ _)
    refine Hw.KeepsHeld.trans ⟨?_, fun c => ?_⟩ ⟨(hbinds _ _).keepsRegs, fun c => by rw [(hbinds _ _).core]⟩
    · exact h.keepsRegs_modCore_of_eq home (fun _ => rfl) (fun _ => rfl) (fun _ => rfl) (fun _ => rfl)
    · by_cases hc : home = c
      · subst hc
        rw [Hw.core_modCore]
      · rw [Hw.core_modCore_ne _ _ _ _ hc]

/-- The registers and the held arrivals of a state stand in another one. -/
def State.KeepsHeld (s t : State) : Prop := s.hw.KeepsHeld t.hw

theorem State.KeepsHeld.trans {s t u : State} (a : s.KeepsHeld t) (b : t.KeepsHeld u) : s.KeepsHeld u := Hw.KeepsHeld.trans a b

theorem State.foldl_keepsHeld {α : Type} {f : State → α → State} (hf : ∀ (s : State) a, s.KeepsHeld (f s a)) (l : List α) (s : State) :
    s.KeepsHeld (l.foldl f s) := by
  induction l generalizing s with
  | nil => exact ⟨.refl _, fun _ => rfl⟩
  | cons a r ih => exact (hf s a).trans (ih _)

theorem State.bankWrite_keepsHeld (s : State) (key : Nat) (bs : List Byte) (tag : Option Nat) : s.KeepsHeld (s.bankWrite key bs tag) := by
  unfold State.bankWrite
  split
  · exact ⟨.refl _, fun _ => rfl⟩
  · exact State.foldl_keepsHeld (f := fun s (p : Piece) => s.onHw (fun h => h.wakeMonitors p.key p.len))
      (fun s p => s.hw.keepsHeld_wakeSectors _ _ _ _ _) _ (s.onMem (fun m => m.writeRange key bs tag))

theorem State.ovfWrite_keepsHeld (s : State) (core : Nat) (e : OvfEntry) : s.KeepsHeld (s.ovfWrite core e) := s.bankWrite_keepsHeld _ _ _

theorem State.flagTs_keepsHeld (s : State) (core slot i : Nat) : s.KeepsHeld (s.flagTs core slot i) := by
  have hset : s.KeepsHeld (s.onHw (fun h => h.modCtx core slot (fun x => x.setTs i true))) :=
    s.hw.keepsHeld_modCtx core slot (fun x => x.setTs i true) (fun _ => rfl) fun _ _ hp => hp
  unfold State.flagTs
  simp only
  split <;> exact hset

/-- What an entry of the deque holds, apart from its place. -/
def OvfEntry.held (e : OvfEntry) : Word × Nat × Nat × Nat := (e.val, e.reg, e.slot, e.sender)

/-- The entries of a deque, moved down to its first places (R91). -/
def packed (l : List OvfEntry) : List OvfEntry := ((List.range l.length).zip l).map (fun p => { p.2 with pos := p.1 })

theorem map_held_packed (l : List OvfEntry) : (packed l).map OvfEntry.held = l.map OvfEntry.held := by
  have hzip : ((List.range l.length).zip l).map Prod.snd = l := List.map_snd_zip (by simp)
  rw [packed, List.map_map]
  conv_rhs => rw [← hzip, List.map_map]
  rfl

/-- The deque of a core holds these entries. -/
def Hw.setHeld (h : Hw) (core : Nat) (l : List OvfEntry) : Hw := h.modCore core (fun k => { k with ovf := l })

theorem Hw.keepsRegs_setHeld (h : Hw) (core : Nat) (l : List OvfEntry) : h.KeepsRegs (h.setHeld core l) :=
  h.keepsRegs_modCore_of_eq core (fun _ => rfl) (fun _ => rfl) (fun _ => rfl) (fun _ => rfl)

theorem Hw.ovf_setHeld (h : Hw) (core : Nat) (l : List OvfEntry) : ((h.setHeld core l).core core).ovf = l := by
  rw [Hw.setHeld, Hw.core_modCore]

theorem State.ovfPack_eq (s : State) (core : Nat) : s.ovfPack core = s ∨ s.ovfPack core =
    (packed (s.hw.core core).ovf).foldl (fun s e => s.ovfWrite core e) { s with hw := s.hw.setHeld core (packed (s.hw.core core).ovf) } :=
  ite_eq_or_eq _ _ _

/-- Room is made without a change of what is held. -/
theorem State.ovfPack_keeps (s : State) (core : Nat) : s.hw.KeepsRegs (s.ovfPack core).hw ∧
    ((s.ovfPack core).hw.core core).ovf.map OvfEntry.held = (s.hw.core core).ovf.map OvfEntry.held := by
  obtain heq | heq := s.ovfPack_eq core
  · rw [heq]
    exact ⟨.refl _, rfl⟩
  · have hmoved := s.hw.keepsRegs_setHeld core (packed (s.hw.core core).ovf)
    have hset := s.hw.ovf_setHeld core (packed (s.hw.core core).ovf)
    rw [heq]
    generalize s.hw.setHeld core (packed (s.hw.core core).ovf) = h at hmoved hset ⊢
    obtain ⟨hregs, hovf⟩ : State.KeepsHeld { s with hw := h } _ := State.foldl_keepsHeld (f := fun (s : State) e => s.ovfWrite core e) (fun s e => s.ovfWrite_keepsHeld core e)
      (packed (s.hw.core core).ovf) { s with hw := h }
    exact ⟨hmoved.trans hregs, by rw [hovf core, hset, map_held_packed]⟩

/-- An entry stands behind the youngest one (R91). -/
def Hw.holdLast (h : Hw) (core : Nat) (e : OvfEntry) : Hw := h.setHeld core ((h.core core).ovf ++ [e])

theorem State.holdArrival_eq {s : State} {m : Msg} (hst : (s.hw.ctx m.core m.slot).st ≠ .spilled) : ∃ p, s.holdArrival m =
    (((s.ovfPack m.core).onHw (fun h => h.holdLast m.core ⟨p, m.val, m.reg, m.slot, m.sender⟩)).ovfWrite m.core
      ⟨p, m.val, m.reg, m.slot, m.sender⟩).flagTs m.core m.slot tsOVFD :=
  ⟨_, if_neg fun h => hst h.1⟩

/-- An arrival that is held stands last, and keeps the registers. -/
theorem State.holdArrival_holds {s : State} {m : Msg} (hst : (s.hw.ctx m.core m.slot).st ≠ .spilled) :
    s.hw.KeepsRegs (s.holdArrival m).hw ∧ ∃ l p, ((s.holdArrival m).hw.core m.core).ovf = l ++ [⟨p, m.val, m.reg, m.slot, m.sender⟩] ∧
      l.map OvfEntry.held = (s.hw.core m.core).ovf.map OvfEntry.held := by
  obtain ⟨p, heq⟩ := State.holdArrival_eq hst
  obtain ⟨hpack, hheld⟩ := s.ovfPack_keeps m.core
  rw [heq]
  generalize s.ovfPack m.core = s0 at hpack hheld ⊢
  have hadd := s0.hw.keepsRegs_setHeld m.core ((s0.hw.core m.core).ovf ++ [⟨p, m.val, m.reg, m.slot, m.sender⟩])
  have hlast := s0.hw.ovf_setHeld m.core ((s0.hw.core m.core).ovf ++ [⟨p, m.val, m.reg, m.slot, m.sender⟩])
  obtain ⟨hrest, hovf⟩ := (State.ovfWrite_keepsHeld (s0.onHw (fun h => h.holdLast m.core ⟨p, m.val, m.reg, m.slot, m.sender⟩)) m.core
    ⟨p, m.val, m.reg, m.slot, m.sender⟩).trans (State.flagTs_keepsHeld _ m.core m.slot tsOVFD)
  exact ⟨(hpack.trans hadd).trans hrest, (s0.hw.core m.core).ovf, p, (hovf m.core).trans hlast, hheld⟩

section
variable {s : State} {m : Msg} {due : Nat} (harg : s.hw.arg = .msg m due) (himg : (s.hw.core m.core).imaging = false)
  (hown : m.svc = true ∨ m.core = m.sender ∨ s.hw.tenantOf m.core = some m.tenant) (hen : s.hw.coreDisabled m.core = false) (hreg : 0 < m.reg)
  (hsize : m.reg < (s.hw.ctx m.core m.slot).wsize)
  (hst : (s.hw.ctx m.core m.slot).st = .ready ∨ (s.hw.ctx m.core m.slot).st = .parked)
  (hjust : m.reg ∉ (s.hw.ctx m.core m.slot).just) (hpend : (s.hw.ctx m.core m.slot).pending m.reg = false)

include hown hen hreg hsize hst hjust hpend

/-- An arrival at a context that may take it, with no result outstanding for the register: it is written, held, or refused. -/
theorem State.arrive_eq : s.arrive m =
    if (s.hw.core m.core).heldFor m.slot m.reg = false ∧ (s.hw.core m.core).fullBit (s.hw.ctx m.core m.slot) m.reg = false then
      ((0, 0), s.onHw (fun h => h.deliverMsg m.core m.slot m.reg m.val false))
    else if 0 < (s.hw.core m.core).ovfFree then ((1, 0), s.holdArrival m) else ((2, 3), s) := by
  have hforeign : (!m.svc && m.core != m.sender && s.hw.tenantOf m.core != some m.tenant) = false := by
    rcases hown with h | h | h <;> simp [h]
  have hwindow := Nat.not_le.mpr hsize
  unfold Hw.ctx at hst hjust hwindow hpend ⊢
  rcases hst with hst | hst <;>
    simp [State.arrive, hforeign, hen, hst, hwindow, Nat.pos_iff_ne_zero.mp hreg, hjust, hpend]


end

/-- The arrival is applied, and its status is on its way (R88). -/
theorem exec_sendArrival_eq {s : State} {m : Msg} {due : Nat} (harg : s.hw.arg = .msg m due) (himg : (s.hw.core m.core).imaging = false)
    (hnow : (s.arrive m).2.hw.now = s.hw.now) : exec .sendArrival s = .next ((s.arrive m).2.onHw fun h =>
      h.schedule (max due s.hw.now) .sendStatus (.nats [m.sender, m.txn, (s.arrive m).1.1, (s.arrive m).1.2, m.core])) := by
  rw [exec_sendArrival, execSendArrival, harg]
  simp only [himg, Bool.false_eq_true, if_false, State.onHw, hnow]

/-! ### A held arrival that is delivered (R92) -/

theorem Hw.deliverHeld_lands {h : Hw} {core slot n : Nat} {e : OvfEntry} (hn : n ≠ 0)
    (hfind : (h.core core).ovf.find? (fun q => q.slot == slot && q.reg == n) = some e) (hpend : (h.ctx core slot).pending n = false)
    (hempty : h.isFull core slot n = false) : (h.deliverHeld core slot n).g core slot n = e.val ∧
      (h.deliverHeld core slot n).isFull core slot n = true ∧ ((h.deliverHeld core slot n).core core).ovf = (h.core core).ovf.erase e := by
  have heq : h.deliverHeld core slot n =
      (h.setHeld core ((h.core core).ovf.erase e)).deliverMsg core slot n e.val ((h.ctx core slot).just.contains n) := by
    unfold Hw.ctx at hpend
    unfold Hw.isFull Hw.ctx at hempty
    simp only [Hw.deliverHeld, hfind, hpend, hempty]
    exact if_pos ⟨rfl, .inr rfl⟩
  obtain ⟨hg, hfull, -, hovf, -⟩ := (h.setHeld core ((h.core core).ovf.erase e)).deliverMsg_lands core slot e.val ((h.ctx core slot).just.contains n) hn
  rw [heq]
  exact ⟨hg, hfull, hovf.trans (h.ovf_setHeld _ _)⟩

/-! ### TAKE and CLRF (R95) -/

/-- A register is emptied; the oldest arrival held for it is delivered at the end of cycle 2 (R92). -/
def Hw.clears (h : Hw) (c : Cur) (n : Nat) : Hw := (h.modSlot c.core c.slot (fun k x => k.putFull x n false)).emptied c.core c.slot n

theorem Hw.emptied_binds (h : Hw) (core slot n : Nat) : h.Binds (h.emptied core slot n) := by
  unfold Hw.emptied
  split
  · exact h.binds_after _ _ _
  · exact .refl h

theorem Hw.core_clears (h : Hw) (c : Cur) (n : Nat) : (h.clears c n).core c.core = (h.core c.core).putFull (h.curCtx c) n false := by
  rw [Hw.clears, (Hw.emptied_binds _ _ _ _).core, Hw.core_modSlot]
  rfl

theorem Hw.curCtx_clears (h : Hw) (c : Cur) (n : Nat) : (h.clears c n).curCtx c = h.curCtx c := by
  rw [Hw.curCtx, Hw.ctx, Hw.core_clears, Core.ctx_putFull]
  rfl

theorem Hw.isFull_clears (h : Hw) (c : Cur) {n : Nat} (hn : n ≠ 0) : (h.clears c n).isFull c.core c.slot n = false := by
  rw [Hw.isFull, Hw.core_clears]
  exact (Core.fullBit_congr _ _ _ _ n rfl (congrArg Ctx.wbase (h.curCtx_clears c n))).trans (Core.fullBit_putFull _ _ n false hn)

theorem Hw.isFull_clears_ne (h : Hw) (c : Cur) {n j : Nat} (hj : j ≠ n) : (h.clears c n).isFull c.core c.slot j = h.isFull c.core c.slot j := by
  rw [Hw.isFull, Hw.core_clears]
  exact (Core.fullBit_congr _ _ _ _ j rfl (congrArg Ctx.wbase (h.curCtx_clears c n))).trans (Core.fullBit_putFull_ne _ _ n j false hj.symm)

theorem Hw.mem_agenda_clears (h : Hw) (c : Cur) (n : Nat) (hheld : (h.core c.core).heldFor c.slot n = true) :
    (⟨h.now + 3, .overflowDelivery, .nats [c.core, c.slot, (h.curCtx c).uid, n]⟩ : Due) ∈ (h.clears c n).agenda := by
  have hcore : (h.modSlot c.core c.slot (fun k x => k.putFull x n false)).core c.core = (h.core c.core).putFull (h.curCtx c) n false := by
    rw [Hw.core_modSlot]
    rfl
  have hctx : (h.modSlot c.core c.slot (fun k x => k.putFull x n false)).ctx c.core c.slot = h.curCtx c := by
    rw [Hw.ctx, hcore, Core.ctx_putFull]
    rfl
  have hheld' : ((h.core c.core).putFull (h.curCtx c) n false).heldFor c.slot n = true := by
    obtain ⟨empty, hput⟩ := (h.core c.core).putFull_eq (h.curCtx c) n false
    rw [hput]
    exact hheld
  rw [Hw.clears, Hw.emptied, hcore, if_pos hheld', hctx, Hw.after, Hw.mem_agenda_schedule]
  exact .inl rfl

theorem exec_clrf_clears {s : State} {c : Cur} (sw : Bool) {b : GReg} (hcur : s.hw.cur = some c) (hpend : (s.hw.curCtx c).pending b.toNat = false) :
    exec (.clrf sw b) s = .next (s.onHw fun h => (h.clears c b.toNat).retire c sw 1) := by
  rw [exec_clrf, execClrf, State.withCur_some hcur]
  simp only [hpend]
  rfl

theorem exec_take_clears {s : State} {c : Cur} (sw : Bool) {a b : GReg} (hat : s.atHand c (regs [b])) : exec (.take sw a b) s =
    .next (s.onHw fun h => (if a = b then h.clears c b.toNat else (h.clears c b.toNat).setG c.core c.slot a.toNat (h.cg c b) 2).retire c sw 1) := by
  rw [exec_take, execTake, State.withCur_some hat.1, State.reads_atHand hat]
  rfl

theorem Hw.isFull_setG_ne (h : Hw) (c : Cur) (v : Word) (lat : Nat) {n j : Nat} (hj : n ≠ j) :
    (h.setG c.core c.slot n v lat).isFull c.core c.slot j = h.isFull c.core c.slot j := by
  rw [Hw.isFull, Hw.ctx, Hw.core_setG]
  split
  · rfl
  · rw [Core.ctx_setCtx]
    exact (Core.fullBit_congr _ _ _ _ j rfl rfl).trans (Core.fullBit_putFull_ne _ _ n j false hj)

theorem Hw.pend_setG (h : Hw) (c : Cur) (v : Word) (lat : Nat) {n : Nat} (hn : n ≠ 0) :
    Pend.fixed n (h.now + lat) v ∈ ((h.setG c.core c.slot n v lat).curCtx c).pend := by
  rw [Hw.curCtx, Hw.ctx, Hw.core_setG, if_neg hn, Core.ctx_setCtx]
  exact List.mem_append_right _ (List.mem_singleton.mpr rfl)

theorem Hw.agenda_setG (h : Hw) (c s n : Nat) (v : Word) (lat : Nat) : (h.setG c s n v lat).agenda = h.agenda := by
  obtain ⟨cores, heq⟩ := h.setG_eq c s n v lat
  rw [heq]

theorem Hw.now_clears (h : Hw) (c : Cur) (n : Nat) : (h.clears c n).now = h.now := (Hw.emptied_binds _ _ _ _).now

theorem take_empties {s : State} {c : Cur} (sw : Bool) {a b : GReg} (hat : s.atHand c (regs [b])) (hb : b ≠ 0) :
    ∃ t, exec (.take sw a b) s = .next t ∧ t.mem = s.mem ∧ t.hw.isFull c.core c.slot b.toNat = false ∧
      (a ≠ b → a ≠ 0 → Pend.fixed a.toNat (s.hw.now + 2) (s.hw.cg c b) ∈ (t.hw.curCtx c).pend) ∧
      ((s.hw.core c.core).heldFor c.slot b.toNat = true →
        (⟨s.hw.now + 3, .overflowDelivery, .nats [c.core, c.slot, (s.hw.curCtx c).uid, b.toNat]⟩ : Due) ∈ t.hw.agenda) := by
  have hne {i j : GReg} (h : i ≠ j) : i.toNat ≠ j.toNat := fun heq => h (BitVec.eq_of_toNat_eq heq)
  have hempty := s.hw.isFull_clears c (hne hb)
  refine ⟨_, exec_take_clears sw hat, rfl, ?_⟩
  by_cases hab : a = b
  · rw [State.onHw_hw, if_pos hab]
    exact ⟨((Hw.keepsRegs_retire _ c sw 1).isFull _ _ _).trans hempty, fun h => absurd hab h, fun hheld =>
      (Hw.keepsRegs_retire _ c sw 1).agenda (s.hw.mem_agenda_clears c b.toNat hheld)⟩
  · rw [State.onHw_hw, if_neg hab]
    refine ⟨((Hw.keepsRegs_retire _ c sw 1).isFull _ _ _).trans ((Hw.isFull_setG_ne _ c _ 2 (hne hab)).trans hempty), fun _ ha => ?_, fun hheld => ?_⟩
    · rw [Hw.pend_retire]
      have hpend := (s.hw.clears c b.toNat).pend_setG c (s.hw.cg c b) 2 (hne ha)
      rwa [Hw.now_clears] at hpend
    · refine (Hw.keepsRegs_retire _ c sw 1).agenda ?_
      rw [Hw.agenda_setG]
      exact s.hw.mem_agenda_clears c b.toNat hheld

/-! ### The status of a SEND (R88) -/

/-- The context of an operation that has failed: its fence and its region are marked (R190, R456). -/
def Ctx.opFails (x : Ctx) (core txn cause target : Nat) : Ctx :=
  let x1 := if x.fenceOp txn && moduleOf target != moduleOf core && decide (cause ≤ 2) then x.failFence txn (moduleOf target) else x
  if x.regionOp txn || x.regionOwn txn then x1.failRegion txn cause target else x1

theorem Ctx.opFails_keeps (x : Ctx) (core txn cause target : Nat) : (x.opFails core txn cause target).st = x.st ∧
    (x.opFails core txn cause target).uid = x.uid ∧ (x.opFails core txn cause target).pend = x.pend ∧
    (x.opFails core txn cause target).wbase = x.wbase := by
  unfold Ctx.opFails
  simp only
  split
  · split <;> exact ⟨rfl, rfl, rfl, rfl⟩
  · split <;> exact ⟨rfl, rfl, rfl, rfl⟩

theorem Hw.owedFails_eq (h : Hw) (core txn cause target : Nat) : h.owedFails core txn cause target = h ∨ ∃ slot,
    h.owedFails core txn cause target = h.modCtx core slot (fun x => x.opFails core txn cause target) := by
  unfold Hw.owedFails
  split
  · exact .inl rfl
  · split
    · exact .inr ⟨_, rfl⟩
    · exact .inl rfl

/-- A failed operation changes nothing of what a result of its context needs. -/
theorem Hw.owedFails_keeps (h : Hw) (core txn cause target : Nat) : h.KeepsRegs (h.owedFails core txn cause target) ∧ ∀ i,
    ((h.owedFails core txn cause target).ctx core i).st = (h.ctx core i).st ∧ ((h.owedFails core txn cause target).ctx core i).uid = (h.ctx core i).uid ∧
    ((h.owedFails core txn cause target).ctx core i).pend = (h.ctx core i).pend := by
  obtain heq | ⟨slot, heq⟩ := h.owedFails_eq core txn cause target
  · rw [heq]
    exact ⟨.refl h, fun _ => ⟨rfl, rfl, rfl⟩⟩
  · have hkeeps (x : Ctx) := x.opFails_keeps core txn cause target
    rw [heq]
    refine ⟨h.keepsRegs_modCtx core slot _ (fun x => (hkeeps x).2.2.2) fun x => (hkeeps x).2.2.1 ▸ fun _ hp => hp, fun i => ?_⟩
    by_cases hi : slot = i
    · subst hi
      obtain ⟨hst, huid, hpend, -⟩ := hkeeps (h.ctx core slot)
      rw [Hw.ctx_modCtx]
      exact ⟨hst, huid, hpend⟩
    · rw [Hw.ctx, Hw.core_modCtx, Core.ctx_setCtx_ne _ _ _ _ hi]
      exact ⟨rfl, rfl, rfl⟩

section
variable {s : State} {core txn st cause target : Nat} {o : Owed} (harg : s.hw.arg = .nats [core, txn, st, cause, target])
  (hfind : (s.hw.core core).owed.find? (fun r => r.txn == txn) = some o)
  (hhand : o.hand = none) (hreg : 0 < o.reg) (halive : s.hw.alive core o.slot o.uid = true)
  (hst : (s.hw.ctx core o.slot).st = .ready ∨ (s.hw.ctx core o.slot).st = .parked)
  (hpend : (s.hw.ctx core o.slot).pend.any (fun p => p.ofTxn o.reg txn) = true)
include harg hfind hhand hreg halive hst hpend

theorem sendStatus_pays : ∃ t, exec .sendStatus s = .next t ∧ t.mem = s.mem ∧ t.hw.g core o.slot o.reg = BitVec.ofNat 64 st ∧
    t.hw.isFull core o.slot o.reg = true ∧ ∀ q ∈ (t.hw.core core).owed, q.txn ≠ txn := by
  obtain ⟨hregs, hctx⟩ : s.hw.KeepsRegs (if 2 ≤ st then s.hw.owedFails core txn cause target else s.hw) ∧ ∀ i,
      ((if 2 ≤ st then s.hw.owedFails core txn cause target else s.hw).ctx core i).st = (s.hw.ctx core i).st ∧
      ((if 2 ≤ st then s.hw.owedFails core txn cause target else s.hw).ctx core i).uid = (s.hw.ctx core i).uid ∧
      ((if 2 ≤ st then s.hw.owedFails core txn cause target else s.hw).ctx core i).pend = (s.hw.ctx core i).pend := by
    split
    · exact s.hw.owedFails_keeps core txn cause target
    · exact ⟨.refl _, fun _ => ⟨rfl, rfl, rfl⟩⟩
  obtain ⟨hst', huid', hpend'⟩ := hctx o.slot
  refine ⟨_, by rw [exec_sendStatus, execSendStatus, harg], ?_⟩
  rw [State.onHw]
  generalize (if 2 ≤ st then s.hw.owedFails core txn cause target else s.hw) = h at hregs hst' huid' hpend'
  have halive' : h.alive core o.slot o.uid = true := by rwa [Hw.alive, hst', huid']
  exact State.payOwed_pays (s := { s with hw := h }) (BitVec.ofNat 64 st) ((hregs.core core).owed.symm ▸ hfind) hhand hreg halive' (hst'.symm ▸ hst)
    (hpend'.symm ▸ hpend)

end

section
variable {s : State} {m : Msg} {due : Nat} (harg : s.hw.arg = .msg m due) (himg : (s.hw.core m.core).imaging = false)
  (hown : m.svc = true ∨ m.core = m.sender ∨ s.hw.tenantOf m.core = some m.tenant) (hen : s.hw.coreDisabled m.core = false) (hreg : 0 < m.reg)
  (hsize : m.reg < (s.hw.ctx m.core m.slot).wsize)
  (hst : (s.hw.ctx m.core m.slot).st = .ready ∨ (s.hw.ctx m.core m.slot).st = .parked)
  (hjust : m.reg ∉ (s.hw.ctx m.core m.slot).just) (hpend : (s.hw.ctx m.core m.slot).pending m.reg = false)
include harg himg hown hen hreg hsize hst hjust hpend

/-- An empty register with nothing held for it takes the value (R89). -/
theorem sendArrival_written (hempty : (s.hw.core m.core).fullBit (s.hw.ctx m.core m.slot) m.reg = false)
    (hnone : (s.hw.core m.core).heldFor m.slot m.reg = false) : ∃ t, exec .sendArrival s = .next t ∧ t.mem = s.mem ∧
      t.hw.g m.core m.slot m.reg = m.val ∧ t.hw.isFull m.core m.slot m.reg = true ∧
      (⟨max due s.hw.now, .sendStatus, .nats [m.sender, m.txn, 0, 0, m.core]⟩ : Due) ∈ t.hw.agenda ∧
      ((s.hw.ctx m.core m.slot).park = some (.fullBit m.reg) → (t.hw.ctx m.core m.slot).st = .ready) := by
  have harrive := State.arrive_eq hown hen hreg hsize hst hjust hpend
  rw [if_pos ⟨hnone, hempty⟩] at harrive
  obtain ⟨hg, hfull, hnow, -, hwake⟩ := s.hw.deliverMsg_lands m.core m.slot m.val false (Nat.pos_iff_ne_zero.mp hreg)
  have hexec := exec_sendArrival_eq harg himg (by rw [harrive]; exact hnow)
  rw [harrive] at hexec
  exact ⟨_, hexec, rfl, hg, hfull, (Hw.mem_agenda_schedule _ _ _ _ _).mpr (.inl rfl), hwake hst⟩

/-- A full register's value is held, where the deque has room (R91). -/
theorem sendArrival_held (hfull : (s.hw.core m.core).fullBit (s.hw.ctx m.core m.slot) m.reg = true) (hroom : 0 < (s.hw.core m.core).ovfFree) :
    ∃ t l p, exec .sendArrival s = .next t ∧ (t.hw.core m.core).ovf = l ++ [⟨p, m.val, m.reg, m.slot, m.sender⟩] ∧
      l.map OvfEntry.held = (s.hw.core m.core).ovf.map OvfEntry.held ∧ t.hw.g m.core m.slot m.reg = s.hw.g m.core m.slot m.reg ∧
      (⟨max due s.hw.now, .sendStatus, .nats [m.sender, m.txn, 1, 0, m.core]⟩ : Due) ∈ t.hw.agenda := by
  have harrive := State.arrive_eq hown hen hreg hsize hst hjust hpend
  rw [if_neg (by rw [hfull]; nofun), if_pos hroom] at harrive
  have hspilled : (s.hw.ctx m.core m.slot).st ≠ .spilled := by
    intro heq
    rw [heq] at hst
    exact hst.elim nofun nofun
  obtain ⟨hregs, l, p, hovf, hheld⟩ := State.holdArrival_holds hspilled
  have hexec := exec_sendArrival_eq harg himg (by rw [harrive]; exact hregs.now)
  rw [harrive] at hexec
  exact ⟨_, l, p, hexec, hovf, hheld, hregs.g _ _ _, (Hw.mem_agenda_schedule _ _ _ _ _).mpr (.inl rfl)⟩

/-- With no room it is refused (R91). -/
theorem sendArrival_refused (hfull : (s.hw.core m.core).fullBit (s.hw.ctx m.core m.slot) m.reg = true) (hroom : (s.hw.core m.core).ovfFree = 0) :
    ∃ t, exec .sendArrival s = .next t ∧ t.mem = s.mem ∧ t.hw.g m.core m.slot m.reg = s.hw.g m.core m.slot m.reg ∧
      (⟨max due s.hw.now, .sendStatus, .nats [m.sender, m.txn, 2, 3, m.core]⟩ : Due) ∈ t.hw.agenda := by
  have harrive := State.arrive_eq hown hen hreg hsize hst hjust hpend
  rw [if_neg (by rw [hfull]; nofun), if_neg (by omega)] at harrive
  have hexec := exec_sendArrival_eq harg himg (by rw [harrive])
  rw [harrive] at hexec
  exact ⟨_, hexec, rfl, rfl, (Hw.mem_agenda_schedule _ _ _ _ _).mpr (.inl rfl)⟩

end

/-- Settles O20: each step of a message by the one register or deque that it changes, and by what keeps all the others. -/
theorem messages : Obligations.Messages := by
  unfold Obligations.Messages
  intro s c sw a d b m o e due core slot uid n txn st
  refine ⟨fun hat hw h14 h7 hbooked hfence hroute => ?_, fun harg himg hown hen hreg hsize hst hjust hpend => ⟨?_, ?_, ?_⟩, ?_, ?_, ?_, ?_⟩
  · obtain ⟨t, hexec, hmem, hres, hdue⟩ := send_arrives sw a hat (badTarget_eq_false hw h14 h7) hbooked hfence hroute
    exact ⟨t, _, hexec, hmem, hres, hdue, rfl, rfl, by simp [State.sendMsg, bits], rfl, rfl⟩
  · exact fun hempty hnone => sendArrival_written harg himg hown hen hreg hsize hst hjust hpend hempty hnone
  · intro hfull hroom
    obtain ⟨t, l, p, hexec, hovf, hheld, hg, hdue⟩ := sendArrival_held harg himg hown hen hreg hsize hst hjust hpend hfull hroom
    exact ⟨t, l, p, hexec, hovf, hheld, hg, hdue⟩
  · exact fun hfull hroom => sendArrival_refused harg himg hown hen hreg hsize hst hjust hpend hfull hroom
  · exact fun cause target harg hfind hhand hreg halive hst hpend => sendStatus_pays harg hfind hhand hreg halive hst hpend
  · intro harg hn halive hst hfind hpend hempty
    have hexec : exec .overflowDelivery s = .next (s.onHw fun h => h.deliverHeld core slot n) := by
      rw [exec_overflowDelivery, execOverflowDelivery, harg]
      exact congrArg Host.Outcome.next (congrArg (fun h => { s with hw := h }) (if_pos ⟨halive, hst⟩))
    obtain ⟨hg, hfull, hovf⟩ := Hw.deliverHeld_lands (Nat.pos_iff_ne_zero.mp hn) hfind hpend hempty
    exact ⟨_, hexec, rfl, hg, hfull, hovf⟩
  · exact fun hat hb => take_empties sw hat hb
  · refine fun hcur => ⟨fun hpend => ?_, fun hpend => ?_⟩
    · rw [exec_clrf, execClrf, State.withCur_some hcur]
      exact congrArg Host.Outcome.next (if_pos hpend)
    · have hkeeps := Hw.keepsRegs_retire (s.hw.clears c b.toNat) c sw 1
      exact ⟨_, exec_clrf_clears sw hcur hpend, rfl,
        fun hb => (hkeeps.isFull _ _ _).trans (s.hw.isFull_clears c fun h => hb (BitVec.eq_of_toNat_eq h)),
        fun j hj => (hkeeps.isFull _ _ _).trans (s.hw.isFull_clears_ne c hj)⟩

end Sys2Proof.Machine
end

section
/-! PROOFS. Service calls, YIELD, ageing and the mode of a core (04_context R98 to R100; 10_issue R213, R217; 23_service R474; O22). -/

namespace Sys2Proof.Machine

/-! ### TRAP and its reply (R99, R474) -/

/-- A core of which a chain waits for the reply of a service call (R99): the register is empty, and the transaction is owed. -/
def Core.trapping (k : Core) (c : Cur) (x : Ctx) (a : GReg) (txn : Nat) : Core :=
  let x1 : Ctx := if a = 0 then x else { x with pend := x.pend ++ [Pend.trap a.toNat txn] }
  let k1 : Core := (k.putFull x a.toNat false).setCtx c.slot x1
  { k1 with owed := k1.owed ++ [(⟨txn, x.uid, c.slot, a.toNat, .plain, c.core, c, none⟩ : Owed)] }

theorem Core.wbase_trapping (k : Core) (c : Cur) (x : Ctx) (a : GReg) (txn : Nat) : ((k.trapping c x a txn).ctx c.slot).wbase = x.wbase := by
  refine (congrArg Ctx.wbase (Core.ctx_setCtx _ _ _)).trans ?_
  split <;> rfl

theorem Core.fullBit_trapping (k : Core) (c : Cur) (x : Ctx) {a : GReg} (ha : a ≠ 0) (txn : Nat) :
    (k.trapping c x a txn).fullBit ((k.trapping c x a txn).ctx c.slot) a.toNat = false :=
  (Core.fullBit_congr (k.putFull x a.toNat false) _ x _ _ rfl (k.wbase_trapping c x a txn)).trans
    (Core.fullBit_putFull _ _ _ false fun h => ha (BitVec.eq_of_toNat_eq h))

/-- The part once a chain has made a service call, before the request is posted. -/
def Hw.trapping (h : Hw) (c : Cur) (a : GReg) : Hw :=
  ({ h with nextTxn := h.nextTxn + 1 } : Hw).modSlot c.core c.slot (fun k x => k.trapping c x a h.nextTxn)

/-- The request of a service call (R99). -/
def Hw.trapReq (h : Hw) (c : Cur) (a : GReg) (n : Nat) : TrapReq := ⟨c.core, h.nextTxn, n, h.cg c a, (h.curCtx c).prin.toNat, (h.curCtx c).flags⟩

theorem exec_trap_posts {s : State} {c : Cur} (sw : Bool) {a : GReg} (n : BitVec 13) (hat : s.atHand c (regs [a]))
    (hbooked : (s.hw.curCtx c).booked = false) : exec (.trap sw a n) s = .next (s.onHw fun h =>
      ((h.trapping c a).modMod (moduleOf c.core) (fun m => { m with traps := m.traps ++ [h.trapReq c a n.toNat] })).retire c sw 1) := by
  rw [exec_trap, execTrap, State.withCur_some hat.1]
  exact congrArg Host.Outcome.next ((if_neg (by rw [hbooked]; nofun)).trans (State.reads_atHand hat _))

theorem trap_posts {s : State} {c : Cur} (sw : Bool) {a : GReg} (n : BitVec 13) (hat : s.atHand c (regs [a]))
    (hbooked : (s.hw.curCtx c).booked = false) : ∃ t, exec (.trap sw a n) s = .next t ∧ t.mem = s.mem ∧
      (a ≠ 0 → t.hw.isFull c.core c.slot a.toNat = false) ∧
      (t.hw.mod (moduleOf c.core)).traps = (s.hw.mod (moduleOf c.core)).traps ++ [s.hw.trapReq c a n.toNat] := by
  refine ⟨_, exec_trap_posts sw n hat hbooked, rfl, fun ha => ?_, ?_⟩
  · have hempty : ((s.hw.trapping c a).modMod (moduleOf c.core) (fun m => { m with traps := m.traps ++ [s.hw.trapReq c a n.toNat] })).isFull
        c.core c.slot a.toNat = false := by
      have hcore : (s.hw.trapping c a).core c.core = (s.hw.core c.core).trapping c (s.hw.curCtx c) a s.hw.nextTxn := Hw.core_modSlot _ _ _ _
      have htrap := (s.hw.core c.core).fullBit_trapping c (s.hw.curCtx c) ha s.hw.nextTxn
      rw [← hcore] at htrap
      exact htrap
    exact ((Hw.keepsRegs_retire _ c sw 1).isFull _ _ _).trans hempty
  · change (((s.hw.trapping c a).modMod (moduleOf c.core) (fun m => { m with traps := m.traps ++ [s.hw.trapReq c a n.toNat] })).mod
      (moduleOf c.core)).traps = _
    rw [Hw.mod_modMod]
    rfl

theorem Hw.keepsRegs_post (h : Hw) (core : Nat) (r : BitVec 256) : h.KeepsRegs (h.post core r) := by
  obtain ⟨mods, hpost⟩ := h.post_eq core r
  have hmods : h.KeepsRegs ({ h with mods := mods } : Hw) := Hw.keepsRegs_of_cores rfl rfl rfl
  obtain ⟨e4, lost, hposted⟩ := (({ h with mods := mods } : Hw).core core).posted_eq r
  rw [hpost]
  refine hmods.trans (Hw.keepsRegs_modCore _ core ?_)
  rw [hposted]
  exact ⟨rfl, rfl, rfl, fun _ => rfl, fun _ _ hp => hp⟩

theorem Hw.ctx_post (h : Hw) (core : Nat) (r : BitVec 256) (slot : Nat) : (h.post core r).ctx core slot = h.ctx core slot := by
  obtain ⟨e4, lost, hposted⟩ := (h.core core).posted_eq r
  rw [Hw.ctx, Hw.core_post, hposted]
  rfl

/-- The services of R474 by their number: an echo, the cores of a die, a log entry, and no service. -/
theorem Hw.trapValue_cases (h : Hw) (q : TrapReq) : (q.n = 0 → h.trapValue q = q.arg) ∧
    (q.n = 1 → 7 < q.arg.toNat → h.trapValue q = BitVec.allOnes 64) ∧ (q.n = 3 → h.trapValue q = 0) ∧
    (4 ≤ q.n → h.trapValue q = BitVec.allOnes 64) := by
  unfold Hw.trapValue
  refine ⟨fun hn => ?_, fun hn harg => ?_, fun hn => ?_, fun hn => ?_⟩
  · rw [hn]
    rfl
  · rw [hn]
    exact if_pos harg
  · rw [hn]
    rfl
  · split
    · omega
    · omega
    · omega
    · omega
    · rfl

theorem trapReply_pays {s : State} {core txn : Nat} {q : TrapReq} {o : Owed} (harg : s.hw.arg = .nats [core, txn])
    (htrap : (s.hw.mod (moduleOf core)).traps.find? (fun r => r.core == core && r.txn == txn) = some q)
    (hfind : (s.hw.core core).owed.find? (fun r => r.txn == txn) = some o) (hhand : o.hand = none) (hreg : 0 < o.reg)
    (halive : s.hw.alive core o.slot o.uid = true) (hst : (s.hw.ctx core o.slot).st = .ready ∨ (s.hw.ctx core o.slot).st = .parked)
    (hpend : (s.hw.ctx core o.slot).pend.any (fun p => p.ofTxn o.reg txn) = true) : ∃ t h, exec .trapReply s = .next t ∧ t.mem = s.mem ∧
      t.hw.g core o.slot o.reg = Hw.trapValue h q ∧ t.hw.isFull core o.slot o.reg = true := by
  have hexec : ∃ h, exec .trapReply s = .next (State.payOwed { s with hw := h } core txn (h.trapValue q)) ∧ s.hw.KeepsRegs h ∧
      h.ctx core o.slot = s.hw.ctx core o.slot := by
    rw [exec_trapReply, execTrapReply, harg]
    simp only [htrap]
    refine ⟨_, rfl, ?_⟩
    have hmods : s.hw.KeepsRegs (s.hw.modMod (moduleOf core) (fun m => { m with traps := m.traps.erase q })) := Hw.keepsRegs_of_cores rfl rfl rfl
    split
    · exact ⟨hmods.trans (Hw.keepsRegs_post _ _ _), Hw.ctx_post _ _ _ _⟩
    · exact ⟨hmods, rfl⟩
  obtain ⟨h, hexec, hregs, hctx⟩ := hexec
  have halive' : h.alive core o.slot o.uid = true := by rwa [Hw.alive, hctx]
  obtain ⟨hmem, hg, hfull, -⟩ := State.payOwed_pays (s := { s with hw := h }) (h.trapValue q) ((hregs.core core).owed.symm ▸ hfind) hhand hreg halive'
    (hctx.symm ▸ hst) (hctx.symm ▸ hpend)
  exact ⟨_, h, hexec, hmem, hg, hfull⟩

/-! ### YIELD and its end (R98) -/

/-- The slots whose contexts a YIELD waits for (R98). -/
def Hw.rivals (h : Hw) (c : Cur) : List Nat :=
  ((h.core c.core).slots.filter (fun (e : Nat × Ctx) => e.1 != c.slot && e.2.st == .ready && decide (e.2.eff ≤ (h.curCtx c).eff))).map (fun e => e.1)

theorem Hw.rivals_eq_nil {h : Hw} {c : Cur} (hnone : ∀ p ∈ (h.core c.core).slots, p.1 ≠ c.slot → p.2.st ≠ .ready ∨ (h.curCtx c).eff < p.2.eff) :
    h.rivals c = [] := by
  rw [Hw.rivals, List.map_eq_nil_iff, List.filter_eq_nil_iff]
  intro p hp
  by_cases hslot : p.1 = c.slot
  · simp [hslot]
  · obtain hst | heff := hnone p hp hslot
    · simp [hst]
    · simp [Nat.not_le.mpr heff]

theorem Hw.mem_rivals {h : Hw} {c : Cur} {e : Nat} {z : Ctx} (hmem : (e, z) ∈ (h.core c.core).slots) (hslot : e ≠ c.slot) (hst : z.st = .ready)
    (heff : z.eff ≤ (h.curCtx c).eff) : e ∈ h.rivals c :=
  List.mem_map.mpr ⟨(e, z), List.mem_filter.mpr ⟨hmem, by simp [hslot, hst, heff]⟩, rfl⟩

/-- The part after a YIELD that waits for other contexts (R98). -/
def Hw.yields (h : Hw) (c : Cur) (sw : Bool) : Hw :=
  ((({ h with nextTxn := h.nextTxn + 1 } : Hw).retire c sw 1).modCur c (fun y => { y with yieldWait := some (h.nextTxn, h.rivals c) })).after 64
    .yieldExpiry (.nats [c.core, c.slot, h.nextTxn])

theorem exec_yield_eq {s : State} {c : Cur} (sw : Bool) (hcur : s.hw.cur = some c) (hbooked : (s.hw.curCtx c).booked = false) :
    exec (.yield sw) s = .next (s.onHw fun h => if (h.core c.core).wheel ∨ h.rivals c = [] then h.retire c sw 1 else h.yields c sw) := by
  rw [exec_yield, execYield, State.withCur_some hcur]
  exact congrArg Host.Outcome.next (if_neg (by rw [hbooked]; nofun))

theorem yield_waits {s : State} {c : Cur} (sw : Bool) (hcur : s.hw.cur = some c) (hbooked : (s.hw.curCtx c).booked = false)
    (hwheel : (s.hw.core c.core).wheel = false) {e : Nat} (he : e ∈ s.hw.rivals c) : ∃ t r, exec (.yield sw) s = .next t ∧ t.mem = s.mem ∧
      (t.hw.curCtx c).yieldWait = some (s.hw.nextTxn, r) ∧ e ∈ r ∧
      (⟨s.hw.now + 64, .yieldExpiry, .nats [c.core, c.slot, s.hw.nextTxn]⟩ : Due) ∈ t.hw.agenda := by
  have hsome : ¬((s.hw.core c.core).wheel = true ∨ s.hw.rivals c = []) := by
    rintro (h | h)
    · rw [hwheel] at h
      cases h
    · exact List.ne_nil_of_mem he h
  refine ⟨_, s.hw.rivals c, exec_yield_eq sw hcur hbooked, rfl, ?_, he, ?_⟩
  · rw [State.onHw_hw, if_neg hsome, Hw.yields]
    exact congrArg Ctx.yieldWait (Hw.curCtx_modCur (({ s.hw with nextTxn := s.hw.nextTxn + 1 } : Hw).retire c sw 1) c
      (fun y => { y with yieldWait := some (s.hw.nextTxn, s.hw.rivals c) }))
  · rw [State.onHw_hw, if_neg hsome, Hw.yields]
    exact (Hw.mem_agenda_schedule _ _ _ _ _).mpr (.inl rfl)

/-- A change of one context is a change of its core alone. -/
theorem onlyCore_modCtx (s : State) (core slot : Nat) (f : Ctx → Ctx) : OnlyCore core s (s.onHw fun h => h.modCtx core slot f) :=
  ⟨⟨_, _, rfl⟩, fun d hd => Hw.core_modCtx_ne _ _ _ _ d fun h => hd h.symm⟩

/-- A context whose wait of number `t` ends (R98). -/
def Ctx.yieldEnds (x : Ctx) (t : Nat) : Ctx :=
  match x.yieldWait with
  | some (u, _) => if u = t then { x with yieldWait := none } else x
  | none => x

theorem Ctx.yieldEnds_eq {x : Ctx} {u : Nat} {l : List Nat} (hwait : x.yieldWait = some (u, l)) : x.yieldEnds u = { x with yieldWait := none } := by
  simp only [Ctx.yieldEnds, hwait, if_true]

theorem yieldExpiry_ends {s : State} {core slot u : Nat} {l : List Nat} (harg : s.hw.arg = .nats [core, slot, u])
    (hwait : (s.hw.ctx core slot).yieldWait = some (u, l)) : ∃ t, exec .yieldExpiry s = .next t ∧ t.mem = s.mem ∧
      t.hw.ctx core slot = { s.hw.ctx core slot with yieldWait := none } ∧ OnlyCore core s t := by
  have hexec : exec .yieldExpiry s = .next (s.onHw fun h => h.modCtx core slot (fun x => x.yieldEnds u)) := by
    rw [exec_yieldExpiry, execYieldExpiry, harg]
    rfl
  refine ⟨_, hexec, rfl, ?_, onlyCore_modCtx _ _ _ _⟩
  rw [State.onHw_hw, Hw.ctx_modCtx, Ctx.yieldEnds_eq hwait]

/-! ### Ageing and a core's mode (R213, R217) -/

theorem Ctx.eff_setEff_one (x : Ctx) : (x.setEff 1).eff = 1 := by
  have hx := x.role.isLt
  simp only [Ctx.eff, Ctx.setEff, putBits, bits, BitVec.toNat_ofNat]
  omega

theorem ageingPromotion_promotes {s : State} {core slot : Nat} (harg : s.hw.arg = .nats [core, slot]) (hst : (s.hw.ctx core slot).st = .ready)
    (hbooked : (s.hw.ctx core slot).booked = false) (hwheel : (s.hw.core core).wheel = false) (hw : 0 < (s.hw.ctx core slot).w) :
    ∃ t, exec .ageingPromotion s = .next t ∧ t.mem = s.mem ∧ (t.hw.ctx core slot).eff = 1 ∧
      (t.hw.ctx core slot).decl = (s.hw.ctx core slot).decl ∧ OnlyCore core s t := by
  have hexec : exec .ageingPromotion s = .next (s.onHw fun h => h.modCtx core slot (fun x => x.setEff 1)) := by
    rw [exec_ageingPromotion, execAgeingPromotion, harg]
    have hmay : ((s.hw.core core).ctx slot).st = .ready ∧ (!((s.hw.core core).ctx slot).booked) = true ∧ (!(s.hw.core core).wheel) = true ∧
        0 < ((s.hw.core core).ctx slot).w := ⟨hst, by rw [← Hw.ctx, hbooked]; rfl, by rw [hwheel]; rfl, hw⟩
    exact congrArg (fun h => Host.Outcome.next { s with hw := h }) (if_pos hmay)
  refine ⟨_, hexec, rfl, ?_, ?_, onlyCore_modCtx _ _ _ _⟩
  · rw [State.onHw_hw, Hw.ctx_modCtx, Ctx.eff_setEff_one]
  · rw [State.onHw_hw, Hw.ctx_modCtx, Ctx.decl_setEff]

theorem coreModeSet_due {s : State} {core mode : Nat} (harg : s.hw.arg = .nats [core, mode])
    (hfree : ∀ p ∈ (s.hw.core core).slots, p.2.st = .free) : ∃ t, exec .coreModeSet s = .next t ∧ t.mem = s.mem ∧
      t.hw.core core = s.hw.core core ∧ (⟨s.hw.now + 16 - s.hw.count core % 16, .coreModeSet, .nats [core, mode, 1]⟩ : Due) ∈ t.hw.agenda := by
  have hall : (s.hw.core core).slots.all (fun (e : Nat × Ctx) => e.2.st == .free) = true := by
    rw [List.all_eq_true]
    exact fun p hp => beq_iff_eq.mpr (hfree p hp)
  have hexec : exec .coreModeSet s = .next (s.onHw fun h => h.schedule (h.now + 16 - h.count core % 16) .coreModeSet (.nats [core, mode, 1])) := by
    rw [exec_coreModeSet, execCoreModeSet, harg]
    exact congrArg Host.Outcome.next (if_pos hall)
  exact ⟨_, hexec, rfl, rfl, (Hw.mem_agenda_schedule _ _ _ _ _).mpr (.inl rfl)⟩

theorem coreModeSet_sets {s : State} {core mode : Nat} (harg : s.hw.arg = .nats [core, mode, 1]) : ∃ t, exec .coreModeSet s = .next t ∧
    t.mem = s.mem ∧ OnlyCore core s t ∧ t.hw.core core = { s.hw.core core with wheel := decide (mode = 1) } := by
  have hexec : exec .coreModeSet s = .next (s.onHw fun h => h.modCore core (fun k => { k with wheel := mode == 1 })) := by
    rw [exec_coreModeSet, execCoreModeSet, harg]
  refine ⟨_, hexec, rfl, ⟨⟨_, _, rfl⟩, fun d hd => Hw.core_modCore_ne _ _ _ d fun h => hd h.symm⟩, ?_⟩
  rw [State.onHw_hw, Hw.core_modCore]
  rfl

/-- Settles O22: a service's reply is a result that is paid; the others by the one context, or the one core, that they change. -/
theorem trapsAndTurns : Obligations.TrapsAndTurns := by
  unfold Obligations.TrapsAndTurns
  intro s c sw a n k q o core slot txn mode u e l
  refine ⟨fun hat hbooked => trap_posts sw n hat hbooked, fun harg htrap hfind hhand hreg halive hst hpend => ?_, fun hcur => ?_,
    fun hcur hbooked => ⟨fun hnone => ?_, fun hwheel hrival => ?_⟩, fun harg hwait => yieldExpiry_ends harg hwait,
    fun harg hst hbooked hwheel _ hw => ageingPromotion_promotes harg hst hbooked hwheel hw,
    fun hfree harg => coreModeSet_due harg hfree, fun harg => coreModeSet_sets harg⟩
  · obtain ⟨t, h, hexec, hmem, hg, hfull⟩ := trapReply_pays harg htrap hfind hhand hreg halive hst hpend
    exact ⟨t, _, hexec, hmem, hg, hfull, h.trapValue_cases q⟩
  · rw [exec_brk, execBrk, State.withCur_some hcur]
  · rw [exec_yield_eq sw hcur hbooked]
    exact congrArg (fun h => Host.Outcome.next { s with hw := h }) (if_pos (hnone.imp_right Hw.rivals_eq_nil))
  · obtain ⟨z, hmem, hslot, hst, heff⟩ := hrival
    exact yield_waits sw hcur hbooked hwheel (Hw.mem_rivals hmem hslot hst heff)

end Sys2Proof.Machine
end

section
/-! PROOFS. SPAWN, its arrival, and the start of a context (04_context R96; 11_queue R228; 20_tags R416; O21). -/

namespace Sys2Proof.Machine

/-! ### SPAWN (R96) -/

/-- The words of a SPAWN (R96): four arguments, then the segments, the identity and the kernel that the new context takes. -/
def State.spawnWords (s : State) (c : Cur) (b : GReg) (imp : Nat) : List Word :=
  let x := s.hw.curCtx c
  (regRun b.toNat 4).map (s.hw.cgn c) ++ ((List.range 8).flatMap (fun i => (x.seg i).words)) ++
    [BitVec.ofNat 64 x.otag.toNat, BitVec.ofNat 64 x.gset.toNat, BitVec.ofNat 64 x.prin.toNat, BitVec.ofNat 64 x.prio.toNat,
      BitVec.ofNat 64 x.steald.toNat, BitVec.ofNat 64 x.decl] ++
    digestWords ((s.hw.entry (clusterOf c.core) x.entry).imports.getD imp 0)

theorem State.take_spawnWords (s : State) (c : Cur) (b : GReg) (imp : Nat) :
    (s.spawnWords c b imp).take 4 = (regRun b.toNat 4).map (s.hw.cgn c) := by
  rw [State.spawnWords, List.append_assoc, List.append_assoc]
  exact List.take_left' (by simp [regRun])

/-- The numbers of a SPAWN's request (R96). -/
def State.spawnNats (s : State) (c : Cur) (w : Nat) : List Nat :=
  [c.core, s.hw.nextTxn, bits w 36 16, bits w 7 4, (s.hw.tenantOf c.core).getD 0, bit (s.hw.curCtx c).service,
    s.hw.now + s.hw.scratchLatency c.core (bits w 36 16)]

section
variable {s : State} {c : Cur} (sw : Bool) (a : GReg) {d b : GReg} (hat : s.atHand c (d.toNat :: regRun b.toNat 4))
  (hsize : b.toNat + 3 < (s.hw.curCtx c).wsize) (hbooked : (s.hw.curCtx c).booked = false)
  (hmbz : bits (s.hw.cg c d).toNat 63 37 = 0 ∧ bits (s.hw.cg c d).toNat 3 0 = 0)
  (himp : bits (s.hw.cg c d).toNat 15 8 < (s.hw.entry (clusterOf c.core) (s.hw.curCtx c).entry).imports.length)
  (hroute : s.hw.routeFails c.core ((s.hw.tenantOf c.core).getD 0) true (bits (s.hw.cg c d).toNat 36 16)
    (s.hw.scratchLatency c.core (bits (s.hw.cg c d).toNat 36 16)) = none)
include hat hsize hbooked hmbz himp hroute

theorem exec_spawn_goes : exec (.spawn sw a d b) s = .next (s.onHw fun h =>
    ((h.owing c a.toNat (bits (s.hw.cg c d).toNat 36 16) .plain).after (h.scratchLatency c.core (bits (s.hw.cg c d).toNat 36 16) / 2 + 1)
      .spawnArrival (.words (s.spawnNats c (s.hw.cg c d).toNat) (s.spawnWords c b (bits (s.hw.cg c d).toNat 15 8)))).retire c sw 1) := by
  obtain ⟨hcur, hregs⟩ := hat
  obtain ⟨hhigh, hlow⟩ := hmbz
  have hat1 : s.atHand c [d.toNat] := ⟨hcur, fun n hn => hregs n (List.mem_cons.mpr (.inl (List.mem_singleton.mp hn)))⟩
  have hat4 : s.atHand c (regRun b.toNat 4) := ⟨hcur, fun n hn => hregs n (List.mem_cons_of_mem _ hn)⟩
  have hmbz : ¬(bits (s.hw.cg c d).toNat 63 37 ≠ 0 ∨ bits (s.hw.cg c d).toNat 3 0 ≠ 0) := by simp [hhigh, hlow]
  rw [exec_spawn, execSpawn, State.withCur_some hcur, State.reads_atHand hat1]
  refine congrArg Host.Outcome.next ((if_neg (by rw [hbooked]; nofun)).trans ((if_neg hmbz).trans ((if_neg (Nat.not_le.mpr himp)).trans
    ((State.window_ok hsize _).trans ((State.reads_atHand hat4 _).trans ?_)))))
  have hroute' : (s.hw.owing c a.toNat (bits (s.hw.cg c d).toNat 36 16) .plain).routeFails c.core ((s.hw.tenantOf c.core).getD 0) true
      (bits (s.hw.cg c d).toNat 36 16) (s.hw.scratchLatency c.core (bits (s.hw.cg c d).toNat 36 16)) = none := by
    rw [Hw.routeFails_owing, hroute]
  unfold Hw.owing at hroute'
  simp only [State.onHw, hroute']
  rfl

theorem spawn_sends : ∃ t, exec (.spawn sw a d b) s = .next t ∧ t.mem = s.mem ∧ (a ≠ 0 → t.hw.isFull c.core c.slot a.toNat = false) ∧
    (⟨s.hw.now + (s.hw.scratchLatency c.core (bits (s.hw.cg c d).toNat 36 16) / 2 + 1), .spawnArrival,
      .words (s.spawnNats c (s.hw.cg c d).toNat) (s.spawnWords c b (bits (s.hw.cg c d).toNat 15 8))⟩ : Due) ∈ t.hw.agenda := by
  refine ⟨_, exec_spawn_goes sw a hat hsize hbooked hmbz himp hroute, rfl, fun ha => ?_, ?_⟩
  · obtain ⟨hempty, -⟩ := s.hw.owing_awaits c (bits (s.hw.cg c d).toNat 36 16) .plain (reg := a.toNat) fun h => ha (BitVec.eq_of_toNat_eq h)
    exact ((Hw.keepsRegs_retire _ c sw 1).isFull _ _ _).trans hempty
  · refine (Hw.keepsRegs_retire _ c sw 1).agenda ((Hw.mem_agenda_schedule _ _ _ _ _).mpr (.inl ?_))
    rw [Hw.now_owing]

end

/-! ### The arrival of a SPAWN (R96, R228, R416) -/

theorem SMap.get_filter {α : Type} (d : α) (p : Nat → Bool) (m : SMap α) (j : Nat) :
    SMap.get d (m.filter (fun e => p e.1)) j = if p j then SMap.get d m j else d := by
  rw [SMap.get, SMap.find?_filter]
  split <;> rfl

/-- A window that has been cleared reads 0 (R76). -/
theorem Core.g_clearWindow (k : Core) {x : Ctx} {n : Nat} (hn : n < x.wsize) : (k.clearWindow x.wbase x.wsize).g x n = 0 := by
  have hin : (decide (x.entryOf n < x.wbase) || decide (x.wbase + x.wsize ≤ x.entryOf n)) = false := by
    simp [Ctx.entryOf]
    omega
  unfold Core.g
  split
  · rfl
  · refine (SMap.get_filter 0 (fun e => decide (e < x.wbase) || decide (x.wbase + x.wsize ≤ e)) k.rf _).trans ?_
    rw [hin]
    rfl

/-- Words put into consecutive registers of a window from register `i + 1` on (R76). -/
def Core.putArgs (k : Core) (x : Ctx) (l : List (Nat × Word)) : Core := l.foldl (fun k p => k.putG x (p.1 + 1) p.2) k

theorem Core.putArgs_cons (k : Core) (x : Ctx) (p : Nat × Word) (l : List (Nat × Word)) :
    k.putArgs x (p :: l) = (k.putG x (p.1 + 1) p.2).putArgs x l := rfl

theorem Core.ctx_putArgs (k : Core) (x : Ctx) (l : List (Nat × Word)) (j : Nat) : (k.putArgs x l).ctx j = k.ctx j := by
  induction l generalizing k with
  | nil => rfl
  | cons p r ih => rw [Core.putArgs_cons, ih, Core.ctx_putG]

theorem Core.g_putArgs_before (k : Core) (x : Ctx) (l : List Word) {n i j : Nat} (hj : j < i) :
    (k.putArgs x ((List.range' i n).zip l)).g x (j + 1) = k.g x (j + 1) := by
  induction n generalizing k l i with
  | zero => rfl
  | succ n ih =>
    cases l with
    | nil => rfl
    | cons v r =>
      rw [List.range'_succ, List.zip_cons_cons, Core.putArgs_cons, ih _ _ (by omega), Core.g_putG_ne _ _ _ _ _ (by simp only; omega)]

theorem Core.g_putArgs (k : Core) (x : Ctx) (l : List Word) {n i j : Nat} (hi : i ≤ j) (hj : j < i + n) :
    (k.putArgs x ((List.range' i n).zip l)).g x (j + 1) = l.getD (j - i) (k.g x (j + 1)) := by
  induction n generalizing k l i with
  | zero => omega
  | succ n ih =>
    cases l with
    | nil => rfl
    | cons v r =>
      rw [List.range'_succ, List.zip_cons_cons, Core.putArgs_cons]
      obtain heq | hlt : i = j ∨ i + 1 ≤ j := by omega
      · subst heq
        rw [Core.g_putArgs_before _ _ _ (Nat.lt_succ_self i), Core.g_putG _ _ _ _ (Nat.succ_ne_zero i), Nat.sub_self]
        rfl
      · have hsub : j - i = j - (i + 1) + 1 := by omega
        rw [ih _ _ hlt (by omega), Core.g_putG_ne _ _ _ _ _ (by simp only; omega), hsub]
        rfl

theorem Core.place_eq (k : Core) (slot : Nat) (x : Ctx) (args : List Word) :
    k.place slot x args = ((k.clearWindow x.wbase x.wsize).setCtx slot x).putArgs x ((List.range' 0 4).zip args) := by
  rw [← List.range_eq_range']
  rfl

theorem Core.ctx_place (k : Core) (slot : Nat) (x : Ctx) (args : List Word) : (k.place slot x args).ctx slot = x := by
  rw [Core.place_eq, Core.ctx_putArgs, Core.ctx_setCtx]

/-- A new context finds its arguments in `g1` to `g4` (R76). -/
theorem Core.g_place (k : Core) (slot : Nat) {x : Ctx} (args : List Word) {j : Nat} (hj : j < 4) (hsize : 4 < x.wsize) :
    (k.place slot x args).g x (j + 1) = args.getD j 0 := by
  rw [Core.place_eq, Core.g_putArgs _ _ _ (Nat.zero_le j) (by omega)]
  exact congrArg (args.getD (j - 0)) ((Core.g_congr _ _ _ _ _ rfl rfl).trans (k.g_clearWindow (by omega)))

/-- A need of a grant set takes no time, and writes no memory (R416). -/
theorem State.grantTake_still (s : State) (core i p : Nat) : (s.grantTake core i p).mem = s.mem ∧ (s.grantTake core i p).hw.now = s.hw.now := by
  unfold State.grantTake
  simp only
  split
  · unfold State.grantLoad
    simp only
    split <;> exact ⟨rfl, rfl⟩
  · exact ⟨rfl, rfl⟩

/-- The answer to a SPAWN (R96). -/
def State.spawnAnswer (s : State) (sender txn core due st cause : Nat) : State :=
  s.onHw fun h => h.schedule (max due h.now) .sendStatus (.nats [sender, txn, st, cause, core])

theorem State.mem_agenda_spawnAnswer {s : State} {now : Nat} (hnow : s.hw.now = now) (sender txn core due st cause : Nat) :
    (⟨max due now, .sendStatus, .nats [sender, txn, st, cause, core]⟩ : Due) ∈ (s.spawnAnswer sender txn core due st cause).hw.agenda := by
  rw [← hnow]
  exact (Hw.mem_agenda_schedule _ _ _ _ _).mpr (.inl rfl)

section
variable {s : State} {sender txn core wsz tenant svc due : Nat} {ws : List Word}
  (harg : s.hw.arg = .words [sender, txn, core, wsz, tenant, svc, due] ws) (himg : (s.hw.core core).imaging = false)
  (hown : svc ≠ 0 ∨ core = sender ∨ s.hw.tenantOf core = some tenant) (hen : s.hw.coreDisabled core = false)
include harg himg hown hen

theorem spawnArrival_noSlot (hslot : (s.hw.core core).findSlot s.hw.now = none) :
    exec .spawnArrival s = .next (s.spawnAnswer sender txn core due 2 3) := by
  have hforeign : ¬(svc = 0 ∧ core ≠ sender ∧ s.hw.tenantOf core ≠ some tenant) := by tauto
  rw [exec_spawnArrival, execSpawnArrival, harg]
  simp only [himg, hslot, hforeign, hen, Bool.false_eq_true, if_false]
  rfl

theorem spawnArrival_starts {slot base : Nat} (hneed : s.hw.grantNeed core (ws.getD 21 0).toNat (ws.getD 22 0).toNat ≠ .refused)
    (hslot : (s.hw.core core).findSlot s.hw.now = some slot) (hwindow : (s.hw.core core).findWindow s.hw.now ((wsz + 1) * 8) = some base) :
    ∃ x uid, exec .spawnArrival s = .next (((s.grantTake core (ws.getD 21 0).toNat (ws.getD 22 0).toNat).onHw fun h =>
        (({ h with nextTxn := uid + 1 } : Hw).modCore core (fun k => k.place slot x (ws.take 4))).schedule (s.hw.now - 1 + 8) .taskReady
          (.nats [core, slot, uid])).spawnAnswer sender txn core due 0 0) ∧ x.st = .starting ∧ x.wsize = (wsz + 1) * 8 := by
  have hforeign : ¬(svc = 0 ∧ core ≠ sender ∧ s.hw.tenantOf core ≠ some tenant) := by tauto
  rw [exec_spawnArrival, execSpawnArrival, harg]
  simp only [himg, hslot, hwindow, hforeign, hen, hneed, Bool.false_eq_true, if_false]
  exact ⟨_, _, rfl, rfl, rfl⟩

/-- A SPAWN that finds a slot and a window starts a context there, with its arguments in `g1` to `g4`. -/
theorem spawnArrival_places {slot base : Nat} (hneed : s.hw.grantNeed core (ws.getD 21 0).toNat (ws.getD 22 0).toNat ≠ .refused)
    (hslot : (s.hw.core core).findSlot s.hw.now = some slot) (hwindow : (s.hw.core core).findWindow s.hw.now ((wsz + 1) * 8) = some base) :
    ∃ t, exec .spawnArrival s = .next t ∧ t.mem = s.mem ∧ (t.hw.ctx core slot).st = .starting ∧ (t.hw.ctx core slot).wsize = (wsz + 1) * 8 ∧
      (∀ j, j < 4 → t.hw.g core slot (j + 1) = ws.getD j 0) ∧
      (⟨max due s.hw.now, .sendStatus, .nats [sender, txn, 0, 0, core]⟩ : Due) ∈ t.hw.agenda := by
  obtain ⟨x, uid, hexec, hst, hsize⟩ := spawnArrival_starts harg himg hown hen hneed hslot hwindow
  obtain ⟨hmem, hnow⟩ := s.grantTake_still core (ws.getD 21 0).toNat (ws.getD 22 0).toNat
  refine ⟨_, hexec, hmem, ?_⟩
  generalize hs1 : s.grantTake core (ws.getD 21 0).toNat (ws.getD 22 0).toNat = s1 at hnow
  have hcore : (({ s1.hw with nextTxn := uid + 1 } : Hw).modCore core (fun k => k.place slot x (ws.take 4))).core core =
      (s1.hw.core core).place slot x (ws.take 4) := Hw.core_modCore _ _ _
  have hctx : (({ s1.hw with nextTxn := uid + 1 } : Hw).modCore core (fun k => k.place slot x (ws.take 4))).ctx core slot = x := by
    rw [Hw.ctx, hcore, Core.ctx_place]
  refine ⟨(congrArg Ctx.st hctx).trans hst, (congrArg Ctx.wsize hctx).trans hsize, fun j hj => ?_, ?_⟩
  · have hg : (({ s1.hw with nextTxn := uid + 1 } : Hw).modCore core (fun k => k.place slot x (ws.take 4))).g core slot (j + 1) = ws.getD j 0 := by
      rw [Hw.g, hctx, hcore, Core.g_place _ _ _ hj (by omega)]
      simp [List.getD_eq_getElem?_getD, hj]
    exact hg
  · refine State.mem_agenda_spawnAnswer ?_ _ _ _ _ _ _
    exact hnow

end

/-! ### The start of a context (R224, R228, R416) -/

/-- A context whose kernel is installed runs at offset 0 of the entry (R224). -/
theorem State.begin_installed {s : State} {core slot e : Nat} (hinst : s.hw.installed (clusterOf core) (s.hw.ctx core slot).kernel = some e) :
    (s.begin_ core slot).mem = s.mem ∧ ((s.begin_ core slot).hw.ctx core slot).st = (s.hw.ctx core slot).st ∧
      ((s.begin_ core slot).hw.ctx core slot).entry = e ∧ ((s.begin_ core slot).hw.ctx core slot).pc = 0 := by
  have hbegin : s.begin_ core slot = s.onHw fun h => (h.runInc (clusterOf core) e).enterEntry core slot e := by
    simp only [State.begin_, hinst]
  rw [hbegin, State.onHw_hw, Hw.enterEntry, Hw.ctx_setCtx]
  exact ⟨rfl, rfl, rfl, rfl⟩

/-- One whose kernel is not parks with reason code (R224, R270). -/
theorem State.begin_absent {s : State} {core slot : Nat} (hinst : s.hw.installed (clusterOf core) (s.hw.ctx core slot).kernel = none) :
    (s.begin_ core slot).mem = s.mem ∧ ((s.begin_ core slot).hw.ctx core slot).st = .parked ∧
      ∃ j, ((s.begin_ core slot).hw.ctx core slot).park = some (.code j) := by
  simp only [State.begin_, hinst, Hw.ctx_setCtx]
  exact ⟨trivial, rfl, _, rfl⟩

section
variable {s : State} {core slot uid : Nat} (harg : s.hw.arg = .nats [core, slot, uid]) (hst : (s.hw.ctx core slot).st = .starting)
  (huid : (s.hw.ctx core slot).uid = uid) (hdue : (s.hw.ctx core slot).notBefore ≤ s.hw.now)
  (hgrant : ((s.hw.core core).grantSet (s.hw.ctx core slot).gset.toNat).state = 2)
include harg hst huid hdue hgrant

/-- A chosen context is Ready, and begins. -/
theorem exec_taskReady_begins : ∃ s1 : State, exec .taskReady s = .next (s1.begin_ core slot) ∧ s1.mem = s.mem ∧ (s1.hw.ctx core slot).st = .ready ∧
    s1.hw.installed (clusterOf core) (s1.hw.ctx core slot).kernel = s.hw.installed (clusterOf core) (s.hw.ctx core slot).kernel := by
  have hmay : ¬((s.hw.ctx core slot).st ≠ .starting ∨ (s.hw.ctx core slot).uid ≠ uid ∨ s.hw.now < (s.hw.ctx core slot).notBefore) := by
    rintro (h | h | h)
    · exact h hst
    · exact h huid
    · omega
  have hexec : exec .taskReady s =
      .next ((s.onHw (fun h => h.setCtx core slot ({ s.hw.ctx core slot with st := .ready }.settle))).begin_ core slot) := by
    rw [exec_taskReady, execTaskReady, harg]
    exact congrArg Host.Outcome.next ((if_neg hmay).trans (if_neg (not_not.mpr hgrant)))
  refine ⟨_, hexec, rfl, ?_, ?_⟩
  · rw [State.onHw_hw, Hw.ctx_setCtx]
    rfl
  · rw [State.onHw_hw, Hw.ctx_setCtx]
    rfl

end

/-! ### A grant set that has been loaded (R416) -/

/-- A context of a core that waits for its grant set goes on with it. -/
def Hw.goesOn (h : Hw) (core i : Nat) (e : Nat × Ctx) : Hw :=
  if e.2.st = .starting ∧ e.2.gset.toNat = i ∧ e.2.notBefore ≤ h.now then h.schedule h.now .taskReady (.nats [core, e.1, e.2.uid]) else h

theorem Hw.binds_goesOn (h : Hw) (core i : Nat) (e : Nat × Ctx) : h.Binds (h.goesOn core i e) := by
  unfold Hw.goesOn
  split
  · exact h.binds_schedule _ _ _
  · exact .refl h

theorem Hw.mem_agenda_goesOn {core i slot : Nat} {x : Ctx} (hst : x.st = .starting) (hset : x.gset.toNat = i) (l : List (Nat × Ctx))
    (hmem : (slot, x) ∈ l) (h : Hw) (hdue : x.notBefore ≤ h.now) :
    (⟨h.now, .taskReady, .nats [core, slot, x.uid]⟩ : Due) ∈ (l.foldl (fun h e => h.goesOn core i e) h).agenda := by
  induction l generalizing h with
  | nil => exact absurd hmem List.not_mem_nil
  | cons e r ih =>
    have hnow := (h.binds_goesOn core i e).now
    obtain heq | hr := List.mem_cons.mp hmem
    · subst heq
      refine (Hw.binds_foldl _ (fun h e => h.binds_goesOn core i e) r _).agenda ?_
      change _ ∈ (h.goesOn core i (slot, x)).agenda
      rw [Hw.goesOn, if_pos ⟨hst, hset, hdue⟩, Hw.mem_agenda_schedule]
      exact .inl rfl
    · rw [← hnow]
      exact ih hr _ (hnow.symm ▸ hdue)

theorem SMap.mem_of_find? {α : Type} {m : SMap α} {j : Nat} {v : α} (h : SMap.find? m j = some v) : (j, v) ∈ m := by
  induction m with
  | nil => cases h
  | cons e r ih =>
    obtain ⟨i, w⟩ := e
    rw [SMap.find?] at h
    split at h
    next hij =>
      cases h
      exact hij ▸ List.mem_cons_self
    · exact List.mem_cons_of_mem _ (ih h)

/-- A slot whose context is not Free is one of those that its core keeps. -/
theorem Core.mem_slots {k : Core} {slot : Nat} (h : (k.ctx slot).st ≠ .free) : (slot, k.ctx slot) ∈ k.slots := by
  cases hfind : SMap.find? k.slots slot with
  | none =>
    rw [Core.ctx, SMap.get, hfind] at h
    exact absurd rfl h
  | some x =>
    rw [Core.ctx, SMap.get, hfind]
    exact SMap.mem_of_find? hfind

theorem grantSetLoadComplete_loads {s : State} {core i : Nat} (harg : s.hw.arg = .nats [core, i]) (hload : ((s.hw.core core).grantSet i).state = 1) :
    ∃ t, exec .grantSetLoadComplete s = .next t ∧ t.mem = s.mem ∧
      (t.hw.core core).grantSet i = { (s.hw.core core).grantSet i with state := 2 } ∧
      ∀ slot, (s.hw.ctx core slot).st = .starting → (s.hw.ctx core slot).gset.toNat = i → (s.hw.ctx core slot).notBefore ≤ s.hw.now →
        (⟨s.hw.now, .taskReady, .nats [core, slot, (s.hw.ctx core slot).uid]⟩ : Due) ∈ t.hw.agenda := by
  have hexec : exec .grantSetLoadComplete s = .next (s.onHw fun h => (h.core core).slots.foldl (fun h e => h.goesOn core i e)
      (h.setGrant core i { (h.core core).grantSet i with state := 2 })) := by
    rw [exec_grantSetLoadComplete, execGrantSetLoadComplete, harg]
    exact congrArg (fun h => Host.Outcome.next { s with hw := h }) (if_neg (not_not.mpr hload))
  have hbinds := Hw.binds_foldl (fun h e => h.goesOn core i e) (fun h e => h.binds_goesOn core i e) (s.hw.core core).slots
    (s.hw.setGrant core i { (s.hw.core core).grantSet i with state := 2 })
  refine ⟨_, hexec, rfl, ?_, fun slot hst hset hdue => ?_⟩
  · rw [State.onHw_hw, hbinds.core, Hw.setGrant, Hw.core_modCore]
    exact SMap.get_set_same _ _ _ _
  · exact Hw.mem_agenda_goesOn hst hset _ (Core.mem_slots (by rw [← Hw.ctx, hst]; nofun)) _ hdue

/-- Settles O21: the request by the words that it carries, its arrival by the slot that it fills, and the start by the lookup of the kernel. -/
theorem spawns : Obligations.Spawns := by
  unfold Obligations.Spawns
  intro s c sw a d b ws sender txn core slot uid wsz tenant svc due base e i
  refine ⟨fun hat hsize hw hlow hbooked himp hroute => ?_,
    fun harg himg hown hen hneed => ⟨fun hslot hwindow => spawnArrival_places harg himg hown hen hneed hslot hwindow, fun hslot => ?_⟩,
    fun harg hst huid hdue hgrant => ?_, fun harg hload => ?_⟩
  · have hhigh : bits (s.hw.cg c d).toNat 63 37 = 0 := by rw [bits, Nat.div_eq_of_lt hw, Nat.zero_mod]
    have hlow' : bits (s.hw.cg c d).toNat 3 0 = 0 := by rw [bits, Nat.pow_zero, Nat.div_one]; exact hlow
    obtain ⟨t, hexec, hmem, hempty, hdue⟩ := spawn_sends sw a hat hsize hbooked ⟨hhigh, hlow'⟩ himp hroute
    exact ⟨t, _, hexec, hmem, hempty, ⟨_, hdue, rfl⟩, s.take_spawnWords c b _⟩
  · exact ⟨_, spawnArrival_noSlot harg himg hown hen hslot, rfl, fun _ => rfl, State.mem_agenda_spawnAnswer rfl _ _ _ _ _ _⟩
  · obtain ⟨s1, hexec, hmem, hready, hinst⟩ := exec_taskReady_begins harg hst huid hdue hgrant
    refine ⟨fun hhit => ?_, fun hmiss => ?_⟩
    · obtain ⟨hmem', hst', hentry, hpc⟩ := State.begin_installed (hinst.trans hhit)
      exact ⟨_, hexec, hmem'.trans hmem, hst'.trans hready, hentry, hpc⟩
    · obtain ⟨hmem', hst', j, hpark⟩ := State.begin_absent (hinst.trans hmiss)
      exact ⟨_, j, hexec, hmem'.trans hmem, hst', hpark⟩
  · obtain ⟨t, hexec, hmem, hset, hgo⟩ := grantSetLoadComplete_loads harg hload
    exact ⟨t, hexec, hmem, hset, hgo slot⟩

end Sys2Proof.Machine
end

section
/-! PROOFS. A range of memory that is written and read back, and the registers of a slot image (12_preempt R246, R252; O37). -/

namespace Sys2Proof.Machine

/-! ### Runs of bytes -/

theorem Mem.length_readN (m : Mem) (k n : Nat) : (m.readN k n).length = n := by
  induction n generalizing k with
  | zero => rfl
  | succ n ih => rw [Mem.readN, List.length_cons, ih]

theorem Mem.readN_add (m : Mem) (k a b : Nat) : m.readN k (a + b) = m.readN k a ++ m.readN (k + a) b := by
  induction a generalizing k with
  | zero => rw [Nat.zero_add]; rfl
  | succ a ih => rw [Nat.add_right_comm, Mem.readN, ih, Mem.readN, List.cons_append, Nat.add_assoc k 1 a, Nat.add_comm 1 a]

/-- Bytes inside a run are a part of it. -/
theorem Mem.readN_within (m : Mem) (k : Nat) {a n len : Nat} (h : a + n ≤ len) : m.readN (k + a) n = ((m.readN k len).drop a).take n := by
  obtain ⟨b, rfl⟩ := Nat.exists_eq_add_of_le h
  rw [Nat.add_assoc, Mem.readN_add, Mem.readN_add, List.drop_left' (m.length_readN k a), List.take_left' (m.length_readN (k + a) n)]

/-- A write that keeps its sector's tag reads back. -/
theorem Mem.readN_writeSector_keep {m : Mem} (h : m.wf = true) (k : Nat) (bs : List Byte) :
    (m.writeSector k bs none).readN k bs.length = bs := by
  have hread : (m.writeSector k bs none).readN k bs.length = (m.putN k bs).readN k bs.length := by
    refine Mem.readN_congr fun j _ _ => ?_
    unfold Mem.writeSector
    simp only
    split <;> rfl
  rw [hread, Mem.readN_putN h]

/-- The pieces of a range, written one after the other with their sectors' tags kept, hold the range's bytes, and leave all others. -/
theorem Mem.readN_writePieces (bs : List Byte) (fuel : Nat) {m : Mem} {k len off : Nat} (h : m.wf = true) (hin : off + len ≤ bs.length)
    (hfuel : len ≠ 0 → k % 32 + len ≤ 32 * fuel) (m' : Mem)
    (hm : m' = (pieces fuel k len off).foldl (fun m p => m.writeSector p.key ((bs.drop p.off).take p.len) none) m) :
    m'.readN k len = (bs.drop off).take len ∧ ∀ j, j < k ∨ k + len ≤ j → m'.read j = m.read j := by
  induction fuel generalizing m k len off with
  | zero =>
    obtain rfl : len = 0 := by omega
    exact ⟨rfl, fun _ _ => hm ▸ rfl⟩
  | succ fuel ih =>
    by_cases hlen : len = 0
    · subst hlen
      exact ⟨rfl, fun _ _ => hm ▸ rfl⟩
    · rw [pieces, if_neg hlen, List.foldl_cons] at hm
      generalize hn : min len (32 - k % 32) = n at hm
      have hfull : n ≤ len ∧ n ≤ 32 - k % 32 ∧ (n = len ∨ n = 32 - k % 32) := by omega
      obtain ⟨hle, -, hcase⟩ := hfull
      have hmod := hfuel hlen
      have hpiece : ((bs.drop off).take n).length = n := by rw [List.length_take, List.length_drop]; omega
      obtain ⟨hrest, hout⟩ := ih (Mem.wf_writeSector h k ((bs.drop off).take n) none) (k := k + n) (len := len - n) (off := off + n) (by omega)
        (by omega) hm
      have hkeep := Mem.read_writeSector_keep_out h k ((bs.drop off).take n)
      have hhead := Mem.readN_writeSector_keep h k ((bs.drop off).take n)
      rw [hpiece] at hkeep hhead
      refine ⟨?_, fun j hj => (hout j (by omega)).trans (hkeep j (by omega))⟩
      obtain ⟨r, rfl⟩ := Nat.exists_eq_add_of_le hle
      rw [Nat.add_sub_cancel_left] at hrest
      rw [Mem.readN_add, hrest, Mem.readN_congr fun j _ hj => hout j (.inl hj), hhead, ← List.drop_drop, ← List.take_add]

/-- A range written with its sectors' tags kept reads back. -/
theorem Mem.readN_writeRange_keep {m : Mem} (h : m.wf = true) (k : Nat) (bs : List Byte) :
    (m.writeRange k bs none).readN k bs.length = bs := by
  obtain ⟨hread, -⟩ := Mem.readN_writePieces bs (bs.length / 32 + 2) (k := k) h (Nat.le_of_eq (Nat.zero_add _)) (fun _ => by omega) _ rfl
  rw [List.drop_zero, List.take_length] at hread
  exact hread

/-! ### The registers in a slot image (12_preempt R246) -/

/-- In a row of equally long entries each stands at its number. -/
theorem take_drop_flatMap_range {α : Type} (f : Nat → List α) {len : Nat} (hf : ∀ i, (f i).length = len) {i n : Nat} (hi : i < n) :
    (((List.range n).flatMap f).drop (len * i)).take len = f i := by
  have hlen (n : Nat) : ((List.range n).flatMap f).length = len * n := by
    simp [List.length_flatMap, hf, Nat.mul_comm]
  obtain ⟨r, rfl⟩ := Nat.exists_eq_add_of_lt hi
  rw [Nat.add_assoc, List.range_add, List.flatMap_append, List.drop_left' (hlen i), List.range_succ_eq_map, List.map_cons, List.flatMap_cons,
    Nat.add_zero, List.take_left' (hf i)]

/-- A slot image up to its registers (R246). -/
def Hw.imageHead (h : Hw) (core slot trig hold : Nat) : List Byte :=
  let x := h.ctx core slot
  bytesLE 8 (x.control trig hold) ++ bytesLE 8 x.imageDetail ++ bytesLE 16 ((h.core core).fullMask x) ++ x.loopBytes ++ x.ptrBytes ++
    ((List.range 8).flatMap (fun i => bytesLE 8 ((x.seg i).base % 2 ^ 64) ++ bytesLE 8 (x.seg i).word1)) ++
    ([1, 2, 3].flatMap (fun i => bytesLE 32 (x.mask i).toNat)) ++
    (imageStatus.flatMap (fun n => bytesLE 8 ((h.status core slot n).getD 0).toNat)) ++
    bytesLE 8 x.split.quad ++ bytesLE 8 x.fenceQuad ++ bytesLE 8 0

theorem Hw.length_imageHead (h : Hw) (core slot trig hold : Nat) : (h.imageHead core slot trig hold).length = 0x200 := by
  simp [Hw.imageHead, Ctx.loopBytes, Ctx.ptrBytes, List.length_flatMap, imageStatus]

theorem Hw.slotImage_eq (h : Hw) (core slot trig hold : Nat) : ∃ r, h.slotImage core slot trig hold =
    h.imageHead core slot trig hold ++ ((h.core core).regBytes (h.ctx core slot) ++ r) :=
  ⟨_, (List.append_assoc _ _ _)⟩

theorem Core.length_regBytes (k : Core) (x : Ctx) : (k.regBytes x).length = 8 * x.wsize := by
  simp [Core.regBytes, List.length_flatMap, Nat.mul_comm]

/-- The register of a number stands in the image at its place. -/
theorem Hw.slotImage_reg (h : Hw) (core slot trig hold : Nat) {i : Nat} (hi : i < (h.ctx core slot).wsize) :
    ((h.slotImage core slot trig hold).drop (0x200 + 8 * i)).take 8 = bytesLE 8 (h.g core slot i).toNat ∧
      0x200 + 8 * i + 8 ≤ (h.slotImage core slot trig hold).length := by
  obtain ⟨r, himage⟩ := h.slotImage_eq core slot trig hold
  have hhead := h.length_imageHead core slot trig hold
  have hregs := (h.core core).length_regBytes (h.ctx core slot)
  refine ⟨?_, ?_⟩
  · rw [himage, ← List.drop_drop, List.drop_left' hhead, List.drop_append_of_le_length (by omega),
      List.take_append_of_le_length (by rw [List.length_drop]; omega)]
    exact take_drop_flatMap_range (fun i => bytesLE 8 ((h.core core).g (h.ctx core slot) i).toNat) (fun _ => bytesLE_length _ _) hi
  · rw [himage, List.length_append, List.length_append]
    omega

/-- Memory into which a slot image has been written holds the slot's registers (R246). -/
theorem Mem.val_slotImage {m : Mem} (hwf : m.wf = true) (h : Hw) (core slot trig hold key : Nat) {i : Nat}
    (hi : i < (h.ctx core slot).wsize) :
    (m.writeRange key (h.slotImage core slot trig hold) none).val (key + (0x200 + 8 * i)) 8 = (h.g core slot i).toNat := by
  obtain ⟨hreg, hlen⟩ := h.slotImage_reg core slot trig hold hi
  rw [Mem.val, Mem.readN_within _ _ hlen, Mem.readN_writeRange_keep hwf, hreg, valLE_bytesLE]
  exact Nat.mod_eq_of_lt (h.g core slot i).isLt

theorem Hw.slotImage_ne_nil (h : Hw) (core slot trig hold : Nat) : h.slotImage core slot trig hold ≠ [] := by
  obtain ⟨r, himage⟩ := h.slotImage_eq core slot trig hold
  have hhead := h.length_imageHead core slot trig hold
  rw [himage]
  intro hnil
  rw [(List.append_eq_nil_iff.mp hnil).1] at hhead
  simp at hhead

/-! ### The registers that an image gives (R252) -/

theorem Core.loadRegs_eq (k : Core) (x : Ctx) (m : Mem) (fullKey regKey : Nat) :
    ∃ rf empty, k.loadRegs x m fullKey regKey = { k with rf := rf, empty := empty } := by
  unfold Core.loadRegs
  simp only
  generalize List.range x.wsize = l
  induction l generalizing k with
  | nil => exact ⟨_, _, rfl⟩
  | cons i r ih =>
    obtain ⟨rf, empty, hstep⟩ : ∃ rf empty, (k.putG x i (BitVec.ofNat 64 (m.val (regKey + 8 * i) 8))).putFull x i (bitAt (m.val fullKey 16) i) =
        { k with rf := rf, empty := empty } := by
      by_cases hi : i = 0
      · subst hi
        exact ⟨_, _, rfl⟩
      · obtain ⟨empty, hfull⟩ := (k.putG x i (BitVec.ofNat 64 (m.val (regKey + 8 * i) 8))).putFull_eq x i (bitAt (m.val fullKey 16) i)
        rw [hfull, Core.putG, if_neg hi]
        exact ⟨_, _, rfl⟩
    rw [List.foldl_cons, hstep]
    exact ih _

theorem Core.g_putFull (k : Core) (x : Ctx) (n j : Nat) (f : Bool) : (k.putFull x n f).g x j = k.g x j := by
  obtain ⟨empty, hfull⟩ := k.putFull_eq x n f
  rw [hfull]
  rfl

theorem Core.fullBit_putG (k : Core) (x : Ctx) (n j : Nat) (v : Word) : (k.putG x n v).fullBit x j = k.fullBit x j := by
  unfold Core.putG
  split <;> rfl

theorem Core.loadRegs_reg (k : Core) (x : Ctx) (m : Mem) (fullKey regKey : Nat) {i : Nat} (hpos : 0 < i) (hi : i < x.wsize) :
    (k.loadRegs x m fullKey regKey).g x i = BitVec.ofNat 64 (m.val (regKey + 8 * i) 8) ∧
      (k.loadRegs x m fullKey regKey).fullBit x i = bitAt (m.val fullKey 16) i := by
  unfold Core.loadRegs
  simp only
  generalize x.wsize = n at hi
  induction n with
  | zero => exact absurd hi (Nat.not_lt_zero i)
  | succ n ih =>
    rw [List.range_succ, List.foldl_append, List.foldl_cons, List.foldl_nil]
    generalize (List.range n).foldl _ k = k' at ih ⊢
    by_cases hn : n = i
    · subst hn
      refine ⟨?_, Core.fullBit_putFull _ _ _ _ (Nat.ne_of_gt hpos)⟩
      rw [Core.g_putFull, Core.g_putG _ _ _ _ (Nat.ne_of_gt hpos)]
    · obtain ⟨hg, hfull⟩ := ih (by omega)
      rw [Core.g_putFull, Core.g_putG_ne _ _ _ _ _ hn, Core.fullBit_putFull_ne _ _ _ _ _ hn, Core.fullBit_putG]
      exact ⟨hg, hfull⟩

end Sys2Proof.Machine
end

section
/-! PROOFS. The engine accepts a context (12_preempt R248, R249; O37). -/

namespace Sys2Proof.Machine

/-! ### The engine accepts a context (R248, R249) -/

/-- A special-function request of a context has not been given to its unit (R220, R249). -/
def Core.unread (k : Core) (uid : Nat) : Bool :=
  k.vjobs.any (fun j => j.uid == uid && (match j.op with | .sfu _ => true | _ => false) && j.sfuEnd == 0)

theorem le_foldl {α : Type} {f : Nat → α → Nat} (hf : ∀ n a, n ≤ f n a) (l : List α) (n : Nat) : n ≤ l.foldl f n := by
  induction l generalizing n with
  | nil => exact le_rfl
  | cons a r ih => exact (hf n a).trans (ih _)

theorem Ctx.le_quietAt (x : Ctx) (now : Nat) : now ≤ x.quietAt now := by
  refine ((le_foldl (fun n p => ?_) x.pend now).trans (le_foldl (fun n _ => Nat.le_max_left n _) x.maskPend _)).trans
    (le_foldl (fun n _ => Nat.le_max_left n _) x.ptrAt _)
  cases p with
  | fixed r c v => exact Nat.le_max_left _ _
  | async r t => exact le_rfl
  | trap r t => exact le_rfl

/-- From a part in which the engine of a core is free, to one in which it spills a context: the image is due once what is outstanding of fixed
latency has come, or the engine waits a cycle for a special-function request. -/
structure Hw.Spills (h h' : Hw) (core : Nat) (o : SpillOp) : Prop where
  engine : ∃ due, (h'.core core).engine = some { o with due := due }
  st : (h'.ctx core o.slot).st = .spilled
  uid : (h'.ctx core o.slot).uid = (h.ctx core o.slot).uid
  mark : (h'.ctx core o.slot).ckptMark = (h.ctx core o.slot).ckptMark
  reqs : (h'.core core).spillReqs = (h.core core).spillReqs
  quiet : (h.core core).unread o.uid = false → ∃ due, h.now + 96 + 3 * (16 + (h.ctx core o.slot).wsize / 4) ≤ due ∧
    (⟨due, .spillComplete, .nats [0, core, o.slot, o.uid]⟩ : Due) ∈ h'.agenda
  waits : (h.core core).unread o.uid = true → (⟨h.now + 1, .spillComplete, .nats [2, core, o.slot, o.uid]⟩ : Due) ∈ h'.agenda

/-- The engine waits a cycle, or the end of its image is due. -/
theorem Hw.runSpill_eq {h : Hw} {core : Nat} {o : SpillOp} (hengine : (h.core core).engine = some o)
    (huid : (h.ctx core o.slot).uid = o.uid) :
    ((h.core core).unread o.uid = true → h.runSpill core = h.after 1 .spillComplete (.nats [2, core, o.slot, o.uid])) ∧
    ((h.core core).unread o.uid = false → ∃ due, h.now + 96 + 3 * (16 + (h.ctx core o.slot).wsize / 4) ≤ due ∧
      h.runSpill core = (h.modCore core (fun k => { k with engine := some { o with due := due } })).schedule due .spillComplete
        (.nats [0, core, o.slot, o.uid])) := by
  have hany : (((h.core core).vjobs.filter (fun j => j.uid == (h.ctx core o.slot).uid && (match j.op with | .sfu _ => true | _ => false))).any
      (fun j => j.sfuEnd == 0)) = (h.core core).unread o.uid := by
    rw [List.any_filter, huid]
    rfl
  refine ⟨fun hu => ?_, fun hu => ?_⟩
  · rw [Hw.runSpill, hengine]
    exact if_pos (hany.trans hu)
  · rw [Hw.runSpill, hengine]
    refine ⟨_, ?_, if_neg (Bool.eq_false_iff.mp (hany.trans hu))⟩
    have hquiet := (h.ctx core o.slot).le_quietAt h.now
    have hread := le_foldl (fun n j => Nat.le_max_left n (VJob.sfuEnd j))
      ((h.core core).vjobs.filter (fun j => j.uid == (h.ctx core o.slot).uid && (match j.op with | .sfu _ => true | _ => false)))
      ((h.ctx core o.slot).quietAt h.now)
    have hsum (q a b : Nat) (hq : h.now ≤ q) : h.now + 96 + a ≤ q + a + 96 + b := by omega
    exact hsum _ _ _ (hquiet.trans hread)

/-- A context as the engine takes it (R249, R250). -/
def Ctx.taken (x : Ctx) : Ctx :=
  ({ x with st := .spilled, imaged := false, woke := x.park.isNone, yieldWait := none, hazOn := none, limWait := false }).settle

/-- The operation of a spill, as the engine accepts it. -/
def SpillOp.spill (slot uid trig hold : Nat) (answer : Option (Nat × Nat)) (ranges : List (Nat × Nat)) : SpillOp :=
  ⟨slot, uid, trig, hold, false, answer, ranges, 0⟩

theorem State.takeSpill_spills {s : State} {core slot : Nat} (trig hold : Nat) (answer : Option (Nat × Nat)) (ranges : List (Nat × Nat))
    (hst : (s.hw.ctx core slot).st ≠ .faulted) : s.hw.Spills (s.takeSpill core slot trig hold answer ranges).hw core
      (.spill slot (s.hw.ctx core slot).uid trig hold answer ranges) := by
  generalize ho : SpillOp.spill slot (s.hw.ctx core slot).uid trig hold answer ranges = o
  have hslot : o.slot = slot := ho ▸ rfl
  have huid : o.uid = (s.hw.ctx core slot).uid := ho ▸ rfl
  generalize hh : (s.hw.modCore core (fun k => { k with engine := some o })).setCtx core slot (s.hw.ctx core slot).taken = h
  have htake : (s.takeSpill core slot trig hold answer ranges).hw = h.runSpill core := by
    rw [← hh, ← ho]
    exact congrArg (fun h => Hw.runSpill h core) (if_neg hst)
  have hcore : h.core core = ({ s.hw.core core with engine := some o } : Core).setCtx slot (s.hw.ctx core slot).taken := by
    rw [← hh, Hw.setCtx, Hw.core_modCore, Hw.core_modCore]
  have hctx : h.ctx core slot = (s.hw.ctx core slot).taken := by rw [← hh, Hw.ctx_setCtx]
  have hnow : h.now = s.hw.now := by rw [← hh]; rfl
  have hunread : (h.core core).unread o.uid = (s.hw.core core).unread o.uid := by rw [hcore]; rfl
  obtain ⟨hwait, hdue⟩ := Hw.runSpill_eq (h := h) (core := core) (o := o) (by rw [hcore]; rfl) (by rw [hslot, hctx, huid]; rfl)
  rw [hunread] at hwait hdue
  rw [htake]
  cases hu : (s.hw.core core).unread o.uid with
  | true =>
    rw [hwait hu]
    have hctx' : (h.after 1 .spillComplete (.nats [2, core, o.slot, o.uid])).ctx core o.slot = (s.hw.ctx core slot).taken := by
      rw [hslot, ← hctx]
      rfl
    refine ⟨⟨o.due, ?_⟩, ?_, ?_, ?_, ?_, fun hno => absurd (hu.symm.trans hno) nofun, fun _ => ?_⟩
    · rw [Hw.after, Hw.core_schedule, hcore]; rfl
    · rw [hctx']; rfl
    · rw [hctx', hslot]; rfl
    · rw [hctx', hslot]; rfl
    · rw [Hw.after, Hw.core_schedule, hcore]; rfl
    · rw [← hnow]; exact (Hw.mem_agenda_schedule _ _ _ _ _).mpr (.inl rfl)
  | false =>
    obtain ⟨due, hle, hrun⟩ := hdue hu
    rw [hrun]
    have hcore' : ((h.modCore core (fun k => { k with engine := some { o with due := due } })).schedule due .spillComplete
        (.nats [0, core, o.slot, o.uid])).core core = { h.core core with engine := some { o with due := due } } := by
      rw [Hw.core_schedule, Hw.core_modCore]
    have hctx' : ((h.modCore core (fun k => { k with engine := some { o with due := due } })).schedule due .spillComplete
        (.nats [0, core, o.slot, o.uid])).ctx core o.slot = (s.hw.ctx core slot).taken := by
      rw [Hw.ctx, hcore', hslot, ← hctx]
      rfl
    refine ⟨⟨due, ?_⟩, ?_, ?_, ?_, ?_, fun _ => ⟨due, ?_, (Hw.mem_agenda_schedule _ _ _ _ _).mpr (.inl rfl)⟩,
      fun hyes => absurd (hu.symm.trans hyes) nofun⟩
    · rw [hcore']
    · rw [hctx']; rfl
    · rw [hctx', hslot]; rfl
    · rw [hctx', hslot]; rfl
    · rw [hcore', hcore]; rfl
    · rw [hslot, hctx, hnow] at hle
      rw [hslot]
      exact hle

theorem State.takeSpill_mem (s : State) (core slot trig hold : Nat) (answer : Option (Nat × Nat)) (ranges : List (Nat × Nat)) :
    (s.takeSpill core slot trig hold answer ranges).mem = s.mem := rfl

end Sys2Proof.Machine
end

section
/-! PROOFS. The steps that begin a spill, and the image that is written (12_preempt R249, R254, R259; O37). -/

namespace Sys2Proof.Machine

/-! ### The steps that begin a spill (R248, R254, R259) -/

/-- The state in which the engine of a core has taken the context of a slot: its memory is as it was, and its image is due. -/
def State.Saves (s : State) (core slot : Nat) (t : State) : Prop :=
  t.mem = s.mem ∧ (t.hw.ctx core slot).st = .spilled ∧ (t.hw.ctx core slot).uid = (s.hw.ctx core slot).uid ∧
    (∃ p, (t.hw.core core).engine = some p ∧ p.slot = slot ∧ p.restore = false) ∧
    ((s.hw.core core).unread (s.hw.ctx core slot).uid = false → ∃ due, s.hw.now + 96 + 3 * (16 + (s.hw.ctx core slot).wsize / 4) ≤ due ∧
      (⟨due, .spillComplete, .nats [0, core, slot, (s.hw.ctx core slot).uid]⟩ : Due) ∈ t.hw.agenda) ∧
    ((s.hw.core core).unread (s.hw.ctx core slot).uid = true →
      (⟨s.hw.now + 1, .spillComplete, .nats [2, core, slot, (s.hw.ctx core slot).uid]⟩ : Due) ∈ t.hw.agenda)

/-- A spill that begins in a part like this one saves the context. -/
theorem State.saves_of_spills {s t : State} {h : Hw} {core slot trig hold : Nat} {answer : Option (Nat × Nat)} {ranges : List (Nat × Nat)}
    (hmem : t.mem = s.mem) (hnow : h.now = s.hw.now) (hvjobs : (h.core core).vjobs = (s.hw.core core).vjobs)
    (huid : (h.ctx core slot).uid = (s.hw.ctx core slot).uid) (hwsize : (h.ctx core slot).wsize = (s.hw.ctx core slot).wsize)
    (hspills : h.Spills t.hw core (.spill slot (s.hw.ctx core slot).uid trig hold answer ranges)) : s.Saves core slot t := by
  obtain ⟨⟨due, hengine⟩, hst, hsame, -, -, hquiet, hwaits⟩ := hspills
  have hunread (uid : Nat) : (h.core core).unread uid = (s.hw.core core).unread uid := by rw [Core.unread, hvjobs]; rfl
  refine ⟨hmem, hst, hsame.trans huid, ⟨_, hengine, rfl, rfl⟩, fun hu => ?_, fun hu => ?_⟩
  · obtain ⟨due, hle, hdue⟩ := hquiet ((hunread _).trans hu)
    rw [hnow] at hle
    exact ⟨due, hwsize ▸ hle, hdue⟩
  · exact hnow ▸ hwaits ((hunread _).trans hu)

/-- A free engine takes the oldest request for a Ready context (R248). -/
theorem contextSpill_takes {s : State} {core : Nat} {q : SpillReq} {l : List SpillReq} (harg : s.hw.arg = .nats [core])
    (hengine : (s.hw.core core).engine = none) (hreqs : (s.hw.core core).spillReqs = q :: l) (hst : (s.hw.ctx core q.slot).st = .ready)
    (hbooked : (s.hw.ctx core q.slot).booked = false) (hgang : (s.hw.ctx core q.slot).gang = none)
    (harr : (s.hw.ctx core q.slot).arrHeld = false) :
    ∃ t, exec .contextSpill s = .next t ∧ s.Saves core q.slot t ∧ (t.hw.core core).spillReqs = l := by
  have hhow : (s.hw.ctx core q.slot).spillHow = .take := by simp [Ctx.spillHow, hst, hbooked, hgang, harr]
  generalize hs1 : s.onHw (fun h => h.modCore core (fun k => { k with spillReqs := l })) = s1
  have hcore : s1.hw.core core = { s.hw.core core with spillReqs := l } := by rw [← hs1, State.onHw_hw, Hw.core_modCore]
  have hctx : s1.hw.ctx core q.slot = s.hw.ctx core q.slot := by rw [Hw.ctx, hcore]; rfl
  have htake : s.takeRequest core = s1.takeSpill core q.slot 1 (bit q.hold) (some (q.core, q.txn)) [] := by
    rw [State.takeRequest, hreqs]
    simp only [hs1, hctx, hhow]
  have hspills := State.takeSpill_spills (s := s1) (core := core) (slot := q.slot) 1 (bit q.hold) (some (q.core, q.txn)) []
    (by rw [hctx, hst]; nofun)
  rw [hctx] at hspills
  refine ⟨_, ?_, State.saves_of_spills (h := s1.hw) (by rw [State.takeSpill_mem, ← hs1]; rfl) (by rw [← hs1]; rfl) (by rw [hcore])
    (by rw [hctx]) (by rw [hctx]) hspills, hspills.reqs.trans (by rw [hcore])⟩
  rw [exec_contextSpill, execContextSpill, harg, ← htake]
  simp [hengine]

/-- The forward-progress rule takes a context (R254). -/
theorem forwardProgressSpill_takes {s : State} {core slot : Nat} (harg : s.hw.arg = .nats [core, slot])
    (hengine : (s.hw.core core).engine = none) (hyields : (s.hw.ctx core slot).yieldsWindow = true) :
    ∃ t, exec .forwardProgressSpill s = .next t ∧ s.Saves core slot t := by
  have hst : (s.hw.ctx core slot).st = .parked := by
    simp only [Ctx.yieldsWindow, Bool.and_eq_true, beq_iff_eq] at hyields
    obtain ⟨⟨⟨hst, -⟩, -⟩, -⟩ := hyields
    exact hst
  have hspills := State.takeSpill_spills (s := s) (core := core) (slot := slot) 0 0 none [] (by rw [hst]; nofun)
  refine ⟨_, ?_, State.saves_of_spills (h := s.hw) (State.takeSpill_mem _ _ _ _ _ _ _) rfl rfl rfl rfl hspills⟩
  rw [exec_forwardProgressSpill, execForwardProgressSpill, harg]
  simp [hengine, hyields]

/-- The save of a checkpoint takes its Parked context, whose mark ends (R258, R259). -/
theorem checkpointSave_takes {s : State} {core slot : Nat} {rs : List (Nat × Nat)} {r : List (Nat × List (Nat × Nat))}
    (harg : s.hw.arg = .nats [core]) (hengine : (s.hw.core core).engine = none) (hckpts : (s.hw.core core).ckpts = (slot, rs) :: r)
    (hst : (s.hw.ctx core slot).st = .parked) (hmark : (s.hw.ctx core slot).ckptMark.isSome = true) :
    ∃ t, exec .checkpointSave s = .next t ∧ s.Saves core slot t ∧ (t.hw.ctx core slot).ckptMark = none ∧
      ∃ p, (t.hw.core core).engine = some p ∧ p.hold = 2 ∧ p.trig = 2 ∧ p.ranges = rs := by
  obtain ⟨⟨rc, n, txn⟩, hmark⟩ := Option.isSome_iff_exists.mp hmark
  generalize hs1 : (s.onHw (fun h => h.modCore core (fun k => { k with ckpts := r }))).onHw
    (fun h => h.setCtx core slot { s.hw.ctx core slot with park := none, ckptMark := none }) = s1
  have hcore : s1.hw.core core = ({ s.hw.core core with ckpts := r } : Core).setCtx slot
      { s.hw.ctx core slot with park := none, ckptMark := none } := by
    rw [← hs1, State.onHw_hw, Hw.setCtx, Hw.core_modCore, State.onHw_hw, Hw.core_modCore]
  have hctx : s1.hw.ctx core slot = { s.hw.ctx core slot with park := none, ckptMark := none } := by rw [Hw.ctx, hcore, Core.ctx_setCtx]
  have hspills := State.takeSpill_spills (s := s1) (core := core) (slot := slot) 2 2 (some (rc, txn)) rs (by rw [hctx]; exact hst ▸ nofun)
  have huid : (s1.hw.ctx core slot).uid = (s.hw.ctx core slot).uid := by rw [hctx]
  rw [huid] at hspills
  refine ⟨s1.takeSpill core slot 2 2 (some (rc, txn)) rs, ?_, State.saves_of_spills (h := s1.hw) (by rw [State.takeSpill_mem, ← hs1]; rfl)
    (by rw [← hs1]; rfl) (by rw [hcore]; rfl) huid (by rw [hctx]) hspills, ?_, ?_⟩
  · have hctx1 : (s.onHw (fun h => h.modCore core (fun k => { k with ckpts := r }))).hw.ctx core slot = s.hw.ctx core slot := by
      rw [Hw.ctx, State.onHw_hw, Hw.core_modCore]
      rfl
    rw [exec_checkpointSave, execCheckpointSave, harg]
    simp only [hengine, hckpts, hctx1]
    split
    next rc' n' txn' _ hmark' =>
      obtain ⟨rfl, rfl, rfl⟩ : rc' = rc ∧ n' = n ∧ txn' = txn := by simpa using hmark'.symm.trans hmark
      rw [hs1]
    next hno => exact (hno rc n txn hst hmark).elim
  · refine hspills.mark.trans ?_
    change (s1.hw.ctx core slot).ckptMark = none
    rw [hctx]
  · obtain ⟨due, hop⟩ := hspills.engine
    exact ⟨_, hop, rfl, rfl, rfl⟩

/-! ### The image is written (R249, R251) -/

/-- A step changes of each core no more than its monitors. -/
def State.ButMonitors (s t : State) : Prop := ∀ c, ∃ ms, t.hw.core c = { s.hw.core c with monitors := ms }

theorem State.ButMonitors.refl (s : State) : s.ButMonitors s := fun _ => ⟨_, rfl⟩

theorem State.ButMonitors.trans {s t u : State} (a : s.ButMonitors t) (b : t.ButMonitors u) : s.ButMonitors u := fun c => by
  obtain ⟨ms, ht⟩ := a c
  obtain ⟨ms', hu⟩ := b c
  exact ⟨ms', by rw [hu, ht]⟩

theorem State.foldl_butMonitors {α : Type} {f : State → α → State} (hf : ∀ (s : State) a, s.ButMonitors (f s a)) (l : List α) (s : State) :
    s.ButMonitors (l.foldl f s) := by
  induction l generalizing s with
  | nil => exact .refl s
  | cons a r ih => exact (hf s a).trans (ih _)

theorem Hw.core_wakeSectors (h : Hw) (home bank lo hi key c : Nat) :
    ∃ ms, (h.wakeSectors home bank lo hi key).core c = { h.core c with monitors := ms } := by
  unfold Hw.wakeSectors
  simp only
  split
  · exact ⟨_, rfl⟩
  · rw [(Hw.binds_foldl (fun h (m : Monitor) => h.after (h.oneWay m.core key) .monitorWake (.nats [m.core, m.slot, m.uid]))
      (fun h m => h.binds_after _ _ _) _ _).core]
    by_cases hc : home = c
    · subst hc
      rw [Hw.core_modCore]
      exact ⟨_, rfl⟩
    · rw [Hw.core_modCore_ne _ _ _ _ hc]
      exact ⟨_, rfl⟩

theorem State.bankWrite_butMonitors (s : State) (key : Nat) (bs : List Byte) (tag : Option Nat) : s.ButMonitors (s.bankWrite key bs tag) := by
  unfold State.bankWrite
  split
  · exact .refl s
  · exact State.foldl_butMonitors (f := fun s (p : Piece) => s.onHw (fun h => h.wakeMonitors p.key p.len))
      (fun s p c => s.hw.core_wakeSectors _ _ _ _ _ c) _ (s.onMem (fun m => m.writeRange key bs tag))

theorem Hw.engine_post (h : Hw) (core : Nat) (r : BitVec 256) : ((h.post core r).core core).engine = (h.core core).engine := by
  obtain ⟨e4, lost, hposted⟩ := (h.core core).posted_eq r
  rw [Hw.core_post, hposted]

/-- The image of a Spilled context is written, and the engine is free: memory holds its registers, and the request is answered. -/
theorem spillComplete_images {s : State} {o : SpillOp} {core rc txn : Nat} (hinv : s.Inv)
    (harg : s.hw.arg = .nats [0, core, o.slot, o.uid]) (hengine : (s.hw.core core).engine = some o) (huid : (s.hw.ctx core o.slot).uid = o.uid)
    (hrestore : o.restore = false) (hmask : (s.hw.ctx core o.slot).maskPend = []) (hst : (s.hw.ctx core o.slot).st = .spilled)
    (hranges : o.ranges = []) (hanswer : o.answer = some (rc, txn)) : ∃ t, exec .spillComplete s = .next t ∧
      (t.hw.core core).engine = none ∧ (t.hw.ctx core o.slot).imaged = true ∧
      (∀ i < (s.hw.ctx core o.slot).wsize,
        t.mem.val (s.hw.imageKey core o.slot + 0x200 + 8 * i) 8 = (s.hw.g core o.slot i).toNat) ∧
      (⟨s.hw.now + spillFigure rc core / 2, .spillComplete, .nats [1, rc, txn, 0]⟩ : Due) ∈ t.hw.agenda := by
  generalize hs1 : s.onHw (fun h => h.modCore core (fun k => { k with engine := none })) = s1
  have hcore1 : s1.hw.core core = { s.hw.core core with engine := none } := by rw [← hs1, State.onHw_hw, Hw.core_modCore]
  have hctx1 : s1.hw.ctx core o.slot = s.hw.ctx core o.slot := by rw [Hw.ctx, hcore1]; rfl
  have hkey1 : s1.hw.imageKey core o.slot = s.hw.imageKey core o.slot := by rw [Hw.imageKey, hcore1]; rfl
  have hmem1 : s1.mem = s.mem := by rw [← hs1]; rfl
  have hg1 (i : Nat) : s1.hw.g core o.slot i = s.hw.g core o.slot i := by rw [Hw.g, hctx1, hcore1]; rfl
  generalize himage : s1.hw.slotImage core o.slot o.trig o.hold = bs
  generalize hs2 : s1.bankWrite (s.hw.imageKey core o.slot) bs none = s2
  obtain ⟨ms, hcore2⟩ := s1.bankWrite_butMonitors (s.hw.imageKey core o.slot) bs none core
  rw [hs2, hcore1] at hcore2
  have hmem2 : s2.mem = s.mem.writeRange (s.hw.imageKey core o.slot) bs none := by
    rw [← hs2, State.bankWrite_mem _ _ _ (himage ▸ s1.hw.slotImage_ne_nil core o.slot o.trig o.hold), hmem1]
  generalize hs3 : s2.onHw (fun h => h.modCtx core o.slot (fun y => { y with imaged := true })) = s3
  have hcore3 : (s3.hw.core core).engine = none ∧ (s3.hw.ctx core o.slot).imaged = true := by
    rw [← hs3, State.onHw_hw, Hw.core_modCtx, Hw.ctx_modCtx, hcore2]
    exact ⟨rfl, rfl⟩
  have hmem3 : s3.mem = s2.mem := by rw [← hs3, State.onHw_mem]
  have hdone : ∃ s4 : State, s.imageDone o core = s4.spillAnswerFrom core (some (rc, txn)) 0 s.hw.now ∧ s4.mem = s3.mem ∧
      (s4.hw.core core).engine = none ∧ s4.hw.ctx core o.slot = s3.hw.ctx core o.slot := by
    have hgo : ¬((s.hw.ctx core o.slot).uid ≠ o.uid ∨ ((s.hw.ctx core o.slot).st ≠ .spilled ∧ (s.hw.ctx core o.slot).st ≠ .faulted)) := by
      simp [huid, hst]
    simp only [State.imageDone, hs1, hctx1, hkey1, himage, hs2, hs3, hranges, hanswer, if_neg hgo, ne_eq, not_true_eq_false, if_false]
    split
    · refine ⟨_, rfl, State.onHw_mem _ _, ?_, ?_⟩
      · rw [State.onHw_hw, Hw.engine_post]
        exact hcore3.1
      · rw [State.onHw_hw, Hw.ctx_post]
    · exact ⟨_, rfl, rfl, hcore3.1, rfl⟩
  obtain ⟨s4, hdone, hmem4, hfree, hctx⟩ := hdone
  refine ⟨s4.onHw (fun h => h.schedule (s.hw.now + spillFigure rc core / 2) .spillComplete (.nats [1, rc, txn, 0])), ?_, ?_, ?_,
    fun i hi => ?_, (Hw.mem_agenda_schedule _ _ _ _ _).mpr (.inl rfl)⟩
  · rw [exec_spillComplete, execSpillComplete, harg]
    simp only [hengine, hrestore, hmask, hdone, List.isEmpty_nil, Bool.not_false, and_self, if_true, State.spillAnswerFrom]
  · rw [State.onHw_hw, Hw.core_schedule, hfree]
  · rw [State.onHw_hw, Hw.ctx, Hw.core_schedule]
    exact (congrArg Ctx.imaged hctx).trans hcore3.2
  · rw [State.onHw_mem, hmem4, hmem3, hmem2, ← himage, Nat.add_assoc, Mem.val_slotImage hinv _ _ _ _ _ _ (hctx1 ▸ hi), hg1]

end Sys2Proof.Machine
end

section
/-! PROOFS. A restore begins (12_preempt R252; O37). -/

namespace Sys2Proof.Machine

/-! ### A restore begins (R252) -/

/-- A context that takes a fault is Faulted with FRA of the fault, whatever it waits for. -/
theorem Hw.raise_faults (h : Hw) (core slot : Nat) (f : FaultRec) :
    ((h.raise core slot f).ctx core slot).st = .faulted ∧ ((h.raise core slot f).ctx core slot).fra = f.fra := by
  generalize hh0 : h.modCore core (fun k => k.undoWait slot) = h0
  generalize hx : h0.ctx core slot = x
  have hraise : ∃ r, h.raise core slot f =
      (((((h0.setCtx core slot (x.faulted f)).post core r).departs core slot).dropCkpt core slot).bookingHears core x).gangHears h.now core x f := by
    rw [Hw.raise, hh0, hx]
    exact ⟨_, rfl⟩
  obtain ⟨r, hraise⟩ := hraise
  have hfaulted : (((h0.setCtx core slot (x.faulted f)).post core r).departs core slot).ctx core slot = x.faulted f := by
    rw [Hw.ctx, Hw.core_departs, ← Hw.ctx, Hw.ctx_post, Hw.ctx_setCtx]
  obtain ⟨-, mark, -, hdrop⟩ := (((h0.setCtx core slot (x.faulted f)).post core r).departs core slot).core_dropCkpt core slot
  rw [hraise, Hw.ctx, Hw.core_gangHears, Hw.core_bookingHears, ← Hw.ctx, hdrop, hfaulted]
  exact ⟨rfl, rfl⟩

/-- The low half-word of FRA: the cause, and the subcode above it (R81). -/
theorem FaultRec.fra_low (f : FaultRec) : f.fra.toNat % 2 ^ 16 = f.sub % 256 * 2 ^ 8 + Cause.code f.cause := by
  have hcode : Cause.code f.cause < 256 := by cases f.cause <;> decide
  rw [FaultRec.fra, BitVec.toNat_ofNat]
  omega

/-- A context that may be restored, but for room, uses a set that is not being loaded (R252, R416). -/
theorem State.wantsRestore_grant {s : State} {core slot : Nat} (hwants : s.wantsRestore core slot = true)
    (hgrant : (s.hw.ctx core slot).noGrant = false) : ((s.hw.core core).grantSet (s.hw.ctx core slot).gset.toNat).state ≠ 1 := by
  simp only [State.wantsRestore, Bool.and_eq_true] at hwants
  obtain ⟨-, hset⟩ := hwants
  change (if (s.hw.ctx core slot).noGrant = true then _ else _) = true at hset
  rw [hgrant] at hset
  rw [if_neg Bool.false_ne_true, bne_iff_ne] at hset
  exact hset

/-- The window that a restore gives a context. -/
def State.placed (s : State) (core slot base : Nat) : State :=
  s.onHw (fun h => h.modCtx core slot (fun y => { y with wbase := base, wsize := s.imageWindow core slot }))

/-- The fault of an image that the part would not write (R247). -/
def Ctx.badImage (x : Ctx) : FaultRec :=
  { cause := .reservedValue, sub := 16, frb := 0, ahi := 0, pc := x.pc, entry := x.entry, page := 0, op := 0, widx := 0 }

/-- The cycle at which a restore into a window ends, but for its saved ranges (R252). -/
def State.restoreDue (s : State) (core slot : Nat) (ranges : List (Nat × Nat)) : Nat :=
  s.hw.now + 96 + 3 * (16 + s.imageWindow core slot / 4) + 3 * rangeSectors ranges

/-- The engine of a core restores a context. -/
def Hw.restores (h : Hw) (core slot uid due : Nat) (ranges : List (Nat × Nat)) : Hw :=
  (h.modCore core (fun k => { k with
    engine := some ⟨slot, uid, 0, 0, true, none, ranges, due⟩, restores := k.restores.filter (fun i => i != slot) })).schedule due
      .restoreComplete (.nats [core, slot, uid])

section
variable {s : State} {core slot base : Nat} (hwants : s.wantsRestore core slot = true)
  (hwindow : (s.hw.core core).findWindow s.hw.now (s.imageWindow core slot) = some base) (hgrant : (s.hw.ctx core slot).noGrant = false)
include hwants hwindow hgrant

theorem State.beginRestore_eq : s.beginRestore core slot =
    if badControl (s.mem.val (s.hw.imageKey core slot) 8) = true then
      (s.placed core slot base).onHw (fun h => h.raise core slot (s.hw.ctx core slot).badImage)
    else (s.placed core slot base).onHw (fun h => h.restores core slot (s.hw.ctx core slot).uid
      (s.restoreDue core slot ((SMap.find? (s.hw.core core).saved slot).getD [])) ((SMap.find? (s.hw.core core).saved slot).getD [])) := by
  have hset := State.wantsRestore_grant hwants hgrant
  have hno : ((s.hw.core core).ctx slot).noGrant = false := hgrant
  rw [State.beginRestore]
  simp only [hwindow, hno]
  exact if_neg hset

/-- An image that the part would not write faults its context (R247). -/
theorem State.beginRestore_bad (hbad : badControl (s.mem.val (s.hw.imageKey core slot) 8) = true) :
    (s.beginRestore core slot).mem = s.mem ∧ ((s.beginRestore core slot).hw.ctx core slot).st = .faulted ∧
      ((s.beginRestore core slot).hw.ctx core slot).fra.toNat % 2 ^ 16 = 16 * 2 ^ 8 + 0x09 := by
  obtain ⟨hst, hfra⟩ := (s.placed core slot base).hw.raise_faults core slot (s.hw.ctx core slot).badImage
  rw [State.beginRestore_eq hwants hwindow hgrant, if_pos hbad, State.onHw_mem, State.placed, State.onHw_mem]
  rw [State.placed] at hst hfra
  rw [State.onHw_hw]
  exact ⟨rfl, hst, by rw [hfra, FaultRec.fra_low]; rfl⟩

/-- A good image places its context's window, and the engine restores it (R252). -/
theorem State.beginRestore_good (hgood : badControl (s.mem.val (s.hw.imageKey core slot) 8) = false) :
    ∃ p, (s.beginRestore core slot).mem = s.mem ∧ ((s.beginRestore core slot).hw.core core).engine = some p ∧ p.slot = slot ∧
      p.restore = true ∧ ((s.beginRestore core slot).hw.ctx core slot).wbase = base ∧
      ((s.beginRestore core slot).hw.ctx core slot).wsize = s.imageWindow core slot ∧
      ((s.hw.core core).saved = [] → (⟨s.hw.now + 96 + 3 * (16 + s.imageWindow core slot / 4), .restoreComplete,
        .nats [core, slot, (s.hw.ctx core slot).uid]⟩ : Due) ∈ (s.beginRestore core slot).hw.agenda) := by
  rw [State.beginRestore_eq hwants hwindow hgrant, if_neg (Bool.eq_false_iff.mp hgood), State.onHw_mem, State.onHw_hw]
  generalize hranges : (SMap.find? (s.hw.core core).saved slot).getD [] = ranges
  have hctx : (s.placed core slot base).hw.ctx core slot = { s.hw.ctx core slot with wbase := base, wsize := s.imageWindow core slot } := by
    rw [State.placed, State.onHw_hw, Hw.ctx_modCtx]
  have hcore (h : Hw) (uid due : Nat) : (h.restores core slot uid due ranges).core core = { h.core core with
      engine := some ⟨slot, uid, 0, 0, true, none, ranges, due⟩, restores := (h.core core).restores.filter (fun i => i != slot) } := by
    rw [Hw.restores, Hw.core_schedule, Hw.core_modCore]
  have hctx' (h : Hw) (uid due : Nat) : (h.restores core slot uid due ranges).ctx core slot = h.ctx core slot := by rw [Hw.ctx, hcore]; rfl
  rw [hcore, hctx', hctx]
  refine ⟨_, by rw [State.placed, State.onHw_mem], rfl, rfl, rfl, rfl, rfl, fun hsaved => (Hw.mem_agenda_schedule _ _ _ _ _).mpr (.inl ?_)⟩
  rw [hsaved] at hranges
  rw [← hranges]
  rfl

end

theorem exec_restores {s : State} {core slot : Nat} (harg : s.hw.arg = .nats [core, slot]) (hengine : (s.hw.core core).engine = none)
    (hwants : s.wantsRestore core slot = true) :
    ∀ j ∈ [Instr.contextRestore, .checkpointRestore], exec j s = .next (s.beginRestore core slot) := by
  intro j hj
  obtain rfl | rfl : j = .contextRestore ∨ j = .checkpointRestore := by simpa using hj
  · rw [exec_contextRestore, execContextRestore, harg]
    simp [hengine, hwants]
  · rw [exec_checkpointRestore, execCheckpointRestore, harg]
    simp [hengine, hwants]

/-- The window size that an image gives (R247), from its control quad. -/
theorem State.imageWindow_eq (s : State) (core slot : Nat) :
    s.imageWindow core slot = 8 * (s.mem.val (s.hw.imageKey core slot) 8 / 2 ^ 49 % 16 + 1) := Nat.mul_comm _ _

end Sys2Proof.Machine
end

section
/-! PROOFS. A restore ends, and a Faulted context resumes (04_context R86; 12_preempt R252; O37). -/

namespace Sys2Proof.Machine

/-! ### The state that an image gives its context (R252) -/

/-- A context as its image gives it, but for its registers and its state. -/
def Ctx.loaded (x : Ctx) (m : Mem) (key : Nat) : Ctx :=
  { x.loadStatus m key with
    entry := bits (m.val key 8) 39 34, pc := bits (m.val key 8) 33 17, lp := m.loops (key + 0x20), p := m.ptrs (key + 0x50), ptrAt := [],
    sg := (List.range 8).map (fun i => (i, Seg.ofWords (m.val (key + 0x90 + 16 * i) 8) (m.val (key + 0x98 + 16 * i) 8))),
    m := [1, 2, 3].map (fun i => (i, BitVec.ofNat 256 (m.val (key + 0xF0 + 32 * i) 32))),
    split := splitOf (m.val (key + 0x1E8) 8) }

/-- A core whose context has been loaded from its image. -/
def Core.loaded (k : Core) (slot : Nat) (m : Mem) (key : Nat) : Core :=
  (k.loadRegs ((k.ctx slot).loaded m key) m (key + 0x10) (key + 0x200)).setCtx slot ((k.ctx slot).loaded m key)

theorem State.loadImage_eq (s : State) (core slot : Nat) : s.loadImage core slot =
    s.onHw (fun h => h.modCore core (fun k => k.loaded slot s.mem (s.hw.imageKey core slot))) := rfl

theorem Core.ctx_loaded (k : Core) (slot : Nat) (m : Mem) (key : Nat) : (k.loaded slot m key).ctx slot = (k.ctx slot).loaded m key :=
  Core.ctx_setCtx _ _ _

theorem Core.ovf_loaded (k : Core) (slot : Nat) (m : Mem) (key : Nat) : (k.loaded slot m key).ovf = k.ovf := by
  obtain ⟨rf, empty, hload⟩ := k.loadRegs_eq ((k.ctx slot).loaded m key) m (key + 0x10) (key + 0x200)
  rw [Core.loaded, hload]
  rfl

theorem Core.engine_loaded (k : Core) (slot : Nat) (m : Mem) (key : Nat) : (k.loaded slot m key).engine = k.engine := by
  obtain ⟨rf, empty, hload⟩ := k.loadRegs_eq ((k.ctx slot).loaded m key) m (key + 0x10) (key + 0x200)
  rw [Core.loaded, hload]
  rfl

/-- A core whose context holds what its image gives: the place of its next chain, TS, and a window of registers; its engine is free, and nothing
is held for it. -/
structure Core.HoldsImage (k : Core) (slot wsize : Nat) (m : Mem) (key : Nat) : Prop where
  engine : k.engine = none
  ovf : k.ovf = []
  pc : (k.ctx slot).pc = bits (m.val key 8) 33 17
  entry : (k.ctx slot).entry = bits (m.val key 8) 39 34
  ts : (k.ctx slot).ts = BitVec.ofNat 64 (m.val (key + 0x170) 8)
  regs : ∀ i, 0 < i → i < wsize → k.g (k.ctx slot) i = BitVec.ofNat 64 (m.val (key + 0x200 + 8 * i) 8) ∧
    k.fullBit (k.ctx slot) i = (m.val (key + 0x10) 16).testBit i

theorem bitAt_eq_testBit (v i : Nat) : bitAt v i = v.testBit i := by
  rw [Nat.testBit_eq_decide_div_mod_eq, bitAt]
  rfl

theorem Core.holdsImage_loaded {k : Core} (slot : Nat) (m : Mem) (key : Nat) (hengine : k.engine = none) (hovf : k.ovf = []) :
    (k.loaded slot m key).HoldsImage slot (k.ctx slot).wsize m key := by
  refine ⟨(k.engine_loaded slot m key).trans hengine, (k.ovf_loaded slot m key).trans hovf, ?_, ?_, ?_, fun i hpos hi => ?_⟩
  · rw [Core.ctx_loaded, Ctx.loaded]
  · rw [Core.ctx_loaded, Ctx.loaded]
  · rw [Core.ctx_loaded, Ctx.loaded, Ctx.loadStatus]
  · have hwsize : ((k.ctx slot).loaded m key).wsize = (k.ctx slot).wsize := by rw [Ctx.loaded, Ctx.loadStatus]
    obtain ⟨hg, hfull⟩ := k.loadRegs_reg ((k.ctx slot).loaded m key) m (key + 0x10) (key + 0x200) hpos (Nat.lt_of_lt_of_eq hi hwsize.symm)
    rw [Core.ctx_loaded, Core.loaded, ← bitAt_eq_testBit]
    exact ⟨hg, hfull⟩

/-- Another state of the core, with the same registers and with its context at the same window and chain, holds the image too. -/
theorem Core.HoldsImage.congr {k k' : Core} {slot wsize : Nat} {m : Mem} {key : Nat} (hk : k.HoldsImage slot wsize m key)
    (hrest : k'.engine = k.engine ∧ k'.ovf = k.ovf ∧ k'.rf = k.rf ∧ k'.empty = k.empty) {x : Ctx} (hx : k'.ctx slot = x)
    (hpc : x.pc = (k.ctx slot).pc) (hentry : x.entry = (k.ctx slot).entry) (hts : x.ts = (k.ctx slot).ts)
    (hwbase : x.wbase = (k.ctx slot).wbase) : k'.HoldsImage slot wsize m key := by
  obtain ⟨hengine, hovf, hrf, hempty⟩ := hrest
  subst hx
  refine ⟨hengine.trans hk.engine, hovf.trans hk.ovf, hpc.trans hk.pc, hentry.trans hk.entry, hts.trans hk.ts, fun i hpos hi => ?_⟩
  obtain ⟨hg, hfull⟩ := hk.regs i hpos hi
  exact ⟨(Core.g_congr _ _ _ _ _ hrf hwbase).trans hg, (Core.fullBit_congr _ _ _ _ _ hempty hwbase).trans hfull⟩

theorem Hw.deliverAllHeld_none {h : Hw} {core : Nat} (slot : Nat) (hovf : (h.core core).ovf = []) : h.deliverAllHeld core slot = h := by
  rw [Hw.deliverAllHeld, hovf, List.foldl_nil]

/-! ### A restore ends (R252) -/

/-- The context that a restore leaves Faulted. -/
def Ctx.restoredFaulted (x : Ctx) : Ctx := ({ x with st := .faulted, park := none, imaged := false }).settle

/-- The context that a restore leaves Ready, or Parked for the reason that its image gives. -/
def Ctx.restoredLive (x : Ctx) (now q detail : Nat) : Ctx :=
  if bitAt q 53 ∨ bits q 63 60 = 1 then
    ({ x with st := .ready, park := none, imaged := false, woke := false, notBefore := now }).settle
  else ({ x with st := .parked, park := some (x.parkOf (bits q 59 56) detail), imaged := false }).settle

theorem Ctx.restoredLive_eq (x : Ctx) (now q detail : Nat) : (x.restoredLive now q detail).pc = x.pc ∧
    (x.restoredLive now q detail).entry = x.entry ∧ (x.restoredLive now q detail).ts = x.ts ∧
    (x.restoredLive now q detail).wbase = x.wbase ∧
    (x.restoredLive now q detail).st = if bitAt q 53 ∨ bits q 63 60 = 1 then .ready else .parked := by
  unfold Ctx.restoredLive
  split <;> exact ⟨rfl, rfl, rfl, rfl, rfl⟩

/-- A Faulted context departs from its barriers, and its checkpoint ends: of its core only the mark of it changes. -/
theorem Hw.core_departs_dropCkpt (h : Hw) (core slot : Nat) : ∃ slots mark,
    ((h.departs core slot).dropCkpt core slot).core core = { h.core core with slots := slots } ∧
      ((h.departs core slot).dropCkpt core slot).ctx core slot = { h.ctx core slot with ckptMark := mark } := by
  obtain ⟨slots, mark, hcore, hctx⟩ := (h.departs core slot).core_dropCkpt core slot
  rw [Hw.core_departs] at hcore
  have hsame : (h.departs core slot).ctx core slot = h.ctx core slot := by rw [Hw.ctx, Hw.core_departs]; rfl
  exact ⟨slots, mark, hcore, hsame ▸ hctx⟩

/-- What a restore leaves in its context: what the image gives, and the state that it names (R247). -/
structure State.Restored (s t : State) (core slot wsize key q : Nat) : Prop where
  mem : t.mem = s.mem
  image : (t.hw.core core).HoldsImage slot wsize s.mem key
  st : (t.hw.ctx core slot).st = if bits q 63 60 = 3 then .faulted else if bitAt q 53 ∨ bits q 63 60 = 1 then .ready else .parked

theorem State.restored_restores {s : State} {o : SpillOp} {core : Nat} (huid : (s.hw.ctx core o.slot).uid = o.uid)
    (hst : (s.hw.ctx core o.slot).st = .spilled) (hranges : o.ranges = []) (hovf : (s.hw.core core).ovf = []) :
    s.Restored (s.restored o core) core o.slot (s.hw.ctx core o.slot).wsize (s.hw.imageKey core o.slot)
      (s.mem.val (s.hw.imageKey core o.slot) 8) := by
  generalize hkey : s.hw.imageKey core o.slot = key
  generalize hs1 : s.onHw (fun h => h.modCore core (fun k => { k with engine := none, saved := SMap.erase k.saved o.slot })) = s1
  have hcore1 : s1.hw.core core = { s.hw.core core with engine := none, saved := SMap.erase (s.hw.core core).saved o.slot } := by
    rw [← hs1, State.onHw_hw, Hw.core_modCore]
  have hctx1 : s1.hw.ctx core o.slot = s.hw.ctx core o.slot := by rw [Hw.ctx, hcore1]; rfl
  have hmem1 : s1.mem = s.mem := by rw [← hs1, State.onHw_mem]
  have hkey1 : s1.hw.imageKey core o.slot = key := by rw [Hw.imageKey, hcore1, ← hkey]; rfl
  have hcopy : s1.copyRanges (s1.hw.ckptArea core o.slot) true [] = s1 := rfl
  generalize hs3 : s1.loadImage core o.slot = s3
  have hcore3 : s3.hw.core core = (s1.hw.core core).loaded o.slot s.mem key := by
    rw [← hs3, State.loadImage_eq, State.onHw_hw, Hw.core_modCore, hmem1, hkey1]
  have hmem3 : s3.mem = s.mem := by rw [← hs3, State.loadImage_eq, State.onHw_mem, hmem1]
  have himage : (s3.hw.core core).HoldsImage o.slot (s.hw.ctx core o.slot).wsize s.mem key := by
    have hloaded := Core.holdsImage_loaded (k := s1.hw.core core) o.slot s.mem key (by rw [hcore1]) (by rw [hcore1]; exact hovf)
    rw [← hcore3] at hloaded
    rw [← hctx1]
    exact hloaded
  have hgo : ¬((s.hw.ctx core o.slot).uid ≠ o.uid ∨ (s.hw.ctx core o.slot).st ≠ .spilled) := by simp [huid, hst]
  have hrestored : s.restored o core =
      if bits (s.mem.val key 8) 63 60 = 3 then
        s3.onHw (fun h => (((h.modCtx core o.slot Ctx.restoredFaulted).departs core o.slot).dropCkpt core o.slot).deliverAllHeld core o.slot)
      else (s3.onHw (fun h => h.modCtx core o.slot (fun y => y.restoredLive h.now (s.mem.val key 8) (s.mem.val (key + 8) 8)))).onHw
        (fun h => h.deliverAllHeld core o.slot) := by
    rw [State.restored]
    simp only [hs1, hctx1, hkey1, hmem1, hranges, hcopy, hs3]
    exact if_neg hgo
  rw [hrestored]
  split
  next hfault =>
    generalize hh : s3.hw.modCtx core o.slot Ctx.restoredFaulted = h
    have himage1 : (h.core core).HoldsImage o.slot (s.hw.ctx core o.slot).wsize s.mem key := by
      rw [← hh, Hw.core_modCtx]
      exact himage.congr ⟨rfl, rfl, rfl, rfl⟩ (Core.ctx_setCtx _ _ _) rfl rfl rfl rfl
    have hctx : h.ctx core o.slot = (s3.hw.ctx core o.slot).restoredFaulted := by rw [← hh, Hw.ctx_modCtx]
    obtain ⟨slots, mark, hcore2, hctx2⟩ := h.core_departs_dropCkpt core o.slot
    generalize hh2 : (h.departs core o.slot).dropCkpt core o.slot = h2 at hcore2 hctx2
    have himage2 : (h2.core core).HoldsImage o.slot (s.hw.ctx core o.slot).wsize s.mem key :=
      himage1.congr (by rw [hcore2]; exact ⟨rfl, rfl, rfl, rfl⟩) hctx2 rfl rfl rfl rfl
    have hhw : (s3.onHw (fun h => (((h.modCtx core o.slot Ctx.restoredFaulted).departs core o.slot).dropCkpt core o.slot).deliverAllHeld core
        o.slot)).hw = h2 := by
      rw [State.onHw_hw, hh, hh2, Hw.deliverAllHeld_none _ himage2.ovf]
    refine ⟨by rw [State.onHw_mem, hmem3], by rw [hhw]; exact himage2, ?_⟩
    rw [hhw, hctx2, hctx, if_pos hfault]
    rfl
  next hlive =>
    generalize hh : s3.hw.modCtx core o.slot (fun y => y.restoredLive s3.hw.now (s.mem.val key 8) (s.mem.val (key + 8) 8)) = h
    obtain ⟨hpc, hentry, hts, hwbase, hstate⟩ :=
      (s3.hw.ctx core o.slot).restoredLive_eq s3.hw.now (s.mem.val key 8) (s.mem.val (key + 8) 8)
    have himage1 : (h.core core).HoldsImage o.slot (s.hw.ctx core o.slot).wsize s.mem key := by
      rw [← hh, Hw.core_modCtx]
      exact himage.congr ⟨rfl, rfl, rfl, rfl⟩ (Core.ctx_setCtx _ _ _) hpc hentry hts hwbase
    have hctx : h.ctx core o.slot = (s3.hw.ctx core o.slot).restoredLive s3.hw.now (s.mem.val key 8) (s.mem.val (key + 8) 8) := by
      rw [← hh, Hw.ctx_modCtx]
    have hhw : ((s3.onHw (fun h => h.modCtx core o.slot (fun y => y.restoredLive h.now (s.mem.val key 8) (s.mem.val (key + 8) 8)))).onHw
        (fun h => h.deliverAllHeld core o.slot)).hw = h := by
      rw [State.onHw_hw, State.onHw_hw, hh, Hw.deliverAllHeld_none _ himage1.ovf]
    refine ⟨by rw [State.onHw_mem, State.onHw_mem, hmem3], by rw [hhw]; exact himage1, ?_⟩
    rw [hhw, hctx, hstate, if_neg hlive]

theorem restoreComplete_restores {s : State} {o : SpillOp} {core : Nat} (harg : s.hw.arg = .nats [core, o.slot, o.uid])
    (hengine : (s.hw.core core).engine = some o) (hrestore : o.restore = true) :
    exec .restoreComplete s = .next (s.restored o core) := by
  rw [exec_restoreComplete, execRestoreComplete, harg]
  simp only [hengine, hrestore, and_self, if_true]

/-! ### A Faulted context resumes (04_context R86) -/

/-- A context that resumes at the chain of FRA.PCOFF, or the next one after Breakpoint. -/
def Ctx.resumed (x : Ctx) (now : Nat) : Ctx :=
  let pc := bits x.fra.toNat 55 39
  let y := { x with st := .ready, park := none, imaged := false, notBefore := now, pc := pc }
  (if bits x.fra.toNat 7 0 = Cause.code .breakpoint then y.advance pc (bits x.fra.toNat 22 20 + 1) else y).settle

theorem Ctx.resumed_eq (x : Ctx) (now : Nat) : (x.resumed now).st = .ready ∧ (x.resumed now).wbase = x.wbase ∧ (x.resumed now).fra = x.fra ∧
    (x.resumed now).frb = x.frb ∧ (x.fra.toNat % 2 ^ 8 ≠ 0x12 → (x.resumed now).pc = x.fra.toNat / 2 ^ 39 % 2 ^ 17) := by
  have hcode : bits x.fra.toNat 7 0 = x.fra.toNat % 2 ^ 8 := by rw [bits, pow_zero, Nat.div_one]
  unfold Ctx.resumed
  simp only
  split
  next hbreak =>
    obtain ⟨pc, lp, hadvance⟩ := Ctx.advance_eq
      { x with st := .ready, park := none, imaged := false, notBefore := now, pc := bits x.fra.toNat 55 39 } (bits x.fra.toNat 55 39)
      (bits x.fra.toNat 22 20 + 1)
    rw [hadvance]
    exact ⟨rfl, rfl, rfl, rfl, fun hno => absurd (hcode.symm.trans hbreak) hno⟩
  next => exact ⟨rfl, rfl, rfl, rfl, fun _ => rfl⟩

theorem brsResume_resumes {s : State} {core slot : Nat} (harg : s.hw.arg = .nats [core, slot]) (hst : (s.hw.ctx core slot).st = .faulted) :
    exec .brsResume s = .next ((if (s.hw.ctx core slot).imaged then s.loadImage core slot else s).onHw
      (fun h => h.modCtx core slot (fun x => x.resumed h.now))) := by
  rw [exec_brsResume, execBrsResume, harg]
  exact congrArg Host.Outcome.next (if_neg (not_not_intro hst))

theorem Hw.g_modCtx (h : Hw) (core slot : Nat) {f : Ctx → Ctx} (hwbase : (f (h.ctx core slot)).wbase = (h.ctx core slot).wbase) (n : Nat) :
    (h.modCtx core slot f).g core slot n = h.g core slot n := by
  rw [Hw.g, Hw.ctx_modCtx, Hw.core_modCtx]
  exact Core.g_congr _ _ _ _ _ rfl hwbase

/-- BRS resumes a Faulted context: it is Ready, and without an image it stands as it was, at the chain of FRA.PCOFF (R86). -/
theorem State.resume_effect (s : State) (core slot : Nat) (t : State)
    (ht : t = (if (s.hw.ctx core slot).imaged then s.loadImage core slot else s).onHw
      (fun h => h.modCtx core slot (fun x => x.resumed h.now))) :
    t.mem = s.mem ∧ (t.hw.ctx core slot).st = .ready ∧ ((s.hw.ctx core slot).imaged = false →
      (t.hw.ctx core slot).fra = (s.hw.ctx core slot).fra ∧ (t.hw.ctx core slot).frb = (s.hw.ctx core slot).frb ∧
        ((s.hw.ctx core slot).fra.toNat % 2 ^ 8 ≠ 0x12 → (t.hw.ctx core slot).pc = (s.hw.ctx core slot).fra.toNat / 2 ^ 39 % 2 ^ 17) ∧
        ∀ n, t.hw.g core slot n = s.hw.g core slot n) := by
  subst ht
  rw [State.onHw_mem, State.onHw_hw, Hw.ctx_modCtx]
  refine ⟨?_, (Ctx.resumed_eq _ _).1, fun himaged => ?_⟩
  · split
    · rw [State.loadImage_eq, State.onHw_mem]
    · rfl
  · rw [if_neg (Bool.eq_false_iff.mp himaged)]
    obtain ⟨-, hwbase, hfra, hfrb, hpc⟩ := (s.hw.ctx core slot).resumed_eq s.hw.now
    exact ⟨hfra, hfrb, hpc, s.hw.g_modCtx core slot hwbase⟩

/-! ### O37 -/

/-- Settles O37: each step of the spill engine by its case. A spill leaves its context Spilled with its image due; an image written with its
sectors' tags kept reads back the window's registers; a restore loads them; a status is paid to its requester; a resumed context goes on at
FRA.PCOFF. -/
theorem spillsAndRestores : Obligations.SpillsAndRestores := by
  unfold Obligations.SpillsAndRestores
  intro s o u core slot rc txn i base rs r q l v
  refine ⟨?takes, ?progress, ?checkpoint, ?image, ?pays, ?begins, ?restored, ?resumed⟩
  case takes =>
    rintro harg hengine hreqs rfl hst hbooked hgang harr
    exact contextSpill_takes harg hengine hreqs hst hbooked hgang harr
  case progress => exact fun harg hengine hyields => forwardProgressSpill_takes harg hengine hyields
  case checkpoint => exact fun harg hengine hckpts hst hmark => checkpointSave_takes harg hengine hckpts hst hmark
  case image =>
    rintro hinv harg hengine rfl huid hrestore hmask hst hranges hanswer -
    obtain ⟨t, hexec, hfree, himaged, hregs, hdue⟩ :=
      spillComplete_images hinv (huid ▸ harg) hengine huid.symm hrestore hmask hst hranges hanswer
    exact ⟨t, hexec, hfree, himaged, hregs i, hdue⟩
  case pays =>
    intro harg hfind hhand hreg halive hst hpend
    obtain ⟨hmem, hg, hfull, -⟩ := State.payOwed_pays (BitVec.ofNat 64 v) hfind hhand hreg halive hst hpend
    refine ⟨_, ?_, hmem, hg, hfull⟩
    rw [exec_spillComplete, execSpillComplete, harg]
    rfl
  case begins =>
    intro j hj harg hengine hwants hwindow hgrant
    have hexec := exec_restores harg hengine hwants j hj
    refine ⟨fun hgood => ?_, fun hbad => ⟨_, hexec, State.beginRestore_bad hwants hwindow hgrant hbad⟩⟩
    obtain ⟨p, hp⟩ := State.beginRestore_good hwants hwindow hgrant hgood
    rw [State.imageWindow_eq] at hp
    exact ⟨_, p, hexec, hp⟩
  case restored =>
    rintro harg hengine rfl huid hrestore hst hranges hovf
    obtain ⟨hmem, himage, hstate⟩ := State.restored_restores huid.symm hst hranges hovf
    refine ⟨_, restoreComplete_restores (huid ▸ harg) hengine hrestore, hmem, himage.engine, himage.pc, himage.entry, himage.ts,
      himage.regs i, fun hfault => hstate.trans (if_pos hfault), fun hlive => hstate.trans ((if_neg hlive).trans ?_)⟩
    exact if_congr (or_congr beq_iff_eq Iff.rfl) rfl rfl
  case resumed =>
    intro harg hst
    exact ⟨_, brsResume_resumes harg hst, s.resume_effect core slot _ rfl⟩

end Sys2Proof.Machine
end

section
/-! PROOFS. The integer types and their functions In and Out (05_scalar R112; O1). -/

namespace Sys2Proof.Machine

/-! ### Words and their low bits -/

theorem ityWidth_pos (t : ITy) : 0 < ityWidth t := by cases t <;> decide

theorem ityWidth_le (t : ITy) : ityWidth t ≤ 64 := by cases t <;> decide

/-- The low bits of a number, as a two's-complement integer (R10). -/
theorem sext_eq_toInt (v w : Nat) (hw : 0 < w) : sext v w = (BitVec.ofNat w v).toInt := by
  obtain ⟨n, rfl⟩ : ∃ n, w = n + 1 := ⟨w - 1, by omega⟩
  have hhalf : v % 2 ^ (n + 1) < 2 ^ n ↔ 2 * (v % 2 ^ (n + 1)) < 2 ^ (n + 1) := by
    rw [Nat.pow_succ]
    omega
  simp only [sext, BitVec.toInt_eq_toNat_cond, BitVec.toNat_ofNat, Nat.add_sub_cancel, hhalf]

theorem wrap_eq_toNat (x : Int) (w : Nat) : wrap x w = (BitVec.ofInt w x).toNat := BitVec.toNat_ofInt x |>.symm

theorem setWidth_signExtend {w n : Nat} (v : BitVec w) (h : w ≤ n) : (v.signExtend n).setWidth w = v := by
  apply BitVec.eq_of_getLsbD_eq
  intro i hi
  rw [BitVec.getLsbD_setWidth, BitVec.getLsbD_signExtend]
  simp [hi, Nat.lt_of_lt_of_le hi h]

theorem setWidth_ofInt (w n : Nat) (x : Int) (h : w ≤ n) : (BitVec.ofInt n x).setWidth w = BitVec.ofInt w x := by
  apply BitVec.eq_of_toNat_eq
  rw [BitVec.toNat_setWidth, ← Int.natCast_inj]
  have hdvd : ((2 ^ w : Nat) : Int) ∣ (2 ^ n : Nat) := Int.natCast_dvd_natCast.mpr (Nat.pow_dvd_pow 2 h)
  have hpos (k : Nat) : ((2 ^ k : Nat) : Int) ≠ 0 := Int.natCast_ne_zero.mpr (Nat.two_pow_pos k).ne'
  rw [Int.natCast_emod, BitVec.toNat_ofInt, BitVec.toNat_ofInt, Int.toNat_of_nonneg (Int.emod_nonneg _ (hpos n)),
    Int.toNat_of_nonneg (Int.emod_nonneg _ (hpos w)), Int.emod_emod_of_dvd _ hdvd]

/-! ### In and Out (R112) -/

theorem inTy_signed {t : ITy} (h : itySigned t = true) (v : Word) : inTy t v = (v.setWidth (ityWidth t)).toInt := by
  rw [inTy, inAt, if_pos h, sext_eq_toInt _ _ (ityWidth_pos t), BitVec.ofNat_toNat]

theorem inTy_unsigned {t : ITy} (h : itySigned t = false) (v : Word) : inTy t v = ((v.setWidth (ityWidth t)).toNat : Int) := by
  rw [inTy, inAt, h, BitVec.toNat_setWidth]
  rfl

theorem outTy_signed {t : ITy} (h : itySigned t = true) (x : Int) : outTy t x = (BitVec.ofInt (ityWidth t) x).signExtend 64 := by
  rw [outTy, outAt, inAt, if_pos h, sext_eq_toInt _ _ (ityWidth_pos t), wrap_eq_toNat, BitVec.ofNat_toNat, BitVec.setWidth_eq, word,
    BitVec.signExtend]

theorem outTy_unsigned {t : ITy} (h : itySigned t = false) (x : Int) : outTy t x = (BitVec.ofInt (ityWidth t) x).setWidth 64 := by
  rw [outTy, outAt, inAt, h, wrap_eq_toNat, Nat.mod_eq_of_lt (BitVec.isLt _), word]
  exact (BitVec.ofInt_natCast 64 _).trans (BitVec.ofNat_toNat 64 _)

/-- The low bits of a result are those of the number it wraps (R112). -/
theorem setWidth_outTy (t : ITy) (x : Int) : (outTy t x).setWidth (ityWidth t) = BitVec.ofInt (ityWidth t) x := by
  cases h : itySigned t with
  | true => rw [outTy_signed h, setWidth_signExtend _ (ityWidth_le t)]
  | false => rw [outTy_unsigned h, BitVec.setWidth_setWidth_of_le _ (ityWidth_le t), BitVec.setWidth_eq]

/-- `In` depends only on the low bits of its word. -/
theorem inTy_congr {t : ITy} {v w : Word} (h : v.setWidth (ityWidth t) = w.setWidth (ityWidth t)) : inTy t v = inTy t w := by
  cases hs : itySigned t with
  | true => rw [inTy_signed hs, inTy_signed hs, h]
  | false => rw [inTy_unsigned hs, inTy_unsigned hs, h]

theorem inTy_outTy (t : ITy) (x : Int) : inTy t (outTy t x) = inTy t (BitVec.ofInt 64 x) :=
  inTy_congr ((setWidth_outTy t x).trans (setWidth_ofInt _ _ x (ityWidth_le t)).symm)

/-- Settles O1: the table type by type, and In and Out kind by kind. -/
theorem integerTypes : Obligations.IntegerTypes := by
  unfold Obligations.IntegerTypes
  intro t v x
  refine ⟨by cases t <;> decide, ?_, ?_, inTy_outTy t x⟩
  · cases h : itySigned t with
    | true => exact inTy_signed h v
    | false => exact inTy_unsigned h v
  · cases h : itySigned t with
    | true => exact outTy_signed h x
    | false => exact outTy_unsigned h x

end Sys2Proof.Machine
end

section
/-! PROOFS. Constants and moves, LIH and its worked constant, branches and jumps (05_scalar R114, R116 to R118, R130 to R132; O3, O4, O7). -/

namespace Sys2Proof.Machine

section
variable {s : State} {c : Cur} (sw : Bool)

/-- A form whose operands are at hand completes with any word that its rule gives (R107, R108). -/
theorem State.compute_value {a : GReg} {srcs : List GReg} {lat : Nat} (h : s.atHand c (regs srcs)) {f : (GReg → Word) → Word} {v : Word}
    (hv : f (s.hw.cg c) = v) : s.compute sw a srcs lat f = .next (s.result c sw a v lat) := by
  rw [State.compute_atHand h, hv]

/-! ### Constants and moves (R114, R116, R118) -/

theorem exec_nop_retires (h : s.hw.cur = some c) : exec (.nop sw) s = .next (s.onHw fun h => h.retire c sw 1) := by
  rw [exec_nop, execNop, State.withCur_some h]

theorem exec_movRlc_result (a : GReg) (lc : Fin 3) (h : s.hw.cur = some c) :
    exec (.movRlc sw a lc) s = .next (s.result c sw a (((s.hw.curCtx c).loopLv lc.val).lc.setWidth 64) 2) := by
  rw [exec_movRlc, execMovRlc, State.withCur_some h, State.result, State.onHw, State.onHw]

theorem exec_li_result (a : GReg) (imm : BitVec 40) (h : s.atHand c []) :
    exec (.li sw a imm) s = .next (s.result c sw a (BitVec.ofInt 64 imm.toInt) 2) := by
  rw [exec_li, execLi, State.compute_value sw (srcs := []) h (immWord.eq_1 imm), BitVec.signExtend]

theorem exec_mov_result (a : GReg) {b : GReg} (h : s.atHand c (regs [b])) :
    exec (.mov sw a b) s = .next (s.result c sw a (s.hw.cg c b) 2) := by
  rw [exec_mov, execMov, State.compute_value sw h rfl]

/-! ### LIH (R117) -/

variable (a : GReg) {imm : BitVec 40}

/-- LIH with an immediate that fits reads its register and inserts the immediate below it. -/
theorem exec_lih_fits (hcur : s.hw.cur = some c) (hfit : imm.toNat < 2 ^ 24) : exec (.lih sw a imm) s =
    .next (s.reads c [a.toNat] (s.result c sw a (BitVec.ofNat 64 ((s.hw.cg c a).toNat * 2 ^ 24 + imm.toNat)) 2)) := by
  rw [exec_lih, execLih, State.withCur_some hcur, if_neg (by omega), State.result, State.onHw, State.onHw, regs, List.map_singleton]

theorem exec_lih_wide (hcur : s.hw.cur = some c) (hwide : 2 ^ 24 ≤ imm.toNat) :
    exec (.lih sw a imm) s = .next (s.faultWith c .reservedValue 5 imm.toNat) := by
  rw [exec_lih, execLih, State.withCur_some hcur, if_pos (by omega)]

theorem exec_lih_result (h : s.atHand c (regs [a])) (hfit : imm.toNat < 2 ^ 24) :
    exec (.lih sw a imm) s = .next (s.result c sw a (BitVec.ofNat 64 ((s.hw.cg c a).toNat * 2 ^ 24 + imm.toNat)) 2) := by
  rw [exec_lih_fits sw a h.1 hfit]
  exact congrArg _ (State.reads_atHand h _)

theorem exec_lih_parks (hcur : s.hw.cur = some c) (hpend : (s.hw.curCtx c).pending a.toNat = false)
    (hempty : s.hw.isFull c.core c.slot a.toNat = false) (hbooked : (s.hw.curCtx c).booked = false) (hfit : imm.toNat < 2 ^ 24) :
    exec (.lih sw a imm) s = .next (s.onHw fun h => h.parkChain c (.fullBit a.toNat)) := by
  rw [exec_lih_fits sw a hcur hfit, State.reads_one_empty hpend hempty, hbooked]
  rfl

/-! ### Branches and jumps (R130 to R132) -/

/-- A transfer goes to a target within the translation, and to another one it faults (R130). -/
theorem State.jumpTo_eq (s : State) (c : Cur) (t : Int) (d : Nat) : s.jumpTo c sw t d =
    if 0 ≤ t ∧ t ≤ (c.codeEnd : Int) then s.onHw (fun h => h.transfer c sw t.toNat d)
    else s.faultWith c .reservedValue 1 (t % 2 ^ 64).toNat := by
  rw [State.jumpTo, ← ite_not]
  refine if_congr ?_ rfl rfl
  omega

variable (imm)

/-- Where a branch goes that is taken or not. -/
def State.branch (s : State) (c : Cur) (sw : Bool) (imm : BitVec 40) (taken : Bool) : State :=
  if taken then s.jumpTo c sw ((c.pc : Int) + imm.toInt) 2 else s.onHw fun h => h.retire c sw 1

theorem exec_br_test (k : Test) (h : s.atHand c (regs [a])) :
    exec (.br sw (.test k) a imm) s = .next (s.branch c sw imm (testHolds k (s.hw.cg c a))) := by
  rw [exec_br, execBr, State.withCur_some h.1]
  exact congrArg _ (State.reads_atHand h _)

theorem exec_br_full (h : s.hw.cur = some c) :
    exec (.br sw .full a imm) s = .next (s.branch c sw imm (s.hw.isFull c.core c.slot a.toNat)) := by
  rw [exec_br, execBr, State.withCur_some h]
  rfl

theorem exec_br_empty (h : s.hw.cur = some c) :
    exec (.br sw .empty a imm) s = .next (s.branch c sw imm (!s.hw.isFull c.core c.slot a.toNat)) := by
  rw [exec_br, execBr, State.withCur_some h]
  rfl

theorem exec_jmp_jumps (h : s.hw.cur = some c) : exec (.jmp sw imm) s = .next (s.jumpTo c sw ((c.pc : Int) + imm.toInt) 2) := by
  rw [exec_jmp, execJmp, State.withCur_some h, sbv]

theorem exec_jmpr_jumps {b : GReg} (h : s.atHand c (regs [b])) :
    exec (.jmpr sw b) s = .next (s.jumpTo c sw ((s.hw.cg c b).toNat : Int) 3) := by
  rw [exec_jmpr, execJmpr, State.withCur_some h.1, State.reads_atHand h]

end

/-- Settles O3, one form after the other. -/
theorem constantsAndMoves : Obligations.ConstantsAndMoves := by
  unfold Obligations.ConstantsAndMoves
  intro s c sw a b lc imm
  exact ⟨fun h => ⟨exec_nop_retires sw h.1, exec_li_result sw a imm h, exec_movRlc_result sw a lc h.1⟩, exec_mov_result sw a⟩

/-- Settles O4: what LIH does is split by its immediate and by the full bit of its register; the worked constant decodes by evaluation. -/
theorem shiftedConstants : Obligations.ShiftedConstants := by
  unfold Obligations.ShiftedConstants
  intro s c sw a imm x
  refine ⟨fun h => ⟨exec_lih_result sw a h, exec_lih_wide sw a h.1⟩, fun hcur hpend hempty hbooked hfit => ?_, by decide +kernel⟩
  exact ⟨_, exec_lih_parks sw a hcur hpend hempty hbooked hfit, rfl, s.hw.parkChain_waits c _⟩

/-- Settles O7: each transfer is `State.jumpTo`, and a branch makes it or goes on. -/
theorem scalarTransfers : Obligations.Transfers := by
  unfold Obligations.Transfers
  intro s c sw k a b imm t go on
  have hgo (t : Int) (d : Nat) : s.jumpTo c sw t d = go t d := s.jumpTo_eq sw c t d
  have hbranch (taken : Bool) : s.branch c sw imm taken = if taken then go t 2 else on := by rw [State.branch, hgo]
  refine ⟨fun h => ?_, fun h => ⟨?_, ?_, ?_⟩, fun h => ?_⟩
  · rw [exec_br_test sw a imm k h, hbranch]
  · rw [exec_br_full sw a imm h.1, hbranch]
  · rw [exec_br_empty sw a imm h.1, hbranch]
    cases s.hw.isFull c.core c.slot a.toNat <;> rfl
  · rw [exec_jmp_jumps sw imm h.1, hgo]
  · rw [exec_jmpr_jumps sw h, hgo]

end Sys2Proof.Machine
end

section
/-! PROOFS. Arithmetic, logic, shifts, counts, comparison and selection (05_scalar R108, R119 to R127; O2). -/

namespace Sys2Proof.Machine

/-! ### Values of the arithmetic forms (R119, R120) -/

/-- The latency of DIV and REM by the width of the type (R108). -/
theorem divLatency_eq (t : ITy) : divLatency t =
    if ityWidth t = 64 then 34 else if ityWidth t = 32 then 18 else if ityWidth t = 16 then 10 else 6 := by
  cases t <;> rfl

theorem mulh_value (t : ITy) (n : Int) : n.fdiv (2 ^ ityWidth t : Nat) = n / 2 ^ ityWidth t := by
  rw [Int.fdiv_eq_ediv_of_nonneg _ (Int.natCast_nonneg _), Int.natCast_pow]
  rfl

theorem divOp_eq (t : ITy) (x y : Word) : divOp t x y =
    outTy t (if inTy t y = 0 then (if itySigned t then -1 else 2 ^ ityWidth t - 1) else (inTy t x).tdiv (inTy t y)) := by
  rw [divOp, Int.natCast_pow]
  rfl

theorem remOp_eq (t : ITy) (x y : Word) : remOp t x y =
    outTy t (if inTy t y = 0 then inTy t x else inTy t x - inTy t y * (inTy t x).tdiv (inTy t y)) := by
  rw [remOp, Int.mul_comm (inTy t y)]

/-- A sum of two words carries if and only if it reads below an addend (R119). -/
theorem carry_iff (p q : Word) :
    condHolds .lt (inTy .z64 (outTy .z64 (inTy .z64 p + inTy .z64 q))) (inTy .z64 p) = true ↔ 2 ^ 64 ≤ p.toNat + q.toNat := by
  have hp := p.isLt
  have hq := q.isLt
  have hin (v : Word) : inTy .z64 v = v.toNat := (inTy_unsigned rfl v).trans (by rw [show ityWidth .z64 = 64 from rfl, BitVec.setWidth_eq])
  rw [inTy_outTy, hin, hin, hin, BitVec.toNat_ofInt]
  simp only [condHolds, decide_eq_true_eq]
  omega

/-! ### Shifts (R121, R122) -/

theorem amount_eq (q : Word) : amount q = (q.extractLsb' 0 6).toNat := by
  rw [amount, BitVec.extractLsb'_toNat, Nat.shiftRight_zero]

theorem shiftOp_shl (v : Word) (n : Nat) : shiftOp .shl v n = BitVec.ofNat 64 (v.toNat * 2 ^ n) := by
  rw [shiftOp, ← Nat.shiftLeft_eq]
  rfl

theorem shiftOp_shr (v : Word) (n : Nat) : shiftOp .shr v n = BitVec.ofNat 64 (v.toNat / 2 ^ n) := by
  rw [shiftOp, ← Nat.shiftRight_eq_div_pow, ← BitVec.toNat_ushiftRight, BitVec.ofNat_toNat, BitVec.setWidth_eq]

theorem shiftOp_sar (v : Word) (n : Nat) : shiftOp .sar v n = BitVec.ofInt 64 (v.toInt / 2 ^ n) := by
  rw [shiftOp, BitVec.sshiftRight, Int.shiftRight_eq_div_pow, Int.natCast_pow]
  rfl

/-- A number shifted up by `j` bits: what leaves the low `i + j` bits, and what stays in them. -/
theorem mul_two_pow_eq (v i j : Nat) : v * 2 ^ j = 2 ^ (i + j) * (v / 2 ^ i) + 2 ^ j * (v % 2 ^ i) := by
  calc v * 2 ^ j = 2 ^ j * (2 ^ i * (v / 2 ^ i) + v % 2 ^ i) := by rw [Nat.div_add_mod, Nat.mul_comm]
    _ = _ := by rw [Nat.mul_add, ← Nat.mul_assoc, ← Nat.pow_add, Nat.add_comm j i]

/-- A rotation puts the bits that leave at the top in at the bottom, where the shift has left zeros. -/
theorem shiftOp_rot (v : Word) {n : Nat} (h : n < 64) :
    shiftOp .rot v n = BitVec.ofNat 64 (v.toNat * 2 ^ n + v.toNat / 2 ^ (64 - n)) := by
  have hsum : 2 ^ (64 - n + n) = 2 ^ 64 := by rw [Nat.sub_add_cancel h.le]
  have hsplit := mul_two_pow_eq v.toNat (64 - n) n
  have hlow : v.toNat / 2 ^ (64 - n) < 2 ^ n := Nat.div_lt_of_lt_mul (by rw [← Nat.pow_add, hsum]; exact v.isLt)
  have hhigh := Nat.mul_le_mul_left (2 ^ n) (Nat.succ_le_of_lt (Nat.mod_lt v.toNat (Nat.two_pow_pos (64 - n))))
  rw [Nat.mul_succ, ← Nat.pow_add, Nat.add_comm n, hsum] at hhigh
  rw [hsum] at hsplit
  have hfits : 2 ^ n * (v.toNat % 2 ^ (64 - n)) + v.toNat / 2 ^ (64 - n) < 2 ^ 64 := by omega
  apply BitVec.eq_of_toNat_eq
  rw [shiftOp, BitVec.rotateLeft_def, Nat.mod_eq_of_lt h, BitVec.toNat_or, BitVec.toNat_shiftLeft, BitVec.toNat_ushiftRight,
    BitVec.toNat_ofNat, Nat.shiftLeft_eq, Nat.shiftRight_eq_div_pow, hsplit, Nat.mul_add_mod, Nat.add_assoc, Nat.mul_add_mod,
    Nat.mod_eq_of_lt hfits, Nat.mod_eq_of_lt (Nat.lt_of_le_of_lt (Nat.le_add_right _ _) hfits), Nat.two_pow_add_eq_or_of_lt hlow]

/-- SHI shifts by an amount that six bits hold (R122). -/
theorem exec_shi_result {s : State} {c : Cur} (sw : Bool) (kind : ShKind) (a : GReg) {x : GReg} {n : BitVec 13} (h : s.atHand c (regs [x]))
    (hn : n.toNat ≤ 63) : exec (.shi sw kind a x n) s = .next (s.result c sw a (shiftOp kind (s.hw.cg c x) n.toNat) 2) := by
  have hsix : (n.setWidth 6).setWidth 13 = n := by
    apply BitVec.eq_of_toNat_eq
    rw [BitVec.toNat_setWidth, BitVec.toNat_setWidth]
    omega
  have hexec := execShi_atHand sw kind a x (n.setWidth 6) h
  rwa [hsix] at hexec

theorem exec_shi_refused {s : State} {c : Cur} (sw : Bool) (kind : ShKind) (a x : GReg) {n : BitVec 13} (h : s.hw.cur = some c)
    (hn : 63 < n.toNat) : exec (.shi sw kind a x n) s = .next (s.faultWith c .reservedValue 4 0) := by
  rw [exec_shi, execShi, State.withCur_some h, if_pos hn]

/-! ### Counts (R123) -/

theorem clzOp_spec (p : Word) : ∃ z, clzOp p = BitVec.ofNat 64 z ∧ z ≤ 64 ∧ p.toNat < 2 ^ (64 - z) ∧ (z < 64 → 2 ^ (63 - z) ≤ p.toNat) := by
  by_cases hp : p = 0
  · exact ⟨64, by rw [clzOp, if_pos hp], Nat.le_refl _, by rw [hp]; decide, fun h => absurd h (Nat.lt_irrefl _)⟩
  · have hne : p.toNat ≠ 0 := fun h => hp (BitVec.eq_of_toNat_eq h)
    have hlog : p.toNat.log2 < 64 := (Nat.log2_lt hne).mpr p.isLt
    refine ⟨63 - p.toNat.log2, by rw [clzOp, if_neg hp], by omega, ?_, fun _ => ?_⟩
    · rw [show 64 - (63 - p.toNat.log2) = p.toNat.log2 + 1 by omega]
      exact Nat.lt_log2_self
    · rw [show 63 - (63 - p.toNat.log2) = p.toNat.log2 by omega]
      exact Nat.log2_self_le hne

theorem popcount_eq_countP (n v : Nat) : popcount n v = (List.range n).countP (fun i => v.testBit i) := by
  induction n generalizing v with
  | zero => rfl
  | succ n ih =>
    rw [popcount, ih, List.range_succ_eq_map, List.countP_cons, List.countP_map, Nat.add_comm]
    refine congrArg₂ (· + ·) (List.countP_congr fun i _ => by simp [Nat.testBit_succ]) ?_
    rcases Nat.mod_two_eq_zero_or_one v with h | h <;> simp [Nat.testBit_zero, h]

theorem popcOp_eq (p : Word) : popcOp p = BitVec.ofNat 64 ((List.range 64).countP (fun i => p.getLsbD i)) := by
  rw [popcOp, popcount_eq_countP]
  rfl

/-- Settles O2, form by form: each is the common course of `State.compute`, with the value that its rule gives. -/
theorem scalarResults : Obligations.ScalarResults := by
  unfold Obligations.ScalarResults
  refine ⟨?arithmetic, ?logic, carry_iff, by decide +kernel⟩
  case arithmetic =>
    intro s c sw t k a x y imm p q i w lat
    simp only [exec_add, exec_sub, exec_mul, exec_mulh, exec_div, exec_rem, exec_min, exec_max, exec_cmp, exec_addi, exec_cmpi, exec_ext,
      execAdd, execSub, execMul, execMulh, execDiv, execRem, execMin, execMax, execCmp, execAddi, execCmpi, execExt, divLatency_eq]
    refine ⟨fun h => ?_, fun h => ?_⟩
    · have two {lat : Nat} {f : (GReg → Word) → Word} {v : Word} (hv : f (s.hw.cg c) = v) :
          s.compute sw a [x, y] lat f = .next (s.result c sw a v lat) := State.compute_value sw h hv
      exact ⟨two rfl, two rfl, two rfl, two (congrArg _ (mulh_value t _)), two (divOp_eq t _ _), two (remOp_eq t _ _), two rfl, two rfl,
        two rfl⟩
    · exact ⟨State.compute_value sw h rfl, State.compute_value sw h rfl, State.compute_value sw h rfl⟩
  case logic =>
    intro s c sw k kind a x y n p q d
    have hd : amount q = d := amount_eq q
    have hlt : d < 64 := BitVec.isLt _
    simp only [exec_and, exec_or, exec_xor, exec_andn, exec_shl, exec_shr, exec_sar, exec_rot, exec_clz, exec_popc, exec_sel,
      execAnd, execOr, execXor, execAndn, execShl, execShr, execSar, execRot, execClz, execPopc, execSel]
    refine ⟨fun h => ?_, fun h => ⟨fun hn => ?_, fun hn => ?_, ?_, ?_⟩, fun h => State.compute_value sw h rfl⟩
    · have two {f : (GReg → Word) → Word} {v : Word} (hv : f (s.hw.cg c) = v) :
          s.compute sw a [x, y] 2 f = .next (s.result c sw a v 2) := State.compute_value sw h hv
      have shift (kind : ShKind) {v : Word} (hv : shiftOp kind p d = v) : shiftOp kind p (amount q) = v := by rw [hd, hv]
      exact ⟨two rfl, two rfl, two rfl, two rfl, two (shift .shl (shiftOp_shl p d)), two (shift .shr (shiftOp_shr p d)),
        two (shift .sar (shiftOp_sar p d)), two (shift .rot (shiftOp_rot p hlt))⟩
    · rw [exec_shi_result sw kind a h hn]
      cases kind with
      | shl => rw [shiftOp_shl]
      | shr => rw [shiftOp_shr]
      | sar => rw [shiftOp_sar]
      | rot => rw [shiftOp_rot p (Nat.lt_succ_of_le hn)]
    · exact exec_shi_refused sw kind a x h.1 hn
    · obtain ⟨z, hz, hle, hbelow, habove⟩ := clzOp_spec p
      exact ⟨z, State.compute_value sw h hz, hle, hbelow, habove⟩
    · exact State.compute_value sw h (popcOp_eq p)

end Sys2Proof.Machine
end

section
/-! PROOFS. Core-common registers (05_scalar R114, R115; O5). -/

namespace Sys2Proof.Machine

/-! ### The writes that a core keeps (R115) -/

/-- A chain that issues at cycle `u` sees a write as one of register `n`. -/
def CcWrite.seenBy (u n : Nat) (w : CcWrite) : Bool := w.reg = n && w.seen ≤ u

/-- The newest write of register `n` that a chain at cycle `u` sees. -/
def Core.ccFind (k : Core) (u n : Nat) : Option CcWrite := k.ccs.find? (CcWrite.seenBy u n)

theorem Core.ccSeen_eq (k : Core) (u n : Nat) : k.ccSeen u n = ((k.ccFind u n).map CcWrite.val).getD 0 := by
  change (match k.ccFind u n with | some w => w.val | none => 0) = _
  cases k.ccFind u n <;> rfl

/-- Of one register the writes stand newest first, and every chain from cycle `u + 8` on sees them all. -/
def Core.CcOrdered (k : Core) (u : Nat) : Prop :=
  k.ccs.Pairwise (fun v w => v.reg = w.reg → w.seen ≤ v.seen) ∧ ∀ w ∈ k.ccs, w.seen ≤ u + 8

/-- A write is of another register than `n`, or is not seen yet at cycle `now`. -/
def CcWrite.keptBy (now n : Nat) (w : CcWrite) : Bool := w.reg != n || decide (now < w.seen)

/-- The writes that are kept beside a new one of register `n` at cycle `now`: those of other registers, those that are not seen yet, and the
newest one that is. -/
def ccKept (now n : Nat) (l : List CcWrite) : List CcWrite :=
  l.filter (CcWrite.keptBy now n) ++ (l.find? (CcWrite.seenBy now n)).toList

theorem Core.ccs_ccWrite (k : Core) (now n : Nat) (v : Word) : (k.ccWrite now n v).ccs = ⟨n, v, now + 8⟩ :: ccKept now n k.ccs := rfl

theorem mem_of_mem_ccKept {now n : Nat} {l : List CcWrite} {w : CcWrite} (h : w ∈ ccKept now n l) : w ∈ l := by
  rcases List.mem_append.mp h with h | h
  · exact List.mem_of_mem_filter h
  · exact List.mem_of_find?_eq_some (Option.mem_toList.mp h)

/-- What is kept stands newest first: the one seen write behind those that are not seen yet. -/
theorem pairwise_ccKept {now n : Nat} {l : List CcWrite} (h : l.Pairwise fun v w => v.reg = w.reg → w.seen ≤ v.seen) :
    (ccKept now n l).Pairwise fun v w => v.reg = w.reg → w.seen ≤ v.seen := by
  refine List.pairwise_append.mpr ⟨h.filter _, ?_, fun v hv w hw hreg => ?_⟩
  · cases l.find? (CcWrite.seenBy now n) <;> simp
  · have hseen := List.find?_some (Option.mem_toList.mp hw)
    have hkept := (List.mem_filter.mp hv).2
    simp only [CcWrite.seenBy, Bool.and_eq_true, decide_eq_true_eq] at hseen
    simp only [CcWrite.keptBy, Bool.or_eq_true, bne_iff_ne, decide_eq_true_eq] at hkept
    have hlater := hkept.resolve_left (not_not_intro (hreg.trans hseen.1))
    omega

/-- Of another register every write is kept. -/
theorem find?_ccKept_ne {n m : Nat} (hm : m ≠ n) (now u : Nat) (l : List CcWrite) :
    (ccKept now n l).find? (CcWrite.seenBy u m) = l.find? (CcWrite.seenBy u m) := by
  have hfind : (l.find? (CcWrite.seenBy now n)).toList.find? (CcWrite.seenBy u m) = none := by
    refine List.find?_eq_none.mpr fun w hw => ?_
    have hseen := List.find?_some (Option.mem_toList.mp hw)
    simp only [CcWrite.seenBy, Bool.and_eq_true, decide_eq_true_eq] at hseen ⊢
    exact fun h => hm (h.1.symm.trans hseen.1)
  rw [ccKept, List.find?_append, hfind, Option.or_none, List.find?_filter]
  refine congrArg (fun p => List.find? p l) (funext fun w => ?_)
  by_cases hreg : w.reg = m
  · simp [CcWrite.keptBy, hreg, hm]
  · simp [CcWrite.seenBy, hreg]

/-- Of its own register what a chain sees from now on is kept, if the writes stand newest first: a seen write hides what stands behind it. -/
theorem find?_ccKept_self {now u : Nat} (hu : now ≤ u) (n : Nat) {l : List CcWrite}
    (h : l.Pairwise fun v w => v.reg = w.reg → w.seen ≤ v.seen) :
    (ccKept now n l).find? (CcWrite.seenBy u n) = l.find? (CcWrite.seenBy u n) := by
  induction l with
  | nil => rfl
  | cons w r ih =>
    obtain ⟨hhead, htail⟩ := List.pairwise_cons.mp h
    by_cases hnow : CcWrite.seenBy now n w = true
    · obtain ⟨hreg, hseen⟩ : w.reg = n ∧ w.seen ≤ now := by simpa [CcWrite.seenBy] using hnow
      have hhidden : ((w :: r).filter (CcWrite.keptBy now n)).find? (CcWrite.seenBy u n) = none := by
        refine List.find?_eq_none.mpr fun v hv hseenBy => ?_
        obtain ⟨hmem, hkept⟩ := List.mem_filter.mp hv
        have hvreg : v.reg = n := (by simpa [CcWrite.seenBy] using hseenBy : _ ∧ _).1
        have hvseen : now < v.seen := by simpa [CcWrite.keptBy, hvreg] using hkept
        rcases List.mem_cons.mp hmem with rfl | hr
        · omega
        · have := hhead v hr (hreg.trans hvreg.symm)
          omega
      have hu' : CcWrite.seenBy u n w = true := by simp [CcWrite.seenBy, hreg, Nat.le_trans hseen hu]
      rw [ccKept, List.find?_append, hhidden, List.find?_cons_of_pos hnow, List.find?_cons_of_pos hu']
      exact List.find?_cons_of_pos hu'
    · have hkept : ccKept now n (w :: r) = w :: ccKept now n r := by
        have hlater : CcWrite.keptBy now n w = true := by
          simpa [CcWrite.keptBy, CcWrite.seenBy, imp_iff_not_or] using hnow
        rw [ccKept, List.filter_cons_of_pos hlater, List.find?_cons_of_neg hnow]
        rfl
      rw [hkept, List.find?_cons, List.find?_cons, ih htail]

/-! ### A write and what chains see of it -/

theorem Core.ccOrdered_ccWrite {k : Core} {now : Nat} (h : k.CcOrdered now) (n : Nat) (v : Word) : (k.ccWrite now n v).CcOrdered now := by
  obtain ⟨hsorted, hbound⟩ := h
  have hkept : ∀ w ∈ ccKept now n k.ccs, w.seen ≤ now + 8 := fun w hw => hbound w (mem_of_mem_ccKept hw)
  rw [Core.CcOrdered, Core.ccs_ccWrite]
  exact ⟨List.pairwise_cons.mpr ⟨fun w hw _ => hkept w hw, pairwise_ccKept hsorted⟩, List.forall_mem_cons.mpr ⟨Nat.le_refl _, hkept⟩⟩

theorem Core.ccSeen_ccWrite_late (k : Core) (n : Nat) (v : Word) {now u : Nat} (hu : now + 8 ≤ u) : (k.ccWrite now n v).ccSeen u n = v := by
  rw [Core.ccSeen_eq, Core.ccFind, Core.ccs_ccWrite, List.find?_cons_of_pos (by simp [CcWrite.seenBy, hu])]
  rfl

theorem Core.ccSeen_ccWrite_early {k : Core} (n : Nat) (v : Word) {now u : Nat} (hnow : now ≤ u) (hu : u < now + 8)
    (h : k.CcOrdered now) : (k.ccWrite now n v).ccSeen u n = k.ccSeen u n := by
  rw [Core.ccSeen_eq, Core.ccSeen_eq, Core.ccFind, Core.ccs_ccWrite, List.find?_cons_of_neg (by simp [CcWrite.seenBy, hu]),
    find?_ccKept_self hnow n h.1]
  rfl

theorem Core.ccSeen_ccWrite_ne (k : Core) {n m : Nat} (hm : m ≠ n) (v : Word) (now u : Nat) :
    (k.ccWrite now n v).ccSeen u m = k.ccSeen u m := by
  rw [Core.ccSeen_eq, Core.ccSeen_eq, Core.ccFind, Core.ccs_ccWrite, List.find?_cons_of_neg (by simp [CcWrite.seenBy, hm.symm]),
    find?_ccKept_ne hm]
  rfl

/-! ### The two moves (R114) -/

section
variable {s : State} {c : Cur} (sw : Bool)

/-- A write of a core-common register ends with the core's writes as `Core.ccWrite` leaves them. -/
theorem exec_movWc_writes (n : BitVec 4) {b : GReg} (h : s.atHand c (regs [b])) : ∃ t, exec (.movWc sw n b) s = .next t ∧ t.mem = s.mem ∧
    (t.hw.core c.core).ccs = ((s.hw.core c.core).ccWrite s.hw.now n.toNat (s.hw.cg c b)).ccs := by
  refine ⟨s.onHw fun h => (h.modCore c.core (fun k => k.ccWrite h.now n.toNat (h.cg c b))).retire c sw 1, ?_, rfl, ?_⟩
  · rw [exec_movWc, execMovWc, State.withCur_some h.1, State.reads_atHand h]
  · rw [State.onHw_hw, Hw.core_retire, Hw.core_modCore]
    rfl

theorem exec_movRc_result (a : GReg) (m : BitVec 4) (h : s.hw.cur = some c) :
    exec (.movRc sw a m) s = .next (s.result c sw a ((s.hw.core c.core).ccSeen s.hw.now m.toNat) 2) := by
  rw [exec_movRc, execMovRc, State.withCur_some h, State.result, State.onHw, State.onHw]

end

/-- What a chain sees of the core-common registers, and their order, depend on the core only by its writes. -/
theorem Core.ccSeen_congr {k k' : Core} (h : k.ccs = k'.ccs) (u n : Nat) : k.ccSeen u n = k'.ccSeen u n := by
  rw [Core.ccSeen, Core.ccSeen, h]

theorem Core.ccOrdered_congr {k k' : Core} (h : k.ccs = k'.ccs) (u : Nat) : k.CcOrdered u ↔ k'.CcOrdered u := by
  rw [Core.CcOrdered, Core.CcOrdered, h]

/-- Settles O5: a write stands before what the core keeps, and what it keeps shows each chain what it would have seen without it. -/
theorem coreCommonWrites : Obligations.CoreCommonWrites := by
  unfold Obligations.CoreCommonWrites
  intro s c sw n m a b ordered
  refine ⟨fun h => ?_, fun core u => ⟨rfl, ?_⟩, fun h => exec_movRc_result sw a m h.1⟩
  · obtain ⟨t, hexec, hmem, hccs⟩ := exec_movWc_writes sw n h
    refine ⟨t, hexec, hmem, fun hord => ?_, fun u hu => ?_, fun u hnow hu hord => ?_, fun u _ hm => ?_⟩
    · exact (Core.ccOrdered_congr hccs _).mpr (Core.ccOrdered_ccWrite hord _ _)
    · rw [Core.ccSeen_congr hccs, Core.ccSeen_ccWrite_late _ _ _ hu]
    · rw [Core.ccSeen_congr hccs, Core.ccSeen_ccWrite_early _ _ hnow hu hord]
    · rw [Core.ccSeen_congr hccs, Core.ccSeen_ccWrite_ne _ (fun h => hm (BitVec.eq_of_toNat_eq h))]
  · exact ⟨List.Pairwise.nil, fun w hw => nomatch hw⟩

end Sys2Proof.Machine
end

section
/-! PROOFS. Bit fields (05_scalar R128; O6). -/

namespace Sys2Proof.Machine

/-! ### The field of an immediate, and the words of BFX and BFI (R128) -/

/-- The lowest bit of the field that an immediate packs. -/
def fieldLo (imm : BitVec 13) : Nat := (imm.extractLsb' 0 6).toNat

/-- The length of the field that an immediate packs. -/
def fieldLen (imm : BitVec 13) : Nat := (imm.extractLsb' 6 6).toNat + 1

theorem fieldOf_eq (imm : BitVec 13) : fieldOf imm = (fieldLo imm, fieldLen imm) := by
  simp [fieldOf, fieldLo, fieldLen, bits, Nat.shiftRight_eq_div_pow]

/-- A signed field whose top bit is set reads below zero; any other field reads as it is. -/
theorem bfxOp_eq (sgn : Bool) (lo len : Nat) (v : Word) : bfxOp sgn lo len v =
    if sgn ∧ 2 ^ (len - 1) ≤ v.toNat / 2 ^ lo % 2 ^ len then BitVec.ofInt 64 (((v.toNat / 2 ^ lo % 2 ^ len : Nat) : Int) - 2 ^ len)
    else BitVec.ofNat 64 (v.toNat / 2 ^ lo % 2 ^ len) := by
  cases sgn with
  | false => simp [bfxOp]
  | true =>
    simp only [bfxOp, sext, word, if_true, Nat.mod_mod, true_and]
    by_cases htop : 2 ^ (len - 1) ≤ v.toNat / 2 ^ lo % 2 ^ len
    · rw [if_neg (Nat.not_lt.mpr htop), if_pos htop, Int.natCast_pow]
      rfl
    · rw [if_pos (Nat.lt_of_not_le htop), if_neg htop, BitVec.ofInt_natCast]

/-- A number with `len` of its bits replaced from bit `lo`: what lies above them, the new field, what lies below. -/
theorem replaceField_eq (v lo len x : Nat) (hlen : 0 < len) : v - bits v (lo + len - 1) lo * 2 ^ lo + x % 2 ^ len * 2 ^ lo =
    2 ^ (lo + len) * (v / 2 ^ (lo + len)) + (2 ^ lo * (x % 2 ^ len) + v % 2 ^ lo) := by
  have hlow := Nat.div_add_mod v (2 ^ lo)
  have hfield := congrArg (2 ^ lo * ·) (Nat.div_add_mod (v / 2 ^ lo) (2 ^ len))
  simp only [Nat.div_div_eq_div_mul, ← Nat.pow_add, Nat.mul_add, ← Nat.mul_assoc] at hfield
  rw [bits, show lo + len - 1 + 1 - lo = len by omega, Nat.mul_comm (v / 2 ^ lo % 2 ^ len), Nat.mul_comm (x % 2 ^ len)]
  omega

theorem getLsbD_putBits {w : Nat} (v : BitVec w) (lo : Nat) {len : Nat} (hlen : 0 < len) (x : Nat) {i : Nat} (hi : i < w) :
    (putBits v lo len x).getLsbD i = if lo ≤ i ∧ i < lo + len then x.testBit (i - lo) else v.getLsbD i := by
  have hbelow : 2 ^ lo * (x % 2 ^ len) + v.toNat % 2 ^ lo < 2 ^ (lo + len) := by
    have hx := Nat.mul_le_mul_left (2 ^ lo) (Nat.succ_le_of_lt (Nat.mod_lt x (Nat.two_pow_pos len)))
    have hv := Nat.mod_lt v.toNat (Nat.two_pow_pos lo)
    rw [Nat.mul_succ, ← Nat.pow_add] at hx
    omega
  rw [putBits, BitVec.getLsbD_ofNat, replaceField_eq _ _ _ _ hlen, Nat.testBit_two_pow_mul_add _ hbelow,
    Nat.testBit_two_pow_mul_add _ (Nat.mod_lt _ (Nat.two_pow_pos lo)), BitVec.getLsbD]
  by_cases hhigh : i < lo + len
  · by_cases hlow : i < lo
    · simp [hi, hhigh, hlow, Nat.not_le.mpr hlow]
    · have hin : i - lo < len := by omega
      simp [hi, hhigh, hlow, Nat.le_of_not_lt hlow, hin]
  · simp [hi, hhigh, Nat.testBit_div_two_pow, Nat.sub_add_cancel (Nat.le_of_not_lt hhigh)]

/-! ### BFX and BFI -/

section
variable {s : State} {c : Cur} (sw sgn : Bool) (a x : GReg) {imm : BitVec 13}

/-- A field that leaves the register is refused before any register is read. -/
theorem exec_field_leaves (hcur : s.hw.cur = some c) (hout : 64 < fieldLo imm + fieldLen imm) :
    exec (.bfx sw sgn a x imm) s = .next (s.faultWith c .reservedValue 3 imm.toNat) ∧
      exec (.bfi sw a x imm) s = .next (s.faultWith c .reservedValue 3 imm.toNat) := by
  rw [exec_bfx, exec_bfi, execBfx, execBfi, State.withCur_some hcur, State.withCur_some hcur, fieldOf_eq]
  simp only [if_pos hout, and_self]

theorem exec_bfx_result (h : s.atHand c (regs [x])) (hin : fieldLo imm + fieldLen imm ≤ 64) : exec (.bfx sw sgn a x imm) s =
    .next (s.result c sw a (bfxOp sgn (fieldLo imm) (fieldLen imm) (s.hw.cg c x)) 2) := by
  rw [exec_bfx, execBfx, State.withCur_some h.1, fieldOf_eq]
  simp only [if_neg (Nat.not_lt.mpr hin), State.reads_atHand h]
  rw [State.result, State.onHw, State.onHw]

theorem exec_bfi_result (h : s.atHand c (regs [a, x])) (hin : fieldLo imm + fieldLen imm ≤ 64) : exec (.bfi sw a x imm) s =
    .next (s.result c sw a (putBits (s.hw.cg c a) (fieldLo imm) (fieldLen imm) (s.hw.cg c x).toNat) 2) := by
  rw [exec_bfi, execBfi, State.withCur_some h.1, fieldOf_eq]
  simp only [if_neg (Nat.not_lt.mpr hin), State.reads_atHand h]
  rw [State.result, State.onHw, State.onHw]

end

/-- Settles O6: each form faults or completes by its field, BFX with the field's value and BFI with the field put in bit by bit. -/
theorem bitFields : Obligations.BitFields := by
  unfold Obligations.BitFields
  intro s c sw sgn a x imm lo len p f
  refine ⟨fun hout hcur => exec_field_leaves sw sgn a x hcur hout, fun hin h => ?_, fun hin h => ?_,
    by decide +kernel⟩
  · rw [exec_bfx_result sw sgn a x h hin, bfxOp_eq]
    rfl
  · exact ⟨_, exec_bfi_result sw a x h hin, fun i hi => getLsbD_putBits _ lo (Nat.succ_pos _) p.toNat hi⟩

end Sys2Proof.Machine
end

section
/-! PROOFS. LOOP and the end of a loop's body (05_scalar R133, R134; log 104; O8). -/

namespace Sys2Proof.Machine

/-! ### Levels (R133, R134) -/

theorem mem_insLevel (start : Nat → Nat) (u v : Nat) (l : List Nat) : u ∈ insLevel start v l ↔ u = v ∨ u ∈ l := by
  induction l with
  | nil => simp [insLevel]
  | cons w r ih =>
    simp only [insLevel]
    split
    · exact List.mem_cons
    · rw [List.mem_cons, ih, List.mem_cons, or_left_comm]

theorem mem_foldr_insLevel (start : Nat → Nat) (u : Nat) (l : List Nat) : u ∈ l.foldr (insLevel start) [] ↔ u ∈ l := by
  induction l with
  | nil => exact Iff.rfl
  | cons w r ih => rw [List.foldr_cons, mem_insLevel, ih, List.mem_cons]

theorem Ctx.active_of_mem_levels {x : Ctx} {v : Nat} (h : v ∈ x.levels) : (x.loopLv v).active = true :=
  (List.mem_filter.mp ((mem_foldr_insLevel _ v _).mp h)).2

/-- What a context's level `v` is set to. -/
def Ctx.setLoop (x : Ctx) (v : Nat) (l : LoopLv) : Ctx := { x with lp := SMap.set x.lp v l }

@[simp] theorem Ctx.loopLv_setLoop (x : Ctx) (v : Nat) (l : LoopLv) : (x.setLoop v l).loopLv v = l := SMap.get_set_same _ _ _ _

theorem Ctx.endLoop_eq (x : Ctx) (v : Nat) : x.endLoop v = x.setLoop v { x.loopLv v with active := false, lc := 0 } := rfl

/-- At an offset where no level ends, the loop-back rule does nothing. -/
theorem loopBack_of_no_end {vs : List Nat} {e : Nat} {x : Ctx} (h : ∀ u ∈ vs, (x.loopLv u).fin ≠ e) : loopBack vs e x = x := by
  induction vs with
  | nil => rfl
  | cons v r ih =>
    obtain ⟨hv, hr⟩ := List.forall_mem_cons.mp h
    rw [loopBack, if_neg hv, ih hr]

/-- More iterations to come: the innermost level that ends at the offset goes back to its body's start (R134). -/
theorem loopBack_again {v e : Nat} {x : Ctx} (vs : List Nat) (hfin : (x.loopLv v).fin = e) (hlc : 1 < (x.loopLv v).lc.toNat) :
    loopBack (v :: vs) e x = { x.setLoop v { x.loopLv v with lc := (x.loopLv v).lc - 1 } with pc := (x.loopLv v).start } := by
  rw [loopBack, if_pos hfin, if_pos hlc]
  rfl

/-- After its last iteration the level ends, and the rule goes on with the levels around it (R134). -/
theorem loopBack_last {v e : Nat} {x : Ctx} (vs : List Nat) (hfin : (x.loopLv v).fin = e) (hlc : (x.loopLv v).lc.toNat ≤ 1) :
    loopBack (v :: vs) e x = loopBack vs e (x.endLoop v) := by
  rw [loopBack, if_pos hfin, if_neg (Nat.not_lt.mpr hlc)]

section
variable {x : Ctx} {v pc len : Nat} (hlevels : x.levels = [v]) (hfin : (x.loopLv v).fin = pc + len - 1)
include hlevels hfin

theorem Ctx.advance_again (hlc : 1 < (x.loopLv v).lc.toNat) : x.advance pc len =
    { x.setLoop v { x.loopLv v with lc := (x.loopLv v).lc - 1 } with pc := (x.loopLv v).start } := by
  rw [Ctx.advance, hlevels]
  exact loopBack_again (x := { x with pc := pc + len }) [] hfin hlc

theorem Ctx.advance_last (hlc : (x.loopLv v).lc.toNat ≤ 1) : x.advance pc len = { x.endLoop v with pc := pc + len } := by
  rw [Ctx.advance, hlevels]
  exact loopBack_last (x := { x with pc := pc + len }) [] hfin hlc

end

/-! ### LOOP (R133) -/

/-- The last halfword of the body that follows a LOOP. -/
def Cur.bodyEnd (c : Cur) (imm : BitVec 9) : Nat := c.pc + c.len + imm.toNat - 1

/-- The body after a LOOP has a length from 1 to 256 halfwords, and lies in the translation. -/
def Cur.BodyFits (c : Cur) (imm : BitVec 9) : Prop := 1 ≤ imm.toNat ∧ imm.toNat ≤ 256 ∧ c.bodyEnd imm ≤ c.codeEnd

/-- A LOOP with a count sets its level, and its context goes on at the body's first chain. -/
def Ctx.enterLoop (x : Ctx) (v : Nat) (l : LoopLv) (now : Nat) (sw : Bool) : Ctx :=
  { x.setLoop v l with pc := l.start, notBefore := now + 1, swWait := sw }

/-- A LOOP without one goes past its body, by the loop-back rule of the levels `lp` that stand before it (log 104). -/
def Ctx.passLoop (x : Ctx) (levels : List Nat) (lp : SMap LoopLv) (last : Nat) : Ctx :=
  loopBack levels last { x with pc := last + 1, lp := lp }

/-- If no level ends at the body's last halfword, the chain behind the body is next. -/
theorem Ctx.pc_passLoop {y : Ctx} (x : Ctx) {last : Nat} (h : ∀ u ∈ y.levels, (y.loopLv u).fin ≠ last) :
    (x.passLoop y.levels y.lp last).pc = last + 1 := by
  have hsame : ∀ u ∈ y.levels, (({ x with pc := last + 1, lp := y.lp } : Ctx).loopLv u).fin ≠ last := h
  rw [Ctx.passLoop, loopBack_of_no_end hsame]

section
variable {s : State} {c : Cur} (sw : Bool) (v : Fin 3) (b : GReg) {imm : BitVec 9}

theorem exec_loop_long (hcur : s.hw.cur = some c) (hlong : imm.toNat = 0 ∨ 256 < imm.toNat ∨ c.codeEnd < c.bodyEnd imm) :
    exec (.loop sw v b imm) s = .next (s.faultWith c .loopLimit 1 imm.toNat) := by
  rw [exec_loop, execLoop, State.withCur_some hcur]
  simp only [← Cur.bodyEnd.eq_1, if_pos hlong]

theorem Cur.BodyFits.not_long (hfits : c.BodyFits imm) : ¬(imm.toNat = 0 ∨ 256 < imm.toNat ∨ c.codeEnd < c.bodyEnd imm) := by
  obtain ⟨hsome, hmax, hcode⟩ := hfits
  omega

theorem exec_loop_active (hcur : s.hw.cur = some c) (hfits : c.BodyFits imm) (hactive : ((s.hw.curCtx c).loopLv v.val).active = true) :
    exec (.loop sw v b imm) s = .next (s.faultWith c .loopLimit 2 v.val) := by
  rw [exec_loop, execLoop, State.withCur_some hcur]
  simp only [← Cur.bodyEnd.eq_1, if_neg hfits.not_long, if_pos hactive]

/-- A LOOP of a free level whose body lies inside the active levels reads its count: one that does not fit 32 bits is refused, a count of
0 goes past the body, and any other opens the level. -/
theorem exec_loop_free (h : s.atHand c (regs [b])) (hfits : c.BodyFits imm) (hfree : ((s.hw.curCtx c).loopLv v.val).active = false)
    (hinside : ∀ u ∈ (s.hw.curCtx c).levels,
      ((s.hw.curCtx c).loopLv u).start ≤ c.pc + c.len ∧ c.bodyEnd imm ≤ ((s.hw.curCtx c).loopLv u).fin) :
    exec (.loop sw v b imm) s = .next (
      if 0xFFFFFFFF < (s.hw.cg c b).toNat then s.faultWith c .reservedValue 2 (s.hw.cg c b).toNat
      else if (s.hw.cg c b).toNat = 0 then s.onHw fun h =>
        (h.retire c sw 1).modCur c (fun y => y.passLoop (s.hw.curCtx c).levels (s.hw.curCtx c).lp (c.bodyEnd imm))
      else s.onHw fun h => (h.issued c).modCur c
        (fun y => y.enterLoop v.val ⟨true, c.pc + c.len, c.bodyEnd imm, BitVec.ofNat 32 (s.hw.cg c b).toNat⟩ h.now sw)) := by
  have hfind : (s.hw.curCtx c).levels.find? (fun u =>
      decide (c.pc + c.len < ((s.hw.curCtx c).loopLv u).start) || decide (((s.hw.curCtx c).loopLv u).fin < c.bodyEnd imm)) = none := by
    refine List.find?_eq_none.mpr fun u hu => ?_
    obtain ⟨hstart, hfin⟩ := hinside u hu
    simp [hstart, hfin]
  rw [exec_loop, execLoop, State.withCur_some h.1]
  simp only [← Cur.bodyEnd.eq_1, if_neg hfits.not_long, hfree, Bool.false_eq_true, if_false, hfind, State.reads_atHand h]
  rfl

end

/-- Settles O8: LOOP by its checks in their order and by its count, and the end of a body by the loop-back rule. -/
theorem loops : Obligations.Loops := by
  unfold Obligations.Loops
  refine ⟨?opens, ?ends⟩
  case opens =>
    intro s c sw v b imm x start last h hcur
    refine ⟨exec_loop_long sw v b hcur, fun hsome hmax hcode => exec_loop_active sw v b hcur ⟨hsome, hmax, hcode⟩, ?_⟩
    intro hsome hmax hcode hfree hinside
    rw [exec_loop_free sw v b h ⟨hsome, hmax, hcode⟩ hfree hinside]
    refine ⟨fun hbig => ?_, fun hpos hsmall => ?_, fun hzero => ?_⟩
    · rw [if_pos (by omega)]
    · rw [if_neg (by omega), if_neg (by omega)]
      refine ⟨_, rfl, rfl, ?_⟩
      rw [State.onHw_hw, Hw.curCtx_modCur]
      exact ⟨rfl, rfl, Ctx.loopLv_setLoop _ _ _⟩
    · rw [if_neg (by omega), if_pos hzero]
      refine ⟨_, rfl, rfl, fun hend => ?_⟩
      rw [State.onHw_hw, Hw.curCtx_modCur]
      exact Ctx.pc_passLoop _ hend
  case ends =>
    intro x v pc len hlevels hfin
    refine ⟨fun hlc => ?_, fun hlc => ?_⟩
    · have hactive : (x.loopLv v).active = true := Ctx.active_of_mem_levels (hlevels ▸ List.mem_singleton_self v)
      rw [Ctx.advance_again hlevels hfin hlc]
      exact ⟨rfl, congrArg LoopLv.lc (x.loopLv_setLoop v _), (congrArg LoopLv.active (x.loopLv_setLoop v _)).trans hactive⟩
    · rw [Ctx.advance_last hlevels hfin hlc, Ctx.endLoop_eq]
      exact ⟨rfl, congrArg LoopLv.lc (x.loopLv_setLoop v _), congrArg LoopLv.active (x.loopLv_setLoop v _)⟩

end Sys2Proof.Machine
end

section
/-! PROOFS. The invariant of memory through the ways in which the model composes states (06_memory R140, R141; O53). -/

namespace Sys2Proof.Machine

/-- An answer whose next state, if it gives one, meets the invariant. -/
def Res.Inv : Res → Prop
  | .next t => t.Inv
  | _ => True

theorem Res.Inv.withCur {s : State} {k : Cur → State} (hk : ∀ c, (k c).Inv) : Res.Inv (s.withCur k) := by
  unfold State.withCur
  split
  · trivial
  · exact hk _

theorem State.Inv.ite {p : Prop} [Decidable p] {a b : State} (ha : a.Inv) (hb : b.Inv) : (if p then a else b).Inv := by
  split
  · exact ha
  · exact hb

theorem State.Inv.of_fst {α : Type} {r : State × α} {a : α} {t : State} (hr : r.1.Inv) (heq : r = (t, a)) : t.Inv := by
  rw [heq] at hr
  exact hr

theorem State.Inv.of_snd {α : Type} {r : α × State} {a : α} {t : State} (hr : r.2.Inv) (heq : r = (a, t)) : t.Inv := by
  rw [heq] at hr
  exact hr

theorem State.none_inv : ∀ t ∈ (none : Option State), t.Inv := fun _ ht => absurd ht (Option.not_mem_none _)

section
variable {s : State} (h : s.Inv)
include h

theorem State.Inv.onHw {f : Hw → Hw} : (s.onHw f).Inv := h

theorem State.Inv.setHw {hw : Hw} : State.Inv { s with hw := hw } := h

theorem State.Inv.onMem {f : Mem → Mem} (hf : ∀ m : Mem, m.wf = true → (f m).wf = true) : (s.onMem f).Inv := hf _ h

theorem State.Inv.foldl {β : Type} {f : State → β → State} {l : List β} (hf : ∀ s b, s.Inv → (f s b).Inv) : (l.foldl f s).Inv :=
  List.foldlRecOn l f h fun _ h _ _ => hf _ _ h

theorem State.Inv.some : ∀ t ∈ Option.some s, t.Inv := by
  intro t ht
  rw [← Option.mem_some_iff.mp ht]
  exact h

theorem State.Inv.getD {o : Option State} (ho : ∀ t ∈ o, t.Inv) : (o.getD s).Inv := by
  cases o with
  | none => exact h
  | some t => exact ho t rfl

end

theorem Latch.wf_save {m : Mem} (h : m.wf = true) (l : Latch) (rows scales : Nat) : (l.save m rows scales).wf = true := by
  refine Mem.wf_foldl _ (fun m e hm => ?_) _ (Mem.wf_foldl _ (fun m e hm => ?_) _ h)
  all_goals
    split
    · exact Mem.wf_putN hm _ _
    · exact hm

theorem Core.wf_saveMatrix {m : Mem} (h : m.wf = true) (k : Core) (base : Nat) : (k.saveMatrix m base).wf = true := by
  refine Mem.wf_putN (Latch.wf_save (Latch.wf_save (Mem.wf_foldl _ (fun m i hm => ?_) _ h) _ _ _) _ _ _) _ _
  refine Mem.wf_putN (Mem.wf_putN (Mem.wf_foldl _ (fun m e hm => ?_) _ hm) _ _) _ _
  split
  · exact Mem.wf_putN hm _ _
  · exact hm

theorem Hw.wf_saveCommon {m : Mem} (h : m.wf = true) (hw : Hw) (core base : Nat) : (hw.saveCommon core m base).wf = true := by
  refine Mem.wf_foldl _ (fun m e hm => ?_) _ (Mem.wf_foldl _ (fun m p hm => Mem.wf_putQuads hm _ _) _ (Mem.wf_putN (Mem.wf_putQuads (Mem.wf_putQuads
    (Mem.wf_putQuads (Mem.wf_foldl _ (fun m i hm => Mem.wf_putQuads hm _ _) _ (Mem.wf_putQuads h _ _)) _ _) _ _) _ _) _ _))
  split
  · exact Mem.wf_put hm _ _
  · exact hm

end Sys2Proof.Machine
end

section
/-! PROOFS. The operands, the fixed-latency forms and the branches keep memory canonical (05_scalar, 06_memory; O53). -/

namespace Sys2Proof.Machine

section
variable {s : State} (h : s.Inv)
include h

theorem State.Inv.faultWith {c cause sub frb} : (s.faultWith c cause sub frb).Inv := h.onHw

theorem State.Inv.reads {c rs} {k : State} (hk : k.Inv) : (s.reads c rs k).Inv := by
  fun_cases State.reads
  case case1 | case4 => exact h.faultWith
  case case6 => exact hk
  all_goals exact h

theorem State.Inv.window {c last} {k : State} (hk : k.Inv) : (s.window c last k).Inv := by
  fun_cases State.window
  · exact h.faultWith
  · exact hk

theorem State.Inv.compute {sw a srcs lat f} : Res.Inv (s.compute sw a srcs lat f) := Res.Inv.withCur fun _ => h.reads h.onHw

theorem State.Inv.readsPtr {c p} {k : State} (hk : k.Inv) : (s.readsPtr c p k).Inv := by
  fun_cases State.readsPtr
  · exact hk
  · exact h.faultWith
  · exact h

theorem State.Inv.readsMasks {c ms} {k : State} (hk : k.Inv) : (s.readsMasks c ms k).Inv := by
  fun_cases State.readsMasks
  · exact h.faultWith
  · exact h
  · exact hk

theorem State.Inv.check {c n o size need align} {k : ℕ → Seg → State} (hk : ∀ u0 u1, (k u0 u1).Inv) : (s.check c n o size need align k).Inv := by
  fun_cases State.check
  · exact hk _ _
  · exact h

theorem execLea_inv {sw hi a m} : Res.Inv (execLea sw hi a m s) := by
  unfold execLea
  dsimp only
  refine Res.Inv.withCur fun _ => h.reads ?_
  split <;> exact h

theorem State.Inv.jumpTo {c sw t d} : (s.jumpTo c sw t d).Inv := by
  fun_cases State.jumpTo
  · exact h.faultWith
  · exact h

theorem execBr_inv {sw k a imm} : Res.Inv (execBr sw k a imm s) := by
  unfold execBr
  refine Res.Inv.withCur fun _ => ?_
  split
  · exact h.reads (.ite h.jumpTo h.onHw)
  · exact .ite h.jumpTo h.onHw
  · exact .ite h.jumpTo h.onHw

theorem execLoop_inv {sw lc b imm} : Res.Inv (execLoop sw lc b imm s) := by
  unfold execLoop
  refine Res.Inv.withCur fun _ => .ite h.faultWith (.ite h.faultWith ?_)
  split
  · exact h.faultWith
  · exact h.reads (.ite h.faultWith (.ite h.onHw h.onHw))

end

end Sys2Proof.Machine
end

section
/-! PROOFS. The memory port, the banks and the copy engine keep memory canonical (06_memory, 07_page, 08_ordering; O53). -/

namespace Sys2Proof.Machine

section
variable {s : State} (h : s.Inv)
include h

theorem State.Inv.writeLeaves {tenant z0} : (s.writeLeaves tenant z0).Inv := by
  fun_induction State.writeLeaves with
  | case1 s pa q0 q1 r ih => exact ih (.ite (h.onMem fun _ hm => Mem.wf_putN hm _ _) h)
  | case2 => exact h

theorem State.Inv.bankWrite {key bs tag} : (s.bankWrite key bs tag).Inv := by
  fun_cases State.bankWrite
  · exact h
  · exact (h.onMem (fun _ hm => Mem.wf_writeRange hm _ _ _)).foldl (fun _ _ h => h.onHw)

theorem State.Inv.setWoke {core slot} : (s.setWoke core slot).Inv := by
  fun_cases State.setWoke
  · exact h.onHw.onMem (fun _ hm => Mem.wf_orBit hm _ _)
  · exact h

theorem State.Inv.wake {core slot} : (s.wake core slot).Inv := by
  fun_cases State.wake
  · exact h.setWoke
  · exact h

theorem State.Inv.deliver {core slot n txn v} : (s.deliver core slot n txn v).Inv := by
  fun_cases State.deliver
  · exact h
  · exact ((h.onMem (fun _ hm => Mem.wf_orBit (Mem.wf_putN hm _ _) _ _)).onHw).setWoke
  · exact (h.onMem (fun _ hm => Mem.wf_orBit (Mem.wf_putN hm _ _) _ _)).onHw
  · exact ((State.Inv.ite (h.onMem (fun _ hm => Mem.wf_orBit (Mem.wf_putN hm _ _) _ _)) h).onHw).setWoke
  · exact ((State.Inv.ite (h.onMem (fun _ hm => Mem.wf_orBit (Mem.wf_putN hm _ _) _ _)) h).onHw).onHw

theorem State.Inv.deliverAll {core slot txn l} : (s.deliverAll core slot txn l).Inv := h.foldl (fun _ _ h => h.deliver)

theorem State.Inv.flagTs {core slot i} : (s.flagTs core slot i).Inv := by
  fun_cases State.flagTs
  · exact h.onHw.onMem (fun _ hm => Mem.wf_orBit hm _ _)
  · exact h

theorem State.Inv.auditAll {a uid den} : (s.auditAll a uid den).Inv := by
  fun_cases State.auditAll
  · exact h.onHw.flagTs
  · exact h

theorem State.Inv.accFaults {o cause sub frb} : (s.accFaults o cause sub frb).Inv := by fun_cases State.accFaults <;> exact h

theorem State.Inv.accRemote {o cause target} : (s.accRemote o cause target).Inv := by
  fun_cases State.accRemote
  case case1 => exact h.accFaults
  case case3 => exact h.onHw.deliverAll
  case case4 => exact h.onHw.deliverAll.onHw
  all_goals exact h

theorem State.Inv.send {o} : (s.send o).Inv := by fun_cases State.send <;> exact h

theorem State.Inv.pump {core} : (s.pump core).Inv := by
  unfold State.pump
  refine h.foldl (fun _ _ h => ?_)
  split
  · exact h
  · exact .ite h h.send

theorem State.Inv.notYet {c} : (s.notYet c).Inv := h.onHw

theorem State.Inv.unit {c k} {go : State} (hgo : go.Inv) : (s.unit c k go).Inv := by
  fun_cases State.unit
  case case2 | case3 => exact h.faultWith
  case case4 => exact h.notYet
  all_goals exact hgo

theorem State.Inv.access {c sw a} : (s.access c sw a).Inv := by
  fun_cases State.access
  case case2 => exact h.faultWith
  all_goals exact h.setHw.pump

theorem State.Inv.timedPlain {c sw d reg v} : (s.timedPlain c sw d reg v).Inv := h.setHw

theorem State.Inv.mayAccess {c relaxed k} {go : State} (hgo : go.Inv) : (s.mayAccess c relaxed k go).Inv := by
  fun_cases State.mayAccess
  case case3 => exact hgo
  all_goals exact h

theorem State.Inv.plainRead {c key len} {k : List Byte → State → State} (hk : ∀ u0 t, t.Inv → (k u0 t).Inv) : (s.plainRead c key len k).Inv := by
  fun_cases State.plainRead
  · exact h.faultWith
  · exact h.auditAll.faultWith
  · exact hk _ _ h.auditAll

theorem State.Inv.scratchCheck {c n o size need align sub} {k : ℕ → State} (hk : ∀ u0, (k u0).Inv) :
    (s.scratchCheck c n o size need align sub k).Inv := by
  fun_cases State.scratchCheck
  · exact h
  · exact h.check (fun _ _ => hk _)

theorem State.Inv.reply {a due r} : (s.reply a due r).Inv := h.onHw

theorem State.Inv.writeKeep {key bs} : (s.writeKeep key bs).Inv := h.bankWrite

theorem State.Inv.cellStep {op base} : (s.cellStep op base).Inv := by
  fun_cases State.cellStep
  · exact h
  · exact h.writeKeep.onHw
  · exact h.writeKeep

theorem State.Inv.bindCheck {a due} {k : State → State} (hk : ∀ t, t.Inv → (k t).Inv) : (s.bindCheck a due k).Inv := by
  fun_cases State.bindCheck
  case case3 => exact hk _ h.auditAll.onHw.onHw
  case case4 => exact hk _ h
  all_goals exact h.auditAll.onHw.reply

theorem State.Inv.tagBack {a due tag} : (s.tagBack a due tag).Inv := h.onHw

theorem State.Inv.performOne {a p due} : (s.performOne a p due).Inv := by
  unfold State.performOne
  split
  · exact h.tagBack
  · split <;> exact h.auditAll.reply
  · refine .ite h.reply ?_
    split
    · refine State.Inv.reply ?_
      split
      · exact h
      · exact h.writeKeep.onHw
    · exact .ite h.reply (.ite h.onHw.reply h.reply)
    · exact .ite h.reply (.ite h.onHw.reply h.reply)
    · exact h.bindCheck (fun _ h => h.cellStep.reply)
    · exact h.bindCheck (fun _ h => h.cellStep.reply)
    · exact h.bindCheck (fun _ h => h.cellStep.reply)
    · exact h.reply

theorem State.Inv.performed {a} : (s.performed a).Inv := h.onHw

theorem State.Inv.performPiece {a p due} : (s.performPiece a p due).Inv := by
  unfold State.performPiece
  dsimp only
  split
  · refine State.Inv.onHw ?_
    split
    · exact .ite h h.bankWrite
    · exact .ite h.auditAll h
  · refine .ite (((State.Inv.onHw ?_).performed).reply) (State.Inv.onHw ?_)
    · split
      · exact .ite h h.bankWrite
      · exact .ite h.auditAll h
    · split
      · exact .ite h h.bankWrite
      · exact .ite h.auditAll h

theorem State.Inv.perform {a due} : (s.perform a due).Inv := by
  unfold State.perform
  extract_lets s1
  have h1 : s1.Inv := by
    refine .ite (h.foldl fun _ _ h => h.performPiece) ?_
    split
    · exact h.performed.reply
    · exact h.performed.reply
    · exact .ite h.performed.performOne h.performOne
    · exact h.performed
  clear_value s1
  split
  · exact .ite h1.pump h1
  · exact h1

theorem State.Inv.arrived {core txn r} : (s.arrived core txn r).1.Inv := by
  fun_cases State.arrived
  · exact h
  · exact h.auditAll.onHw

theorem State.Inv.answer {core txn r} : (s.answer core txn r).Inv := by
  unfold State.answer
  split
  next heq =>
    have h := h.arrived.of_fst heq
    split
    · exact h
    · refine (State.Inv.onHw ?_).pump
      split
      · exact .ite h.onHw.auditAll (.ite h.onHw.auditAll.deliverAll h.onHw.auditAll.deliverAll.onHw)
      · exact .ite h.onHw.onHw h.onHw
      · exact .ite h.onHw.auditAll.onHw h.onHw.auditAll
      · exact h.onHw
      · exact h.onHw
      · exact h.onHw.accFaults
      · exact h.onHw.accRemote

theorem State.Inv.tagReply {core txn tag} : (s.tagReply core txn tag).Inv := by
  unfold State.tagReply
  split
  · exact h
  · refine .ite h.onHw ((State.Inv.performed ?_).reply)
    split
    · exact h.auditAll.onHw
    · exact h.auditAll

theorem State.Inv.noPage {o va w} : (s.noPage o va w).Inv := by fun_cases State.noPage <;> exact h

theorem State.Inv.walkDone {core txn va} : (s.walkDone core txn va).Inv := by
  fun_cases State.walkDone
  · exact h
  · exact h.onHw.onHw.reply
  · exact h.onHw.reply
  · exact h.onHw.onHw.send
  · exact h.onHw.noPage

theorem State.Inv.reach {core tenant svc need brings virt addr} : (s.reach core tenant svc need brings virt addr).2.Inv := by
  unfold State.reach
  dsimp only
  split
  · exact h
  · split
    · split <;> exact h
    · split <;> exact h
    · split
      · split <;> exact h
      · exact h

theorem State.Inv.copyFetch {core upto fuel m} : (State.copyFetch core upto fuel m s).2.2.Inv := by
  induction fuel generalizing s m with
  | zero => exact h
  | succ fuel ih =>
    unfold State.copyFetch
    dsimp only
    split
    · exact h
    · split
      · exact h
      · split
        next heq => exact ih (h.reach.of_snd heq)
        next heq => exact h.reach.of_snd heq

theorem State.Inv.copyPut {key off len rs} : (s.copyPut key off len rs).Inv :=
  (h.foldl (fun _ _ h => h.bankWrite)).onMem (fun _ hm => Mem.wf_setPoison hm _ _)

theorem State.Inv.copyBlocked {core m va e held past} : (s.copyBlocked core m va e held past).Inv := by fun_cases State.copyBlocked <;> exact h

theorem State.Inv.copyRead {core late} : (s.copyRead core late).Inv := by
  fun_cases State.copyRead
  case case6 heq => exact (h.setHw.copyFetch.of_snd (congrArg Prod.snd heq)).onHw
  case case7 heq => exact (h.setHw.copyFetch.of_snd (congrArg Prod.snd heq)).onHw.copyBlocked
  all_goals exact h

theorem State.Inv.copyWrite {core late} : (s.copyWrite core late).Inv := by
  unfold State.copyWrite
  dsimp only
  split
  · exact h
  · split
    · exact h
    · refine .ite h (.ite h (.ite h ?_))
      generalize hfold : List.foldl _ _ _ = r
      have hr : ∀ p ∈ r, p.2.Inv := by
        rw [← hfold]
        refine List.foldlRecOn (motive := fun o : Option (Reach × State) => ∀ p ∈ o, p.2.Inv) _ _
          (fun p hp => absurd hp (Option.not_mem_none p)) fun o ho x _ p hp => ?_
        split at hp
        · cases hp
          exact (ho _ rfl).reach
        · cases hp
          exact h.setHw.reach
        · exact ho p hp
      split
      · exact h
      · exact (hr _ rfl).copyPut.onHw
      · exact (hr _ rfl).copyBlocked

theorem State.Inv.copyStart {core} : (s.copyStart core).Inv := by fun_cases State.copyStart <;> exact h

theorem State.Inv.secWindow {c sec a} {k : State} (hk : k.Inv) : (s.secWindow c sec a k).Inv := by
  fun_cases State.secWindow
  · exact h.window hk
  · exact hk

theorem State.Inv.memForm {c sw m srcs op relaxed size align need} : (s.memForm c sw m srcs op relaxed size align need).Inv :=
  h.reads (h.mayAccess (h.check (fun _ _ => h.access)))

theorem State.Inv.ptrForm {c sw p md srcs op size align need} : (s.ptrForm c sw p md srcs op size align need).Inv :=
  h.reads (h.readsPtr (h.mayAccess (.ite h.onHw (h.check (fun _ _ => .ite h.access h.access.onHw)))))

theorem execEpop_inv {sw a e} : Res.Inv (execEpop sw a e s) := by
  unfold execEpop
  dsimp only
  refine Res.Inv.withCur fun _ => .ite h.faultWith (h.window ?_)
  split
  · split
    · exact .ite h.faultWith h.onHw
    · exact h
  · split
    · exact .ite h.faultWith h.onHw
    · exact h
  · split
    · exact .ite h.faultWith h.onHw
    · exact h
  · split
    · exact .ite h.faultWith h.onHw
    · exact h

theorem execFenceComplete_inv : Res.Inv (execFenceComplete s) := by
  unfold execFenceComplete
  split
  · extract_lets x
    refine show State.Inv _ from ?_
    split
    · exact h
    · extract_lets status y s1 s2
      have h2 : s2.Inv := .ite (h.onHw.onMem fun _ hm => Mem.wf_putN hm _ _) h.onHw
      exact .ite h (.ite h2.wake h2)
  · trivial

theorem State.Inv.step15 {c sw m code i o need op} : (s.step15 c sw m code i o need op).Inv := h.mayAccess (h.onHw.check (fun _ _ => h.onHw.access))

theorem execRelaxedLoadResult_inv : Res.Inv (execRelaxedLoadResult s) := by
  fun_cases execRelaxedLoadResult
  · exact h.answer
  · trivial

theorem execStoreAcknowledge_inv : Res.Inv (execStoreAcknowledge s) := by
  fun_cases execStoreAcknowledge
  · exact h.answer
  · trivial

theorem execTagRetryRequest_inv : Res.Inv (execTagRetryRequest s) := by
  fun_cases execTagRetryRequest
  · exact h.tagReply
  · trivial

theorem execMonitorWake_inv : Res.Inv (execMonitorWake s) := by
  fun_cases execMonitorWake
  · exact .ite h (.ite h.wake (.ite h.onHw h))
  · trivial

theorem execMwaitTimedWake_inv : Res.Inv (execMwaitTimedWake s) := by
  fun_cases execMwaitTimedWake
  · exact .ite h.wake h
  · trivial

theorem execCopyCommandStart_inv : Res.Inv (execCopyCommandStart s) := by
  fun_cases execCopyCommandStart
  · exact h.copyStart
  · exact .ite h (.ite h.copyRead h.copyWrite)
  · trivial

end

end Sys2Proof.Machine
end

section
/-! PROOFS. Messages, code, contexts and their frames keep memory canonical (04_context, 13_kernel; O53). -/

namespace Sys2Proof.Machine

section
variable {s : State} (h : s.Inv)
include h

theorem State.Inv.wakeCode {clu e} : (s.wakeCode clu e).Inv := h.foldl (fun _ _ h => .ite h.wake h)

theorem State.Inv.install {clu e room} : (s.install clu e room).Inv := by
  fun_cases State.install
  case case2 => exact h.setHw.wakeCode
  all_goals exact h

theorem State.Inv.fetchReply {clu e load step m core slot} : (s.fetchReply clu e load step m core slot).Inv := by
  fun_cases State.fetchReply <;> exact h

theorem State.Inv.imageCame {clu e load step m core slot} : (s.imageCame clu e load step m core slot).Inv := by fun_cases State.imageCame <;> exact h

theorem State.Inv.noSource {clu e load} : (s.noSource clu e load).Inv := by
  fun_cases State.noSource
  · exact h
  · exact (h.onHw.foldl (fun _ _ h => .ite h (.ite h.setWoke h.onHw))).onHw

theorem State.Inv.codeRetryAll {clu} : (s.codeRetryAll clu).Inv := by
  unfold State.codeRetryAll
  refine (h.foldl (fun _ _ h => h.install)).foldl (fun _ _ h => .ite h.onHw ?_)
  split
  · exact .ite h.onHw.wake h.onHw
  · split <;> exact h

theorem execCodeMissRetry_inv : Res.Inv (execCodeMissRetry s) := by
  fun_cases execCodeMissRetry
  · exact h.codeRetryAll
  · trivial

theorem execCodeFetchReply_inv : Res.Inv (execCodeFetchReply s) := by
  fun_cases execCodeFetchReply
  · exact h.fetchReply
  · trivial

theorem execCodeInstall_inv : Res.Inv (execCodeInstall s) := by
  fun_cases execCodeInstall
  · exact .ite h.install h
  · exact h.imageCame
  · trivial

theorem execCodeNoSource_inv : Res.Inv (execCodeNoSource s) := by
  fun_cases execCodeNoSource
  · exact h.noSource
  · trivial

theorem State.Inv.dropFrames {core slot} : (s.dropFrames core slot).Inv := h.foldl (fun _ _ h => h.onHw)

theorem State.Inv.grantLoad {core i p} : (s.grantLoad core i p).Inv := by fun_cases State.grantLoad <;> exact h

theorem State.Inv.grantTake {core i p} : (s.grantTake core i p).Inv := by
  fun_cases State.grantTake
  · exact h.grantLoad
  · exact h

theorem State.Inv.begin_ {core slot} : (s.begin_ core slot).Inv := by fun_cases State.begin_ <;> exact h

theorem execTaskReady_inv : Res.Inv (execTaskReady s) := by
  fun_cases execTaskReady
  · exact .ite h (.ite h h.onHw.begin_)
  · trivial

theorem State.Inv.noStatus {c n} : (s.noStatus c n).Inv := h.faultWith

theorem execSrr_inv {sw a n} : Res.Inv (execSrr sw a n s) := by
  unfold execSrr
  refine Res.Inv.withCur fun _ => ?_
  split
  · exact h.noStatus
  · exact h

theorem execSrw_inv {sw n b} : Res.Inv (execSrw sw n b s) := by
  unfold execSrw
  dsimp only
  refine Res.Inv.withCur fun _ => ?_
  split
  · exact h.noStatus
  · exact .ite h.faultWith (h.reads (.ite h.faultWith h.onHw))

theorem State.Inv.ovfWrite {core e} : (s.ovfWrite core e).Inv := h.writeKeep

theorem State.Inv.ovfPack {core} : (s.ovfPack core).Inv := by
  fun_cases State.ovfPack
  · exact h
  · exact h.onHw.foldl (fun _ _ h => h.ovfWrite)

theorem State.Inv.holdArrival {m} : (s.holdArrival m).Inv := by
  fun_cases State.holdArrival
  · exact h.ovfPack.onHw.ovfWrite.flagTs.setWoke
  · exact h.ovfPack.onHw.ovfWrite.flagTs

theorem State.Inv.arrive {m} : (s.arrive m).2.Inv := by
  fun_cases State.arrive
  case case4 => exact h.holdArrival
  all_goals exact h

theorem execSendArrival_inv : Res.Inv (execSendArrival s) := by
  fun_cases execSendArrival
  · exact .ite h.onHw h.arrive.onHw
  · trivial

theorem State.Inv.sendReturn {o a} : (s.sendReturn o a).Inv := h.onHw

theorem State.Inv.payOwed {core txn v} : (s.payOwed core txn v).Inv := by
  unfold State.payOwed
  split
  · exact h
  · refine ((State.Inv.ite (State.Inv.deliver ?_) ?_).onHw).pump
    · split
      · exact .ite h.onHw.sendReturn h.onHw
      · exact h
    · split
      · exact .ite h.onHw.sendReturn h.onHw
      · exact h

theorem execSendStatus_inv : Res.Inv (execSendStatus s) := by
  fun_cases execSendStatus
  · exact h.onHw.payOwed
  · trivial

theorem execSpawnArrival_inv : Res.Inv (execSpawnArrival s) := by
  unfold execSpawnArrival
  dsimp only
  split
  · refine .ite h.onHw (.ite h.onHw (.ite h.onHw ?_))
    split
    · exact .ite h.onHw h.grantTake.onHw.onHw
    · exact h
  · trivial

theorem execTrapReply_inv : Res.Inv (execTrapReply s) := by
  fun_cases execTrapReply
  · split
    · exact h
    · exact h.onHw.payOwed
  · trivial

theorem execCoreModeSet_inv : Res.Inv (execCoreModeSet s) := by
  fun_cases execCoreModeSet
  · exact .ite h.onHw h
  · exact h
  · trivial

theorem State.Inv.unbooked {c} {k : State} (hk : k.Inv) : (s.unbooked c k).Inv := by
  fun_cases State.unbooked
  · exact h.faultWith
  · exact hk

theorem State.Inv.unpaired {c} {k : State} (hk : k.Inv) : (s.unpaired c k).Inv := by
  fun_cases State.unpaired
  · exact h.faultWith
  · exact hk

theorem State.Inv.whenSettled {c} {k : State} (hk : k.Inv) : (s.whenSettled c k).Inv := by
  fun_cases State.whenSettled
  · exact hk
  · exact h

theorem State.Inv.frameAccess {c sw op i} : (s.frameAccess c sw op i).2.Inv := h.onHw

theorem State.Inv.frameOver {o} : (s.frameOver o).Inv := h.onHw

theorem State.Inv.callLookup {o digest bs} : (s.callLookup o digest bs).Inv := by
  fun_cases State.callLookup
  · exact h.frameOver.onHw
  · exact h.frameOver.bankWrite.onHw

theorem State.Inv.retFrame {c sw} : (s.retFrame c sw).Inv := h.whenSettled (.ite h.faultWith (.ite h.faultWith h.frameAccess.pump))

theorem State.Inv.frameCame {o r} : (s.frameCame o r).Inv := by
  fun_cases State.frameCame
  case case2 => exact h
  all_goals exact h.answer

theorem State.Inv.retLookup {o v} : (s.retLookup o v).Inv := by
  fun_cases State.retLookup
  · exact h.frameOver.onHw
  · exact h.onHw.answer
  · exact h.onHw.frameOver.onHw

theorem State.Inv.codeinv {c sw a digest} : (s.codeinv c sw a digest).Inv := by fun_cases State.codeinv <;> exact h

theorem execCodeinvComplete_inv : Res.Inv (execCodeinvComplete s) := by
  fun_cases execCodeinvComplete
  · exact h.onHw.payOwed
  · trivial

end

end Sys2Proof.Machine
end

section
/-! PROOFS. Barriers, gangs and pipes keep memory canonical (09_barrier, 16_gang; O53). -/

namespace Sys2Proof.Machine

section
variable {s : State} (h : s.Inv)
include h

theorem State.Inv.barRefuse {clu w} : (s.barRefuse clu w).Inv := by fun_cases State.barRefuse <;> exact h

theorem State.Inv.barHold {clu at_ ch w} : (s.barHold clu at_ ch w).Inv := by fun_cases State.barHold <;> exact h

theorem State.Inv.mirrorSplit {w} : (s.mirrorSplit w).Inv := by
  fun_cases State.mirrorSplit
  · exact h.onMem (fun _ hm => Mem.wf_putN hm _ _)
  · exact h

theorem State.Inv.retryHeld {clu at_ ch l} : (s.retryHeld clu at_ ch l).Inv := by
  induction l generalizing s with
  | nil => exact h
  | cons w l ih =>
    unfold State.retryHeld
    exact ih (State.Inv.ite h (.ite h.barRefuse (.ite h.barHold (.ite h.barRefuse h.onHw)))).mirrorSplit

theorem State.Inv.barCore {c sw kind reg val ch} : (s.barCore c sw kind reg val ch).Inv := by
  fun_cases State.barCore
  case case3 => exact h.onHw.barHold
  case case5 => exact h
  all_goals exact h.faultWith

theorem State.Inv.barClu {c sw kind reg val ch} : (s.barClu c sw kind reg val ch).Inv := h.onHw

theorem State.Inv.barArrival {c sw clu kind reg val ch} : (s.barArrival c sw clu kind reg val ch).Inv := by
  fun_cases State.barArrival
  case case3 => exact h
  case case4 => exact h.barClu
  case case5 => exact h.barCore
  all_goals exact h.faultWith

theorem execBarArm_inv {sw clu a ch} : Res.Inv (execBarArm sw clu a ch s) := by
  unfold execBarArm
  refine Res.Inv.withCur fun _ => .ite h.faultWith (h.reads (.ite h.onHw ?_))
  split
  · exact h.faultWith
  · exact h

theorem execBarrierArmApplied_inv : Res.Inv (execBarrierArmApplied s) := by
  fun_cases execBarrierArmApplied
  · refine .ite h ?_
    split <;> exact h
  · trivial

theorem execBarrierArrivalAtNode_inv : Res.Inv (execBarrierArrivalAtNode s) := by
  fun_cases execBarrierArrivalAtNode
  · exact .ite h (.ite h.barRefuse (.ite h.barHold (.ite h.barRefuse h.onHw.mirrorSplit)))
  · trivial

theorem State.Inv.splitReleased {clu ch word p} : (s.splitReleased clu ch word p).Inv := by
  fun_cases State.splitReleased
  case case3 => exact h.onHw.onMem (fun _ hm => Mem.wf_putN hm _ _)
  all_goals exact h

theorem execBarrierRelease_inv : Res.Inv (execBarrierRelease s) := by
  unfold execBarrierRelease
  split
  · extract_lets clu c
    refine show State.Inv _ from ?_
    split
    · exact h
    · extract_lets s1 s2 s3
      have h2 : s2.Inv := h.onHw.foldl fun _ _ h => .ite h.onHw h
      have h3 : s3.Inv := h2.foldl fun _ _ h => h.splitReleased
      exact .ite h3.retryHeld h3
  · trivial

theorem execBarrierDeparture_inv : Res.Inv (execBarrierDeparture s) := by
  fun_cases execBarrierDeparture
  · exact h.onHw
  · trivial

theorem State.Inv.gangTable {c off} {k : List ℕ → State → State} (hk : ∀ u0 t, t.Inv → (k u0 t).Inv) : (s.gangTable c off k).Inv := by
  fun_cases State.gangTable
  · exact hk _ _ h
  · exact h.scratchCheck (fun _ => h.plainRead (fun _ _ h => h.scratchCheck (fun _ => h.plainRead (fun _ _ h => hk _ _ h))))

theorem State.Inv.gangForm {c sw cancel a b} : (s.gangForm c sw cancel a b).Inv := by
  unfold State.gangForm
  refine h.window (h.reads (.ite ?_ ?_))
  · split
    · exact h.faultWith
    · exact .ite h.faultWith (h.gangTable (fun _ _ h => .ite h.faultWith h.onHw))
  · split
    · exact h.faultWith
    · exact .ite h.faultWith (h.gangTable (fun _ _ h => h.onHw))

theorem execGangJoinAtNode_inv : Res.Inv (execGangJoinAtNode s) := by
  fun_cases execGangJoinAtNode
  · exact .ite h h.onHw
  · trivial

theorem execGangRelease_inv : Res.Inv (execGangRelease s) := by
  fun_cases execGangRelease
  case case3 => trivial
  all_goals exact h

theorem State.Inv.endpoint {c ep write} {k : Gang → Pipe → State} (hk : ∀ u0 u1, (k u0 u1).Inv) : (s.endpoint c ep write k).Inv := by
  fun_cases State.endpoint
  case case2 => exact hk _ _
  all_goals exact h.faultWith

theorem State.Inv.pipeSend {core slot uid txn ep peer off src width} : (s.pipeSend core slot uid txn ep peer off src width).Inv := h.onHw

theorem execPipeEntryArrival_inv : Res.Inv (execPipeEntryArrival s) := by
  fun_cases execPipeEntryArrival
  · exact h.pipeSend
  · refine .ite h.onHw ?_
    split
    · exact h.onHw
    · exact (h.foldl fun _ _ h => h.bankWrite.onMem fun _ hm => Mem.wf_setPoison hm _ _).onHw.onHw
  · trivial

end

end Sys2Proof.Machine
end

section
/-! PROOFS. The matrix, tensor and vector units keep memory canonical (18_vector, 19_matrix, 21_tensor; O53). -/

namespace Sys2Proof.Machine

section
variable {s : State} (h : s.Inv)
include h

theorem State.Inv.matReady {c array gath compl tile} {go : State} (hgo : go.Inv) : (s.matReady c array gath compl tile go).Inv :=
  h.unit (.ite (h.unit (.ite h.faultWith (.ite h.notYet hgo))) (.ite h.faultWith (.ite h.notYet hgo)))

theorem State.Inv.ownRead {c off len} {k : List Byte → State → State} (hk : ∀ u0 t, t.Inv → (k u0 t).Inv) : (s.ownRead c off len k).Inv := by
  fun_cases State.ownRead
  · exact h
  · exact h.check (fun _ _ => .ite h.faultWith (.ite h.onHw (.ite h.notYet (h.plainRead (fun _ _ h => hk _ _ h)))))

theorem State.Inv.checkRanges {c l acc} {k : List (Bool × Nat × Nat) → State} (hk : ∀ u, (k u).Inv) : (s.checkRanges c l acc k).Inv := by
  induction l generalizing acc with
  | nil => exact hk _
  | cons r l ih =>
    unfold State.checkRanges
    exact h.check fun _ _ => ih

theorem State.Inv.bookedRanges {c l} {go : State} (hgo : go.Inv) : (s.bookedRanges c l go).Inv := by
  fun_cases State.bookedRanges
  · exact h.faultWith
  · exact hgo

theorem State.Inv.engineFence {c} {go : State} (hgo : go.Inv) : (s.engineFence c go).Inv := by
  fun_cases State.engineFence
  · exact h
  · exact hgo

theorem State.Inv.loadForm {c sw op b} : (s.loadForm c sw op b).Inv := by
  refine h.reads (h.matReady (h.engineFence (h.ownRead fun _ _ h => .ite h.faultWith (.ite ?_ ?_))))
  · exact h.check fun _ _ => h.bookedRanges h.onHw
  · exact h.checkRanges fun _ => h.bookedRanges h.onHw

theorem execMma_inv {sw g z cq acc ks} : Res.Inv (execMma sw g z cq acc ks s) := by
  unfold execMma
  refine Res.Inv.withCur fun _ => .ite h.faultWith (h.matReady (h.engineFence (.ite h.onHw ?_)))
  split
  · exact h.faultWith
  · split
    · exact h.faultWith
    · exact .ite h.onHw h.faultWith

theorem State.Inv.tileForm {c sw op acc b} : (s.tileForm c sw op acc b).Inv :=
  h.reads (h.matReady (h.engineFence (h.ownRead (fun _ _ h => .ite h.faultWith (h.checkRanges (fun _ => h.bookedRanges h.onHw))))))

theorem State.Inv.matEnd {core txn status} : (s.matEnd core txn status).Inv := by
  fun_cases State.matEnd
  · exact h
  · exact h.onHw

theorem State.Inv.reachAll {core m need brings virt addr l acc cyc} : (s.reachAll core m need brings virt addr l acc cyc).2.Inv := by
  induction l generalizing s acc cyc with
  | nil => exact h
  | cons p l ih =>
    unfold State.reachAll
    dsimp only
    split
    next heq => exact ih (h.reach.of_snd heq)
    next heq => exact h.reach.of_snd heq

theorem State.Inv.matSend {core txn} : (s.matSend core txn).Inv := by
  fun_cases State.matSend
  case case6 | case7 | case8 | case9 => exact (h.reachAll.of_snd (by assumption)).onHw
  all_goals exact h

theorem State.Inv.matBank {core txn row part} : (s.matBank core txn row part).Inv := by
  fun_cases State.matBank
  case case3 => exact (h.foldl (fun _ _ h => h.bankWrite)).onHw
  all_goals exact h

theorem State.Inv.matLast {core txn} : (s.matLast core txn).Inv := by fun_cases State.matLast <;> exact h

theorem State.Inv.matAudit {core m kind addr virt tag} : (s.matAudit core m kind addr virt tag).Inv := by
  fun_cases State.matAudit
  · exact h.onHw.flagTs
  · exact h

theorem State.Inv.loadReply {core m r} : (s.loadReply core m r).Inv := by
  unfold State.loadReply
  split
  · split
    · exact ((h.foldl (fun _ _ h => h.matAudit)).foldl (fun _ _ h => h.matAudit)).onHw
    · exact ((h.foldl (fun _ _ h => h.matAudit)).onHw).matLast
  · split
    · exact (h.foldl (fun _ _ h => h.matAudit)).onHw
    · refine State.Inv.matLast ?_
      split
      · split
        · exact .ite h.onHw.matAudit h.onHw
        · exact h
      · exact h

theorem State.Inv.mwrReply {core m r} : (s.mwrReply core m r).Inv := ((h.foldl (fun _ _ h => h.matAudit)).onHw).matLast

theorem State.Inv.matReply {core txn row part} : (s.matReply core txn row part).Inv := by
  fun_cases State.matReply
  case case3 => exact h.onHw.matLast
  case case4 => exact h.mwrReply
  case case5 => exact h.loadReply
  all_goals exact h

theorem State.Inv.matRefused {core txn status addr cause target} : (s.matRefused core txn status addr cause target).Inv := by
  fun_cases State.matRefused <;> exact h

theorem State.Inv.matStart {core txn} : (s.matStart core txn).Inv := by fun_cases State.matStart <;> exact h

theorem State.Inv.matResume {core m} : (s.matResume core m).Inv := h.onHw

theorem State.Inv.matStep {done : State → ℕ → MCmd → ℕ → State} (hdone : ∀ t u1 u2 u3, t.Inv → (done t u1 u2 u3).Inv) :
    Res.Inv (s.matStep done) := by
  fun_cases State.matStep
  · exact h.matStart
  · exact h.matSend
  · exact h.matBank
  · exact h.matReply
  · split
    · exact h
    · exact hdone _ _ _ _ h
  · exact h.matRefused
  · trivial

theorem execMatrixLoadExec_inv : Res.Inv (execMatrixLoadExec s) := h.matStep (fun _ _ _ _ h => h.onHw.matEnd)

theorem execMrdExec_inv : Res.Inv (execMrdExec s) := h.matStep (fun _ _ _ _ h => h.matEnd)

theorem execMwrExec_inv : Res.Inv (execMwrExec s) := h.matStep (fun _ _ _ _ h => h.onHw.matEnd)

theorem execMzeroExec_inv : Res.Inv (execMzeroExec s) := by
  fun_cases execMzeroExec
  · exact h
  · split
    · exact h
    · exact h.onHw.matEnd
  · trivial

theorem execMsclExec_inv : Res.Inv (execMsclExec s) := by
  fun_cases execMsclExec
  · exact h
  · split
    · exact h
    · exact (State.Inv.ite h.onHw h).matEnd
  · trivial

theorem execBaddqExec_inv : Res.Inv (execBaddqExec s) := by
  fun_cases execBaddqExec
  · exact h
  · split
    · exact h
    · split
      · exact h.onHw.matEnd
      · exact h
  · trivial

theorem execMmaExec_inv : Res.Inv (execMmaExec s) := by
  fun_cases execMmaExec
  case case4 =>
    split
    · exact h
    · exact (State.Inv.ite h h.onHw).matEnd
  case case5 => trivial
  all_goals exact h

theorem execMmaGangStart_inv : Res.Inv (execMmaGangStart s) := by
  fun_cases execMmaGangStart
  case case4 => trivial
  all_goals exact h

theorem execLatchEccError_inv : Res.Inv (execLatchEccError s) := by
  fun_cases execLatchEccError
  case case3 => exact (h.onMem (fun _ hm => Mem.wf_setPoison hm _ _)).onHw
  case case6 => trivial
  all_goals exact h

theorem State.Inv.allocRecord {core w r} : (s.allocRecord core w r).2.Inv := by
  fun_cases State.allocRecord
  · exact h
  · exact h.writeKeep

theorem State.Inv.recordDies {hi t} : (s.recordDies hi t).Inv := by
  fun_cases State.recordDies
  case case3 => exact h.writeKeep
  all_goals exact h.writeKeep.onHw

theorem State.Inv.recordReturn {hi r} : (s.recordReturn hi r).2.Inv := by
  fun_cases State.recordReturn
  · exact h.writeKeep
  · exact h.recordDies
  · exact h

theorem State.Inv.recordTurn {i arg hi turn} {go : State → State} (hgo : ∀ t, t.Inv → (go t).Inv) : (s.recordTurn i arg hi turn go).Inv := by
  fun_cases State.recordTurn
  case case3 => exact hgo _ h.onHw
  all_goals exact h

theorem execTensorReturn_inv : Res.Inv (execTensorReturn s) := by
  unfold execTensorReturn
  dsimp only
  split
  · split
    · refine h.recordTurn (fun _ h => .ite h.onHw.onHw ?_)
      split
      · exact h
      · exact h
      · exact h.onHw.recordReturn.onHw
    · exact h
  · refine h.recordTurn (fun _ h => ?_)
    split
    · exact h
    · exact h
    · exact h.recordReturn
  · trivial

theorem execDeathAction_inv : Res.Inv (execDeathAction s) := by
  fun_cases execDeathAction
  case case1 => exact .ite h h.onHw
  case case2 => exact .ite h h.cellStep
  case case5 => trivial
  all_goals exact h

theorem execReturnReply_inv : Res.Inv (execReturnReply s) := by
  fun_cases execReturnReply
  · exact h.answer
  · trivial

theorem State.Inv.recordAt {a due} : (s.recordAt a due).Inv := by
  fun_cases State.recordAt
  case case3 => exact .ite h.onHw.reply (.ite h.onHw.reply (.ite h.onHw.reply (.ite h.onHw.reply h.onHw.writeKeep.reply)))
  case case4 | case6 => exact h
  case case5 => exact .ite h.onHw.reply (.ite h.onHw.reply h.onHw.reply)
  all_goals exact h.onHw.allocRecord.reply

theorem State.Inv.endWith {o l} : (s.endWith o l).Inv := ((State.Inv.ite h.onHw.deliverAll.onHw h.onHw).onHw).pump

theorem State.Inv.nextRecord {o hi op} : (s.nextRecord o hi op).Inv := h.onHw.pump

theorem State.Inv.haddrEnd {o v reg m base len virt} : (s.haddrEnd o v reg m base len virt).Inv := by
  fun_cases State.haddrEnd
  case case2 | case3 => exact h.onHw.answer
  all_goals exact h.endWith

theorem State.Inv.handSend {o owed v} : (s.handSend o owed v).Inv := by
  fun_cases State.handSend
  case case3 => exact h.onHw.payOwed
  all_goals exact h

theorem State.Inv.recordReply {o v} : (s.recordReply o v).Inv := by
  fun_cases State.recordReply
  case case3 => exact h.endWith.handSend
  case case5 | case9 | case11 => exact h.answer
  case case6 | case10 => exact h.nextRecord
  case case8 => exact h.haddrEnd
  all_goals exact h.endWith

theorem State.Inv.handle {c hi} {k : State} (hk : k.Inv) : (s.handle c hi k).Inv := by
  fun_cases State.handle
  · exact hk
  · exact h.faultWith

theorem State.Inv.recordAccess {c sw op key} : (s.recordAccess c sw op key).Inv := h.mayAccess h.access

theorem State.Inv.computeCore {c b} {k : State} (hk : k.Inv) : (s.computeCore c b k).Inv := by
  fun_cases State.computeCore
  · exact h.reads (.ite h.faultWith hk)
  · exact hk

theorem State.Inv.hreturn {c sw hi r zero} : (s.hreturn c sw hi r zero).Inv := by
  unfold State.hreturn
  refine h.mayAccess (State.Inv.access ?_)
  split <;> exact h

theorem State.Inv.haddrForm {c sw m a r g} : (s.haddrForm c sw m a r g).Inv := h.unbooked (h.reads (h.handle h.recordAccess))

theorem State.Inv.sectorMasked {key data en tag} : (s.sectorMasked key data en tag).Inv := by
  fun_cases State.sectorMasked
  · exact h
  · refine State.Inv.onHw (h.onMem fun m hm => ?_)
    have hput := Mem.wf_putN (Mem.wf_setTag hm key tag)
    split
    · exact Mem.wf_setPoison (hput _ _) _ _
    · exact hput _ _

theorem State.Inv.rowMasked {key data en tag} : (s.rowMasked key data en tag).Inv := h.foldl (fun _ _ h => h.sectorMasked)

theorem State.Inv.rowDone {core slot uid txn} : (s.rowDone core slot uid txn).Inv := h.onHw.pump

theorem State.Inv.stopJob {core id} : (s.stopJob core id).Inv := by
  fun_cases State.stopJob
  · exact h
  · exact (h.onHw.foldl (fun _ _ h => h.rowDone)).onHw

theorem State.Inv.rowFault {core j cause addr} : (s.rowFault core j cause addr).Inv := h.onHw

theorem State.Inv.checkRows {c l acc} {k : List (VOpd × Nat) → State} (hk : ∀ u, (k u).Inv) : (s.checkRows c l acc k).Inv := by
  induction l generalizing acc with
  | nil => exact hk _
  | cons o l ih =>
    unfold State.checkRows
    exact .ite h.onHw (h.check fun _ _ => .ite h.faultWith ih)

theorem State.Inv.vecIssue {c op n} {go : State} (hgo : go.Inv) : (s.vecIssue c op n go).Inv := by
  fun_cases State.vecIssue
  · exact h.notYet
  · exact hgo

theorem State.Inv.vecOwn {c op} {go : State} (hgo : go.Inv) : (s.vecOwn c op go).Inv := by
  fun_cases State.vecOwn
  · exact hgo
  · exact h.faultWith

theorem State.Inv.vecStart {c hi op rows seg mdst reg} : (s.vecStart c hi op rows seg mdst reg).Inv := h.onHw

theorem State.Inv.elemSeg {c sg} {go : Seg → State} (hgo : ∀ u0, (go u0).Inv) : (s.elemSeg c sg go).Inv := by
  fun_cases State.elemSeg
  case case2 | case3 => exact h.faultWith
  all_goals exact hgo _

theorem State.Inv.readsPtrs {c l} {k : State} (hk : k.Inv) : (s.readsPtrs c l k).Inv := by
  induction l with
  | nil => exact hk
  | cons p l ih => exact h.readsPtr ih

theorem State.Inv.vecFence {c op rows} {go : State} (hgo : go.Inv) : (s.vecFence c op rows go).Inv := by
  fun_cases State.vecFence
  · exact h
  · exact hgo

theorem State.Inv.vecForm {c hi op rows sg mdst reg} : (s.vecForm c hi op rows sg mdst reg).Inv := by
  refine h.readsPtrs (h.vecIssue (h.checkRows fun _ => .ite h.faultWith (.ite h.faultWith ?_)))
  exact h.vecOwn (h.readsMasks (h.reads (h.vecFence (h.elemSeg fun _ => h.vecStart))))

theorem State.Inv.elemsKnown {core j old l} : (s.elemsKnown core j old l).Inv := by
  fun_cases State.elemsKnown
  · exact h.onHw.rowDone.onHw.onHw
  · exact h

theorem State.Inv.elemTake {core j e r} : (s.elemTake core j e r).Inv := (State.Inv.ite h h.auditAll).onHw

theorem State.Inv.elemPerform {core j e} : (s.elemPerform core j e).Inv := by
  fun_cases State.elemPerform
  · exact h.onHw.sectorMasked
  · exact h.onHw.elemTake
  · exact h

theorem State.Inv.elemsDone {core id} : (s.elemsDone core id).Inv := by
  fun_cases State.elemsDone
  case case4 => exact h.rowFault.stopJob
  all_goals exact h

theorem State.Inv.elemReply {core id txn} : (s.elemReply core id txn).Inv := by
  unfold State.elemReply
  split
  · exact h
  · refine ((State.Inv.onHw ?_).rowDone).elemsDone
    split
    · split
      · exact h.elemTake
      · exact h
    · exact h

theorem State.Inv.elemFails {core id txn cause} : (s.elemFails core id txn cause).Inv := by
  fun_cases State.elemFails
  · exact (State.Inv.ite h.accRemote.onHw h.accRemote.stopJob).elemReply
  · exact h

theorem State.Inv.elemRequest {core id} : (s.elemRequest core id).Inv := by
  fun_cases State.elemRequest
  case case4 => exact h.onHw.elemPerform.elemReply
  case case5 => exact h.onHw.elemPerform.onHw
  all_goals exact h

theorem execGatherElementReply_inv : Res.Inv (execGatherElementReply s) := by
  fun_cases execGatherElementReply
  · exact h.elemRequest
  · split
    · exact h
    · split
      · exact h
      · exact h.elemPerform
  · exact h.elemReply
  · exact h.elemFails
  · trivial

theorem State.Inv.vecCompute {core id} : (s.vecCompute core id).Inv := by
  fun_cases State.vecCompute
  case case2 | case3 => exact h.onHw.rowFault.stopJob
  case case4 => exact h.elemsKnown
  all_goals exact h

theorem State.Inv.vecRead {core id} : (s.vecRead core id).Inv := by
  fun_cases State.vecRead
  · exact h
  · exact (h.foldl (fun _ _ h => h.auditAll.onHw.rowDone)).vecCompute
  · exact (h.foldl (fun _ _ h => h.auditAll.onHw.rowDone)).onHw

theorem State.Inv.vecWrite {core id txn} : (s.vecWrite core id txn).Inv := by
  fun_cases State.vecWrite
  case case5 => exact h.rowMasked.onHw.rowDone.onHw
  all_goals exact h

theorem execVectorRowWrite_inv : Res.Inv (execVectorRowWrite s) := by
  fun_cases execVectorRowWrite
  · exact h.vecRead
  · exact h.vecWrite
  · trivial

theorem execSfuRequestDone_inv : Res.Inv (execSfuRequestDone s) := by
  fun_cases execSfuRequestDone
  · split
    · exact h
    · exact .ite h.onHw h.stopJob
  · trivial

theorem execVbcast_inv {hi a src} : Res.Inv (execVbcast hi a src s) := by
  unfold execVbcast
  refine Res.Inv.withCur fun _ => ?_
  split <;> exact h.vecForm

theorem execVmovm_inv {sw op} : Res.Inv (execVmovm sw op s) := by
  unfold execVmovm
  refine Res.Inv.withCur fun _ => ?_
  split
  · exact .ite h.faultWith (h.window (h.readsMasks (h.reads h.onHw)))
  · exact h.window (h.readsMasks h.onHw)
  · exact h.readsMasks h.onHw

end

end Sys2Proof.Machine
end

section
/-! PROOFS. Links, the tree, code regions and the spill engine keep memory canonical (12_preempt, 22_link; O53). -/

namespace Sys2Proof.Machine

section
variable {s : State} (h : s.Inv)
include h

theorem State.Inv.page6 {c} {k : State} (hk : k.Inv) : (s.page6 c k).Inv := by
  fun_cases State.page6
  · exact h.faultWith
  · exact hk

theorem State.Inv.mcwRead {o reg w v} : (s.mcwRead o reg w v).Inv := by
  fun_cases State.mcwRead
  · exact h.answer
  · exact h.endWith.onHw

theorem execMcwComplete_inv : Res.Inv (execMcwComplete s) := by
  fun_cases execMcwComplete
  · exact h
  · split
    · exact h
    · exact h.onHw.payOwed.foldl (fun _ _ h => h.foldl (fun _ _ h => .ite h.wake h))
  · trivial

theorem execMulticastCopyArrival_inv : Res.Inv (execMulticastCopyArrival s) := by
  fun_cases execMulticastCopyArrival
  · exact .ite h.onHw h.arrive.onHw
  · trivial

theorem execMcsendResult_inv : Res.Inv (execMcsendResult s) := by
  fun_cases execMcsendResult
  · refine .ite h.payOwed ?_
    split
    · exact h.payOwed
    · exact h.onHw.payOwed
  · trivial

theorem State.Inv.rslotRead {o reg w v} : (s.rslotRead o reg w v).Inv := by
  fun_cases State.rslotRead
  · exact h.answer
  · exact h.endWith.onHw

theorem State.Inv.bitmapReply {o v} : (s.bitmapReply o v).Inv := by
  fun_cases State.bitmapReply
  · exact h.mcwRead
  · exact h.rslotRead
  · exact h

theorem State.Inv.lnkstForm {c sw ctl a b} : (s.lnkstForm c sw ctl a b).Inv := h.page6 (h.reads (.ite h.faultWith h.onHw))

theorem execReductionContribution_inv : Res.Inv (execReductionContribution s) := by
  fun_cases execReductionContribution
  case case2 => exact h.onHw.payOwed
  case case5 => trivial
  all_goals exact h

theorem State.Inv.redWrite {a bs} : ∀ t, s.redWrite a bs = .ok t → t.Inv := by
  refine List.foldlRecOn (motive := fun r : Except (Nat × Reach) State => ∀ t, r = .ok t → t.Inv) _ _ (fun t ht => ?_) fun r hr p _ t ht => ?_
  · cases ht
    exact h
  · split at ht
    · split at ht
      next heq =>
        cases ht
        exact ((hr _ rfl).reach.of_snd heq).bankWrite
      · cases ht
    · exact hr t ht

theorem execRedwResult_inv : Res.Inv (execRedwResult s) := by
  fun_cases execRedwResult
  · exact h.onHw
  · extract_lets keeps blank frees
    have hkeeps {s : State} (h : s.Inv) : (keeps s).Inv := .ite h h.onHw
    have hfrees {s : State} (h : s.Inv) : (frees s).Inv := .ite h h.onHw
    clear_value keeps blank frees
    refine show State.Inv _ from ?_
    split
    · exact hfrees h
    · extract_lets a reg done
      have hdone {s : State} (h : s.Inv) : (done s).Inv := (hfrees h).endWith
      refine .ite (hdone h) ?_
      split
      next heq => exact hdone (h.redWrite _ heq)
      · exact (hkeeps h).noPage
      · exact (hkeeps h).answer
      · exact (hkeeps h).answer
      · exact h
  · trivial

theorem execDataFlitPoisoned_inv : Res.Inv (execDataFlitPoisoned s) := by
  unfold execDataFlitPoisoned
  dsimp only
  split
  · exact h
  · exact h.onHw.onMem (fun _ hm => Mem.wf_setPoison hm _ _)
  · split
    · exact h.onHw.answer
    · exact h
  · trivial

theorem State.Inv.rollback {c cause target} : (s.rollback c cause target).Inv := by fun_cases State.rollback <;> exact h

theorem execFcommitDecision_inv : Res.Inv (execFcommitDecision s) := by
  fun_cases execFcommitDecision
  · refine .ite h (.ite h.setWoke ?_)
    split
    · split
      · exact h.rollback
      · exact h
    · exact h
    · exact h
  · trivial

theorem State.Inv.loadImage {core slot} : (s.loadImage core slot).Inv := h.onHw

theorem State.Inv.enginePoll {core} : (s.enginePoll core).Inv := by fun_cases State.enginePoll <;> exact h

theorem State.Inv.takeSpill {core slot trig hold answer ranges} : (s.takeSpill core slot trig hold answer ranges).Inv := h.onHw

theorem State.Inv.spillAnswerFrom {core dest status cyc} : (s.spillAnswerFrom core dest status cyc).Inv := by
  fun_cases State.spillAnswerFrom <;> exact h

theorem State.Inv.spillAnswer {core dest status} : (s.spillAnswer core dest status).Inv := h.spillAnswerFrom

theorem State.Inv.takeRequest {core} : (s.takeRequest core).Inv := by
  fun_cases State.takeRequest
  · exact h
  · exact h.onHw.spillAnswer.enginePoll
  · exact ((State.Inv.ite (h.onHw.onMem (fun _ hm => Mem.wf_putN hm _ _)) h.onHw).spillAnswer).enginePoll
  · exact h.onHw.takeSpill

theorem State.Inv.takeOverrun {core slot} : (s.takeOverrun core slot).Inv := by
  fun_cases State.takeOverrun
  · exact h.onHw.onHw.takeSpill
  · exact h.onHw.enginePoll

theorem State.Inv.releaseHold {core slot} : (s.releaseHold core slot).2.Inv := by
  fun_cases State.releaseHold
  case case3 => exact h.onMem (fun _ hm => Mem.wf_putN hm _ _)
  all_goals exact h

theorem State.Inv.spillRequest {m core slot rc txn base} : (s.spillRequest m core slot rc txn base).Inv := by
  fun_cases State.spillRequest
  case case2 => exact h.releaseHold.spillAnswer.enginePoll
  case case3 => exact h.onHw.spillAnswer
  case case5 => exact h
  case case8 => exact h.onHw.enginePoll
  all_goals exact h.spillAnswer

theorem State.Inv.spillForm {c sw m a b} : (s.spillForm c sw m a b).Inv :=
  h.reads (.ite h.faultWith (.ite (h.window (h.reads (.ite h.faultWith h.onHw))) h.onHw))

theorem execContextSpill_inv : Res.Inv (execContextSpill s) := by
  fun_cases execContextSpill
  · exact h.spillRequest
  · exact .ite h h.takeOverrun
  · exact .ite h h.takeRequest
  · trivial

theorem execForwardProgressSpill_inv : Res.Inv (execForwardProgressSpill s) := by
  fun_cases execForwardProgressSpill
  · exact .ite h h.takeSpill
  · trivial

theorem State.Inv.copySector {src dst} : (s.copySector src dst).Inv := h.bankWrite.onMem (fun _ hm => Mem.wf_setPoison hm _ _)

theorem State.Inv.copyRanges {area back l} : (s.copyRanges area back l).Inv := h.foldl (fun _ _ h => .ite h.copySector h.copySector)

theorem State.Inv.imageDone {o core} : (s.imageDone o core).Inv := by
  fun_cases State.imageDone
  case case1 => exact h.onHw.spillAnswerFrom
  case case2 s4 s5 =>
    have h4 : s4.Inv := .ite h.onHw.bankWrite.onHw.copyRanges.onHw h.onHw.bankWrite.onHw
    exact (State.Inv.ite h4.onHw h4).spillAnswerFrom

theorem execSpillComplete_inv : Res.Inv (execSpillComplete s) := by
  fun_cases execSpillComplete
  · split
    · exact .ite (.ite h.imageDone h.onHw) h
    · exact h
  · split
    · exact .ite h.onHw h
    · exact h
  · exact h.payOwed
  · trivial

theorem State.Inv.beginRestore {core slot} : (s.beginRestore core slot).Inv := by
  fun_cases State.beginRestore
  case case1 => exact h
  case case2 => exact .ite h.grantTake.onHw h
  all_goals exact ((State.Inv.ite h.grantTake.onHw h).onHw).onHw

theorem execContextRestore_inv : Res.Inv (execContextRestore s) := by
  fun_cases execContextRestore
  · exact .ite h h.beginRestore
  · trivial

theorem execCheckpointRestore_inv : Res.Inv (execCheckpointRestore s) := by
  fun_cases execCheckpointRestore
  · exact .ite h h.beginRestore
  · trivial

theorem State.Inv.restored {o core} : (s.restored o core).Inv := by
  fun_cases State.restored
  · exact h
  · exact h.onHw.copyRanges.loadImage.onHw
  · exact h.onHw.copyRanges.loadImage.onHw.onHw

theorem execRestoreComplete_inv : Res.Inv (execRestoreComplete s) := by
  fun_cases execRestoreComplete
  · split
    · exact .ite h.restored h
    · exact h
  · trivial

theorem State.Inv.accOver {o} : (s.accOver o).Inv := h.onHw

theorem State.Inv.ckptFails {o addr} : (s.ckptFails o addr).Inv := h.onHw

theorem State.Inv.follow {o a} : (s.follow o a).Inv := h.onHw.pump

theorem State.Inv.ckptReply {o v} : (s.ckptReply o v).Inv := by
  fun_cases State.ckptReply
  case case2 => exact h.accOver.follow
  case case4 => exact h.accOver.onHw.enginePoll
  case case5 => exact h.accOver
  all_goals exact h.accOver.ckptFails

theorem execCheckpointSave_inv : Res.Inv (execCheckpointSave s) := by
  unfold execCheckpointSave
  dsimp only
  split
  · split
    · split
      · exact h.onHw.onHw.takeSpill
      · exact h.onHw.enginePoll
    · exact h
  · trivial

theorem execBrsResume_inv : Res.Inv (execBrsResume s) := by
  fun_cases execBrsResume
  · exact .ite h ((State.Inv.ite h.loadImage h).onHw)
  · trivial

end

end Sys2Proof.Machine
end

section
/-! PROOFS. Tasks, packages, the calendar and the end of a context keep memory canonical (11_queue, 14_package, 15_calendar; O53). -/

namespace Sys2Proof.Machine

section
variable {s : State} (h : s.Inv)
include h

theorem State.Inv.startTask {core slot base r origin half bytes} : (s.startTask core slot base r origin half bytes).Inv := h.grantTake.onHw.bankWrite

theorem State.Inv.deqPush {core e otag} : (s.deqPush core e otag).Inv := h.setHw.bankWrite.onHw

theorem State.Inv.deqTurn {core turn again} {go : State → State} (hgo : ∀ t, t.Inv → (go t).Inv) : (s.deqTurn core turn again go).Inv := by
  fun_cases State.deqTurn
  · exact hgo _ h
  · exact hgo _ h.onHw
  · exact h

theorem State.Inv.yieldEntry {victim thief} : (s.yieldEntry victim thief).2.Inv := by fun_cases State.yieldEntry <;> exact h

theorem State.Inv.startQueued {core e} : ∀ t ∈ s.startQueued core e, t.Inv := by
  fun_cases State.startQueued
  case case1 => exact h.releaseHold.onHw.some
  case case3 => exact h.startTask.onHw.some
  all_goals exact State.none_inv

theorem State.Inv.startDeque {core} : ∀ t ∈ s.startDeque core, t.Inv := by
  fun_cases State.startDeque
  case case2 => exact h.onHw.startTask.some
  all_goals exact State.none_inv

theorem State.Inv.startStolen {core} : ∀ t ∈ s.startStolen core, t.Inv := by
  fun_cases State.startStolen
  case case2 => exact h.onHw.startTask.some
  all_goals exact State.none_inv

theorem State.Inv.dispatch {core} : (s.dispatch core).Inv := by
  fun_cases State.dispatch
  case case2 => exact h.getD h.startQueued
  case case3 => exact h.getD h.startDeque
  case case4 q _ queued _ _ _ heq =>
    unfold queued q at heq
    split at heq
    · exact h.startQueued _ heq
    · cases heq
  case case5 heq _ => exact .ite (h.startDeque _ heq).onHw (h.startDeque _ heq)
  case case6 heq _ _ => exact .ite (h.startStolen _ heq).onHw (h.startStolen _ heq)
  all_goals exact h

theorem execDispatcherStart_inv : Res.Inv (execDispatcherStart s) := by
  fun_cases execDispatcherStart
  · exact h.dispatch
  · trivial

theorem execStealRequest_inv : Res.Inv (execStealRequest s) := by
  fun_cases execStealRequest
  · refine h.deqTurn fun _ h => State.Inv.onHw ?_
    split
    · exact h
    · exact h.yieldEntry
  · refine h.deqTurn fun _ h => State.Inv.onHw ?_
    split
    · exact h.yieldEntry
    · exact h
  · exact h.deqTurn fun _ h => .ite h.bankWrite.onHw h.onHw
  · trivial

theorem execStealReply_inv : Res.Inv (execStealReply s) := by
  fun_cases execStealReply
  · exact h
  · split
    · exact h
    · refine .ite h.onHw (.ite h.onHw ?_)
      split
      · exact h.startTask.onHw
      · exact h
  · exact h.payOwed
  · trivial

theorem State.Inv.forkAtBank {a e due} : (s.forkAtBank a e due).Inv := by
  fun_cases State.forkAtBank
  case case1 => exact h
  case case4 => exact h.performed.deqPush.reply
  case case5 => exact h.tagBack
  case case6 => exact h.performed.auditAll.deqPush.reply
  case case8 => exact h.performed.writeKeep.deqPush.reply
  all_goals exact h.performed.reply

theorem State.Inv.cellForm {c sw m srcs op relaxed check size align need} : (s.cellForm c sw m srcs op relaxed check size align need).Inv :=
  h.reads (h.mayAccess (h.scratchCheck (fun _ => h.access)))

theorem State.Inv.enqReply {o l v} : (s.enqReply o l v).Inv := by
  fun_cases State.enqReply
  case case4 => exact h.setHw.answer
  all_goals exact h.answer

theorem execRemoteAccessAtBank_inv : Res.Inv (execRemoteAccessAtBank s) := by
  unfold execRemoteAccessAtBank
  dsimp only
  split
  · split
    · exact h
    · split
      · exact h.forkAtBank
      · exact .ite h.recordAt h.perform
  · trivial

theorem State.Inv.droppedReply {o early} : (s.droppedReply o early).Inv := by
  fun_cases State.droppedReply
  · exact h
  · exact h.onHw.accOver

theorem execPlainAccessReply_inv : Res.Inv (execPlainAccessReply s) := by
  fun_cases execPlainAccessReply
  · split
    next heq =>
      have h := h.arrived.of_fst heq
      split
      · exact h
      · refine .ite ?_ (.ite h.answer ?_)
        · split
          · exact h.droppedReply
          · exact h.droppedReply
          · exact h.answer
        · split
          · exact h.enqReply
          · exact h.ckptReply
          · exact h.ckptReply
          · exact h.bitmapReply
          · exact h.frameCame
          · exact h.callLookup
          · exact h.retLookup
          · exact .ite h.recordReply h.answer
          · exact h.answer
  · trivial

theorem State.Inv.retireStep {j} : (s.retireStep j).Inv := by
  fun_cases State.retireStep
  · exact .ite (.ite h.writeKeep h.onHw) ((State.Inv.ite h.writeKeep h.onHw).onHw)
  · exact .ite (.ite h.onHw (.ite h.cellStep h.onHw)) ((State.Inv.ite h.onHw (.ite h.cellStep h.onHw)).onHw)
  · exact h

theorem execTaskRetire_inv : Res.Inv (execTaskRetire s) := by
  fun_cases execTaskRetire
  · exact .ite h.retireStep (.ite h.onHw h.onHw)
  · trivial

theorem execPairedCompare_inv : Res.Inv (execPairedCompare s) := by
  fun_cases execPairedCompare
  · split <;> exact h
  · trivial

theorem execPeerContainerReply_inv : Res.Inv (execPeerContainerReply s) := by
  fun_cases execPeerContainerReply
  case case3 => trivial
  all_goals exact h

theorem execResidentTranslation_inv : Res.Inv (execResidentTranslation s) := by
  fun_cases execResidentTranslation
  case case3 => trivial
  all_goals exact h

theorem execNvmeReadComplete_inv : Res.Inv (execNvmeReadComplete s) := by
  fun_cases execNvmeReadComplete
  · exact h
  · exact .ite h.bankWrite h
  · trivial

theorem State.Inv.zeroFill {key len} : (s.zeroFill key len).Inv := by
  fun_cases State.zeroFill
  · exact (((h.onMem (fun _ hm => Mem.wf_clear hm _ _)).onHw).bankWrite).bankWrite
  · exact h.bankWrite

theorem State.Inv.zeroPlan {core tenant plan} : ∀ t ∈ s.zeroPlan core tenant plan, t.Inv := by
  refine List.foldlRecOn (motive := fun o : Option State => ∀ t ∈ o, t.Inv) plan _ (fun t ht => ?_) fun o ho e _ t ht => ?_
  · cases ht
    exact h
  · obtain ⟨s, hs, ht⟩ := Option.bind_eq_some_iff.mp ht
    obtain ⟨l, _, rfl⟩ := Option.map_eq_some_iff.mp ht
    exact (ho s hs).foldl fun _ _ h => h.zeroFill

theorem State.Inv.clearPlan {core tenant plan} : (s.clearPlan core tenant plan).Inv := h.foldl (fun _ _ h => h.zeroFill)

theorem State.Inv.finishLoad {t n leaves} : (s.finishLoad t n leaves).2.Inv := by
  fun_cases State.finishLoad
  case case5 heq =>
    exact (State.Inv.zeroPlan h.writeLeaves _ heq).onHw
  all_goals exact h

theorem execPackageLoadRequest_inv : Res.Inv (execPackageLoadRequest s) := by
  fun_cases execPackageLoadRequest
  · exact h
  · split
    · exact h
    · split
      · exact h.finishLoad.onHw
      · exact h
  · trivial

theorem State.Inv.finishUnload {t n p} : (s.finishUnload t n p).Inv := h.onHw.clearPlan.onHw

theorem execPackageUnloadComplete_inv : Res.Inv (execPackageUnloadComplete s) := by
  fun_cases execPackageUnloadComplete
  · split
    · exact .ite h.finishUnload h
    · exact h
  · trivial

theorem State.Inv.buildCell {r i cell succ} : (s.buildCell r i cell succ).2.Inv := h.setHw.bankWrite

theorem State.Inv.launchGraph {p i cells} : (s.launchGraph p i cells).2.Inv := by
  refine State.Inv.foldl (List.foldlRecOn (motive := fun a : List Nat × State => a.2.Inv) _ _ h fun _ h _ _ => h.buildCell) fun _ _ h => h.cellStep

theorem execGraphLaunch_inv : Res.Inv (execGraphLaunch s) := by
  unfold execGraphLaunch
  dsimp only
  split
  · split
    · exact h
    · split
      · exact h
      · exact h.launchGraph.onHw
  · trivial

theorem State.Inv.winPages {core tenant cores fuel va last} : (s.winPages core tenant cores fuel va last).2.Inv := by
  induction fuel generalizing s va with
  | zero => exact h
  | succ fuel ih =>
    unfold State.winPages
    dsimp only
    split
    · exact h
    · split
      · exact ih h.setHw
      · exact ih h.setHw
      · split
        · exact ih h.setHw.onHw
        · exact ih h.setHw

theorem State.Inv.allPages {core tenant cores wins} : (s.allPages core tenant cores wins).2.Inv :=
  List.foldlRecOn (motive := fun r : List WinPage × State => r.2.Inv) wins _ h fun _ h _ _ => h.winPages

theorem State.Inv.bookRequest {c sw a q0 q1 block bs lb} : (s.bookRequest c sw a q0 q1 block bs lb).Inv := by
  fun_cases State.bookRequest
  · exact h.faultWith
  · exact h.allPages.onHw

theorem execBookingDecision_inv : Res.Inv (execBookingDecision s) := by
  fun_cases execBookingDecision
  case case3 => trivial
  all_goals exact h

theorem State.Inv.stageRecord {clu b} : (s.stageRecord clu b).Inv := by
  fun_cases State.stageRecord
  · exact h
  · exact h.auditAll
  · exact h.auditAll.onHw

theorem State.Inv.stageSlot {clu num core} : (s.stageSlot clu num core).Inv := by
  fun_cases State.stageSlot
  case case3 => exact h.onHw.setHw.bankWrite
  all_goals exact h

theorem State.Inv.stageCode {clu b m} : (s.stageCode clu b m).Inv := h.onHw

theorem State.Inv.stagePins {clu b} : (s.stagePins clu b).Inv := by
  fun_cases State.stagePins
  · exact h.allPages.onHw
  · exact h.allPages

theorem State.Inv.stageMember {clu num core} : (s.stageMember clu num core).Inv := by
  unfold State.stageMember
  extract_lets get step mark grant units waits
  have hstep {i : Nat} {f : State → Booking → BMember → State} (hf : ∀ s b m, s.Inv → (f s b m).Inv) {s : State} (h : s.Inv) :
      (step i f s).Inv := by
    unfold step
    split
    · exact .ite h (hf _ _ _ h)
    · exact h
  have hgrant (s b m) (h : s.Inv) : (grant s b m).Inv := by
    unfold grant
    split
    · exact .ite h h
    · extract_lets g s1
      have hs1 : s1.Inv := .ite h (.ite h h.grantTake.onHw)
      split
      · exact .ite hs1.onHw hs1
      · exact hs1
  have hunits (s b m) (h : s.Inv) : (units s b m).Inv := .ite h.onHw h
  have hwaits (s b m) (h : s.Inv) : (waits s b m).Inv := .ite h.onHw h
  clear_value step grant units waits
  exact hstep hwaits (hstep hunits (hstep (fun _ _ _ h => h.stagePins) (hstep (fun _ _ _ h => h.stageCode)
    (hstep (fun _ _ _ h => h.stageSlot) (hstep hgrant h)))))

theorem State.Inv.stage {clu num} : (s.stage clu num).Inv := by
  fun_cases State.stage
  · exact h
  · exact (State.Inv.ite h h.stageRecord).foldl (fun _ _ h => h.stageMember)

theorem execStagingBegin_inv : Res.Inv (execStagingBegin s) := by
  fun_cases execStagingBegin
  · split
    · exact h
    · exact h.onHw.stage.onHw
  · trivial

theorem execStagingStepRetry_inv : Res.Inv (execStagingStepRetry s) := by
  fun_cases execStagingStepRetry
  · split
    · exact h
    · exact h.stage.onHw
  · trivial

theorem execBkqWt_inv {sw a b} : Res.Inv (execBkqWt sw a b s) := by
  unfold execBkqWt
  dsimp only
  refine Res.Inv.withCur fun _ => .ite h.faultWith (h.reads ?_)
  split
  · exact h.faultWith
  · exact .ite h.faultWith (.ite h.onHw h.onHw)

theorem State.Inv.vacate {core slot faulted} : (s.vacate core slot faulted).Inv := by
  unfold State.vacate
  exact h.dropFrames.onHw

theorem State.Inv.quit {c} : (s.quit c).Inv := by
  unfold State.quit
  exact h.onHw.vacate.onHw

theorem execBrsDiscard_inv : Res.Inv (execBrsDiscard s) := by
  fun_cases execBrsDiscard
  · exact .ite h.vacate h
  · trivial

end

end Sys2Proof.Machine
end

section
/-! PROOFS. BRS, the boot order, the background walks, core images and page events keep memory canonical (07_page, 12_preempt, 23_service, 24_bringup; O53). -/

namespace Sys2Proof.Machine

section
variable {s : State} (h : s.Inv)
include h

theorem State.Inv.writeDirectory {t} : (s.writeDirectory t).Inv := by
  unfold State.writeDirectory
  refine h.foldl (fun _ _ h => ?_)
  split
  · exact h.onMem (fun _ hm => Mem.wf_putDirectory hm _ _)
  · exact h

theorem execOperatorRequest_inv : Res.Inv (execOperatorRequest s) := by
  fun_cases execOperatorRequest
  · split
    · exact .ite h.onHw h
    · exact (State.Inv.ite h.onHw h).writeDirectory
    · exact .ite h.onHw h
    · exact .ite h.onHw h
    · exact .ite h.onHw h
    · exact .ite h.onHw h
  · trivial

theorem execClusterAllocation_inv : Res.Inv (execClusterAllocation s) := by
  fun_cases execClusterAllocation
  · exact .ite h.onHw.writeDirectory h
  · trivial

theorem State.Inv.endContexts {clu} : (s.endContexts clu).Inv := h.foldl (fun _ _ h => .ite h.vacate h)

theorem State.Inv.clearCluster {clu} : (s.clearCluster clu).Inv :=
  (h.foldl (fun _ _ h => h.onMem (fun _ hm => Mem.wf_clearSlice (Mem.wf_clear hm _ _) _ _ _))).onHw

theorem execClusterClear_inv : Res.Inv (execClusterClear s) := by
  fun_cases execClusterClear
  · exact h.onHw.endContexts.onHw
  · exact .ite h.endContexts (.ite h.endContexts.clearCluster h.endContexts.onHw)
  · trivial

theorem execTenantDeletion_inv : Res.Inv (execTenantDeletion s) := by
  fun_cases execTenantDeletion
  case case3 => trivial
  all_goals exact h

theorem State.Inv.restart : (s.restart).Inv := s.restart_inv h

theorem execPowerOnReset_inv : Res.Inv (execPowerOnReset s) := h.restart

theorem execI3cReset_inv : Res.Inv (execI3cReset s) := by
  fun_cases execI3cReset
  · exact .ite h.restart h
  · trivial

theorem execBootDramTrain_inv : Res.Inv (execBootDramTrain s) := by
  fun_cases execBootDramTrain
  · exact .ite h (.ite h.onHw ((h.onMem (fun _ hm => Mem.wf_clear hm _ _)).onHw))
  · trivial

theorem execBootKMapLock_inv : Res.Inv (execBootKMapLock s) := by
  fun_cases execBootKMapLock
  · exact .ite h h.writeLeaves.onHw
  · trivial

theorem State.Inv.scrub {core site n bad} : (s.scrub core site n bad).Inv := by
  unfold State.scrub
  exact (h.onMem fun _ hm => Mem.wf_foldl _ (fun _ _ hm => Mem.wf_setPoison hm _ _) _ hm).onHw

theorem execDramRefreshGrain_inv : Res.Inv (execDramRefreshGrain s) := by
  fun_cases execDramRefreshGrain
  · exact .ite h.scrub h
  · trivial

theorem execScratchpadScrubGrain_inv : Res.Inv (execScratchpadScrubGrain s) := by
  fun_cases execScratchpadScrubGrain
  · exact .ite h.scrub h
  · trivial

theorem State.Inv.loadSlot {core slot image} : (s.loadSlot core slot image).Inv := by
  fun_cases State.loadSlot
  · exact h
  · exact (h.onMem (fun _ hm => Mem.wf_writeRange hm _ _ _)).onHw

theorem State.Inv.saveCore {core pa} : (s.saveCore core pa).Inv := by
  unfold State.saveCore
  refine State.Inv.onHw ?_
  change (List.foldl _ _ _ : Mem).wf = true
  refine Mem.wf_foldl _ (fun _ _ hm => Mem.wf_putN hm _ _) _ ?_
  exact Hw.wf_saveCommon (Core.wf_saveMatrix (Mem.wf_copyTo (Mem.wf_blank h _ _) _ _ _) _ _) _ _ _

theorem State.Inv.loadCore {core pa} : (s.loadCore core pa).Inv := by
  unfold State.loadCore
  exact ((h.onMem fun _ hm => Mem.wf_copyTo hm _ _ _).foldl fun _ _ h => h.loadSlot).onHw

theorem State.Inv.imageForm {c sw load a b} : (s.imageForm c sw load a b).Inv := h.window (h.reads (.ite h.faultWith (.ite h.faultWith h.onHw)))

theorem execCoreImageComplete_inv : Res.Inv (execCoreImageComplete s) := by
  fun_cases execCoreImageComplete
  · exact .ite h.spillAnswer (.ite h.spillAnswer h.onHw)
  · exact (((State.Inv.ite h.loadCore h.saveCore).onHw).spillAnswer).enginePoll
  · trivial

theorem execPgprobe_inv {sw a m} : Res.Inv (execPgprobe sw a m s) := by
  unfold execPgprobe
  refine Res.Inv.withCur fun _ => .ite h.faultWith (h.reads (h.check (fun _ _ => .ite h.setHw ?_)))
  split <;> exact h

theorem execTlbWalkComplete_inv : Res.Inv (execTlbWalkComplete s) := by
  fun_cases execTlbWalkComplete
  · exact h.walkDone
  · trivial

theorem execTlbinvComplete_inv : Res.Inv (execTlbinvComplete s) := by
  fun_cases execTlbinvComplete
  · exact .ite h.payOwed h.onHw
  · trivial

theorem State.Inv.retryPages {module tenant va len} : (s.retryPages module tenant va len).Inv := by
  unfold State.retryPages
  refine (((h.setHw.foldl (fun _ _ h => h.wake)).foldl (fun _ _ h => ?_)).onHw).foldl (fun _ _ h => h.matResume)
  split
  · exact h.send
  · exact h

theorem State.Inv.moveFrame {old new} : (s.moveFrame old new).Inv := h.onHw.foldl (fun _ _ h => h.onMem (fun _ hm => Mem.wf_copyTo hm _ _ _))

theorem State.Inv.migrate {tenant z0} : (s.migrate tenant z0).Inv := by
  fun_induction State.migrate with
  | case1 s pa q0 q1 r o0 o1 leaf moves ih => exact ih (State.Inv.ite h.moveFrame h).writeLeaves
  | case2 => exact h

theorem execPageWakeRetry_inv : Res.Inv (execPageWakeRetry s) := by
  fun_cases execPageWakeRetry
  · exact h.retryPages
  · exact h.migrate.retryPages
  · trivial

theorem execPageWakeDeny_inv : Res.Inv (execPageWakeDeny s) := by
  fun_cases execPageWakeDeny
  · refine ((h.setHw.foldl (fun _ _ h => .ite h (.ite h.setWoke ?_))).foldl (fun _ _ h => h.answer)).onHw
    split <;> exact h
  · trivial

theorem State.Inv.requestFails {a} : ∀ t ∈ s.requestFails a, t.Inv := by
  fun_cases State.requestFails
  · exact h.answer.some
  · exact h.onHw.payOwed.some
  · exact State.none_inv

theorem execRemoteFailureReport_inv : Res.Inv (execRemoteFailureReport s) := by
  fun_cases execRemoteFailureReport
  next heq => exact h.requestFails _ heq
  next => trivial

theorem execFabricTimeout_inv : Res.Inv (execFabricTimeout s) := by
  fun_cases execFabricTimeout
  next heq => exact h.requestFails _ heq
  next => trivial

theorem State.Inv.pollCore {core} : (s.pollCore core).Inv := by
  fun_cases State.pollCore
  · exact (State.Inv.ite h.enginePoll h).onHw
  · exact .ite h.enginePoll h

theorem State.Inv.tick : (s.tick).Inv := h.onHw.foldl (fun _ _ h => h.pollCore)

end

end Sys2Proof.Machine
end

section
/-! PROOFS. Every instruction and every step keeps memory canonical (06_memory R140, R141; O53). -/

namespace Sys2Proof.Machine

section
variable {s : State} (h : s.Inv)
include h

theorem exec_form_inv {i : Instr} (hi : i.fullForm.isSome = true) : Res.Inv (exec i s) := by
  cases i
  case lea => exact execLea_inv h
  case br => exact execBr_inv h
  case loop => exact execLoop_inv h
  case epop => exact execEpop_inv h
  case srr => exact execSrr_inv h
  case srw => exact execSrw_inv h
  case barArm => exact execBarArm_inv h
  case mma => exact execMma_inv h
  case vbcast => exact execVbcast_inv h
  case vmovm => exact execVmovm_inv h
  case bkqWt => exact execBkqWt_inv h
  case pgprobe => exact execPgprobe_inv h
  case nop | movRc | movRlc | segr | segrHi | mstat | taskid =>
    simp only [exec]
    exact .withCur fun _ => h.onHw
  case mov | li | add | sub | addi | mul | mulh | div | rem | and | or | xor | andn | shl | shr | sar | rot | clz | popc | min | max | cmp | cmpi |
    sel | ext =>
    simp only [exec]
    exact h.compute
  case movWc | take | bkq =>
    simp only [exec]
    exact .withCur fun _ => h.reads h.onHw
  case lih | shi | bfx | bfi | trap | bkcan =>
    simp only [exec]
    exact .withCur fun _ => .ite h.faultWith (h.reads h.onHw)
  case jmp =>
    simp only [exec]
    exact .withCur fun _ => h.jumpTo
  case jmpr =>
    simp only [exec]
    exact .withCur fun _ => h.reads h.jumpTo
  case pmov =>
    simp only [exec]
    exact .withCur fun _ => h.reads (.ite h.faultWith h.onHw)
  case pmovGet =>
    simp only [exec]
    exact .withCur fun _ => h.readsPtr h.onHw
  case segw =>
    simp only [exec]
    exact .withCur fun _ => h.window (h.reads (.ite h.faultWith (.ite h.onHw h.onHw)))
  case ld | st =>
    simp only [exec]
    exact .withCur fun _ => h.secWindow h.memForm
  case ldp | stp =>
    simp only [exec]
    exact .withCur fun _ => h.secWindow h.ptrForm
  case atom =>
    simp only [exec]
    exact .withCur fun _ => .ite (h.window h.memForm) h.memForm
  case mwait =>
    simp only [exec]
    exact .withCur fun _ => .ite h.faultWith h.memForm
  case epush =>
    simp only [exec]
    exact .withCur fun _ => .ite h.faultWith (h.window (h.unit (h.reads (.ite h.faultWith (.ite (h.check (fun _ _ => .ite h.faultWith (.ite h.onHw
      (.ite (.ite h.faultWith h.onHw) h.onHw)))) (h.check (fun _ _ => h.check (fun _ _ => .ite h.faultWith (.ite h.onHw (.ite (.ite h.faultWith
      h.onHw) h.onHw))))))))))
  case fence =>
    simp only [exec]
    exact .withCur fun _ => .ite h.faultWith (.ite h.faultWith (.ite h.onHw h.onHw))
  case ldmb | stmb =>
    simp only [exec]
    exact .withCur fun _ => h.window (h.reads h.step15)
  case blkcp =>
    simp only [exec]
    exact .withCur fun _ => h.window (h.reads (.ite h.faultWith (.ite h.step15 h.step15)))
  case crcb =>
    simp only [exec]
    exact .withCur fun _ => h.window (h.reads (.ite h.faultWith h.step15))
  case send =>
    simp only [exec]
    exact .withCur fun _ => h.reads (.ite h.faultWith (.ite h.faultWith (.ite h.onHw h.onHw)))
  case clrf | yield | fcommit | bkend =>
    simp only [exec]
    exact .withCur fun _ => .ite h.faultWith h.onHw
  case spawn =>
    simp only [exec]
    exact .withCur fun _ => h.reads (.ite h.faultWith (.ite h.faultWith (.ite h.faultWith (h.window (h.reads h.onHw)))))
  case brk =>
    simp only [exec]
    exact .withCur fun _ => h.faultWith
  case calld =>
    simp only [exec]
    exact .withCur fun _ => h.whenSettled (.ite h.faultWith (.ite h.faultWith (.ite h.faultWith (.ite h.faultWith (.ite h.faultWith (.ite
      h.faultWith h.frameAccess.onHw))))))
  case codeinv =>
    simp only [exec]
    exact .withCur fun _ => h.window (.ite h.faultWith (h.reads h.codeinv))
  case codeinvAll =>
    simp only [exec]
    exact .withCur fun _ => .ite h.faultWith h.codeinv
  case bar | barArr =>
    simp only [exec]
    exact .withCur fun _ => h.barArrival
  case barFmax | barImax =>
    simp only [exec]
    exact .withCur fun _ => .ite h.faultWith (h.reads h.barArrival)
  case barWt =>
    simp only [exec]
    exact .withCur fun _ => .ite h.faultWith (.ite h.onHw (.ite h.faultWith h.onHw))
  case gang | gangCancel =>
    simp only [exec]
    exact .withCur fun _ => h.gangForm
  case pipew =>
    simp only [exec]
    exact .withCur fun _ => h.endpoint (fun _ _ => h.reads (h.scratchCheck (fun _ => .ite h.onHw (.ite h.onHw (.ite (.ite h.faultWith h.onHw)
      h.onHw)))))
  case piper =>
    simp only [exec]
    exact .withCur fun _ => h.endpoint (fun _ _ => .ite (.ite h.setHw (.ite h.faultWith h.setHw)) h.setHw)
  case piperDone =>
    simp only [exec]
    exact .withCur fun _ => h.endpoint (fun _ _ => h.onHw)
  case mgath | mald | mbld =>
    simp only [exec]
    exact .withCur fun _ => h.loadForm
  case mzero =>
    simp only [exec]
    exact .withCur fun _ => h.matReady h.onHw
  case mrd | mwr =>
    simp only [exec]
    exact .withCur fun _ => h.tileForm
  case mscl =>
    simp only [exec]
    exact .withCur fun _ => h.reads (h.matReady (.ite h.faultWith h.onHw))
  case baddq =>
    simp only [exec]
    exact .withCur fun _ => h.reads (h.matReady (h.ownRead (fun _ _ h => h.onHw)))
  case hnew =>
    simp only [exec]
    exact .withCur fun _ => h.unbooked (h.unpaired (h.window (h.reads (.ite h.faultWith h.recordAccess))))
  case hcopy =>
    simp only [exec]
    exact .withCur fun _ => h.computeCore (.ite h.faultWith (h.reads (h.handle (.ite h.onHw (h.unbooked (h.unpaired h.recordAccess))))))
  case hdrop =>
    simp only [exec]
    exact .withCur fun _ => h.unbooked (h.unpaired (h.reads (h.handle h.hreturn)))
  case hdropLost =>
    simp only [exec]
    exact .withCur fun _ => h.unbooked (h.unpaired (h.reads (h.handle (h.window (h.reads (.ite h.faultWith h.hreturn))))))
  case hbind =>
    simp only [exec]
    exact .withCur fun _ => h.unbooked (h.unpaired (h.window (h.reads (.ite h.faultWith (h.handle h.recordAccess)))))
  case hsend =>
    simp only [exec]
    exact .withCur fun _ => h.computeCore (.ite h.faultWith (h.unbooked (h.unpaired (h.reads (.ite h.faultWith (h.handle (.ite h.onHw (.ite
      h.onHw.onHw (h.mayAccess h.onHw.access)))))))))
  case haddr | haddrLen | haddrWt =>
    simp only [exec]
    exact .withCur fun _ => h.haddrForm
  case vadd | vsub | vmul | vfma | vfms | vmin | vmax | vabs | vneg | vand | vor | vxor | vnot | vshl | vshr | vsar | vcmp | vsel | vcvt | vqnt |
    vdqnt | vred | vscan | viota | vperm | vgath | vscat | vsfu | vdot | vclamp | vamax =>
    simp only [exec]
    exact .withCur fun _ => h.vecForm
  case vmsk =>
    simp only [exec]
    exact .withCur fun _ => .ite h.faultWith (h.readsMasks h.onHw)
  case mcw =>
    simp only [exec]
    exact .withCur fun _ => h.window (h.reads (.ite h.faultWith (.ite h.onHw (h.mayAccess h.access))))
  case mcsend =>
    simp only [exec]
    exact .withCur fun _ => h.page6 (h.reads (.ite h.faultWith (.ite h.onHw h.onHw)))
  case rslot =>
    simp only [exec]
    exact .withCur fun _ => h.page6 (h.window (h.reads (.ite h.faultWith (h.check (fun _ _ => h.mayAccess h.access)))))
  case redc =>
    simp only [exec]
    exact .withCur fun _ => h.page6 (h.reads h.onHw)
  case lnkst | lnkstCtl =>
    simp only [exec]
    exact .withCur fun _ => h.lnkstForm
  case redw =>
    simp only [exec]
    exact .withCur fun _ => h.page6 (h.window (h.window (h.reads (.ite (h.mayAccess h.onHw) (h.check (fun _ _ => h.mayAccess h.onHw))))))
  case fbegin =>
    simp only [exec]
    exact .withCur fun _ => .ite h.faultWith (.ite h.faultWith h.bankWrite.onHw.timedPlain)
  case fabort =>
    simp only [exec]
    exact .withCur fun _ => .ite h.faultWith h.onHw.rollback
  case spill | spillHold | spillRel | spillBase | spillCkpt =>
    simp only [exec]
    exact .withCur fun _ => h.spillForm
  case ckpt =>
    simp only [exec]
    exact .withCur fun _ => h.reads (h.check (fun _ _ => .ite h.onHw (h.mayAccess h.access)))
  case steal =>
    simp only [exec]
    exact .withCur fun _ => h.unbooked (h.unpaired (h.reads (.ite h.faultWith h.onHw)))
  case fork =>
    simp only [exec]
    exact .withCur fun _ => h.unbooked (h.unpaired (h.reads (.ite h.faultWith (h.window (h.reads (h.mayAccess (.ite h.access (h.scratchCheck (fun _
      => h.access)))))))))
  case join | signal =>
    simp only [exec]
    exact .withCur fun _ => h.unbooked h.cellForm
  case depnew | enq =>
    simp only [exec]
    exact .withCur fun _ => h.unbooked (h.unpaired h.cellForm)
  case deppub =>
    simp only [exec]
    exact .withCur fun _ => h.unbooked (h.reads (h.scratchCheck (fun _ => .ite h.faultWith h.cellForm)))
  case book =>
    simp only [exec]
    exact .withCur fun _ => h.window (.ite h.faultWith (h.reads (.ite h.bookRequest (h.mayAccess (h.scratchCheck (fun _ => h.plainRead (fun _ _ h =>
      .ite (h.scratchCheck (fun _ => h.plainRead (fun _ _ h => h.bookRequest))) h.bookRequest)))))))
  case quit =>
    simp only [exec]
    exact .withCur fun _ => h.quit
  case ret =>
    simp only [exec]
    exact .withCur fun _ => .ite h.quit h.retFrame
  case csave | cload =>
    simp only [exec]
    exact .withCur fun _ => h.imageForm
  case tlbinv =>
    simp only [exec]
    exact .withCur fun _ => h.window (h.reads (.ite h.faultWith (.ite h.faultWith h.onHw)))
  all_goals cases hi

theorem exec_step_inv {i : Instr} (hi : i.fullForm = none) : Res.Inv (exec i s) := by
  cases i
  case vbcast src => cases src <;> cases hi
  case vmovm op => cases op <;> cases hi
  case fenceComplete => exact execFenceComplete_inv h
  case relaxedLoadResult => exact execRelaxedLoadResult_inv h
  case storeAcknowledge => exact execStoreAcknowledge_inv h
  case tagRetryRequest => exact execTagRetryRequest_inv h
  case monitorWake => exact execMonitorWake_inv h
  case mwaitTimedWake => exact execMwaitTimedWake_inv h
  case copyCommandStart => exact execCopyCommandStart_inv h
  case codeMissRetry => exact execCodeMissRetry_inv h
  case codeFetchReply => exact execCodeFetchReply_inv h
  case codeInstall => exact execCodeInstall_inv h
  case codeNoSource => exact execCodeNoSource_inv h
  case taskReady => exact execTaskReady_inv h
  case sendArrival => exact execSendArrival_inv h
  case sendStatus => exact execSendStatus_inv h
  case spawnArrival => exact execSpawnArrival_inv h
  case trapReply => exact execTrapReply_inv h
  case coreModeSet => exact execCoreModeSet_inv h
  case codeinvComplete => exact execCodeinvComplete_inv h
  case barrierArmApplied => exact execBarrierArmApplied_inv h
  case barrierArrivalAtNode => exact execBarrierArrivalAtNode_inv h
  case barrierRelease => exact execBarrierRelease_inv h
  case barrierDeparture => exact execBarrierDeparture_inv h
  case gangJoinAtNode => exact execGangJoinAtNode_inv h
  case gangRelease => exact execGangRelease_inv h
  case pipeEntryArrival => exact execPipeEntryArrival_inv h
  case matrixLoadExec => exact execMatrixLoadExec_inv h
  case mrdExec => exact execMrdExec_inv h
  case mwrExec => exact execMwrExec_inv h
  case mzeroExec => exact execMzeroExec_inv h
  case msclExec => exact execMsclExec_inv h
  case baddqExec => exact execBaddqExec_inv h
  case mmaExec => exact execMmaExec_inv h
  case mmaGangStart => exact execMmaGangStart_inv h
  case latchEccError => exact execLatchEccError_inv h
  case tensorReturn => exact execTensorReturn_inv h
  case deathAction => exact execDeathAction_inv h
  case returnReply => exact execReturnReply_inv h
  case gatherElementReply => exact execGatherElementReply_inv h
  case vectorRowWrite => exact execVectorRowWrite_inv h
  case sfuRequestDone => exact execSfuRequestDone_inv h
  case mcwComplete => exact execMcwComplete_inv h
  case multicastCopyArrival => exact execMulticastCopyArrival_inv h
  case mcsendResult => exact execMcsendResult_inv h
  case reductionContribution => exact execReductionContribution_inv h
  case redwResult => exact execRedwResult_inv h
  case dataFlitPoisoned => exact execDataFlitPoisoned_inv h
  case fcommitDecision => exact execFcommitDecision_inv h
  case contextSpill => exact execContextSpill_inv h
  case forwardProgressSpill => exact execForwardProgressSpill_inv h
  case spillComplete => exact execSpillComplete_inv h
  case contextRestore => exact execContextRestore_inv h
  case checkpointRestore => exact execCheckpointRestore_inv h
  case restoreComplete => exact execRestoreComplete_inv h
  case checkpointSave => exact execCheckpointSave_inv h
  case brsResume => exact execBrsResume_inv h
  case dispatcherStart => exact execDispatcherStart_inv h
  case stealRequest => exact execStealRequest_inv h
  case stealReply => exact execStealReply_inv h
  case remoteAccessAtBank => exact execRemoteAccessAtBank_inv h
  case plainAccessReply => exact execPlainAccessReply_inv h
  case taskRetire => exact execTaskRetire_inv h
  case pairedCompare => exact execPairedCompare_inv h
  case peerContainerReply => exact execPeerContainerReply_inv h
  case residentTranslation => exact execResidentTranslation_inv h
  case nvmeReadComplete => exact execNvmeReadComplete_inv h
  case packageLoadRequest => exact execPackageLoadRequest_inv h
  case packageUnloadComplete => exact execPackageUnloadComplete_inv h
  case graphLaunch => exact execGraphLaunch_inv h
  case bookingDecision => exact execBookingDecision_inv h
  case stagingBegin => exact execStagingBegin_inv h
  case stagingStepRetry => exact execStagingStepRetry_inv h
  case brsDiscard => exact execBrsDiscard_inv h
  case operatorRequest => exact execOperatorRequest_inv h
  case clusterAllocation => exact execClusterAllocation_inv h
  case clusterClear => exact execClusterClear_inv h
  case tenantDeletion => exact execTenantDeletion_inv h
  case powerOnReset => exact execPowerOnReset_inv h
  case i3cReset => exact execI3cReset_inv h
  case bootDramTrain => exact execBootDramTrain_inv h
  case bootKMapLock => exact execBootKMapLock_inv h
  case dramRefreshGrain => exact execDramRefreshGrain_inv h
  case scratchpadScrubGrain => exact execScratchpadScrubGrain_inv h
  case coreImageComplete => exact execCoreImageComplete_inv h
  case tlbWalkComplete => exact execTlbWalkComplete_inv h
  case tlbinvComplete => exact execTlbinvComplete_inv h
  case pageWakeRetry => exact execPageWakeRetry_inv h
  case pageWakeDeny => exact execPageWakeDeny_inv h
  case remoteFailureReport => exact execRemoteFailureReport_inv h
  case fabricTimeout => exact execFabricTimeout_inv h
  case moduleNumberWaitExpiry | bootUplinkTrain | bootRelease | telemetrySample | linkCalibrationGrain => exact h
  case copyCommandComplete | grantSetLoadComplete | overflowDelivery | yieldExpiry | ageingPromotion | gangMemberFault | pipeFreeReport |
    reductionSlotTimeout | reductionSlotExpiry | headerFlitRefused | linkDown | laneLost | linkRetrainTimer | linkTrainingDone | linkTrainingTimeout
    | downNotice | upNotice | ownUplinksDown | corePeckRequest | corePeckArrival | clusterPeckRequest | clusterPeckArrival | dieQueueEnlarge |
    stealWalkWaitExpiry | cellReleaseInsert | brsCodeSearch | packageUnloadRequest | bookingStart | bookingSlip | slackGrain | bookingOverrun |
    ultraEthernetSessionOpen | launchRequest | eventForward | tenantAcknowledge | attestationRequest | modnum | bootFirmwareVerify | bootBrsVerify |
    thermalThrottle | thermalHalt =>
    simp only [exec, execCopyCommandComplete, execGrantSetLoadComplete, execOverflowDelivery, execYieldExpiry, execAgeingPromotion,
      execGangMemberFault, execPipeFreeReport, execReductionSlotTimeout, execReductionSlotExpiry, execHeaderFlitRefused, execLinkDown, execLaneLost,
      execLinkRetrainTimer, execLinkTrainingDone, execLinkTrainingTimeout, execDownNotice, execUpNotice, execOwnUplinksDown, execCorePeckRequest,
      execCorePeckArrival, execClusterPeckRequest, execClusterPeckArrival, execDieQueueEnlarge, execStealWalkWaitExpiry, execCellReleaseInsert,
      execBrsCodeSearch, execPackageUnloadRequest, execBookingStart, execBookingSlip, execSlackGrain, execBookingOverrun,
      execUltraEthernetSessionOpen, execLaunchRequest, execEventForward, execTenantAcknowledge, execAttestationRequest, execModnum,
      execBootFirmwareVerify, execBootBrsVerify, execThermalThrottle, execThermalHalt]
    split
    · exact h
    · trivial
  all_goals cases hi

/-- What an instruction does keeps the invariant, whether it is a chain form or a step without an encoding. -/
theorem exec_inv {i : Instr} : Res.Inv (exec i s) := by
  cases hi : i.fullForm.isSome with
  | true => exact exec_form_inv h hi
  | false => exact exec_step_inv h (Option.isSome_eq_false_iff.mp hi |> Option.isNone_iff_eq_none.mp)

theorem State.Inv.attempt {core slot} : Res.Inv (s.attempt core slot) := by
  unfold State.attempt
  split
  · exact h.begin_
  · split
    · exact h.faultWith
    · dsimp only
      split
      · exact h.faultWith
      · exact exec_inv h.onHw

theorem State.issueCore_inv {core r} (hr : s.issueCore core = some r) : Res.Inv r := by
  unfold State.issueCore at hr
  dsimp only at hr
  split at hr
  · cases hr
    exact h.attempt
  · split at hr
    · cases hr
      exact h.attempt
    · cases hr

theorem State.issueFirst_inv {cores r} (hr : s.issueFirst cores = some r) : Res.Inv r := by
  induction cores with
  | nil => cases hr
  | cons core cores ih =>
    unfold State.issueFirst at hr
    split at hr
    next heq =>
      cases hr
      exact s.issueCore_inv h heq
    · exact ih hr

theorem State.Inv.whileStopped : Res.Inv s.whileStopped := by
  unfold State.whileStopped
  split
  · exact exec_inv h.onHw
  · exact h

theorem State.Inv.running : Res.Inv s.running := by
  unfold State.running
  split
  · exact exec_inv h.onHw
  · split
    · exact exec_inv h.onHw
    · split
      · exact h.onHw
      · split
        next heq => exact s.issueFirst_inv h heq
        · exact h.tick

theorem step_inv : Res.Inv (step s) := by
  unfold step State.next
  split
  · exact h.whileStopped
  · exact h.running

end

/-- Settles O53: a memory's tree changes only through the operations that keep it canonical, whatever step is taken. -/
theorem stepKeepsMemory : Obligations.StepKeepsMemory := by
  intro s t hs ht
  have h := step_inv hs
  rw [ht] at h
  exact h

end Sys2Proof.Machine
end

section
/-! PROOFS. A memory form whose operands are at hand and whose port is free starts its access, or faults at Check (06_memory R137, R147 to R151,
R163 to R165; for O10, O11, O12). -/

namespace Sys2Proof.Machine

theorem Ctx.fenced_of_none {x : Ctx} (h : x.fence = none) (k : Cls) : x.fenced k = false := by simp only [Ctx.fenced, h]

/-- A free port lets the access begin (R144, R188). -/
theorem State.mayAccess_free {s : State} {c : Cur} {relaxed : Bool} {k : Cls} (h : s.portFree c relaxed k) (go : State) :
    s.mayAccess c relaxed k go = go := by
  obtain ⟨hfence, hroom⟩ := h
  rw [State.mayAccess, if_neg (by simp only [Ctx.fenced_of_none hfence, Bool.false_eq_true, not_false_eq_true])]
  refine if_neg fun hlimit => ?_
  obtain ⟨hrx, hfull⟩ := Bool.and_eq_true_iff.mp hlimit
  have hroom := hroom hrx
  split at hfull
  all_goals
    rename_i hk
    simp only [hk, if_true, if_false] at hroom
    exact absurd (of_decide_eq_true hfull) (Nat.not_le.mpr hroom)

/-- A plain access needs only that no fence is pending. -/
theorem State.portFree_plain {s : State} {c : Cur} {k : Cls} (h : (s.hw.curCtx c).fence = none) : s.portFree c false k :=
  ⟨h, fun hrx => absurd hrx (by decide)⟩

/-- An operand that fails Check is the chain's fault (R137). -/
theorem State.check_bad {s : State} {c : Cur} {n : Nat} {o : Int} {size : Nat} {need : Need} {align a : Nat} {cause : Cause}
    (h : segCheck ((s.hw.curCtx c).seg n) o size need align = .bad cause a) (k : Nat → Seg → State) :
    s.check c n o size need align k = s.onHw (fun h => h.faultChain c (c.faultAt cause 0 a ((s.hw.curCtx c).seg n).virt)) := by
  simp only [State.check, h]

section
variable {s : State} {c : Cur} {m : MemOp} {srcs : List Nat} {op : AccOp} {rx : Bool} {size align ad : Nat} {need : Need}

theorem State.memForm_starts (hregs : s.atHand c (m.idx.toNat :: srcs)) (hport : s.portFree c rx (accCls op))
    (hcheck : segCheck ((s.hw.curCtx c).seg m.sg.toNat) (s.hw.memOffset c m) size need align = .ok ad) (sw : Bool) :
    s.memForm c sw m srcs op rx size align need =
      s.access c sw (s.hw.mkAcc c op rx ((s.hw.curCtx c).seg m.sg.toNat).virt ad size m.sg.toNat (s.hw.memOffset c m).toNat) := by
  rw [State.memForm, State.reads_atHand hregs, State.mayAccess_free hport, State.check_ok hcheck]

theorem State.memForm_faults {cause : Cause} (hregs : s.atHand c (m.idx.toNat :: srcs)) (hport : s.portFree c rx (accCls op))
    (hcheck : segCheck ((s.hw.curCtx c).seg m.sg.toNat) (s.hw.memOffset c m) size need align = .bad cause ad) (sw : Bool) :
    s.memForm c sw m srcs op rx size align need =
      s.onHw (fun h => h.faultChain c (c.faultAt cause 0 ad ((s.hw.curCtx c).seg m.sg.toNat).virt)) := by
  rw [State.memForm, State.reads_atHand hregs, State.mayAccess_free hport, State.check_bad hcheck]

/-- A window that reaches the last register of a sector, where the form has one (R149). -/
theorem State.secWindow_ok {sec : Bool} {a : Nat} (h : sec = true → a + 3 < (s.hw.curCtx c).wsize) (k : State) : s.secWindow c sec a k = k := by
  unfold State.secWindow
  split
  next hsec => exact State.window_ok (h hsec) k
  · rfl

/-- With XSTEP 0 a page-15 form begins at its first step (R106). -/
theorem Ctx.firstStep_zero {x : Ctx} (h : x.xstep = 0) (code : Nat) : x.firstStep code = 0 := by
  rw [Ctx.firstStep, h]
  rfl

/-- A step of a page-15 form whose operand passes Check starts its access with XSTEP naming it (R105, R162). -/
theorem State.step15_starts {code i : Nat} {o : Int} (hfence : (s.hw.curCtx c).fence = none)
    (hcheck : segCheck ((s.hw.curCtx c).seg m.sg.toNat) o 8 need 8 = .ok ad) (sw : Bool) :
    s.step15 c sw m code i o need op = (s.atStep c code i).access c sw
      ((s.atStep c code i).hw.mkAcc c op false ((s.hw.curCtx c).seg m.sg.toNat).virt ad 8 m.sg.toNat o.toNat) := by
  have hseg : ((s.atStep c code i).hw.curCtx c).seg m.sg.toNat = (s.hw.curCtx c).seg m.sg.toNat := by
    rw [State.atStep, State.onHw_hw, Hw.curCtx_modCur]
    rfl
  rw [State.step15, State.mayAccess_free (State.portFree_plain hfence), ← hseg]
  exact State.check_ok (hseg ▸ hcheck) _

end

theorem bits_low (v hi : Nat) : bits v hi 0 = v % 2 ^ (hi + 1) := by rw [bits, pow_zero, Nat.div_one, Nat.sub_zero]

theorem decide_toNat_le_zero (k : BitVec 4) : decide (k.toNat ≤ 0) = decide (k = 0) :=
  decide_eq_decide.mpr (by bv_omega)

theorem ldBytes_align (k : LdKind) : (if ldBytes k = 32 then 32 else 1) = if LdKind.isSec k then 32 else 1 := by
  cases k with
  | sec => rfl
  | val t => cases t <;> rfl

theorem stBytes_align (k : StKind) : (if stBytes k = 32 then 32 else 1) = if StKind.isSec k then 32 else 1 := by cases k <;> rfl

section
variable {s : State} {c : Cur} {a : GReg} {m : MemOp} {ad : Nat} {sw rx : Bool}

theorem execLd_starts {k : LdKind} (hregs : s.atHand c [m.idx.toNat]) (hwin : LdKind.isSec k = true → a.toNat + 3 < (s.hw.curCtx c).wsize)
    (hport : s.portFree c rx .r) (hcheck : segCheck ((s.hw.curCtx c).seg m.sg.toNat) (s.hw.memOffset c m) (ldBytes k) { r := true }
      (if ldBytes k = 32 then 32 else 1) = .ok ad) :
    exec (.ld sw k rx a m) s = .next (s.access c sw (s.hw.mkAcc c (.load k (secRegs (LdKind.isSec k) a.toNat)) rx
      ((s.hw.curCtx c).seg m.sg.toNat).virt ad (ldBytes k) m.sg.toNat (s.hw.memOffset c m).toNat)) := by
  rw [exec_ld, execLd, State.withCur_some hregs.1, State.secWindow_ok hwin]
  exact congrArg _ (State.memForm_starts hregs hport (ldBytes_align k ▸ hcheck) sw)

theorem execSt_starts {k : StKind} (hregs : s.atHand c (m.idx.toNat :: secRegs (StKind.isSec k) a.toNat))
    (hwin : StKind.isSec k = true → a.toNat + 3 < (s.hw.curCtx c).wsize) (hport : s.portFree c rx .w)
    (hcheck : segCheck ((s.hw.curCtx c).seg m.sg.toNat) (s.hw.memOffset c m) (stBytes k) { w := true } (if stBytes k = 32 then 32 else 1) = .ok ad) :
    exec (.st sw k rx a m) s = .next (s.access c sw (s.hw.mkAcc c (.store (s.hw.storeBytes c k a.toNat)) rx
      ((s.hw.curCtx c).seg m.sg.toNat).virt ad (stBytes k) m.sg.toNat (s.hw.memOffset c m).toNat)) := by
  rw [exec_st, execSt, State.withCur_some hregs.1, State.secWindow_ok hwin]
  exact congrArg _ (State.memForm_starts hregs hport (stBytes_align k ▸ hcheck) sw)

/-- An atomic reads one register, and CAS the next one too (R151). -/
theorem execAtom_starts {op : AtomOp} {ty : AtomTy}
    (hregs : s.atHand c (m.idx.toNat :: if op == .cas then [a.toNat, a.toNat + 1] else [a.toNat]))
    (hwin : (op == .cas) = true → a.toNat + 1 < (s.hw.curCtx c).wsize) (hport : s.portFree c rx .a)
    (hcheck : segCheck ((s.hw.curCtx c).seg m.sg.toNat) (s.hw.memOffset c m) (atomWidth ty / 8) { r := true, w := true } (atomWidth ty / 8) =
      .ok ad) :
    exec (.atom sw op ty rx a m) s = .next (s.access c sw (s.hw.mkAcc c (.atom op ty a.toNat (s.hw.cg c a) (s.hw.cgn c (a.toNat + 1))) rx
      ((s.hw.curCtx c).seg m.sg.toNat).virt ad (atomWidth ty / 8) m.sg.toNat (s.hw.memOffset c m).toNat)) := by
  rw [exec_atom, execAtom, State.withCur_some hregs.1]
  have hgo := State.memForm_starts (op := .atom op ty a.toNat (s.hw.cg c a) (s.hw.cgn c (a.toNat + 1))) hregs hport hcheck sw
  dsimp only
  rw [hgo]
  split
  next hcas => rw [State.window_ok (hwin hcas)]
  · rfl

end

/-- Settles O10: with its operands at hand and its port free each form is its Check and what follows it. -/
theorem memoryForms : Obligations.MemoryForms := by
  intro s c sw rx ld st op ty k a m ad
  refine ⟨execLd_starts, execSt_starts, ?atom, ?cas, ?mwait, ?mwaitBooked, ?ldFaults, ?ldmb, ?stmb⟩
  case atom =>
    intro hregs hop
    have hcas : (op == .cas) = false := beq_eq_false_iff_ne.mpr hop
    exact execAtom_starts (by rw [hcas]; exact hregs) fun h => absurd h (by rw [hcas]; decide)
  case cas =>
    intro hregs hwin
    exact execAtom_starts hregs fun _ => hwin
  case mwait =>
    intro hregs hbooked hport hcheck
    rw [exec_mwait, execMwait, State.withCur_some hregs.1, hbooked]
    exact congrArg _ (State.memForm_starts hregs hport hcheck sw)
  case mwaitBooked =>
    intro hregs hbooked
    rw [exec_mwait, execMwait, State.withCur_some hregs.1, hbooked]
    rfl
  case ldFaults =>
    intro hregs hport cause hcheck
    rw [exec_ld, execLd, State.withCur_some hregs.1]
    exact congrArg _ (State.memForm_faults hregs hport hcheck sw)
  case ldmb =>
    intro hregs hwin hfence hstep hcheck
    rw [exec_ldmb, execLdmb, State.withCur_some hregs.1, State.window_ok hwin, State.reads_atHand hregs, Ctx.firstStep_zero hstep]
    simp only [Nat.cast_zero, mul_zero, add_zero, decide_toNat_le_zero]
    exact congrArg _ (State.step15_starts hfence hcheck sw)
  case stmb =>
    intro hregs hwin hfence hstep hcheck
    rw [exec_stmb, execStmb, State.withCur_some hregs.1, State.window_ok hwin, Ctx.firstStep_zero hstep]
    simp only [Nat.cast_zero, mul_zero, add_zero, decide_toNat_le_zero]
    rw [State.reads_atHand hregs]
    exact congrArg _ (State.step15_starts hfence hcheck sw)

end Sys2Proof.Machine
end

section
/-! PROOFS. The first step of BLKCP and of CRCB (06_memory R164, R165; O11). -/

namespace Sys2Proof.Machine

/-- Settles O11: XSTEP 0 begins at step 0, whose read follows the test of the length. -/
theorem blockForms : Obligations.BlockForms := by
  intro s c sw a m ad x sg o n hregs hwin hfence hstep
  have hblkcp : exec (.blkcp sw a m) s = .next (if n = 0 ∨ 1024 < n ∨ n % 8 ≠ 0 then s.faultWith c .reservedValue 0 n
      else s.step15 c sw m 2 0 o { r := true } (.stepLoad (a.toNat + 2) false)) := by
    rw [exec_blkcp, execBlkcp, State.withCur_some hregs.1, State.window_ok hwin, Ctx.firstStep_zero hstep]
    refine congrArg _ ((State.reads_atHand hregs _).trans ?_)
    simp only [Nat.zero_mod, Nat.zero_div, mul_zero, Nat.cast_zero, add_zero, if_true]
    rfl
  have hcrcb : exec (.crcb sw a m) s = .next (if n = 0 ∨ 2048 < n ∨ n % 8 ≠ 0 then s.faultWith c .reservedValue 0 n
      else s.step15 c sw m 3 0 o { r := true } (.stepCrc a.toNat ((s.hw.cg c a).toNat % 2 ^ 32) (decide (n / 8 ≤ 1)))) := by
    rw [exec_crcb, execCrcb, State.withCur_some hregs.1, State.window_ok (Nat.lt_of_succ_lt hwin), State.reads_atHand hregs, Ctx.firstStep_zero hstep]
    simp only [mul_zero, Nat.cast_zero, add_zero, zero_add, bits_low]
    rfl
  refine ⟨fun hn => ?_, fun hn => ?_, fun hpos hmul hcheck => ⟨fun hmax => ?_, fun hmax => ?_⟩⟩
  · rw [hblkcp, if_pos hn]
  · rw [hcrcb, if_pos hn]
  · rw [hblkcp, if_neg (by omega), State.step15_starts hfence hcheck]
  · have hlast : decide (n / 8 ≤ 1) = decide (n = 8) := decide_eq_decide.mpr (by omega)
    rw [hcrcb, if_neg (by omega), hlast, State.step15_starts hfence hcheck]

end Sys2Proof.Machine
end

section
/-! PROOFS. What a port that looks for work changes of the cores (06_memory R145; for O12, O13, O15). -/

namespace Sys2Proof.Machine

/-- Of each core at most the record of its outstanding accesses has changed, and no access has been added or dropped. -/
def Hw.OnlyOut (h h' : Hw) : Prop :=
  h'.now = h.now ∧ ∀ d, ∃ out, h'.core d = { h.core d with out := out } ∧ out.map (fun o => o.acc.txn) = (h.core d).out.map (fun o => o.acc.txn)

namespace Hw.OnlyOut

theorem of_core {h h' : Hw} (hnow : h'.now = h.now) (hcore : ∀ d, h'.core d = h.core d) : h.OnlyOut h' := ⟨hnow, fun d => ⟨_, hcore d, rfl⟩⟩

theorem refl (h : Hw) : h.OnlyOut h := of_core rfl fun _ => rfl

theorem trans {h h1 h2 : Hw} (a : h.OnlyOut h1) (b : h1.OnlyOut h2) : h.OnlyOut h2 := by
  refine ⟨b.1.trans a.1, fun d => ?_⟩
  obtain ⟨out1, heq1, htxns1⟩ := a.2 d
  obtain ⟨out2, heq2, htxns2⟩ := b.2 d
  rw [heq1] at heq2 htxns2
  exact ⟨out2, heq2, htxns2.trans htxns1⟩

theorem modOut (h : Hw) (core txn : Nat) {f : Outst → Outst} (hf : ∀ o, o.acc.txn = txn → (f o).acc.txn = txn) : h.OnlyOut (h.modOut core txn f) := by
  refine ⟨rfl, fun d => ?_⟩
  by_cases hd : core = d
  · subst hd
    refine ⟨_, h.core_modCore core _, ?_⟩
    rw [List.map_map]
    refine List.map_congr_left fun o _ => ?_
    simp only [Function.comp_apply]
    split
    next ho => exact (hf o ho).trans ho.symm
    · rfl
  · exact ⟨_, h.core_modCore_ne core _ d hd, rfl⟩

variable {h h' : Hw} (hk : h.OnlyOut h')
include hk

theorem ctx (c s : Nat) : h'.ctx c s = h.ctx c s := by
  obtain ⟨out, heq, -⟩ := hk.2 c
  rw [Hw.ctx, heq]
  rfl

theorem isFull (c s n : Nat) : h'.isFull c s n = h.isFull c s n := by
  obtain ⟨out, heq, -⟩ := hk.2 c
  rw [Hw.isFull, hk.ctx, heq]
  rfl

end Hw.OnlyOut

theorem Hw.Binds.onlyOut {h h' : Hw} (hb : h.Binds h') : h.OnlyOut h' := .of_core hb.now hb.core

theorem Hw.onlyOut_sentOff (h : Hw) (a : Acc) : h.OnlyOut (h.sentOff a) := .modOut h a.core a.txn fun _ _ => rfl

theorem Hw.translate_onlyOut (h : Hw) (core tenant : Nat) (svc : Bool) (need : Need) (brings : Option Nat) (ps acc : List Piece) (cyc : Nat) :
    h.OnlyOut (h.translate core tenant svc need brings ps acc cyc).2 := by
  obtain ⟨dies, clusters, htr⟩ := h.translate_eq core tenant svc need brings ps acc cyc
  rw [htr]
  exact .of_core rfl fun _ => rfl

theorem State.send_onlyOut (s : State) (o : Outst) : s.hw.OnlyOut (s.send o).hw := by
  unfold State.send
  simp only
  split
  · exact (Hw.onlyOut_sentOff _ { o.acc with pieces := piecesOf o.acc.addr o.acc.size }).trans (Hw.binds_toBank _ _ _).onlyOut
  · have htlb := s.hw.translate_onlyOut o.acc.core o.acc.tenant o.acc.svc (AccOp.need o.acc.op) (Acc.brings o.acc)
      (piecesOf o.acc.addr o.acc.size) [] 0
    split
    next heq =>
      rw [heq] at htlb
      exact (htlb.trans (Hw.onlyOut_sentOff _ o.acc)).trans (Hw.binds_after _ _ _ _).onlyOut
    next heq =>
      rw [heq] at htlb
      exact (htlb.trans (Hw.onlyOut_sentOff _ o.acc)).trans (Hw.binds_after _ _ _ _).onlyOut
    next ps cyc h heq =>
      rw [heq] at htlb
      have hpieces : h.OnlyOut (h.modOut o.acc.core o.acc.txn fun u => { u with acc := { o.acc with pieces := ps } }) := .modOut h _ _ fun _ _ => rfl
      split
      · exact htlb.trans hpieces
      · exact ((htlb.trans hpieces).trans (Hw.onlyOut_sentOff _ { o.acc with pieces := ps })).trans (Hw.binds_toBank _ _ _).onlyOut

theorem State.pump_onlyOut (s : State) (core : Nat) : s.hw.OnlyOut (s.pump core).hw := by
  unfold State.pump
  refine List.foldlRecOn (motive := fun t : State => s.hw.OnlyOut t.hw) _ _ (.refl _) fun t ht w _ => ?_
  split
  · exact ht
  · split
    · exact ht
    · exact ht.trans (t.send_onlyOut _)

end Sys2Proof.Machine
end

section
/-! PROOFS. The start of an access (06_memory R143, R144; log 29, 109; O13). -/

namespace Sys2Proof.Machine

/-! ### Registers that wait for an answer (R144) -/

/-- Between two states of a core the context of a slot has come to wait for registers of a transaction: they are empty and outstanding. -/
structure Core.Awaits (slot txn : Nat) (rs : List Nat) (k k' : Core) : Prop where
  core : ∃ slots empty, k' = { k with slots := slots, empty := empty }
  ctx : k'.ctx slot = { k.ctx slot with pend := (k.ctx slot).pend ++ (rs.filter (· ≠ 0)).map (Pend.async · txn) }
  other : ∀ j, j ≠ slot → k'.ctx j = k.ctx j
  full : ∀ x : Ctx, x.wbase = (k.ctx slot).wbase → ∀ n, k'.fullBit x n = if n ≠ 0 ∧ n ∈ rs then false else k.fullBit x n

theorem Core.awaits_one (k : Core) (slot txn : Nat) {r : Nat} (hr : r ≠ 0) :
    k.Awaits slot txn [r] ((k.putFull (k.ctx slot) r false).setCtx slot { k.ctx slot with pend := (k.ctx slot).pend ++ [.async r txn] }) := by
  refine ⟨?_, ?_, fun j hj => ?_, fun x hx n => ?_⟩
  · obtain ⟨empty, hput⟩ := k.putFull_eq (k.ctx slot) r false
    rw [hput]
    exact ⟨_, _, rfl⟩
  · rw [Core.ctx_setCtx]
    simp [hr]
  · rw [Core.ctx_setCtx_ne _ _ _ _ hj.symm, Core.ctx_putFull]
  · refine (Core.fullBit_congr (k.putFull (k.ctx slot) r false) _ (k.ctx slot) x n rfl hx).trans ?_
    by_cases hn : n = r
    · subst hn
      rw [Core.fullBit_putFull _ _ _ _ hr, if_pos ⟨hr, List.mem_singleton_self n⟩]
    · rw [Core.fullBit_putFull_ne _ _ _ _ _ (Ne.symm hn), if_neg fun h => hn (List.mem_singleton.mp h.2)]
      exact (Core.fullBit_congr _ _ _ _ n rfl hx).symm

theorem Core.Awaits.cons {k k1 k2 : Core} {slot txn r : Nat} {rs : List Nat} (a : k.Awaits slot txn [r] k1) (b : k1.Awaits slot txn rs k2) :
    k.Awaits slot txn (r :: rs) k2 := by
  obtain ⟨slots1, empty1, hcore1⟩ := a.core
  obtain ⟨slots2, empty2, hcore2⟩ := b.core
  refine ⟨⟨slots2, empty2, by rw [hcore2, hcore1]⟩, ?_, fun j hj => (b.other j hj).trans (a.other j hj), fun x hx n => ?_⟩
  · rw [b.ctx, a.ctx]
    simp only [List.filter_cons, List.filter_nil]
    split <;> simp
  · rw [b.full x (by rw [hx, a.ctx]) n, a.full x hx n]
    by_cases hzero : n = 0
    · simp [hzero]
    · by_cases hn : n ∈ rs <;> simp [hzero, hn]

/-- `g0` waits for nothing. -/
theorem Core.awaits_zero (k : Core) (slot txn : Nat) : k.Awaits slot txn [0] k :=
  ⟨⟨_, _, rfl⟩, by simp, fun _ _ => rfl, fun _ _ n => by rw [if_neg fun h => h.1 (List.mem_singleton.mp h.2)]⟩

theorem Hw.awaits_awaitG (h : Hw) (c s n txn : Nat) : (h.core c).Awaits s txn [n] ((h.awaitG c s n txn).core c) := by
  unfold Hw.awaitG
  split
  next hn =>
    rw [hn]
    exact Core.awaits_zero _ s txn
  next hn =>
    rw [Hw.core_modSlot]
    exact Core.awaits_one _ s txn hn

theorem Hw.awaits_awaitGs (h : Hw) (c s : Nat) (ns : List Nat) (txn : Nat) : (h.core c).Awaits s txn ns ((h.awaitGs c s ns txn).core c) := by
  unfold Hw.awaitGs
  induction ns generalizing h with
  | nil => exact ⟨⟨_, _, rfl⟩, by simp, fun _ _ => rfl, fun _ _ _ => by simp⟩
  | cons n ns ih => exact (h.awaits_awaitG c s n txn).cons (ih _)

theorem Hw.awaitGs_eq (h : Hw) (c s : Nat) (ns : List Nat) (txn : Nat) :
    (∃ cores, h.awaitGs c s ns txn = { h with cores := cores }) ∧ ∀ d, d ≠ c → (h.awaitGs c s ns txn).core d = h.core d := by
  unfold Hw.awaitGs
  refine List.foldlRecOn (motive := fun h' : Hw => (∃ cores, h' = { h with cores := cores }) ∧ ∀ d, d ≠ c → h'.core d = h.core d) ns _
    ⟨⟨_, rfl⟩, fun _ _ => rfl⟩ fun h' hh n _ => ?_
  unfold Hw.awaitG
  split
  · exact hh
  · obtain ⟨⟨cores, heq⟩, hcore⟩ := hh
    exact ⟨⟨_, by rw [heq]; rfl⟩, fun d hd => (h'.core_modSlot_ne c s _ d hd.symm).trans (hcore d hd)⟩

/-! ### The chain that starts the access -/

/-- The context of a chain that starts an access: its write joins a signature, and an access away from the core its region (R237, R459). -/
def Ctx.accessing (x : Ctx) (c : Cur) (a : Acc) : Ctx :=
  let y := if AccOp.signed a.op then x.signWrite a.txn (Acc.message a) else x
  if a.virt ∨ keyCore a.addr ≠ c.core then { y with region := y.region.map (fun r => { r with ops := r.ops ++ [a.txn] }) } else y

theorem Ctx.accessing_eq (x : Ctx) (c : Cur) (a : Acc) : ∃ task region, x.accessing c a = { x with task := task, region := region } := by
  have hsigned : ∃ task, (if AccOp.signed a.op then x.signWrite a.txn (Acc.message a) else x) = { x with task := task } := by
    unfold Ctx.signWrite
    split
    · split <;> exact ⟨_, rfl⟩
    · exact ⟨_, rfl⟩
  obtain ⟨task, htask⟩ := hsigned
  rw [Ctx.accessing, htask]
  split <;> exact ⟨_, _, rfl⟩

/-- The part just before the chain of an access parks or retires. -/
def Hw.accessAwaits (h : Hw) (c : Cur) (a : Acc) : Hw :=
  (({ h with nextTxn := h.nextTxn + 1 } : Hw).awaitGs c.core c.slot (accRegs a.op) a.txn).modCur c (·.accessing c a)

/-- What a chain does to the part as it starts an access in an unbooked context. -/
def Hw.accessStart (h : Hw) (c : Cur) (sw : Bool) (a : Acc) : Hw :=
  if a.relaxed then (h.accessAwaits c a).retire c sw 1 else (h.accessAwaits c a).parkMemory c sw

theorem State.access_unbooked {s : State} {c : Cur} (hbooked : (s.hw.curCtx c).booked = false) (sw : Bool) (a : Acc) :
    ∃ o, s.access c sw a =
      State.pump { s with hw := (s.hw.accessStart c sw a).modCore c.core (fun k => { k with out := k.out ++ [o] }) } c.core := by
  have hsub (posted : Bool) : s.hw.bookedSub c posted a.virt a.addr a.size = none := by rw [Hw.bookedSub, hbooked]; rfl
  unfold State.access
  simp only [hsub, Bool.false_and, Bool.false_eq_true, if_false]
  exact ⟨_, rfl⟩


/-- What an access leaves of the context that starts it: window, segments, pointers, masks and status registers (R13, R79, R80, R143). -/
structure Ctx.StartsFrom (x y : Ctx) : Prop where
  wbase : y.wbase = x.wbase
  sg : y.sg = x.sg
  p : y.p = x.p
  m : y.m = x.m
  ts : y.ts = x.ts
  fra : y.fra = x.fra
  frb : y.frb = x.frb
  decl : y.decl = x.decl
  prio : y.prio = x.prio
  otag : y.otag = x.otag
  gset : y.gset = x.gset
  prin : y.prin = x.prin
  linksp : y.linksp = x.linksp
  ckptb : y.ckptb = x.ckptb
  steald : y.steald = x.steald
  taskr : y.taskr = x.taskr
  bookid : y.bookid = x.bookid

/-- Place, loops, waits and issue count may differ, and the rest of a context stands. -/
theorem Ctx.StartsFrom.of_eq {x y : Ctx} (heq : ∃ st park parkCur access plainSw pc lp notBefore sw xstep role w task region pend, y =
    { x with st := st, park := park, parkCur := parkCur, access := access, plainSw := plainSw, pc := pc, lp := lp, notBefore := notBefore,
             swWait := sw, xstep := xstep, role := role, w := w, task := task, region := region, pend := pend }) (hdecl : y.decl = x.decl) :
    x.StartsFrom y := by
  obtain ⟨_, _, _, _, _, _, _, _, _, _, _, _, _, _, _, rfl⟩ := heq
  exact ⟨rfl, rfl, rfl, rfl, rfl, rfl, rfl, hdecl, rfl, rfl, rfl, rfl, rfl, rfl, rfl, rfl, rfl⟩

section
variable (h : Hw) (c : Cur) (sw : Bool) (a : Acc)

theorem Hw.accessAwaits_now : (h.accessAwaits c a).now = h.now := by
  obtain ⟨⟨cores, heq⟩, -⟩ := ({ h with nextTxn := h.nextTxn + 1 } : Hw).awaitGs_eq c.core c.slot (accRegs a.op) a.txn
  rw [Hw.accessAwaits, heq]
  rfl

theorem Hw.accessAwaits_core_ne (d : Nat) (hd : d ≠ c.core) : (h.accessAwaits c a).core d = h.core d := by
  rw [Hw.accessAwaits, Hw.modCur, Hw.core_modCtx_ne _ _ _ _ _ hd.symm]
  exact (Hw.awaitGs_eq _ _ _ _ _).2 d hd

/-- The core of the chain, whose registers wait, and whose context has taken note of the access. -/
theorem Hw.accessAwaits_core : ∃ k task region, (h.core c.core).Awaits c.slot a.txn (accRegs a.op) k ∧ (h.accessAwaits c a).core c.core =
    k.setCtx c.slot { k.ctx c.slot with task := task, region := region } := by
  have hwaits := ({ h with nextTxn := h.nextTxn + 1 } : Hw).awaits_awaitGs c.core c.slot (accRegs a.op) a.txn
  obtain ⟨task, region, hctx⟩ := Ctx.accessing_eq ((({ h with nextTxn := h.nextTxn + 1 } : Hw).awaitGs c.core c.slot (accRegs a.op) a.txn).ctx
    c.core c.slot) c a
  refine ⟨_, task, region, hwaits, ?_⟩
  rw [Hw.accessAwaits, Hw.modCur, Hw.core_modCtx, hctx]
  rfl


/-- The core's contexts, and the choice of the next one, as a chain that issues leaves them (R98, R212). -/
structure Core.Issues (c : Cur) (now : Nat) (k k' : Core) : Prop where
  core : ∃ slots lastIssue ptr, k' = { k with slots := slots, lastIssue := lastIssue, ptr := ptr }
  other : ∀ j, j ≠ c.slot → k'.ctx j = k.ctx j ∨ k'.ctx j = (k.ctx j).yieldSeen c.slot now

theorem Core.issues_issued (k : Core) (now : Nat) : k.Issues c now (k.issued c now) := ⟨k.issued_eq c now, fun j hj => k.ctx_issued_ne c now j hj⟩

theorem Core.Issues.setCtx {c : Cur} {now : Nat} {k k' : Core} (hk : k.Issues c now k') (x : Ctx) : k.Issues c now (k'.setCtx c.slot x) := by
  obtain ⟨slots, lastIssue, ptr, heq⟩ := hk.core
  exact ⟨⟨_, lastIssue, ptr, by rw [heq]; rfl⟩, fun j hj => by rw [Core.ctx_setCtx_ne _ _ _ _ hj.symm]; exact hk.other j hj⟩

theorem Hw.core_parkMemory : (h.parkMemory c sw).core c.core = (((h.core c.core).issued c h.now).setCtx c.slot
    { ((h.core c.core).issued c h.now).ctx c.slot with st := .parked, park := some .memory, parkCur := some c, pc := c.pc }).setCtx c.slot
    { ((h.core c.core).issued c h.now).ctx c.slot with
      st := .parked, park := some .memory, parkCur := some c, pc := c.pc, access := some c, plainSw := sw, swWait := false } := by
  rw [Hw.parkMemory, Hw.parkChain, Hw.modCur, Hw.modCur, Hw.core_modCtx, Hw.core_modCtx, Hw.ctx_modCtx, Hw.ctx, Hw.core_issued]

theorem Hw.accessStart_issues : ((h.accessAwaits c a).core c.core).Issues c h.now ((h.accessStart c sw a).core c.core) := by
  unfold Hw.accessStart
  split
  · rw [Hw.core_retire, h.accessAwaits_now c a]
    exact (Core.issues_issued c _ _).setCtx _
  · rw [Hw.core_parkMemory, h.accessAwaits_now c a]
    exact ((Core.issues_issued c _ _).setCtx _).setCtx _

/-- Of its core a chain that starts an access changes the contexts, their full bits, and the choice of the next one. -/
theorem Hw.accessStart_core : ∃ slots empty lastIssue ptr,
    (h.accessStart c sw a).core c.core = { h.core c.core with slots := slots, empty := empty, lastIssue := lastIssue, ptr := ptr } := by
  obtain ⟨k, task, region, hwaits, hawait⟩ := h.accessAwaits_core c a
  obtain ⟨slots, lastIssue, ptr, hcore⟩ := (h.accessStart_issues c sw a).core
  obtain ⟨slots', empty, hk⟩ := hwaits.core
  rw [hcore, hawait, hk]
  exact ⟨_, _, _, _, rfl⟩

theorem Hw.accessStart_core_ne (d : Nat) (hd : d ≠ c.core) : (h.accessStart c sw a).core d = h.core d := by
  refine Eq.trans ?_ (h.accessAwaits_core_ne c a d hd)
  unfold Hw.accessStart
  split
  · exact Hw.core_retire_ne _ _ _ _ _ hd.symm
  · rw [Hw.parkMemory, Hw.parkChain, Hw.modCur, Hw.modCur, Hw.core_modCtx_ne _ _ _ _ _ hd.symm, Hw.core_modCtx_ne _ _ _ _ _ hd.symm,
      Hw.core_issued_ne _ _ _ hd.symm]

theorem Hw.accessStart_other (j : Nat) (hj : j ≠ c.slot) :
    (h.accessStart c sw a).ctx c.core j = h.ctx c.core j ∨ (h.accessStart c sw a).ctx c.core j = (h.ctx c.core j).yieldSeen c.slot h.now := by
  obtain ⟨k, task, region, hwaits, hawait⟩ := h.accessAwaits_core c a
  have hctx : ((h.accessAwaits c a).core c.core).ctx j = h.ctx c.core j := by
    rw [hawait, Core.ctx_setCtx_ne _ _ _ _ hj.symm, hwaits.other j hj]
    rfl
  rw [← hctx]
  exact (h.accessStart_issues c sw a).other j hj

/-- The context of the chain before it parks or retires. -/
theorem Hw.accessAwaits_ctx : ∃ task region, (h.accessAwaits c a).curCtx c = { h.curCtx c with
    task := task, region := region, pend := (h.curCtx c).pend ++ ((accRegs a.op).filter (· ≠ 0)).map (Pend.async · a.txn) } := by
  obtain ⟨k, task, region, hwaits, hawait⟩ := h.accessAwaits_core c a
  rw [Hw.curCtx, Hw.ctx, hawait, Core.ctx_setCtx, hwaits.ctx]
  exact ⟨task, region, rfl⟩

/-- A relaxed access lets its context go on (R144). -/
theorem Hw.accessStart_relaxed (ha : a.relaxed = true) : (h.curCtx c).StartsFrom ((h.accessStart c sw a).curCtx c) ∧
    ((h.accessStart c sw a).curCtx c).pend = ((h.accessAwaits c a).curCtx c).pend ∧
    ((h.accessStart c sw a).curCtx c).st = (h.curCtx c).st ∧ ((h.accessStart c sw a).curCtx c).notBefore = h.now + 1 := by
  obtain ⟨task, region, hctx⟩ := h.accessAwaits_ctx c a
  obtain ⟨pc, lp, hadv⟩ := Ctx.advance_eq (((h.accessAwaits c a).core c.core).issued c h.now |>.ctx c.slot) c.pc c.len
  have hstart : (h.accessStart c sw a).curCtx c = { (((h.accessAwaits c a).core c.core).issued c h.now).ctx c.slot with
      pc := pc, lp := lp, notBefore := h.now + 1, swWait := sw } := by
    rw [Hw.accessStart, if_pos ha, Hw.curCtx, Hw.ctx, Hw.core_retire, h.accessAwaits_now c a, Core.retired, Core.ctx_setCtx, hadv]
  rw [hstart, Core.ctx_issued, ← Hw.ctx, ← Hw.curCtx, hctx]
  exact ⟨.of_eq ⟨_, _, _, _, _, _, _, _, _, _, _, _, _, _, _, rfl⟩ (Ctx.decl_settle _), rfl, rfl, rfl⟩

/-- A plain access parks its context at its chain (R143). -/
theorem Hw.accessStart_plain (ha : a.relaxed = false) : (h.curCtx c).StartsFrom ((h.accessStart c sw a).curCtx c) ∧
    ((h.accessStart c sw a).curCtx c).pend = ((h.accessAwaits c a).curCtx c).pend ∧
    ((h.accessStart c sw a).curCtx c).st = .parked ∧ ((h.accessStart c sw a).curCtx c).park = some .memory ∧
    ((h.accessStart c sw a).curCtx c).pc = c.pc ∧ ((h.accessStart c sw a).curCtx c).access = some c := by
  obtain ⟨task, region, hctx⟩ := h.accessAwaits_ctx c a
  have hstart : (h.accessStart c sw a).curCtx c = { (((h.accessAwaits c a).core c.core).issued c h.now).ctx c.slot with
      st := .parked, park := some .memory, parkCur := some c, pc := c.pc, access := some c, plainSw := sw, swWait := false } := by
    rw [Hw.accessStart, if_neg (by rw [ha]; decide), Hw.curCtx, Hw.ctx, Hw.core_parkMemory, h.accessAwaits_now c a, Core.ctx_setCtx]
  rw [hstart, Core.ctx_issued, ← Hw.ctx, ← Hw.curCtx, hctx]
  exact ⟨.of_eq ⟨_, _, _, _, _, _, _, _, _, _, _, _, _, _, _, rfl⟩ (Ctx.decl_settle _), rfl, rfl, rfl, rfl, rfl⟩

theorem Hw.accessStart_startsFrom : (h.curCtx c).StartsFrom ((h.accessStart c sw a).curCtx c) ∧
    ((h.accessStart c sw a).curCtx c).pend = ((h.accessAwaits c a).curCtx c).pend := by
  cases ha : a.relaxed with
  | true => exact ⟨(h.accessStart_relaxed c sw a ha).1, (h.accessStart_relaxed c sw a ha).2.1⟩
  | false => exact ⟨(h.accessStart_plain c sw a ha).1, (h.accessStart_plain c sw a ha).2.1⟩

theorem Hw.accessStart_full (n : Nat) : (h.accessStart c sw a).isFull c.core c.slot n =
    if n ≠ 0 ∧ n ∈ accRegs a.op then false else h.isFull c.core c.slot n := by
  obtain ⟨k, task, region, hwaits, hawait⟩ := h.accessAwaits_core c a
  obtain ⟨slots, lastIssue, ptr, hcore⟩ := (h.accessStart_issues c sw a).core
  obtain ⟨hfrom, -⟩ := h.accessStart_startsFrom c sw a
  exact (Core.fullBit_congr _ _ _ _ n (by rw [hcore, hawait]; rfl) hfrom.wbase).trans (hwaits.full (h.curCtx c) rfl n)

theorem Hw.accessStart_pending {r : Nat} (hr : r ≠ 0) (hmem : r ∈ accRegs a.op) : ((h.accessStart c sw a).curCtx c).pending r = true := by
  obtain ⟨task, region, hctx⟩ := h.accessAwaits_ctx c a
  obtain ⟨-, hpend⟩ := h.accessStart_startsFrom c sw a
  rw [Ctx.pending, hpend, hctx]
  refine Bool.and_eq_true_iff.mpr ⟨bne_iff_ne.mpr hr, List.any_eq_true.mpr ⟨.async r a.txn, ?_, beq_self_eq_true r⟩⟩
  exact List.mem_append_right _ (List.mem_map.mpr ⟨r, List.mem_filter.mpr ⟨hmem, decide_eq_true hr⟩, rfl⟩)

end

/-- Settles O13: the chain's own part (`Hw.accessStart`), one more outstanding access, and a port that looks for work. -/
theorem accessStarts : Obligations.AccessStarts := by
  intro s c sw a hcur hcore hslot htxn hbooked t x y
  obtain ⟨o, haccess⟩ := State.access_unbooked hbooked sw a
  let u : State := { s with hw := (s.hw.accessStart c sw a).modCore c.core (fun k => { k with out := k.out ++ [o] }) }
  have hpump : u.hw.OnlyOut t.hw := (congrArg (fun v => u.hw.OnlyOut v.hw) haccess).mpr (u.pump_onlyOut c.core)
  obtain ⟨out, ht, hout⟩ := hpump.2 c.core
  obtain ⟨slots, empty, lastIssue, ptr, hk⟩ := s.hw.accessStart_core c sw a
  have hucore : u.hw.core c.core = { (s.hw.accessStart c sw a).core c.core with out := (s.hw.core c.core).out ++ [o] } := by
    rw [show u.hw.core c.core = _ from Hw.core_modCore _ _ _, hk]
  have huctx (j : Nat) : u.hw.ctx c.core j = (s.hw.accessStart c sw a).ctx c.core j := by
    rw [Hw.ctx, hucore]
    rfl
  have hctx (j : Nat) : t.hw.ctx c.core j = (s.hw.accessStart c sw a).ctx c.core j := (hpump.ctx c.core j).trans (huctx j)
  have hy : y = (s.hw.accessStart c sw a).curCtx c := hctx c.slot
  have hfull (n : Nat) : t.hw.isFull c.core c.slot n = if n ≠ 0 ∧ n ∈ accRegs a.op then false else s.hw.isFull c.core c.slot n := by
    rw [hpump.isFull, ← s.hw.accessStart_full c sw a, Hw.isFull, Hw.isFull, huctx, hucore]
    rfl
  obtain ⟨hfrom, -⟩ := s.hw.accessStart_startsFrom c sw a
  rw [hucore] at ht hout
  rw [hk] at ht
  rw [ht]
  refine ⟨?mem, rfl, fun r hr hne => ⟨?empty, ?pending⟩, fun r hr => ?full, fun ha => ?plain, fun ha => ?relaxed, ?length,
    ⟨_, _, _, _, _, rfl⟩, fun j hj => ?others, fun d hd => ?cores, ?fields⟩
  case mem =>
    obtain ⟨hmem, -⟩ := u.pump_frame c.core
    exact (congrArg State.mem haccess).trans hmem
  case empty => rw [hfull, if_pos ⟨hne, hr⟩]
  case pending =>
    rw [hy]
    exact s.hw.accessStart_pending c sw a hne hr
  case full => rw [hfull, if_neg fun h => hr h.2]
  case plain =>
    rw [hy]
    exact (s.hw.accessStart_plain c sw a ha).2.2
  case relaxed =>
    rw [hy]
    exact (s.hw.accessStart_relaxed c sw a ha).2.2
  case length =>
    have hlen := congrArg List.length hout
    simpa only [List.length_map, List.length_append, List.length_singleton] using hlen
  case others =>
    rw [hctx]
    exact s.hw.accessStart_other c sw a j hj
  case cores =>
    obtain ⟨out', hd', -⟩ := hpump.2 d
    exact ⟨out', by rw [hd', show u.hw.core d = _ from Hw.core_modCore_ne _ _ _ d hd.symm, s.hw.accessStart_core_ne c sw a d hd]⟩
  case fields =>
    rw [hy]
    exact ⟨hfrom.sg, hfrom.p, hfrom.m, hfrom.ts, hfrom.fra, hfrom.frb, hfrom.decl, hfrom.prio, hfrom.otag, hfrom.gset, hfrom.prin, hfrom.linksp,
      hfrom.ckptb, hfrom.steald, hfrom.taskr, hfrom.bookid⟩

end Sys2Proof.Machine
end

section
/-! PROOFS. LDP and STP (06_memory R147, R148, R150; log 31; O12). -/

namespace Sys2Proof.Machine

/-- A pointer moves by its increment, modulo 2^20 (R148). -/
theorem Ptr.after_eq (q : Ptr) (md : PMode) : q.after md =
    match md with | .keep => q | .inc => ⟨q.off + q.inc.signExtend 20, q.inc⟩ | .dec => ⟨q.off - q.inc.signExtend 20, q.inc⟩ := by
  have hoff : BitVec.ofInt 20 (q.off.toNat : Int) = q.off := by rw [BitVec.ofInt_natCast, BitVec.ofNat_toNat, BitVec.setWidth_eq]
  cases md with
  | keep => rfl
  | inc => rw [Ptr.after, BitVec.ofInt_add, hoff]; rfl
  | dec => rw [Ptr.after, Int.sub_eq_add_neg, BitVec.ofInt_add, BitVec.ofInt_neg, hoff, ← BitVec.sub_eq_add_neg]; rfl

/-- A relaxed access of an unbooked context leaves its context in the state in which it was (R144). -/
theorem State.access_relaxed_st {s : State} {c : Cur} (hbooked : (s.hw.curCtx c).booked = false) (sw : Bool) {a : Acc} (ha : a.relaxed = true) :
    ((s.access c sw a).hw.curCtx c).st = (s.hw.curCtx c).st := by
  obtain ⟨o, haccess⟩ := State.access_unbooked hbooked sw a
  rw [haccess, Hw.curCtx, (State.pump_onlyOut _ c.core).ctx, Hw.ctx, Hw.core_modCore]
  exact (s.hw.accessStart_relaxed c sw a ha).2.2.1

section
variable {s : State} {c : Cur} {p : Nat} {srcs : List Nat} {op : AccOp} {size align ad : Nat} {need : Need}
variable (hregs : s.atHand c srcs) (hptr : SMap.get 0 (s.hw.curCtx c).ptrAt p ≤ s.hw.now) (hport : s.portFree c true (accCls op))
include hregs hptr hport

/-- A form through a pointer with a physical `sg0` starts its access, and the pointer moves. -/
theorem State.ptrForm_starts (hbooked : (s.hw.curCtx c).booked = false) (hst : (s.hw.curCtx c).st = .ready)
    (hvirt : ((s.hw.curCtx c).seg 0).virt = false)
    (hcheck : segCheck ((s.hw.curCtx c).seg 0) ((s.hw.curCtx c).ptr p).off.toNat size need align = .ok ad) (sw : Bool) (md : PMode) :
    s.ptrForm c sw p md srcs op size align need =
      (s.access c sw (s.hw.mkAcc c op true false ad size 0 ((s.hw.curCtx c).ptr p).off.toNat)).onHw fun h =>
        h.modCur c fun y => { y with p := SMap.set y.p p (((s.hw.curCtx c).ptr p).after md) } := by
  have hready : ((s.access c sw (s.hw.mkAcc c op true false ad size 0 ((s.hw.curCtx c).ptr p).off.toNat)).hw.curCtx c).st ≠ .faulted := by
    rw [State.access_relaxed_st hbooked sw rfl, hst]
    nofun
  rw [State.ptrForm, State.reads_atHand hregs, State.readsPtr, if_pos hptr, State.mayAccess_free hport]
  simp only [hvirt, Bool.false_eq_true, if_false]
  rw [State.check_ok hcheck, if_neg hready]

/-- With a virtual `sg0` it faults (R150). -/
theorem State.ptrForm_virt (hvirt : ((s.hw.curCtx c).seg 0).virt = true) (sw : Bool) (md : PMode) :
    s.ptrForm c sw p md srcs op size align need = s.onHw (fun h => h.faultChain c
      (c.faultAt .segmentRights 0 ((((s.hw.curCtx c).seg 0).base + ((s.hw.curCtx c).ptr p).off.toNat) % 2 ^ 72) true)) := by
  rw [State.ptrForm, State.reads_atHand hregs, State.readsPtr, if_pos hptr, State.mayAccess_free hport]
  simp only [hvirt, if_true]
  rfl

end

/-- Settles O12: LDP and STP are the form through a pointer with `sg0`. -/
theorem pointerForms : Obligations.PointerForms := by
  intro s c sw ty st md a p ad x q moved hptr hbooked hready
  refine ⟨fun hregs hport hvirt hcheck => ?ldp, fun hregs hsec hport hvirt hcheck => ?stp, fun hregs hport hvirt => ?virt⟩
  case ldp =>
    rw [exec_ldp, execLdp, State.withCur_some hregs.1]
    refine congrArg _ ((State.ptrForm_starts (op := .load _ _) hregs hptr hport hbooked hready hvirt hcheck sw md).trans ?_)
    rw [Ptr.after_eq]
    rfl
  case stp =>
    rw [exec_stp, execStp, State.withCur_some hregs.1]
    cases st with
    | sec => exact absurd rfl hsec
    | b64 | b32 | b16 | b8 =>
      refine congrArg _ ((State.ptrForm_starts (op := .store _) hregs hptr hport hbooked hready hvirt hcheck sw md).trans ?_)
      rw [Ptr.after_eq]
      rfl
  case virt =>
    rw [exec_ldp, execLdp, State.withCur_some hregs.1]
    exact congrArg _ (State.ptrForm_virt (op := .load _ _) hregs hptr hport hvirt sw md)

end Sys2Proof.Machine
end

section
/-! PROOFS. A JOIN whose sector the requester's set denies, and whose context has been spilled with its image, writes TS.AUD into that image
(06_memory R142; 12_preempt R250; 20_tags R418; O15 fails). -/

namespace Sys2Proof.Machine

/-- A JOIN of core 0 into `g5`, on a cell in the scratchpad of core 1. -/
def deniedJoin : Acc := { failedLoad with op := .join 5 }

/-- That JOIN under way. -/
def deniedJoinOut : Outst := { failedLoadOut with acc := deniedJoin, got := [] }

/-- After reset, but that context 0 of core 0 is Spilled with its image, that it waits for that JOIN, and that its bank has left the decision on
the cell's tag 0 to the requester. -/
def spilledJoin : State :=
  { State.reset with hw :=
      { State.reset.hw with
        arg := .accRes deniedJoin (.tag 0)
        cores := [(0, { Core.reset with slots := [(0, { Ctx.free with st := .spilled, imaged := true })], out := [deniedJoinOut] })] } }

/-- The core's empty grant set denies the tag, and the audit bit goes to the image of the Spilled context. -/
theorem tagReply_spilledJoin_mem : (spilledJoin.tagReply 0 0 0).mem ≠ spilledJoin.mem := by decide +kernel

theorem exec_tagRetryRequest_spilledJoin : exec .tagRetryRequest spilledJoin = .next (spilledJoin.tagReply 0 0 0) := rfl

/-- Refutes O15: its last clause, about a refused tag that the requester's set denies, admits a JOIN of a context that is Spilled with its image, and
then the audit of the denied sector sets TS.AUD in the image, which stands in memory (R142, R250). -/
theorem not_replies : ¬ Obligations.Replies := by
  unfold Obligations.Replies
  rintro ⟨-, h⟩
  obtain ⟨-, -, hdenied⟩ := h spilledJoin deniedJoin deniedJoinOut [] 0 (by decide +kernel) rfl rfl rfl
  obtain ⟨t, hexec, hmem, -⟩ := hdenied rfl (by decide +kernel) ⟨5, rfl⟩
  rw [exec_tagRetryRequest_spilledJoin] at hexec
  injection hexec with ht
  exact tagReply_spilledJoin_mem (ht ▸ hmem)

end Sys2Proof.Machine
end

section
/-! PROOFS. EPUSH of a copy command, and EPOP of completions and event records (06_memory R154, R155, R157; O16). -/

namespace Sys2Proof.Machine

/-! ### What the forms change of their core -/

theorem Core.retired_eq (k : Core) (c : Cur) (now : Nat) (sw : Bool) (d : Nat) : ∃ slots lastIssue ptr,
    k.retired c now sw d = { k with slots := slots, lastIssue := lastIssue, ptr := ptr } := by
  obtain ⟨slots, lastIssue, ptr, heq⟩ := k.issued_eq c now
  rw [Core.retired, heq]
  exact ⟨_, _, _, rfl⟩

theorem Core.setCtx_eq (k : Core) (s : Nat) (x : Ctx) : ∃ slots, k.setCtx s x = { k with slots := slots } := ⟨_, rfl⟩

/-- A result of fixed latency changes, of its core, contexts and full bits. -/
theorem Hw.core_setG_eq (h : Hw) (c s n : Nat) (v : Word) (lat : Nat) : ∃ slots empty,
    (h.setG c s n v lat).core c = { h.core c with slots := slots, empty := empty } := by
  obtain ⟨empty, hput⟩ := (h.core c).putFull_eq (h.ctx c s) n false
  rw [Hw.core_setG, hput]
  split <;> exact ⟨_, _, rfl⟩

theorem Hw.core_wakeEngine (h : Hw) (core f : Nat) (p : Ctx → Bool) :
    ∃ slots, (h.wakeEngine core f p).core core = { h.core core with slots := slots } := by
  refine List.foldlRecOn (motive := fun h' : Hw => ∃ slots, h'.core core = { h.core core with slots := slots }) _ _ ⟨_, rfl⟩ fun h' hh e _ => ?_
  split
  · obtain ⟨slots, heq⟩ := hh
    rw [Hw.wakeAt, Hw.core_modCtx, heq]
    exact ⟨_, rfl⟩
  · exact hh

/-! ### EPUSH -/

/-- A copy command behind those that wait, with a reserved completion, as its chain retires (R155). -/
def Hw.pushCopy (h : Hw) (c : Cur) (sw : Bool) (m : CopyCmd) (note : Ctx → Ctx) : Hw :=
  (((({ h with nextTxn := h.nextTxn + 1 } : Hw).modCore c.core fun k => { k with e0 := k.e0 ++ [m], e1Resv := k.e1Resv + 1 }).modCur c note).copyKick
    c.core).retire c sw 1

/-- The engine takes the oldest command, or none: a command that waits still waits, or is taken, and the reservations stand (R156). -/
theorem Hw.copyKick_keeps (h : Hw) (core : Nat) {m : CopyCmd} (hm : m ∈ (h.core core).e0) :
    (m ∈ ((h.copyKick core).core core).e0 ∨ ((h.copyKick core).core core).copy = some m) ∧
      ((h.copyKick core).core core).e1Resv = (h.core core).e1Resv := by
  unfold Hw.copyKick
  simp only
  split
  next m' r hcopy he0 =>
    split
    · rw [Hw.core_schedule, Hw.core_modCore]
      rw [he0] at hm
      refine ⟨?_, rfl⟩
      obtain rfl | hr := List.mem_cons.mp hm
      · exact .inr rfl
      · exact .inl hr
    · exact ⟨.inl hm, rfl⟩
  · exact ⟨.inl hm, rfl⟩

theorem Hw.pushCopy_queues (h : Hw) (c : Cur) (sw : Bool) (m : CopyCmd) (note : Ctx → Ctx) :
    (m ∈ ((h.pushCopy c sw m note).core c.core).e0 ∨ ((h.pushCopy c sw m note).core c.core).copy = some m) ∧
      ((h.pushCopy c sw m note).core c.core).e1Resv = (h.core c.core).e1Resv + 1 := by
  have hqueued : (((({ h with nextTxn := h.nextTxn + 1 } : Hw).modCore c.core fun k =>
      { k with e0 := k.e0 ++ [m], e1Resv := k.e1Resv + 1 }).modCur c note).core c.core).e0 = (h.core c.core).e0 ++ [m] ∧
      (((({ h with nextTxn := h.nextTxn + 1 } : Hw).modCore c.core fun k =>
        { k with e0 := k.e0 ++ [m], e1Resv := k.e1Resv + 1 }).modCur c note).core c.core).e1Resv = (h.core c.core).e1Resv + 1 := by
    rw [Hw.modCur, Hw.core_modCtx, Hw.core_modCore]
    exact ⟨rfl, rfl⟩
  obtain ⟨he0, hresv⟩ := hqueued
  obtain ⟨hm, hkept⟩ := Hw.copyKick_keeps _ c.core (he0 ▸ List.mem_append_right _ (List.mem_singleton_self m))
  rw [hresv] at hkept
  rw [Hw.pushCopy, Hw.core_retire]
  obtain ⟨slots, lastIssue, ptr, hret⟩ := Core.retired_eq (Hw.core (Hw.copyKick _ c.core) c.core) c _ sw 1
  rw [hret]
  exact ⟨hm, hkept⟩

section
variable {s : State} {c : Cur} {b : GReg} {src dst : Nat}

/-- The words of the command of an EPUSH (R155). -/
def Hw.pushWord (h : Hw) (c : Cur) (b : GReg) (i : Nat) : Nat := (h.cgn c (b.toNat + i)).toNat

theorem Hw.cgn_pushWord (h : Hw) (c : Cur) (b : GReg) (i : Nat) : (h.cgn c (b.toNat + i)).toNat = h.pushWord c b i := rfl

/-- A copy command of rule, whose ranges pass Check, is queued. -/
theorem execEpush_copy (sw : Bool) (hregs : s.atHand c (regRun b.toNat 4)) (hwin : b.toNat + 3 < (s.hw.curCtx c).wsize)
    (hbooked : (s.hw.curCtx c).booked = false) (hunit : s.hw.unitBarred c.core 2 = false) (hfence : (s.hw.curCtx c).fence = none)
    (h0 : s.hw.pushWord c b 0 / 2 ^ 46 % 4 = 0) (h1 : s.hw.pushWord c b 1 < 2 ^ 40) (h2 : s.hw.pushWord c b 2 / 2 ^ 32 = 0)
    (hpos : 0 < s.hw.pushWord c b 2 % 2 ^ 32) (hmax : s.hw.pushWord c b 2 % 2 ^ 32 ≤ 0x10000000) (h3 : s.hw.pushWord c b 3 = 0)
    (hsrc : segCheck ((s.hw.curCtx c).seg (s.hw.pushWord c b 0 / 2 ^ 40 % 8)) (s.hw.pushWord c b 0 % 2 ^ 40 : Nat) (s.hw.pushWord c b 2 % 2 ^ 32)
      { r := true } 1 = .ok src)
    (hdst : segCheck ((s.hw.curCtx c).seg (s.hw.pushWord c b 0 / 2 ^ 43 % 8)) (s.hw.pushWord c b 1 : Nat) (s.hw.pushWord c b 2 % 2 ^ 32)
      { w := true } 1 = .ok dst)
    (he0 : (s.hw.core c.core).e0.length < 16) (he1 : (s.hw.core c.core).e1.length + (s.hw.core c.core).e1Resv < 16) :
    ∃ cmd note, exec (.epush sw 0 b) s = .next (s.onHw fun h => h.pushCopy c sw cmd note) ∧ cmd.src = src ∧ cmd.dst = dst ∧
      cmd.len = s.hw.pushWord c b 2 % 2 ^ 32 ∧ cmd.fill = false ∧ cmd.ident = s.hw.pushWord c b 0 / 2 ^ 48 ∧ cmd.uid = (s.hw.curCtx c).uid := by
  have hw0 : s.hw.pushWord c b 0 < 2 ^ 64 := BitVec.isLt _
  have hreserved : bits (s.hw.pushWord c b 0) 47 46 = 0 ∧ bits (s.hw.pushWord c b 1) 63 40 = 0 ∧ bits (s.hw.pushWord c b 2) 63 36 = 0 ∧
      bits (s.hw.pushWord c b 2) 35 32 = 0 := by
    simp only [bits]
    omega
  have hplain : bits (s.hw.pushWord c b 1) 39 0 = s.hw.pushWord c b 1 ∧ bits (s.hw.pushWord c b 0) 63 48 = s.hw.pushWord c b 0 / 2 ^ 48 := by
    simp only [bits]
    omega
  have hseg : bits (s.hw.pushWord c b 0) 42 40 = s.hw.pushWord c b 0 / 2 ^ 40 % 8 ∧
      bits (s.hw.pushWord c b 0) 45 43 = s.hw.pushWord c b 0 / 2 ^ 43 % 8 :=
    ⟨rfl, rfl⟩
  have hrange : bits (s.hw.pushWord c b 0) 39 0 = s.hw.pushWord c b 0 % 2 ^ 40 ∧ bits (s.hw.pushWord c b 2) 31 0 = s.hw.pushWord c b 2 % 2 ^ 32 :=
    ⟨bits_low _ _, bits_low _ _⟩
  obtain ⟨hq46, hq63, hq36, hfill⟩ := hreserved
  obtain ⟨hdoff, hident⟩ := hplain
  obtain ⟨hsseg, hdseg⟩ := hseg
  obtain ⟨hsoff, hlen⟩ := hrange
  have hsub (virt : Bool) (addr len : Nat) : s.hw.bookedSub c false virt addr len = none := by rw [Hw.bookedSub, hbooked]; rfl
  rw [exec_epush, execEpush, State.withCur_some hregs.1]
  simp only [ne_eq, not_true_eq_false, if_false, State.window_ok hwin, State.unit, hbooked, hunit, Bool.false_eq_true, State.reads_atHand hregs,
    Hw.cgn_pushWord, hq46, hq63, hq36, hfill, hdoff, hident, hsseg, hdseg, hsoff, hlen]
  have hlens : ¬(s.hw.pushWord c b 2 % 2 ^ 32 = 0) ∧ ¬(0x10000000 < s.hw.pushWord c b 2 % 2 ^ 32) := by omega
  simp only [h3, hlens, false_or, false_and, and_false, or_self, not_true_eq_false, Nat.not_lt_zero, zero_ne_one, if_false]
  rw [State.check_ok hsrc, State.check_ok hdst]
  simp only [hsub, Option.toList_none, if_false, Ctx.fenced_of_none hfence, Bool.false_eq_true]
  rw [if_neg (by decide), if_neg (by omega)]
  exact ⟨_, _, rfl, rfl, rfl, rfl, rfl, rfl, rfl⟩

end

/-! ### EPOP -/

/-- 64 bits of a value from a bit position. -/
theorem ofNat_bits_quad {w : Nat} (v : BitVec w) (lo : Nat) : BitVec.ofNat 64 (bits v.toNat (lo + 63) lo) = v.extractLsb' lo 64 := by
  refine BitVec.eq_of_toNat_eq ?_
  rw [BitVec.toNat_ofNat, BitVec.extractLsb'_toNat, Nat.shiftRight_eq_div_pow, bits, show lo + 63 + 1 - lo = 64 by omega, Nat.mod_mod]

/-- The registers that an EPOP gives, 64 bits of its word each, as its chain retires (R154). -/
def Hw.gives (h : Hw) (c : Cur) (sw : Bool) (a n v : Nat) : Hw :=
  ((List.range n).foldl (fun h i => h.setG c.core c.slot (a + i) (BitVec.ofNat 64 (bits v (64 * i + 63) (64 * i))) 2) h).retire c sw 1

/-- What a run of results leaves: their results are outstanding, with those from before, and of the core contexts and full bits change. -/
theorem Hw.foldl_setG (c : Cur) (a v : Nat) (l : List Nat) (h : Hw) (hpos : ∀ i ∈ l, a + i ≠ 0) :
    let h' := l.foldl (fun h i => h.setG c.core c.slot (a + i) (BitVec.ofNat 64 (bits v (64 * i + 63) (64 * i))) 2) h
    (h.curCtx c).pend ⊆ (h'.curCtx c).pend ∧
      (∀ i ∈ l, Pend.fixed (a + i) (h.now + 2) (BitVec.ofNat 64 (bits v (64 * i + 63) (64 * i))) ∈ (h'.curCtx c).pend) := by
  induction l generalizing h with
  | nil => exact ⟨fun _ hp => hp, fun i hi => absurd hi (List.not_mem_nil)⟩
  | cons i l ih =>
    have hpend := h.curCtx_setG c (a + i) (BitVec.ofNat 64 (bits v (64 * i + 63) (64 * i))) 2
    rw [if_neg (hpos i (List.mem_cons_self ..))] at hpend
    have hpend := congrArg Ctx.pend hpend
    have hnow : (h.setG c.core c.slot (a + i) (BitVec.ofNat 64 (bits v (64 * i + 63) (64 * i))) 2).now = h.now := by
      obtain ⟨cores, heq⟩ := h.setG_eq c.core c.slot (a + i) (BitVec.ofNat 64 (bits v (64 * i + 63) (64 * i))) 2
      rw [heq]
    obtain ⟨hkept, hnew⟩ := ih _ fun j hj => hpos j (List.mem_cons_of_mem _ hj)
    rw [hnow] at hnew
    rw [hpend] at hkept
    refine ⟨fun p hp => hkept (List.mem_append_left _ hp), fun j hj => ?_⟩
    obtain rfl | hj := List.mem_cons.mp hj
    · exact hkept (List.mem_append_right _ (List.mem_singleton_self _))
    · exact hnew j hj

theorem Hw.gives_pend (h : Hw) (c : Cur) (sw : Bool) {a n v : Nat} (hpos : ∀ i, i < n → a + i ≠ 0) (i : Nat) (hi : i < n) :
    Pend.fixed (a + i) (h.now + 2) (BitVec.ofNat 64 (bits v (64 * i + 63) (64 * i))) ∈ ((h.gives c sw a n v).curCtx c).pend := by
  obtain ⟨pc, lp, nb, xstep, role, w, hctx⟩ := Hw.curCtx_retire
    ((List.range n).foldl (fun h i => h.setG c.core c.slot (a + i) (BitVec.ofNat 64 (bits v (64 * i + 63) (64 * i))) 2) h) c sw 1
  rw [Hw.gives, hctx]
  exact (Hw.foldl_setG c a v (List.range n) h fun i hi => hpos i (List.mem_range.mp hi)).2 i (List.mem_range.mpr hi)

theorem Hw.gives_core (h : Hw) (c : Cur) (sw : Bool) (a n v : Nat) : ∃ slots empty lastIssue ptr,
    (h.gives c sw a n v).core c.core = { h.core c.core with slots := slots, empty := empty, lastIssue := lastIssue, ptr := ptr } := by
  have hset : ∃ slots empty,
      ((List.range n).foldl (fun h i => h.setG c.core c.slot (a + i) (BitVec.ofNat 64 (bits v (64 * i + 63) (64 * i))) 2) h).core c.core =
        { h.core c.core with slots := slots, empty := empty } := by
    refine List.foldlRecOn (motive := fun h' : Hw => ∃ slots empty, h'.core c.core = { h.core c.core with slots := slots, empty := empty }) _ _
      ⟨_, _, rfl⟩ fun h' hh i _ => ?_
    obtain ⟨slots, empty, heq⟩ := hh
    obtain ⟨slots', empty', hset⟩ := h'.core_setG_eq c.core c.slot (a + i) (BitVec.ofNat 64 (bits v (64 * i + 63) (64 * i))) 2
    rw [hset, heq]
    exact ⟨_, _, rfl⟩
  obtain ⟨slots, empty, heq⟩ := hset
  rw [Hw.gives, Hw.core_retire, heq]
  obtain ⟨slots', lastIssue, ptr, hret⟩ := Core.retired_eq { h.core c.core with slots := slots, empty := empty } c _ sw 1
  rw [hret]
  exact ⟨_, _, _, _, rfl⟩

section
variable {s : State} {c : Cur} {sw : Bool} {a : GReg} {m : Compl} {l : List Compl}

/-- The oldest completion of `e1` is the context's own. -/
theorem execEpop_e1 (hregs : s.atHand c []) (hwin : a.toNat < (s.hw.curCtx c).wsize) (he1 : (s.hw.core c.core).e1 = m :: l)
    (hown : m.uid = (s.hw.curCtx c).uid) : exec (.epop sw a 1) s = .next (s.onHw fun h =>
      ((h.modCore c.core fun k => { k with e1 := l }).wakeEngine c.core 8 fun _ => true).gives c sw a.toNat 1 m.word.toNat) := by
  have hfind : (m :: l).find? (fun m => m.uid == (s.hw.curCtx c).uid) = some m := List.find?_cons_of_pos (beq_iff_eq.mpr hown)
  rw [exec_epop, execEpop, State.withCur_some hregs.1]
  refine congrArg _ ((State.window_ok hwin _).trans ?_)
  dsimp only
  rw [he1, hfind]
  change s.onHw (fun h => ((h.modCore c.core fun k => { k with e1 := (m :: l).erase m }).wakeEngine c.core 8 fun _ => true).gives c sw a.toNat 1
    m.word.toNat) = _
  rw [List.erase_cons_head]

theorem execEpop_e1_none (hregs : s.atHand c []) (hwin : a.toNat < (s.hw.curCtx c).wsize) (hbooked : (s.hw.curCtx c).booked = false)
    (hnone : ∀ e ∈ (s.hw.core c.core).e1, e.uid ≠ (s.hw.curCtx c).uid) :
    exec (.epop sw a 1) s = .next (s.onHw fun h => h.parkChain c (.engine 1)) := by
  have hfind : (s.hw.core c.core).e1.find? (fun m => m.uid == (s.hw.curCtx c).uid) = none :=
    List.find?_eq_none.mpr fun e he h => hnone e he (beq_iff_eq.mp h)
  rw [exec_epop, execEpop, State.withCur_some hregs.1]
  refine congrArg _ ((State.window_ok hwin _).trans ?_)
  dsimp only
  rw [hfind, hbooked]
  rfl

theorem execEpop_e4 {r : BitVec 256} {q : List (BitVec 256)} (hregs : s.atHand c []) (hwin : a.toNat + 3 < (s.hw.curCtx c).wsize)
    (he4 : (s.hw.core c.core).e4 = r :: q) : exec (.epop sw a 4) s = .next (s.onHw fun h =>
      (h.modCore c.core fun k => { k with e4 := q }).gives c sw a.toNat 4 r.toNat) := by
  rw [exec_epop, execEpop, State.withCur_some hregs.1]
  refine congrArg _ ((State.window_ok hwin _).trans ?_)
  dsimp only
  rw [he4]
  rfl

end

/-- Settles O16: a queued command stays queued or is taken; what EPOP gives are results of latency 2. -/
theorem engineFifos : Obligations.EngineFifos := by
  intro s c sw a b src dst m l r q x k w len
  refine ⟨?push, ?own, fun hregs hwin hbooked hnone => execEpop_e1_none hregs hwin hbooked hnone, ?record⟩
  case push =>
    intro hregs hwin hbooked hunit hfence h0 h1 h2 hpos hmax h3 hsrc hdst he0 he1
    obtain ⟨cmd, note, hexec, hfields⟩ := execEpush_copy sw hregs hwin hbooked hunit hfence h0 h1 h2 hpos hmax h3 hsrc hdst he0 he1
    obtain ⟨hqueued, hresv⟩ := s.hw.pushCopy_queues c sw cmd note
    exact ⟨_, cmd, hexec, rfl, hqueued, hresv, hfields⟩
  case own =>
    intro hregs hwin he1 hown
    refine ⟨_, execEpop_e1 hregs hwin he1 hown, rfl, ?_, fun ha => ?_⟩
    · obtain ⟨slots, empty, lastIssue, ptr, hgives⟩ := Hw.gives_core
        ((s.hw.modCore c.core fun k => { k with e1 := l }).wakeEngine c.core 8 fun _ => true) c sw a.toNat 1 m.word.toNat
      obtain ⟨slots', hwake⟩ := Hw.core_wakeEngine (s.hw.modCore c.core fun k => { k with e1 := l }) c.core 8 fun _ => true
      rw [State.onHw_hw, hgives, hwake, Hw.core_modCore]
    · have hpend := Hw.gives_pend ((s.hw.modCore c.core fun k => { k with e1 := l }).wakeEngine c.core 8 fun _ => true) c sw (a := a.toNat) (n := 1)
        (v := m.word.toNat) (fun i _ => by omega) 0 Nat.zero_lt_one
      rw [Hw.now_wakeEngine] at hpend
      rw [ofNat_bits_quad, Nat.mul_zero, BitVec.extractLsb'_eq_self] at hpend
      exact hpend
  case record =>
    intro hregs hwin hpos he4
    refine ⟨_, execEpop_e4 hregs hwin he4, rfl, ?_, fun i hi => ?_⟩
    · obtain ⟨slots, empty, lastIssue, ptr, hgives⟩ := Hw.gives_core (s.hw.modCore c.core fun k => { k with e4 := q }) c sw a.toNat 4 r.toNat
      rw [State.onHw_hw, hgives, Hw.core_modCore]
    · have hpend := Hw.gives_pend (s.hw.modCore c.core fun k => { k with e4 := q }) c sw (a := a.toNat) (v := r.toNat) (fun i _ => by omega) i hi
      rw [ofNat_bits_quad] at hpend
      exact hpend

end Sys2Proof.Machine
end

section
/-! PROOFS. FENCE and its completion, and the wake of a monitor (06_memory R152; 08_ordering R186, R187, R190; log 14, 35, 36, 113; O17). -/

namespace Sys2Proof.Machine

/-! ### TS.FST and TS.FMOD (R79, R187, R190) -/

theorem fst_putBits (v : BitVec 64) (x : Nat) : (putBits v 29 2 x).toNat / 2 ^ 29 % 4 = x % 4 := by
  have hv := v.isLt
  rw [putBits, BitVec.toNat_ofNat, bits]
  omega

theorem fmod_putBits (v : BitVec 64) (x : Nat) : (putBits v 31 8 x).toNat / 2 ^ 31 % 2 ^ 8 = x % 2 ^ 8 ∧
    (putBits v 31 8 x).toNat / 2 ^ 29 % 4 = v.toNat / 2 ^ 29 % 4 := by
  have hv := v.isLt
  rw [putBits, BitVec.toNat_ofNat, bits]
  omega

theorem Ctx.fst_fenceStatus_none (x : Ctx) : (x.fenceStatus none).ts.toNat / 2 ^ 29 % 4 = 0 := fst_putBits x.ts 0

theorem Ctx.fst_fenceStatus_some (x : Ctx) (d : Nat) : (x.fenceStatus (some d)).ts.toNat / 2 ^ 29 % 4 = 1 ∧
    (x.fenceStatus (some d)).ts.toNat / 2 ^ 31 % 2 ^ 8 = d % 2 ^ 8 := by
  obtain ⟨hmod, hfst⟩ := fmod_putBits (putBits x.ts 29 2 1) d
  exact ⟨hfst.trans (fst_putBits x.ts 1), hmod⟩

theorem Ctx.fenceStatus_fence (x : Ctx) (f : Option Nat) : (x.fenceStatus f).fence = x.fence := by
  have honlyTs : ∃ ts, x.fenceStatus f = { x with ts := ts } := by
    cases f with
    | none => exact ⟨_, rfl⟩
    | some d => exact ⟨_, rfl⟩
  obtain ⟨ts, heq⟩ := honlyTs
  rw [heq]

/-! ### FENCE (R186, R187) -/

/-- The context behind its FENCE: done, with FST 0, or with the fence pending. -/
def Ctx.fenceBegun (x : Ctx) (set : List Nat) (imm : BitVec 13) : Ctx :=
  if set = [] then x.fenceStatus none else { x with fence := some ⟨set, (imm.extractLsb' 5 5).toNat, none, 0, imm.toNat⟩ }

/-- A chain that retires leaves TS and the pending fence of its context. -/
theorem Hw.retire_status (h : Hw) (c : Cur) (sw : Bool) (d : Nat) :
    ((h.retire c sw d).curCtx c).ts = (h.curCtx c).ts ∧ ((h.retire c sw d).curCtx c).fence = (h.curCtx c).fence := by
  obtain ⟨pc, lp, nb, xstep, role, w, hctx⟩ := h.curCtx_retire c sw d
  rw [hctx]
  exact ⟨rfl, rfl⟩

section
variable {s : State} {c : Cur} {sw : Bool} {imm : BitVec 13}

/-- The fields of the immediate: predecessors, successors and scope. -/
theorem fence_fields (imm : BitVec 13) : bits imm.toNat 4 0 = (imm.extractLsb' 0 5).toNat ∧ bits imm.toNat 9 5 = (imm.extractLsb' 5 5).toNat ∧
    bits imm.toNat 12 10 = (imm.extractLsb' 10 3).toNat := by
  simp only [bits, BitVec.extractLsb'_toNat, Nat.shiftRight_eq_div_pow, Nat.reduceAdd, Nat.reduceSub, and_self]

theorem execFence_begins (hregs : s.atHand c []) (hfence : (s.hw.curCtx c).fence = none) (hbooked : (s.hw.curCtx c).booked = false)
    (hpred : (imm.extractLsb' 0 5).toNat ≠ 0) (hsucc : (imm.extractLsb' 5 5).toNat ≠ 0) (hscope : (imm.extractLsb' 10 3).toNat ≤ 4) :
    exec (.fence sw imm) s = .next (s.onHw fun h => (h.modCur c
      (·.fenceBegun (s.fenceSet c (imm.extractLsb' 0 5).toNat (imm.extractLsb' 10 3).toNat) imm)).retire c sw 1) := by
  obtain ⟨hp, hs, hc⟩ := fence_fields imm
  rw [exec_fence, execFence, State.withCur_some hregs.1]
  simp only [hp, hs, hc, hpred, hsucc, Nat.not_lt.mpr hscope, hbooked, hfence, or_self, Bool.false_eq_true, false_and, if_false, Option.isSome_none]
  rfl

theorem execFence_reserved (hregs : s.atHand c [])
    (h : (imm.extractLsb' 0 5).toNat = 0 ∨ (imm.extractLsb' 5 5).toNat = 0 ∨ 4 < (imm.extractLsb' 10 3).toNat) :
    exec (.fence sw imm) s = .next (s.faultWith c .reservedValue 7 imm.toNat) := by
  obtain ⟨hp, hs, hc⟩ := fence_fields imm
  rw [exec_fence, execFence, State.withCur_some hregs.1]
  simp only [hp, hs, hc, h, if_true]

end

/-! ### The last member of a Set is done (R187, R190) -/

/-- A context whose fence is done. -/
def Ctx.fenceDone (x : Ctx) (fail : Option Nat) : Ctx := { x.fenceStatus fail with fence := none }

theorem Ctx.fenceDone_ts (x : Ctx) (fail : Option Nat) : (x.fenceDone fail).ts = (x.fenceStatus fail).ts := rfl

theorem execFenceComplete_ready {s : State} {core slot uid : Nat} {f : FenceRec} (harg : s.hw.arg = .nats [core, slot, uid])
    (hfence : (s.hw.ctx core slot).fence = some f) (huid : (s.hw.ctx core slot).uid = uid) (hset : f.set = [])
    (hst : (s.hw.ctx core slot).st = .ready) (hpark : (s.hw.ctx core slot).park = none) :
    exec .fenceComplete s = .next (s.onHw fun h => h.setCtx core slot ((s.hw.ctx core slot).fenceDone f.fail)) := by
  change execFenceComplete s = _
  unfold execFenceComplete
  simp only [harg, hfence, huid, hset, hst, hpark, ne_eq, not_true_eq_false, or_self, reduceCtorEq, false_and, if_false]
  rfl

/-! ### A monitor (R152) -/

section
variable {s : State} {core slot uid ad : Nat} (harg : s.hw.arg = .nats [core, slot, uid]) (huid : (s.hw.ctx core slot).uid = uid)
  (hst : (s.hw.ctx core slot).st = .parked) (hpark : (s.hw.ctx core slot).park = some (.monitor ad))
include harg huid hst hpark

/-- Both steps wake the context that waits on its monitor. -/
theorem exec_monitorSteps : ∀ i ∈ [Instr.monitorWake, Instr.mwaitTimedWake], exec i s = .next (s.onHw fun h => h.wakeAt core slot s.hw.now) := by
  have hon : (s.hw.ctx core slot).onMonitor = true := by rw [Ctx.onMonitor, hpark]
  have hwake : s.wake core slot = s.onHw fun h => h.wakeAt core slot s.hw.now := by
    rw [State.wake, if_neg (by rw [hst]; decide)]
    rfl
  rw [List.forall_mem_cons, List.forall_mem_singleton]
  refine ⟨?_, ?_⟩
  · change execMonitorWake s = _
    unfold execMonitorWake
    simp only [harg, huid, hon, hwake, ne_eq, not_true_eq_false, if_false, if_true]
  · change execMwaitTimedWake s = _
    unfold execMwaitTimedWake
    simp only [harg, huid, hon, hwake, and_self, if_true]

end

theorem Hw.wakeAt_ready {h : Hw} {core slot : Nat} (hst : (h.ctx core slot).st = .parked) (cyc : Nat) :
    ((h.wakeAt core slot cyc).ctx core slot).st = .ready ∧ ((h.wakeAt core slot cyc).ctx core slot).park = none := by
  rw [Hw.wakeAt, Hw.ctx_modCtx, if_pos hst]
  exact ⟨rfl, rfl⟩

theorem State.wakeAt_onlyCore (s : State) (core slot cyc : Nat) : OnlyCore core s (s.onHw fun h => h.wakeAt core slot cyc) :=
  ⟨⟨_, _, rfl⟩, fun _ hd => Hw.core_modCtx_ne _ _ _ _ _ hd.symm⟩

/-- Settles O17: the immediate's fields decide the fault, the Set whether the fence is pending; both wakes are the wake of a parked context. -/
theorem fencesAndMonitors : Obligations.FencesAndMonitors := by
  refine ⟨?fences, fun s core slot uid ad harg huid hst hpark i hi => ?monitor⟩
  case fences =>
    intro s c sw imm core slot uid f x pred scope set
    refine ⟨?begins, fun hregs h => execFence_reserved hregs h, ?completes⟩
    case begins =>
      intro hregs hfence hbooked hpred hsucc hscope
      obtain ⟨hts, hpending⟩ := (s.hw.modCur c (·.fenceBegun set imm)).retire_status c sw 1
      rw [Hw.curCtx_modCur] at hts hpending
      refine ⟨_, execFence_begins hregs hfence hbooked hpred hsucc hscope, rfl, fun hset => ?_, fun hset => ?_⟩
      · rw [State.onHw_hw, hts, hpending, Ctx.fenceBegun, if_pos hset]
        exact ⟨Ctx.fst_fenceStatus_none x, (Ctx.fenceStatus_fence x none).trans hfence⟩
      · rw [State.onHw_hw, hpending, Ctx.fenceBegun, if_neg hset]
    case completes =>
      intro harg hfence huid hset hst hpark
      refine ⟨_, execFenceComplete_ready harg hfence huid hset hst hpark, rfl, ?_⟩
      rw [State.onHw_hw, Hw.ctx_setCtx, Ctx.fenceDone_ts]
      refine ⟨rfl, fun hfail => ?_, fun d hfail => ?_⟩
      · rw [hfail]
        exact Ctx.fst_fenceStatus_none (s.hw.ctx core slot)
      · rw [hfail]
        exact Ctx.fst_fenceStatus_some (s.hw.ctx core slot) d
  case monitor =>
    obtain ⟨hready, hunparked⟩ := Hw.wakeAt_ready hst s.hw.now
    have hexec := exec_monitorSteps harg huid hst hpark i hi
    exact ⟨_, hexec, rfl, hready, hunparked, s.wakeAt_onlyCore core slot _⟩

end Sys2Proof.Machine
end

section
/-! PROOFS. Copy commands: the start, the write of a sector, the completion (06_memory R155 to R159; log 8, 15; O18). -/

namespace Sys2Proof.Machine

theorem Hw.copy_modCopy (h : Hw) (core : Nat) (f : CopyProg → CopyProg) :
    ((h.modCopy core f).core core).copy = (h.core core).copy.map (fun m => { m with prog := f m.prog }) := by
  rw [Hw.modCopy, Hw.core_modCore]

@[simp] theorem Hw.core_copyStep (h : Hw) (core txn step at_ : Nat) (late : Bool) (d : Nat) :
    (h.copyStep core txn step at_ late).core d = h.core d := rfl

/-! ### The start (R156, R159) -/

/-- The figures of a command on addresses that need no translation. -/
def Hw.copyFigures (h : Hw) (core : Nat) (m : CopyCmd) : CopyProg :=
  { CopyProg.reset with
    ls := if m.fill then 0 else h.latency core m.src
    ld := h.latency core m.dst
    rate := if keyDram m.dst || (!m.fill && keyDram m.src) then 3 else 1
    chunked := !m.fill && decide (m.src < m.dst) && decide (m.dst < m.src + m.len) }

section
variable {s : State} {core : Nat} {m : CopyCmd} (hcopy : (s.hw.core core).copy = some m)
include hcopy

theorem copyCommandStart_starts (harg : s.hw.arg = .nats [core]) (hdst : m.dstVirt = false) (hsrc : m.srcVirt = false) :
    exec .copyCommandStart s = .next (s.onHw fun h =>
      (h.modCopy core fun _ => s.hw.copyFigures core m).copyStep core m.txn 1 (h.now + (s.hw.copyFigures core m).ls / 2) false) := by
  rw [exec_copyCommandStart, execCopyCommandStart, harg]
  simp only [State.copyStart, hcopy, State.keyOf, hdst, hsrc, Bool.not_false, if_true, Option.getD_some, beq_self_eq_true, Bool.and_true]
  rfl

end

/-! ### The write of a sector (R156) -/

/-- What the write of a sector of one run leaves in memory: its bytes and tag, and the poison that travels with them (R38, R141). -/
def Mem.putRun (m : Mem) (key : Nat) (bs : List Byte) (tag : Nat) (poison : Bool) : Mem :=
  (m.writeSector key bs (some tag)).setPoison key (m.isPoison key && decide (bs.length < 32) || poison)

theorem State.copyPut_mem (s : State) (key : Nat) {bs : List Byte} (tag : Nat) (poison : Bool) (hpos : 0 < bs.length)
    (hin : key % 32 + bs.length ≤ 32) : (s.copyPut key 0 bs.length [⟨0, bs, tag, poison⟩]).mem = s.mem.putRun key bs tag poison := by
  have hbs : bs ≠ [] := List.ne_nil_of_length_pos hpos
  have hmem : (s.bankWrite key bs (some tag)).mem = s.mem.writeSector key bs (some tag) := by
    rw [State.bankWrite_mem s key (some tag) hbs, Mem.writeRange_one _ _ hpos hin]
  simp only [State.copyPut, List.foldl_cons, List.foldl_nil, Nat.sub_zero, Nat.add_zero, List.any_cons, List.any_nil, Bool.or_false]
  exact congrArg (fun x : Mem => x.setPoison key (s.mem.isPoison key && decide (bs.length < 32) || poison)) hmem

section
variable {m : Mem} (h : m.wf = true) (key : Nat) (bs : List Byte) (tag : Nat) (poison : Bool)
include h

theorem Mem.wf_putRun : (m.putRun key bs tag poison).wf = true := Mem.wf_setPoison (Mem.wf_writeSector h _ _ _) _ _

theorem Mem.readN_putRun : (m.putRun key bs tag poison).readN key bs.length = bs :=
  (Mem.readN_congr fun _ _ _ => Mem.read_setPoison _ _ _ _).trans (Mem.readN_writeSector h key tag bs)

theorem Mem.tagOf_putRun (j : Nat) : (m.putRun key bs tag poison).tagOf j = if key / 32 = j / 32 then tag else m.tagOf j :=
  Mem.tagOf_writeSector h key tag bs j

/-- Outside its bytes the write leaves its sector as it was under its own tag, and zero under another (R141). -/
theorem Mem.read_putRun_out (j : Nat) (hj : j < key ∨ key + bs.length ≤ j) : (m.putRun key bs tag poison).read j =
    if key / 32 = j / 32 ∧ m.tagOf key ≠ tag then 0 else m.read j :=
  Mem.read_writeSector_out h key tag bs j hj

theorem Mem.isPoison_putRun_ne (j : Nat) (hj : key / 32 ≠ j / 32) : (m.putRun key bs tag poison).isPoison j = m.isPoison j := by
  rw [Mem.putRun, Mem.isPoison_setPoison (Mem.wf_writeSector h _ _ _), if_neg hj, Mem.isPoison_writeSector h, if_neg fun hj' => hj hj'.1]

end

/-- The run that is at hand for a whole segment is what is written. -/
theorem copySlice_whole {bs : List Byte} (tag : Nat) (poison : Bool) (hpos : 0 < bs.length) :
    copySlice [⟨0, bs, tag, poison⟩] 0 bs.length = [⟨0, bs, tag, poison⟩] := by
  simp [copySlice, hpos]

/-- The part with the engine's command as it is once it has written a sector. -/
def Hw.copyWrote (h : Hw) (core : Nat) (g : CopySeg) (poison : Bool) (bs : List Byte) : Hw :=
  h.modCore core (fun k => { k with copy := k.copy.map (fun m => m.wrote g poison bs) })

/-- A core's own memory is reached without a route. -/
theorem Hw.routeFails_self (h : Hw) (core tenant : Nat) (svc : Bool) (lat : Nat) : h.routeFails core tenant svc core lat = none := if_pos rfl

/-- An engine reaches the scratchpad of its own core (R21). -/
theorem State.reach_ownScratch (s : State) {core key : Nat} (hcore : keyCore key = core) (hscratch : keyDram key = false) (tenant : Nat)
    (svc : Bool) (need : Need) (brings : Option Nat) : s.reach core tenant svc need brings false key = (.ok key 0, s) := by
  have hkey : s.reachKey core tenant svc key 0 = .ok key 0 := by
    rw [State.reachKey, hcore, Hw.routeFails_self, hscratch]
    simp only [Bool.and_false, Bool.false_and, Bool.false_eq_true, if_false]
  rw [State.reach, hkey]
  rfl

section
variable {s : State} {core late : Nat} {m : CopyCmd} {g : CopySeg} {bs : List Byte} {tag : Nat} (hcopy : (s.hw.core core).copy = some m)
include hcopy

/-- A sector in the core's own scratchpad, whose bytes are at hand, is written. -/
theorem copyCommandStart_writes (harg : s.hw.arg = .nats [core, m.txn, 2, late]) (hdst : m.dstVirt = false) (hstop : m.prog.stop = none)
    (hsegs : m.prog.segs = [g]) (hlen : bs.length = g.len) (hpos : 0 < g.len) (hoff : g.off = 0) (hscratch : m.dst < 2 ^ 41)
    (hcore : keyCore m.dst = core) (hbuf : m.prog.buf = [⟨g.off, bs, tag, false⟩]) :
    exec .copyCommandStart s = .next ((s.copyPut m.dst 0 bs.length [⟨0, bs, tag, false⟩]).onHw fun h =>
      (h.copyWrote core g false bs).copyPast core) := by
  have hnotDram : keyDram m.dst = false := decide_eq_false (by simp only [Config.dramKey]; omega)
  have hreach (t : Nat) : s.reach core m.tenant m.svc { w := true } (some t) false m.dst = (.ok m.dst 0, s) :=
    s.reach_ownScratch hcore hnotDram _ _ _ _
  have hheld : s.copyHeldBack core m false m.dst = false := by
    simp only [State.copyHeldBack, State.keyOf, hcore, Bool.not_false, if_true, bne_self_eq_false, Bool.false_and]
  have hgives : s.hw.copyGivesUp m 0 = (false, s.hw) := by
    simp only [Hw.copyGivesUp, hstop, Option.isNone_none, Bool.true_or, if_true]
  rw [exec_copyCommandStart, execCopyCommandStart, harg]
  simp only [hcopy, beq_self_eq_true, Bool.not_true, Bool.false_eq_true, if_false, OfNat.ofNat_ne_one, State.copyWrite, hsegs, hoff, hdst, add_zero,
    hheld, hgives, hbuf, ← hlen, copySlice_whole tag false (hlen ▸ hpos), List.foldl_cons, List.foldl_nil, hreach, State.xlateCycles,
    Bool.not_false, if_true, Nat.lt_irrefl, decide_false, Bool.and_false]
  simp only [List.any_cons, List.any_nil, Bool.or_false, List.flatMap_cons, List.flatMap_nil, List.append_nil]
  rfl

end

/-! ### What follows the last sector (R156, R157) -/

theorem State.copyPut_copy (s : State) (key off len : Nat) (rs : List CopyRun) (core : Nat) :
    ((s.copyPut key off len rs).hw.core core).copy = (s.hw.core core).copy := by
  obtain ⟨ms, hms⟩ := State.foldl_butMonitors (f := fun s (r : CopyRun) => s.bankWrite (key + (r.off - off)) r.bytes (some r.tag))
    (fun s r => s.bankWrite_butMonitors _ _ _) rs s core
  exact (congrArg Core.copy hms).trans rfl

theorem State.copyPut_now (s : State) (key off len : Nat) (rs : List CopyRun) : (s.copyPut key off len rs).hw.now = s.hw.now :=
  State.foldl_now _ (fun s (r : CopyRun) => s.bankWrite_now (key + (r.off - off)) r.bytes (some r.tag)) rs s

theorem Hw.copy_signFill (h : Hw) (core slot uid txn : Nat) (bs : List Byte) :
    ((h.signFill core slot uid txn bs).core core).copy = (h.core core).copy := by
  rw [Hw.signFill, Hw.core_modCore]
  simp only
  split <;> rfl

theorem Hw.copy_copyOver (h : Hw) (core : Nat) : ((h.copyOver core).core core).copy = (h.core core).copy := by
  unfold Hw.copyOver
  split
  · rfl
  · simp only
    split
    · rfl
    · rw [Hw.core_schedule, Hw.copy_signFill]

section
variable {h : Hw} {core : Nat} {m : CopyCmd} {g : CopySeg} (hcopy : (h.core core).copy = some m) (hsegs : m.prog.segs = [g])
include hcopy hsegs

/-- After the last segment that waits the engine knows of none, and the chunk may be over. -/
theorem Hw.copyPast_last : ∃ f, h.copyPast core = (if m.chunkOver then (h.modCopy core f).copyOver core else h.modCopy core f) ∧
    (f m.prog).cut = m.prog.cut ∧ (f m.prog).stop = m.prog.stop := by
  rw [Hw.copyPast, hcopy]
  simp only [hsegs, List.drop_one, List.tail_cons]
  exact ⟨_, rfl, rfl, rfl⟩

theorem Hw.copy_copyPast_last : ∃ p, ((h.copyPast core).core core).copy = some { m with prog := p } := by
  obtain ⟨f, heq, -, -⟩ := Hw.copyPast_last hcopy hsegs
  refine ⟨f m.prog, ?_⟩
  rw [heq]
  split
  · rw [Hw.copy_copyOver, Hw.copy_modCopy, hcopy, Option.map_some]
  · rw [Hw.copy_modCopy, hcopy, Option.map_some]

/-- A command whose every byte has been read, and none given up, is bound to complete. -/
theorem Hw.copyPast_completes (hcut : m.prog.cut = m.len) (hstop : m.prog.stop = none) : ∃ at_, h.now ≤ at_ ∧
    (⟨at_, .copyCommandComplete, .nats [core, m.txn, bit m.poison, m.done, 0, core]⟩ : Due) ∈ (h.copyPast core).agenda := by
  obtain ⟨f, heq, hfcut, hfstop⟩ := Hw.copyPast_last hcopy hsegs
  have hover : m.chunkOver = true := by simp [CopyCmd.chunkOver, hcut]
  have hnext : ((h.modCopy core f).core core).copy = some { m with prog := f m.prog } := by rw [Hw.copy_modCopy, hcopy, Option.map_some]
  rw [heq, if_pos hover, Hw.copyOver, hnext]
  simp only [hfcut, hcut, Nat.lt_irrefl, if_false, hfstop, hstop, Option.getD_none]
  exact ⟨_, le_max_of_le_left (by rw [Hw.modCopy, Hw.now_modCore]; omega), (Hw.mem_agenda_schedule ..).2 (.inl rfl)⟩

end

/-- After its first segment, of clean bytes, the command has that segment done. -/
theorem CopyCmd.wrote_first {m : CopyCmd} {g : CopySeg} (hdone : m.done = g.off) (hoff : g.off = 0) (hpoison : m.poison = false) (bs : List Byte) :
    m.wrote g false bs = { m with done := g.len, prog := (m.wrote g false bs).prog } := by
  rw [CopyCmd.wrote, if_pos hdone.symm, Bool.or_false, hoff, Nat.zero_add, hpoison]

theorem Hw.copy_copyWrote {h : Hw} {core : Nat} {m : CopyCmd} (hcopy : (h.core core).copy = some m) (g : CopySeg) (poison : Bool) (bs : List Byte) :
    ((h.copyWrote core g poison bs).core core).copy = some (m.wrote g poison bs) := by
  rw [Hw.copyWrote, Hw.core_modCore, hcopy, Option.map_some]

/-! ### The completion (R157) -/

theorem Hw.e1_signFill (h : Hw) (core slot uid txn : Nat) (bs : List Byte) : ((h.signFill core slot uid txn bs).core core).e1 = (h.core core).e1 := by
  rw [Hw.signFill, Hw.core_modCore]
  simp only
  split <;> rfl

theorem Hw.e1_copyKick (h : Hw) (core : Nat) : ((h.copyKick core).core core).e1 = (h.core core).e1 := by
  unfold Hw.copyKick
  simp only
  split
  · split
    · rw [Hw.core_schedule, Hw.core_modCore]
    · rfl
  · rfl

theorem Hw.e1_kickPath (h : Hw) (core : Nat) (array : Bool) : ((h.kickPath core array).core core).e1 = (h.core core).e1 := by
  unfold Hw.kickPath
  simp only
  split
  · split
    · rw [Hw.core_schedule, Hw.core_modCore]
      cases array <;> rfl
    · rfl
  · rfl

theorem Hw.e1_matKick (h : Hw) (core : Nat) : ((h.matKick core).core core).e1 = (h.core core).e1 := by
  rw [Hw.matKick, Hw.e1_kickPath, Hw.e1_kickPath]

theorem Hw.core_transmit (h : Hw) (m : Msg) (d : Nat) : (h.transmit m).core d = h.core d := by
  unfold Hw.transmit
  simp only
  split <;> rfl

theorem Hw.e1_sendKick (h : Hw) (core : Nat) : ((h.sendKick core).core core).e1 = (h.core core).e1 := by
  unfold Hw.sendKick
  simp only
  split
  · rfl
  · refine List.foldlRecOn (motive := fun h' : Hw => (h'.core core).e1 = (h.core core).e1) _ _ (by rw [Hw.core_modCore]) fun h' hh t _ => ?_
    have hsent : ∀ h1 : Hw, (h1.core core).e1 = (h.core core).e1 →
        ((match t.later with | some (d, i, a) => h1.after d i a | none => h1).core core).e1 = (h.core core).e1 := by
      intro h1 hh1
      cases t.later <;> exact hh1
    cases t.msg with
    | none => exact hsent h' hh
    | some m => exact hsent _ (by rw [Hw.core_transmit, hh])

theorem Hw.e1_checkRetire (h : Hw) (core uid : Nat) : ((h.checkRetire core uid).core core).e1 = (h.core core).e1 := by
  unfold Hw.checkRetire
  simp only
  split
  · rfl
  · split
    · rfl
    · rw [Hw.core_schedule, Hw.core_modCore]

theorem Hw.e1_setCtx (h : Hw) (core slot : Nat) (x : Ctx) : ((h.setCtx core slot x).core core).e1 = (h.core core).e1 := by
  rw [Hw.setCtx, Hw.core_modCore, Core.setCtx_e1]

/-- What is told of an operation that is performed leaves the completions that wait alone. -/
theorem Hw.e1_opDone (h : Hw) (core slot uid txn : Nat) : ((h.opDone core slot uid txn).core core).e1 = (h.core core).e1 := by
  unfold Hw.opDone
  simp only
  rw [Hw.e1_checkRetire, Hw.e1_sendKick, Hw.e1_matKick, Hw.e1_copyKick, Hw.core_modCore, ← Hw.e1_signFill h core slot uid txn []]
  generalize h.signFill core slot uid txn [] = h1
  split
  · rw [← h1.e1_setCtx core slot ((h1.ctx core slot).without txn)]
    split
    · split
      · split
        · split <;> rfl
        · rfl
      · split
        · split <;> rfl
        · rfl
    · split
      · split <;> rfl
      · rfl
  · rfl

/-- A command that has not failed leaves its completion word in `e1`. -/
theorem Hw.mem_e1_copyComplete {h : Hw} {core : Nat} {m : CopyCmd} (hcopy : (h.core core).copy = some m) {status : Nat} (hok : status < 2)
    (hlive : h.alive core m.slot m.uid = true) (hquiet : h.isQuiet core m.slot m.txn = false) (done rc target : Nat) :
    (⟨m.uid, copyWord m status done⟩ : Compl) ∈ ((h.copyComplete core m.txn status done rc target).core core).e1 := by
  have hsome (h1 : Hw) (p : Ctx → Bool) : ((h1.wakeEngine core 1 p).core core).e1 = (h1.core core).e1 := by
    obtain ⟨slots, heq⟩ := h1.core_wakeEngine core 1 p
    rw [heq]
  rw [Hw.copyComplete, hcopy]
  simp only [ne_eq, not_true_eq_false, if_false, hlive, hquiet, Bool.not_false, Bool.and_true, if_true, if_neg (Nat.not_le.mpr hok)]
  rw [Hw.e1_copyKick, Hw.e1_opDone, hsome, Hw.core_modCore]
  exact List.mem_append_right _ (List.mem_singleton_self _)

theorem exec_copyCommandComplete_word {s : State} {core txn status done cause target : Nat}
    (harg : s.hw.arg = .nats [core, txn, status, done, cause, target]) :
    exec .copyCommandComplete s = .next (s.onHw fun h => h.copyComplete core txn status done cause target) := by
  rw [exec_copyCommandComplete, execCopyCommandComplete, harg]

/-- Settles O18, by the three steps of a command: its start, the write of a sector, the completion. -/
theorem copyCommands : Obligations.CopyCommands := by
  intro s core m g bs tag late hcopy
  refine ⟨fun harg hdst hsrc => ?_, ?_, fun cause target harg hlive hquiet => ?_⟩
  · refine ⟨_, s.hw.copyFigures core m, copyCommandStart_starts hcopy harg hdst hsrc, rfl, ?_, rfl, rfl, rfl, rfl, ?_, ?_, ?_⟩
    · rw [State.onHw, Hw.core_copyStep, Hw.copy_modCopy, hcopy, Option.map_some]
    · simp [Hw.copyFigures]
    · simp [Hw.copyFigures, and_assoc]
    · exact (Hw.mem_agenda_schedule ..).2 (.inl rfl)
  · intro hinv harg hdst hstop hsegs hpos hoff hin hscratch hcore hbuf hlen hdone hpoison
    have hpos' : 0 < bs.length := hlen ▸ hpos
    have hin' : m.dst % 32 + bs.length ≤ 32 := by omega
    have hmem := s.copyPut_mem m.dst tag false hpos' hin'
    have hput : ((s.copyPut m.dst 0 bs.length [⟨0, bs, tag, false⟩]).hw.core core).copy = some m := by rw [State.copyPut_copy, hcopy]
    have hwrote := Hw.copy_copyWrote hput g false bs
    have hnow := s.copyPut_now m.dst 0 bs.length [⟨0, bs, tag, false⟩]
    have hfirst := CopyCmd.wrote_first hdone hoff hpoison bs
    have hwdone : (m.wrote g false bs).done = g.len := by rw [hfirst]
    have hwpoison : (m.wrote g false bs).poison = false := by rw [hfirst, hpoison]
    obtain ⟨p, hp⟩ := Hw.copy_copyPast_last hwrote hsegs
    refine ⟨_, p, copyCommandStart_writes hcopy harg hdst hstop hsegs hlen hpos hoff hscratch hcore hbuf, ?_⟩
    have htmem (f : Hw → Hw) : ((s.copyPut m.dst 0 bs.length [⟨0, bs, tag, false⟩]).onHw f).mem = s.mem.putRun m.dst bs tag false := hmem
    rw [State.Inv, htmem, ← hlen]
    refine ⟨Mem.wf_putRun hinv _ _ _ _, Mem.readN_putRun hinv _ _ _ _, ?_, fun j hj => ⟨?_, ?_, ?_⟩, fun j hj hout => ?_, ?_, fun hcut hall => ?_⟩
    · rw [Mem.tagOf_putRun hinv, if_pos rfl]
    · rw [Mem.read_putRun_out hinv _ _ _ _ _ (by omega), if_neg fun h => hj h.1.symm]
    · rw [Mem.tagOf_putRun hinv, if_neg (Ne.symm hj)]
    · rw [Mem.isPoison_putRun_ne hinv _ _ _ _ _ (Ne.symm hj)]
    · rw [Mem.read_putRun_out hinv _ _ _ _ _ hout]
      by_cases htag : s.mem.tagOf m.dst = tag <;> simp [htag, hj]
    · rw [State.onHw, hp, hfirst, hlen]
    · obtain ⟨at_, hat, hdue⟩ := Hw.copyPast_completes hwrote hsegs hcut hstop
      rw [hwpoison, hwdone, ← hlen] at hdue
      rw [hall]
      exact ⟨at_, hnow.symm.le.trans hat, hdue⟩
  · exact ⟨_, exec_copyCommandComplete_word harg, rfl, Hw.mem_e1_copyComplete (h := s.hw) hcopy (by decide) hlive hquiet _ _ _⟩

end Sys2Proof.Machine
end
